-- ==== Sys2Proof/Word.lean ====
section
/-! DEFINITION. The word types of the block: a register (R9: 64 bits), a vector lane (R170: 32 bits), a byte of memory,
a link unit header.  Addresses, tags, hats and unit numbers are plain `Nat` or `Fin`. -/

namespace Sys2Proof

/-- A register of the block (R9) and a scalar of a vector context (R170). -/
abbrev W64 := BitVec 64

/-- One lane of a vector register (R170). -/
abbrev Lane := BitVec 32

/-- One byte of memory. -/
abbrev Byte := BitVec 8

/-- A status code (R31). -/
abbrev Status := Nat

end Sys2Proof
end

