-- ==== Sys2Proof/Machine/Bits.lean ====
section
/-! DEFINITION. Bit fields of a register, byte order, sign extension and the small arithmetic the meanings share. -/

namespace Sys2Proof.Machine

/-- A field of a register: its lowest bit and its width. -/
structure Fld where
  lo    : Nat
  width : Nat
  deriving DecidableEq, Repr

/-- The mask of a field, in place. -/
def Fld.mask (f : Fld) : W64 := BitVec.ofNat 64 ((2 ^ f.width - 1) * 2 ^ f.lo)

/-- The value a register word holds in a field. -/
def getFld (w : W64) (f : Fld) : Nat := (w >>> f.lo).toNat % 2 ^ f.width

/-- A register word with one field replaced; the value is cut to the field's width. -/
def putFld (w : W64) (f : Fld) (v : Nat) : W64 :=
  (w &&& ~~~f.mask) ||| (BitVec.ofNat 64 (v % 2 ^ f.width) <<< f.lo)

/-- Bits `[lo+width-1 : lo]` of a number. -/
def bits (n lo width : Nat) : Nat := n / 2 ^ lo % 2 ^ width

/-- Bit `i` of a number, as a truth value. -/
def bit (n i : Nat) : Bool := n.testBit i

/-- `n` with bit `i` set. -/
def setBit (n i : Nat) : Nat := n ||| 2 ^ i

/-- `n` with bit `i` cleared. -/
def clearBit (n i : Nat) : Nat := if n.testBit i then n - 2 ^ i else n

/-- The number of set bits among the low `width` bits. -/
def popCount (n : Nat) : Nat → Nat
  | 0 => 0
  | w + 1 => popCount n w + (if n.testBit w then 1 else 0)

/-- The positions of the set bits among the low `width` bits, rising. -/
def setBits (n width : Nat) : List Nat := (List.range width).filter fun i => n.testBit i

/-- The set of a list of positions, as a bit mask. -/
def maskOf (l : List Nat) : Nat := l.foldl setBit 0

/-- Truth as a bit. -/
def b2n (b : Bool) : Nat := if b then 1 else 0

/-- A number that counts up and stays at `2 ^ w - 1` (the counters the manual calls saturating). -/
def satInc (w n : Nat) : Nat := if n + 1 < 2 ^ w then n + 1 else 2 ^ w - 1

/-- Saturating addition into `w` bits. -/
def satAdd (w n k : Nat) : Nat := min (n + k) (2 ^ w - 1)

/-- Little-endian bytes of a number, `k` of them (R9). -/
def toBytesLE : Nat → Nat → List Byte
  | 0, _ => []
  | k + 1, n => BitVec.ofNat 8 n :: toBytesLE k (n / 256)

/-- The number a list of bytes spells, little-endian (R9). -/
def ofBytesLE : List Byte → Nat
  | [] => 0
  | b :: bs => b.toNat + 256 * ofBytesLE bs

/-- `n` bytes of a list from position `o`, zero-filled past its end. -/
def slice (l : List Byte) (o n : Nat) : List Byte :=
  let t := (l.drop o).take n
  t ++ List.replicate (n - t.length) 0

/-- The little-endian number in `n` bytes of a list from position `o`. -/
def numAt (l : List Byte) (o n : Nat) : Nat := ofBytesLE (slice l o n)

/-- A value of `w` bits read as two's complement. -/
def signed (w n : Nat) : Int :=
  if n % 2 ^ w < 2 ^ (w - 1) then (n % 2 ^ w : Nat) else (n % 2 ^ w : Nat) - (2 ^ w : Nat)

/-- An integer cut to `w` bits, two's complement. -/
def wrapInt (w : Nat) (i : Int) : Nat := (i % (2 ^ w : Nat)).toNat

/-- The bytes of `new` where `be` has its bit set, those of `old` elsewhere. -/
def mergeBE (be : Nat) (old new : List Byte) : List Byte :=
  (List.range old.length).map fun i => if be.testBit i then new.getD i 0 else old.getD i 0

/-- A list with position `i` replaced (unchanged when `i` is outside it). -/
def setAt {α : Type} (l : List α) (i : Nat) (v : α) : List α := l.set i v

/-- Insert a number into a rising list without repeats. -/
def insertNat (n : Nat) : List Nat → List Nat
  | [] => [n]
  | x :: xs => if n < x then n :: x :: xs else if n = x then x :: xs else x :: insertNat n xs

/-- Remove a number from a list. -/
def removeNat (n : Nat) (l : List Nat) : List Nat := l.filter fun x => x ≠ n

/-- Pieces of a byte range, none across a 64-byte boundary: offset within the range, length. -/
def unitPieces : Nat → Nat → Nat → Nat → List (Nat × Nat)
  | 0, _, _, _ => []
  | f + 1, pa, o, len =>
    if len = 0 then []
    else
      let n := min len (64 - (pa + o) % 64)
      (o, n) :: unitPieces f pa (o + n) (len - n)

end Sys2Proof.Machine
end

