-- ==== Sys2Proof/Machine/Tbl.lean ====
section
/-! DEFINITION. A sparse table: a list of (key, value) pairs in one canonical form, keys strictly rising and no entry
equal to what an unlisted key reads as.  What an unlisted key reads as is passed as `d`.  Every large array of the block
(registers, memory, register files, directories) is held so. -/

namespace Sys2Proof.Machine

/-- A sparse table, plain data. -/
abbrev Tbl (V : Type) := List (Nat × V)

/-- What the table reads at a key: the whole list is looked through, so that reading back what was written needs no premise. -/
def Tbl.get {V : Type} (d : Nat → V) (k : Nat) : Tbl V → V
  | [] => d k
  | (k', v) :: t => if k = k' then v else Tbl.get d k t

/-- Put an entry in its place, whatever its value. -/
def Tbl.put {V : Type} (k : Nat) (v : V) : Tbl V → Tbl V
  | [] => [(k, v)]
  | (k', v') :: t =>
    if k < k' then (k, v) :: (k', v') :: t
    else if k = k' then (k, v) :: t
    else (k', v') :: Tbl.put k v t

/-- Take an entry out. -/
def Tbl.del {V : Type} (k : Nat) (t : Tbl V) : Tbl V := t.filter fun e => e.1 ≠ k

/-- Write a key: writing what an unlisted key reads as removes the entry. -/
def Tbl.set {V : Type} [DecidableEq V] (d : Nat → V) (k : Nat) (v : V) (t : Tbl V) : Tbl V :=
  if v = d k then Tbl.del k t else Tbl.put k v t

/-- Write `n` consecutive keys from `k` with the values of a list. -/
def Tbl.setRun {V : Type} [DecidableEq V] (d : Nat → V) (k : Nat) : List V → Tbl V → Tbl V
  | [], t => t
  | v :: vs, t => Tbl.setRun d (k + 1) vs (Tbl.set d k v t)

/-- The values of `n` consecutive keys from `k`. -/
def Tbl.getRun {V : Type} (d : Nat → V) (k n : Nat) (t : Tbl V) : List V :=
  (List.range n).map fun i => Tbl.get d (k + i) t

/-- Drop every entry whose key is in the range `[lo, hi)`: those keys read as unlisted. -/
def Tbl.clearRange {V : Type} (lo hi : Nat) (t : Tbl V) : Tbl V :=
  t.filter fun e => e.1 < lo || hi ≤ e.1

/-- Keep the entries a test of the key keeps. -/
def Tbl.keep {V : Type} (p : Nat → Bool) (t : Tbl V) : Tbl V := t.filter fun e => p e.1

/-- The keys listed. -/
def Tbl.keys {V : Type} (t : Tbl V) : List Nat := t.map Prod.fst

/-- Keys strictly rising, all of them above `lo` when it is given. -/
def Tbl.rising {V : Type} (lo : Option Nat) : Tbl V → Bool
  | [] => true
  | (k, _) :: t => (match lo with | none => true | some l => decide (l < k)) && Tbl.rising (some k) t

/-- The canonical form: keys strictly rising, no entry equal to what an unlisted key reads as. -/
def Tbl.wf {V : Type} [DecidableEq V] (d : Nat → V) (t : Tbl V) : Bool :=
  Tbl.rising none t && t.all fun e => decide (e.2 ≠ d e.1)

end Sys2Proof.Machine
end

