-- ==== Sys2Proof/Machine/Types.lean ====
section
/-! DEFINITION. The kinds of thing that commands carry and that the state holds: mesh endpoints and packets (R90–R98),
MSP messages (R113–R117), span frames, host TLPs, structure records (R62), and the outcome of something outside the block. -/

namespace Sys2Proof.Machine

/-- An endpoint of the mesh (R97, R98). -/
inductive Ep where
  | bank (well bank : Nat)        -- home bank b of well W
  | engine (e : Nat)
  | reducer (w : Nat)
  | pump (p : Nat)
  | wellReg (w : Nat)
  | walker (w : Nat)
  | trough (u : Nat)              -- trough unit 0–7
  | host (q : Nat)
  | quadReg (q : Nat)
  | island (q : Nat)
  | testPort
  | glove (g k : Nat)             -- glove module k of site g
  | netLink (c m : Nat)           -- network chiplet c, module m
  | spanEng (e : Nat)
  | wellhead
  | commitLogic
  deriving DecidableEq, Repr

/-- The path atomics and narrow accesses take (R266, R290) is in the command code; this is a data unit (R93): 64 bytes, the
byte-enable mask, the unit's own poison mark. -/
structure DUnit where
  data : List Byte
  be   : Nat
  pu   : Bool
  deriving DecidableEq, Repr

/-- A mesh packet: the header fields of R90 that endpoints read, and its data units. -/
structure Pkt where
  cmd     : Nat
  addr    : Nat
  tag     : Nat
  hat     : Nat
  label   : Nat
  poison  : Bool
  ordered : Bool
  src     : Ep
  dst     : Ep
  units   : List DUnit
  deriving DecidableEq, Repr

/-- What an error-checked header is found to be (R94). -/
inductive Ecc where
  | clean | corrected | bad
  deriving DecidableEq, Repr

/-- A packet on its way: the router that is to accept it next, its plane (0 REQ, 1 RSP, 2–5 DAT0–3), raw header, data units. -/
structure Flight where
  x     : Nat
  y     : Nat
  plane : Nat
  hdr   : BitVec 128
  units : List DUnit
  deriving DecidableEq, Repr

/-- A message of the Meone Site Protocol (R113–R117).  `chan` 0 MEM, 1 COH, 2 BKT, 3 CTL, 4 DBG, 5 CRD, 6 NOP. -/
structure Msp where
  chan    : Nat
  op      : Nat
  dlen    : Nat
  poison  : Bool
  ordered : Bool
  lane    : Nat
  tag     : Nat
  hat     : Nat
  label   : Nat
  addr    : Nat
  arg     : Nat
  be      : Nat
  data    : List Byte
  deriving DecidableEq, Repr

/-- What a read brought back: its status, its bytes, which of its 64-byte units came poisoned. -/
structure ReadIn where
  status : Nat
  data   : List Byte
  pois   : List Nat := []
  deriving DecidableEq, Repr

/-- Who makes a register access or any other admitted command: the hat it wears (R374). -/
abbrev Hat := Nat

/-- One record of the structure bitstream (R62). -/
inductive Rec where
  | target (part hubRev grade siteKind sites wells : Nat)
  | name (text : List Byte)
  | mapout (well ch : Nat)
  | bypass (x y dir : Nat)
  | nocArb (labelHi : Nat)
  | partition (p flags sites wells troughs : Nat)
  | lend (kind unit part : Nat)
  | region (part granule wells base size : Nat)
  | reserve (well purpose size : Nat)
  | hat (h part rights firstKey keyCount label vecLog2 tenant : Nat)
  | portBind (kind port fn hat : Nat)
  | labelBudget (hat label share burst : Nat)
  | spanIdentity (package ethertype encap domain udp : Nat)
  | spanPeer (peer admin : Nat)
  | policy (guard riseMax capW : Nat)
  | partitionCap (p capW : Nat)
  | domainOp (d lowest highest idle idleUs : Nat)
  deriving DecidableEq, Repr

/-- The hat table of the empty state (R56): hat 0 with every class (C16), bound to the wellhead's I3C port.  DEDUCED, in
notes/assumptions/20.md: the canonical image of the empty state carries these two records. -/
def emptyRecs : List Rec :=
  [.hat 0 0xFF 0x0003FFFF 0 0 0 0 0, .portBind 0 0 0 0]

/-- One change a slot of the cistern carries (R61): a record set, or the record of a type and key deleted. -/
inductive RecOp where
  | set (r : Rec)
  | del (type key : Nat)
  deriving DecidableEq, Repr

/-- A message between packages inside a DATA frame (R351). -/
structure SpanMsg where
  cmd    : Nat
  addr   : Nat
  stag   : Nat
  hat    : Nat
  label  : Nat
  poison : Bool
  resp   : Bool
  reqr   : Nat
  rctx   : Nat
  units  : List DUnit
  deriving DecidableEq, Repr

/-- A span frame (R348–R350): its TYPE, whether it is a retransmission, the port its source MAC names (48c + port), the header
fields, its body: messages of a DATA frame, or the body of HELLO, OPEN and OPEN_ACK as serial and path count; and its source MAC. -/
structure SpanFrame where
  type    : Nat
  retx    : Bool
  srcPort : Nat
  dstPkg  : Nat
  srcPkg  : Nat
  domain  : Nat
  incarn  : Nat
  psn     : Nat
  ackPsn  : Nat
  credit  : Nat
  sack    : Nat
  serial  : Nat
  paths   : Nat
  msgs    : List SpanMsg
  srcMac  : Nat := 0
  deriving DecidableEq, Repr

/-- What leaves the block for an agent outside it: a message to a site chiplet, a write, read request, completion or
interrupt message to a host, a span frame on a port with its bytes (R348, R349), an interrupt for the wellhead, bytes on the I3C bus. -/
inductive Out where
  | msp (site : Nat) (m : Msp)
  | hostWrite (port fn addr : Nat) (data : List Byte) (ep relaxed : Bool)
  | hostRead (port fn tag addr len : Nat)
  | hostCpl (port fn tag status : Nat) (data : List Byte) (ep : Bool)
  | msix (port fn vec : Nat)
  | intx (port : Nat)
  | pme (port : Nat)
  | notify (port event : Nat) (set : Bool)
  | irqWellhead (vec : Nat)
  | frame (chiplet port : Nat) (f : SpanFrame) (wire : List Byte)
  | i3c (data : List Byte)
  | doe (port fn type : Nat) (payload : List Byte)
  | avs (bus rail mv : Nat)
  | tdo (data : List Byte)
  | regRead (hat off tag : Nat) (val : W64)
  deriving DecidableEq, Repr

/-- A failure a self test or a repair names: the object's class and number (R476, R478). -/
structure SelfTestFail where
  cls : Nat
  obj : Nat
  deriving DecidableEq, Repr

/-- What a bounded drain was for (R97, R480, R481): a unit by kind and number, a site, a partition. -/
inductive DrainScope where
  | unit (kind u : Nat)
  | site (g : Nat)
  | part (p : Nat)
  deriving DecidableEq, Repr

/-- What the check words and tags of a home show on an access (R271): nothing; a corrected bit in the data (of a way of the
cache, or from the stack); an uncorrectable half (0–3 of the line) found in the stack, the cache or a merge read; a corrected
or an uncorrectable tag or directory entry. -/
inductive HomeErr where
  | clean
  | corrected (way : Option Nat)
  | uncorr (half source : Nat)
  | tagCorr
  | tagUncorr
  deriving DecidableEq, Repr

end Sys2Proof.Machine
end

