-- ==== Sys2Proof/Syntax.lean ====
section
/-! DEFINITION. The commands of the block: one constructor per row of spec/opcode_table.json, in the table's order, with
the operands the chapter's text gives the command (notes/assumptions/1.md).  `hat` is the hat of whoever makes the command,
`g` a site, `r` a timing region, `d` a power domain, `n` a cistern slot, `e` and `c` a vector engine and its context, `t` a
trough, `w` a well, `q` a host port, `p` a packet or message as the row's text says, `val` a register word as written. -/

namespace Sys2Proof

open Sys2Proof.Machine

/-- The commands. -/
inductive Instr where
  /-- MONITOR_TRIP. -/
  | monitorTrip (r : Fin 16)
  /-- PACING_INTERVAL. -/
  | pacingInterval (r : Fin 16)
  /-- MON_RECAL. -/
  | monRecal (hat : Nat) (mask : Nat)
  /-- RECAL_DRAIN_DONE. -/
  | recalDrainDone (r : Fin 16)
  /-- RECAL_SEARCH_DONE. -/
  | recalSearchDone (r : Fin 16) (baseline : Fin 32)
  /-- IDLE_CALIBRATION_DONE. -/
  | idleCalibrationDone (r : Fin 16) (baseline : Option (Fin 32))
  /-- CLAIM. -/
  | claim (hat : Nat) (n : Fin 4)
  /-- RELEASE. -/
  | release (hat : Nat) (n : Fin 4)
  /-- FORCE_RELEASE. -/
  | forceRelease (hat : Nat) (n : Fin 4)
  /-- DISCARD. -/
  | discard (hat : Nat) (n : Fin 4)
  /-- STAGE. -/
  | stage (hat : Nat) (n : Fin 4)
  /-- STAGE_COPY_DONE. -/
  | stageCopyDone (n : Fin 4) (read : ReadIn)
  /-- CHECK. -/
  | checkCmd (hat : Nat) (n : Fin 4)
  /-- CHECK_DONE. -/
  | checkDone (n : Fin 4)
  /-- STG_WRITE. -/
  | stgWrite (hat : Nat) (off : Nat) (be : Nat) (val : W64)
  /-- COMMIT. -/
  | commit (hat : Nat) (n : Fin 4)
  /-- COMMIT_DRAIN_DONE. -/
  | commitDrainDone
  /-- COMMIT_BANK_COPY_DONE. -/
  | commitBankCopyDone
  /-- CFG_EXPORT. -/
  | cfgExport (hat : Nat) (val : W64)
  /-- CFG_EXPORT_DONE. -/
  | cfgExportDone
  /-- PACKET_HOP. -/
  | packetHop (x : Fin 16) (y : Fin 12) (plane : Fin 6) (hdr : BitVec 128) (units : List DUnit) (ecc : Ecc)
  /-- DOMAIN_WAKE_DONE. -/
  | domainWakeDone (d : Fin 20)
  /-- NOC_LTEST_GO. -/
  | nocLtestGo (hat : Nat) (val : W64)
  /-- NOC_LTEST_STOP. -/
  | nocLtestStop (hat : Nat) (errBits errWords : Nat)
  /-- NOC_LTEST_END. -/
  | nocLtestEnd (errBits errWords : Nat)
  /-- LINK_TRAINING_DONE. -/
  | linkTrainingDone (g : Fin 16) (rate : Option (Fin 3)) (failedModules : Nat)
  /-- CAP. -/
  | cap (g : Fin 16) (chunk : Fin 4) (bytes : List Byte)
  /-- CAP_END. -/
  | capEnd (g : Fin 16)
  /-- FIT_ACK. -/
  | fitAck (g : Fin 16) (reject : Bool)
  /-- CAPABILITY_TIMEOUT. -/
  | capabilityTimeout (g : Fin 16)
  /-- FIT_ACK_TIMEOUT. -/
  | fitAckTimeout (g : Fin 16)
  /-- SITE_MESH_MESSAGE. -/
  | siteMeshMessage (g : Fin 16) (m : Msp)
  /-- CREDIT_SLOT. -/
  | creditSlot (g : Fin 16) (word : BitVec 128)
  /-- MODULE_FAIL. -/
  | moduleFail (g : Fin 16) (m : Fin 5)
  /-- SPARE_RETRAIN_DONE. -/
  | spareRetrainDone (g : Fin 16)
  /-- MODULE_RECAL_START. -/
  | moduleRecalStart (g : Fin 16) (m : Fin 5)
  /-- MODULE_RECAL_END. -/
  | moduleRecalEnd (g : Fin 16) (m : Fin 5)
  /-- RX_CLOCK_LOCK_LOSS. -/
  | rxClockLockLoss (g : Fin 16)
  /-- ADAPTER_LINK_DOWN. -/
  | adapterLinkDown (g : Fin 16)
  /-- CTL_SILENCE_TIMEOUT. -/
  | ctlSilenceTimeout (g : Fin 16)
  /-- LINK_RETRAIN_TIMEOUT. -/
  | linkRetrainTimeout (g : Fin 16)
  /-- KEEPALIVE. -/
  | keepalive (g : Fin 16)
  /-- KEEPALIVE_IDLE_SEND. -/
  | keepaliveIdleSend (g : Fin 16)
  /-- GLV_RESET. -/
  | glvReset (hat : Nat) (g : Fin 16)
  /-- GLV_RESET_FORCE. -/
  | glvResetForce (hat : Nat) (g : Fin 16)
  /-- GLV_FLUSH. -/
  | glvFlush (hat : Nat) (g : Fin 16)
  /-- FLUSH_DONE. -/
  | flushDone (g : Fin 16)
  /-- FLUSH_TIMEOUT. -/
  | flushTimeout (g : Fin 16)
  /-- FLUSH_DIRECTORY_QUERY_DONE. -/
  | flushDirectoryQueryDone (g : Fin 16)
  /-- SITE_RST_ASSERT. -/
  | siteRstAssert (g : Fin 16)
  /-- SITE_RST_RELEASE. -/
  | siteRstRelease (g : Fin 16)
  /-- TEMP. -/
  | temp (g : Fin 16) (bytes : List Byte)
  /-- TEMP_POLL_TIMER. -/
  | tempPollTimer (g : Fin 16)
  /-- DIGEST. -/
  | digest (g : Fin 16) (bytes : List Byte)
  /-- THROTTLE_CAUSE_CHANGE. -/
  | throttleCauseChange (g : Fin 16)
  /-- THROTTLE. -/
  | throttle (g : Fin 16) (level : Fin 8)
  /-- PRT_TASK_SUBMIT. -/
  | prtTaskSubmit (g : Fin 16) (c : Fin 16) (hat : Nat) (slot : Fin 128) (off : Nat) (bytes : List Byte)
  /-- MATMUL. -/
  | matmul (g : Fin 16) (c : Fin 16) (a b sa sb : ReadIn)
  /-- LOAD. -/
  | loadCmd (g : Fin 16) (c : Fin 16) (src scale : ReadIn)
  /-- EVICT. -/
  | evict (g : Fin 16) (c : Fin 16)
  /-- TASK_BARRIER. -/
  | taskBarrier (g : Fin 16) (c : Fin 16)
  /-- PRT_TASK_COMPLETE. -/
  | prtTaskComplete (g : Fin 16) (c : Fin 16)
  /-- PRT_PROG_GO. -/
  | prtProgGo (g : Fin 16) (c : Fin 16) (hat : Nat) (val : W64)
  /-- PRT_PROG_LOADED. -/
  | prtProgLoaded (g : Fin 16) (c : Fin 16) (read : ReadIn)
  /-- PRT_PROG_STOP. -/
  | prtProgStop (g : Fin 16) (c : Fin 16) (hat : Nat)
  /-- PRT_CTX_ENABLE. -/
  | prtCtxEnable (g : Fin 16) (c : Fin 16) (hat : Nat) (val : W64)
  /-- PRT_CTX_DISABLE. -/
  | prtCtxDisable (g : Fin 16) (c : Fin 16) (hat : Nat)
  /-- PRT_SENSOR_SAMPLE. -/
  | prtSensorSample (g : Fin 16) (temps : List Int) (power clock : Nat)
  /-- VEC_KLOAD_GO. -/
  | vecKloadGo (hat : Nat) (e : Fin 24) (val : W64)
  /-- VEC_KLOAD_DONE. -/
  | vecKloadDone (e : Fin 24) (read : ReadIn)
  /-- VEC_KLOAD_FREE. -/
  | vecKloadFree (hat : Nat) (e : Fin 24) (val : W64)
  /-- VEC_CTX_ENABLE. -/
  | vecCtxEnable (hat : Nat) (e : Fin 24) (c : Fin 4) (val : W64)
  /-- VEC_CTX_DISABLE. -/
  | vecCtxDisable (hat : Nat) (e : Fin 24) (c : Fin 4)
  /-- VEC_CTX_STOP_DONE. -/
  | vecCtxStopDone (e : Fin 24) (c : Fin 4)
  /-- VEC_CTX_START. -/
  | vecCtxStart (hat : Nat) (e : Fin 24) (c : Fin 4) (val : W64)
  /-- TREG_BIND_WRITE. -/
  | tregBindWrite (hat : Nat) (e : Fin 24) (t : Fin 16) (val : W64)
  /-- BKT_TILE. -/
  | bktTile (p : Pkt)
  /-- BKT_CREDIT. -/
  | bktCredit (p : Pkt)
  /-- BKT_RETURN. -/
  | bktReturn (p : Pkt)
  /-- REDUCER_JOB_DONE. -/
  | reducerJobDone (e : Fin 24)
  /-- NOP. -/
  | nop (e : Fin 24) (c : Fin 4)
  /-- HALT. -/
  | halt (e : Fin 24) (c : Fin 4)
  /-- SETVL. -/
  | setvl (e : Fin 24) (c : Fin 4)
  /-- BR. -/
  | br (e : Fin 24) (c : Fin 4)
  /-- JAL. -/
  | jal (e : Fin 24) (c : Fin 4)
  /-- JR. -/
  | jr (e : Fin 24) (c : Fin 4)
  /-- DBNZ. -/
  | dbnz (e : Fin 24) (c : Fin 4)
  /-- VLOOP. -/
  | vloop (e : Fin 24) (c : Fin 4)
  /-- LI. -/
  | li (e : Fin 24) (c : Fin 4)
  /-- LIH. -/
  | lih (e : Fin 24) (c : Fin 4)
  /-- FLAGS. -/
  | flags (e : Fin 24) (c : Fin 4)
  /-- RDTS. -/
  | rdts (e : Fin 24) (c : Fin 4)
  /-- ADD. -/
  | add (e : Fin 24) (c : Fin 4)
  /-- SUB. -/
  | sub (e : Fin 24) (c : Fin 4)
  /-- MUL. -/
  | mul (e : Fin 24) (c : Fin 4)
  /-- MULHU. -/
  | mulhu (e : Fin 24) (c : Fin 4)
  /-- AND. -/
  | andCmd (e : Fin 24) (c : Fin 4)
  /-- OR. -/
  | orCmd (e : Fin 24) (c : Fin 4)
  /-- XOR. -/
  | xor (e : Fin 24) (c : Fin 4)
  /-- SLL. -/
  | sll (e : Fin 24) (c : Fin 4)
  /-- SRL. -/
  | srl (e : Fin 24) (c : Fin 4)
  /-- SRA. -/
  | sra (e : Fin 24) (c : Fin 4)
  /-- MIN. -/
  | min (e : Fin 24) (c : Fin 4)
  /-- MAX. -/
  | max (e : Fin 24) (c : Fin 4)
  /-- SLT. -/
  | slt (e : Fin 24) (c : Fin 4)
  /-- SLTU. -/
  | sltu (e : Fin 24) (c : Fin 4)
  /-- FADD. -/
  | fadd (e : Fin 24) (c : Fin 4)
  /-- FSUB. -/
  | fsub (e : Fin 24) (c : Fin 4)
  /-- FMUL. -/
  | fmul (e : Fin 24) (c : Fin 4)
  /-- FDIV. -/
  | fdiv (e : Fin 24) (c : Fin 4)
  /-- FSQRT. -/
  | fsqrt (e : Fin 24) (c : Fin 4)
  /-- FMA. -/
  | fma (e : Fin 24) (c : Fin 4)
  /-- FMIN. -/
  | fmin (e : Fin 24) (c : Fin 4)
  /-- FMAX. -/
  | fmax (e : Fin 24) (c : Fin 4)
  /-- VADD. -/
  | vadd (e : Fin 24) (c : Fin 4)
  /-- VSUB. -/
  | vsub (e : Fin 24) (c : Fin 4)
  /-- VMUL. -/
  | vmul (e : Fin 24) (c : Fin 4)
  /-- VMIN. -/
  | vmin (e : Fin 24) (c : Fin 4)
  /-- VMAX. -/
  | vmax (e : Fin 24) (c : Fin 4)
  /-- VABS. -/
  | vabs (e : Fin 24) (c : Fin 4)
  /-- VNEG. -/
  | vneg (e : Fin 24) (c : Fin 4)
  /-- VDIV. -/
  | vdiv (e : Fin 24) (c : Fin 4)
  /-- VSQRT. -/
  | vsqrt (e : Fin 24) (c : Fin 4)
  /-- VFMA. -/
  | vfma (e : Fin 24) (c : Fin 4)
  /-- VFMS. -/
  | vfms (e : Fin 24) (c : Fin 4)
  /-- VFNMA. -/
  | vfnma (e : Fin 24) (c : Fin 4)
  /-- VSCALB. -/
  | vscalb (e : Fin 24) (c : Fin 4)
  /-- VGETEXP. -/
  | vgetexp (e : Fin 24) (c : Fin 4)
  /-- VGETMANT. -/
  | vgetmant (e : Fin 24) (c : Fin 4)
  /-- VAND. -/
  | vand (e : Fin 24) (c : Fin 4)
  /-- VOR. -/
  | vor (e : Fin 24) (c : Fin 4)
  /-- VXOR. -/
  | vxor (e : Fin 24) (c : Fin 4)
  /-- VANDN. -/
  | vandn (e : Fin 24) (c : Fin 4)
  /-- VSLL. -/
  | vsll (e : Fin 24) (c : Fin 4)
  /-- VSRL. -/
  | vsrl (e : Fin 24) (c : Fin 4)
  /-- VSRA. -/
  | vsra (e : Fin 24) (c : Fin 4)
  /-- VSADD. -/
  | vsadd (e : Fin 24) (c : Fin 4)
  /-- VSSUB. -/
  | vssub (e : Fin 24) (c : Fin 4)
  /-- VMULH. -/
  | vmulh (e : Fin 24) (c : Fin 4)
  /-- VCMPEQ. -/
  | vcmpeq (e : Fin 24) (c : Fin 4)
  /-- VCMPNE. -/
  | vcmpne (e : Fin 24) (c : Fin 4)
  /-- VCMPLT. -/
  | vcmplt (e : Fin 24) (c : Fin 4)
  /-- VCMPLE. -/
  | vcmple (e : Fin 24) (c : Fin 4)
  /-- VSEL. -/
  | vsel (e : Fin 24) (c : Fin 4)
  /-- VMOV. -/
  | vmov (e : Fin 24) (c : Fin 4)
  /-- VID. -/
  | vid (e : Fin 24) (c : Fin 4)
  /-- VSLIDEDN. -/
  | vslidedn (e : Fin 24) (c : Fin 4)
  /-- VSLIDEUP. -/
  | vslideup (e : Fin 24) (c : Fin 4)
  /-- VPERM. -/
  | vperm (e : Fin 24) (c : Fin 4)
  /-- VMOVVS. -/
  | vmovvs (e : Fin 24) (c : Fin 4)
  /-- VMOVSV. -/
  | vmovsv (e : Fin 24) (c : Fin 4)
  /-- VCVT. -/
  | vcvt (e : Fin 24) (c : Fin 4)
  /-- VCVTMX. -/
  | vcvtmx (e : Fin 24) (c : Fin 4)
  /-- VUNMX. -/
  | vunmx (e : Fin 24) (c : Fin 4)
  /-- MAND. -/
  | mand (e : Fin 24) (c : Fin 4)
  /-- MOR. -/
  | mor (e : Fin 24) (c : Fin 4)
  /-- MXOR. -/
  | mxor (e : Fin 24) (c : Fin 4)
  /-- MANDN. -/
  | mandn (e : Fin 24) (c : Fin 4)
  /-- MNOT. -/
  | mnot (e : Fin 24) (c : Fin 4)
  /-- MPOPC. -/
  | mpopc (e : Fin 24) (c : Fin 4)
  /-- MFIRST. -/
  | mfirst (e : Fin 24) (c : Fin 4)
  /-- MFROMS. -/
  | mfroms (e : Fin 24) (c : Fin 4)
  /-- MSET. -/
  | mset (e : Fin 24) (c : Fin 4)
  /-- VLD. -/
  | vld (e : Fin 24) (c : Fin 4)
  /-- VLDS. -/
  | vlds (e : Fin 24) (c : Fin 4)
  /-- VLDX. -/
  | vldx (e : Fin 24) (c : Fin 4)
  /-- VST. -/
  | vst (e : Fin 24) (c : Fin 4)
  /-- VSTS. -/
  | vsts (e : Fin 24) (c : Fin 4)
  /-- VSTX. -/
  | vstx (e : Fin 24) (c : Fin 4)
  /-- LDS. -/
  | lds (e : Fin 24) (c : Fin 4)
  /-- STS. -/
  | sts (e : Fin 24) (c : Fin 4)
  /-- TRD. -/
  | trd (e : Fin 24) (c : Fin 4)
  /-- TRDC. -/
  | trdc (e : Fin 24) (c : Fin 4)
  /-- TWR. -/
  | twr (e : Fin 24) (c : Fin 4)
  /-- TWRC. -/
  | twrc (e : Fin 24) (c : Fin 4)
  /-- TFREE. -/
  | tfree (e : Fin 24) (c : Fin 4)
  /-- TZERO. -/
  | tzero (e : Fin 24) (c : Fin 4)
  /-- TINFO. -/
  | tinfo (e : Fin 24) (c : Fin 4)
  /-- RSUM. -/
  | rsum (e : Fin 24) (c : Fin 4)
  /-- RSUMSQ. -/
  | rsumsq (e : Fin 24) (c : Fin 4)
  /-- RMAX. -/
  | rmax (e : Fin 24) (c : Fin 4)
  /-- RMIN. -/
  | rmin (e : Fin 24) (c : Fin 4)
  /-- RAMAX. -/
  | ramax (e : Fin 24) (c : Fin 4)
  /-- TRGOPEN. -/
  | trgopen (e : Fin 24) (c : Fin 4)
  /-- TRGADD. -/
  | trgadd (e : Fin 24) (c : Fin 4)
  /-- TRGCLOSE. -/
  | trgclose (e : Fin 24) (c : Fin 4)
  /-- TRGABORT. -/
  | trgabort (e : Fin 24) (c : Fin 4)
  /-- TRGFIN. -/
  | trgfin (e : Fin 24) (c : Fin 4)
  /-- FENCE. -/
  | fence (e : Fin 24) (c : Fin 4)
  /-- SACQ. -/
  | sacq (e : Fin 24) (c : Fin 4)
  /-- SREL. -/
  | srel (e : Fin 24) (c : Fin 4)
  /-- ARM. -/
  | arm (hat : Nat) (t : Fin 64)
  /-- ABANDON. -/
  | abandon (hat : Nat) (t : Fin 64)
  /-- REARM. -/
  | rearm (hat : Nat) (t : Fin 64)
  /-- DISARM. -/
  | disarm (hat : Nat) (t : Fin 64)
  /-- FINISH. -/
  | finish (hat : Nat) (t : Fin 64)
  /-- ZEROISATION_DONE. -/
  | zeroisationDone (t : Fin 64)
  /-- TRG_OPEN. -/
  | trgOpen (p : Pkt)
  /-- TRG_OPEN_GRANT. -/
  | trgOpenGrant (u : Fin 8)
  /-- TRG_ADD. -/
  | trgAdd (p : Pkt)
  /-- TRG_CLOSE. -/
  | trgClose (p : Pkt)
  /-- TRG_ABORT. -/
  | trgAbort (p : Pkt)
  /-- TRG_ACK. -/
  | trgAck (p : Pkt)
  /-- TRG_STAT. -/
  | trgStat (p : Pkt)
  /-- TRG_FINISH. -/
  | trgFinish (p : Pkt)
  /-- TRG_IDLE_ABORT. -/
  | trgIdleAbort (u : Fin 8) (n : Nat)
  /-- TRG_ACCUMULATE_DONE. -/
  | trgAccumulateDone (t : Fin 64)
  /-- TRG_DEADLINE_EXPIRY. -/
  | trgDeadlineExpiry (t : Fin 64)
  /-- TRG_RELEASE_DONE. -/
  | trgReleaseDone (t : Fin 64)
  /-- ENTROPY_HEALTH_CHANGE. -/
  | entropyHealthChange (healthy : Bool)
  /-- TRG_EXPORT. -/
  | trgExport (hat : Nat) (t : Fin 64) (val : W64)
  /-- TRG_EXPORT_DONE. -/
  | trgExportDone (t : Fin 64)
  /-- MEMBER_EJECT. -/
  | memberEject (hat : Nat) (t : Fin 64) (k : Fin 64)
  /-- MRD64. -/
  | mrd64 (p : Pkt) (err : HomeErr)
  /-- MRD128. -/
  | mrd128 (p : Pkt)
  /-- MRD32N. -/
  | mrd32n (p : Pkt)
  /-- MWR64. -/
  | mwr64 (p : Pkt)
  /-- MWR128. -/
  | mwr128 (p : Pkt)
  /-- MWR32N. -/
  | mwr32n (p : Pkt)
  /-- MRSP. -/
  | mrsp (p : Pkt)
  /-- MACK. -/
  | mack (p : Pkt)
  /-- WC_IDLE_TIMEOUT. -/
  | wcIdleTimeout (w : Fin 12) (key : Nat)
  /-- CLEAR_BLOCK_DONE. -/
  | clearBlockDone (w : Fin 12)
  /-- CHANNEL_FAIL. -/
  | channelFail (w : Fin 12) (ch : Fin 16)
  /-- PATROL_SCRUB. -/
  | patrolScrub (w : Fin 12) (line : Nat) (ecc : Ecc)
  /-- STACK_TEMP_READ. -/
  | stackTempRead (w : Fin 12) (temp : Int)
  /-- WELL_HEAT_STEP. -/
  | wellHeatStep (w : Fin 12)
  /-- STACK_ECS_READ. -/
  | stackEcsRead (w : Fin 12) (count : Nat)
  /-- WB_INV. -/
  | wbInv (hat : Nat) (w : Fin 12)
  /-- WB_INV_DONE. -/
  | wbInvDone (w : Fin 12)
  /-- RDS. -/
  | rds (p : Pkt)
  /-- RDO. -/
  | rdo (p : Pkt)
  /-- UPG. -/
  | upg (p : Pkt)
  /-- OWN. -/
  | own (p : Pkt)
  /-- WBK. -/
  | wbk (p : Pkt)
  /-- EVC. -/
  | evc (p : Pkt)
  /-- DATS. -/
  | dats (p : Pkt)
  /-- DATE. -/
  | date (p : Pkt)
  /-- DATM. -/
  | datm (p : Pkt)
  /-- GNTM. -/
  | gntm (p : Pkt)
  /-- WACK. -/
  | wack (p : Pkt)
  /-- ERR. -/
  | err (p : Pkt)
  /-- SNPS. -/
  | snps (p : Pkt)
  /-- SNPO. -/
  | snpo (p : Pkt)
  /-- SNPI. -/
  | snpi (p : Pkt)
  /-- SNPD. -/
  | snpd (p : Pkt)
  /-- SACK. -/
  | sack (p : Pkt)
  /-- SDAT. -/
  | sdat (p : Pkt)
  /-- SNOOP_TIMEOUT. -/
  | snoopTimeout (g : Fin 16) (line : Nat)
  /-- PARTITION_DOWN_CLEAR_DONE. -/
  | partitionDownClearDone (p : Fin 16)
  /-- ATOMIC_ADD. -/
  | atomicAdd (p : Pkt)
  /-- ATOMIC_SWAP. -/
  | atomicSwap (p : Pkt)
  /-- ATOMIC_CAS. -/
  | atomicCas (p : Pkt)
  /-- ATOMIC_AND. -/
  | atomicAnd (p : Pkt)
  /-- ATOMIC_OR. -/
  | atomicOr (p : Pkt)
  /-- ATOMIC_XOR. -/
  | atomicXor (p : Pkt)
  /-- ATOMIC_SMIN. -/
  | atomicSmin (p : Pkt)
  /-- ATOMIC_SMAX. -/
  | atomicSmax (p : Pkt)
  /-- ATOMIC_UMIN. -/
  | atomicUmin (p : Pkt)
  /-- ATOMIC_UMAX. -/
  | atomicUmax (p : Pkt)
  /-- ATOMIC_FADD. -/
  | atomicFadd (p : Pkt)
  /-- ATOMIC_BFADD. -/
  | atomicBfadd (p : Pkt)
  /-- ARSP. -/
  | arsp (p : Pkt)
  /-- AERR. -/
  | aerr (p : Pkt)
  /-- WALK_ENTRY_READ_DONE. -/
  | walkEntryReadDone (w : Fin 32) (status : Nat) (entry : W64)
  /-- HEAD_WORD_REREAD. -/
  | headWordReread (q : Fin 16) (read : ReadIn)
  /-- FAULT_IRQ_HOLDOFF. -/
  | faultIrqHoldoff (q : Fin 16)
  /-- XLT_BUMP. -/
  | xltBump (hat : Nat) (x : Fin 256)
  /-- XLT_BUMP_ACK. -/
  | xltBumpAck (x : Fin 256) (unit : Ep)
  /-- RESUME. -/
  | resume (hat : Nat) (q : Fin 16) (fid : Nat)
  /-- ABORT. -/
  | abortCmd (hat : Nat) (q : Fin 16) (fid : Nat)
  /-- XLT_CTX_ENABLE. -/
  | xltCtxEnable (hat : Nat) (x : Fin 256) (val : W64)
  /-- XLT_CTX_DISABLE. -/
  | xltCtxDisable (hat : Nat) (x : Fin 256)
  /-- XLT_FQ_ENABLE. -/
  | xltFqEnable (hat : Nat) (q : Fin 16) (val : W64)
  /-- XLT_FQ_DISABLE. -/
  | xltFqDisable (hat : Nat) (q : Fin 16)
  /-- SEGMENT_WORD_WRITE. -/
  | segmentWordWrite (hat : Nat) (off : Nat) (val : W64)
  /-- SEGMENT_WORD_READ. -/
  | segmentWordRead (hat : Nat) (off : Nat) (tag : Nat)
  /-- INTAKE_WRITE. -/
  | intakeWrite (hat : Nat) (k : Fin 4096) (off : Nat) (bytes : List Byte)
  /-- DESC_ADMIT. -/
  | descAdmit (p : Fin 48) (k : Fin 4096)
  /-- COPY. -/
  | copy (p : Fin 48) (slot : Fin 64)
  /-- FILL. -/
  | fill (p : Fin 48) (slot : Fin 64)
  /-- PUMP_BARRIER. -/
  | pumpBarrier (p : Fin 48) (slot : Fin 64)
  /-- PIECE_DONE. -/
  | pieceDone (p : Fin 48) (slot : Fin 64) (k : Nat)
  /-- PMP_IRQ_HOLDOFF. -/
  | pmpIrqHoldoff (k : Fin 4096)
  /-- INTAKE_ENABLE. -/
  | intakeEnable (hat : Nat) (k : Fin 4096) (val : W64)
  /-- INTAKE_DISABLE. -/
  | intakeDisable (hat : Nat) (k : Fin 4096)
  /-- KEY_REVOKE. -/
  | keyRevoke (hat : Nat) (k : Fin 256)
  /-- WSET_RESET. -/
  | wsetReset (hat : Nat) (w : Fin 256)
  /-- WSET_BIND. -/
  | wsetBind (hat : Nat) (w : Fin 256) (val : W64)
  /-- PMP_REMOVE. -/
  | pmpRemove (hat : Nat) (val : W64)
  /-- DATA. -/
  | data (e : Fin 8) (f : SpanFrame) (fcsOk : Bool)
  /-- ACK. -/
  | ack (e : Fin 8) (f : SpanFrame) (fcsOk : Bool)
  /-- HELLO. -/
  | hello (c : Fin 2) (port : Fin 48) (f : SpanFrame) (fcsOk : Bool)
  /-- OPEN. -/
  | openCmd (c : Fin 2) (port : Fin 48) (f : SpanFrame) (fcsOk : Bool)
  /-- OPEN_ACK. -/
  | openAck (c : Fin 2) (port : Fin 48) (f : SpanFrame) (fcsOk : Bool)
  /-- CLOSE. -/
  | close (e : Fin 8) (f : SpanFrame) (fcsOk : Bool)
  /-- ACK_DELAY_TIMER. -/
  | ackDelayTimer (n : Fin 1024)
  /-- RETRANSMIT_TIMEOUT. -/
  | retransmitTimeout (n : Fin 1024)
  /-- HELLO_TIMER. -/
  | helloTimer (c : Fin 2) (port : Fin 48)
  /-- OPEN_RETRY_TIMER. -/
  | openRetryTimer (n : Fin 1024)
  /-- PEER_SILENCE_TIMEOUT. -/
  | peerSilenceTimeout (n : Fin 1024)
  /-- SPAN_READ_TIMEOUT. -/
  | spanReadTimeout (stag : Nat)
  /-- SPAN_WRITE_TIMEOUT. -/
  | spanWriteTimeout (stag : Nat)
  /-- SPAN_PORT_UP. -/
  | spanPortUp (c : Fin 2) (port : Fin 48)
  /-- SPAN_PORT_DOWN. -/
  | spanPortDown (c : Fin 2) (port : Fin 48)
  /-- SESSION_HANDOVER_DONE. -/
  | sessionHandoverDone (n : Fin 1024)
  /-- SPAN_LANE_FAIL. -/
  | spanLaneFail (c : Fin 2) (lane : Fin 50)
  /-- SPN_QUAD_WRITE. -/
  | spnQuadWrite (hat : Nat) (c : Fin 2) (q : Fin 12) (val : W64)
  /-- RLC_DISABLE. -/
  | rlcDisable (hat : Nat)
  /-- SPN_ACQ. -/
  | spnAcq (p : Pkt)
  /-- ACQUIRE_INVALIDATE_DONE. -/
  | acquireInvalidateDone (slice : Fin 8)
  /-- SPN_ACQ_DONE. -/
  | spnAcqDone (p : Pkt)
  /-- SPN_DRAIN. -/
  | spnDrain (e : Fin 8) (drainHat : Nat)
  /-- SPN_DRAIN_DONE. -/
  | spnDrainDone (e : Fin 8) (drainHat : Nat)
  /-- REG_RD. -/
  | regRd (p : Pkt)
  /-- REG_WR. -/
  | regWr (p : Pkt)
  /-- REG_RSP. -/
  | regRsp (p : Pkt)
  /-- REG_ACK. -/
  | regAck (p : Pkt)
  /-- IRQ. -/
  | irq (p : Pkt)
  /-- MESH_FENCE. -/
  | meshFence (p : Pkt)
  /-- FENCE_DONE. -/
  | fenceDone (p : Pkt)
  /-- HAT_CMD. -/
  | hatCmd (u : Ep) (h : Nat) (remove : Bool)
  /-- HAT_CMD_DONE. -/
  | hatCmdDone (u : Ep) (h : Nat)
  /-- REGULATION_WINDOW. -/
  | regulationWindow
  /-- HAT_RESET. -/
  | hatReset (hat : Nat) (h : Fin 1024)
  /-- HAT_REMOVE. -/
  | hatRemove (hat : Nat) (val : W64)
  /-- GRACE_END. -/
  | graceEnd (q : Fin 4)
  /-- HOST_MEM_WRITE. -/
  | hostMemWrite (q : Fin 4) (fn : Fin 64) (bar : Nat) (off : Nat) (data : List Byte) (ep : Bool)
  /-- HOST_MEM_READ. -/
  | hostMemRead (q : Fin 4) (fn : Fin 64) (bar : Nat) (off : Nat) (len : Nat) (tag : Nat)
  /-- CONFIG_REQUEST. -/
  | configRequest (q : Fin 4) (fn : Fin 64) (write : Bool) (reg : Nat) (val : W64)
  /-- HOST_COMPLETION. -/
  | hostCompletion (q : Fin 4) (tag : Nat) (data : List Byte) (ep : Bool)
  /-- HOST_READ_TIMEOUT. -/
  | hostReadTimeout (q : Fin 4) (tag : Nat)
  /-- FLR. -/
  | flr (q : Fin 4) (fn : Fin 64)
  /-- VF_ENABLE_CLEAR. -/
  | vfEnableClear (q : Fin 4) (numVfs : Nat) (vfEn : Bool)
  /-- PERST_ASSERT. -/
  | perstAssert (q : Fin 4)
  /-- PERST_DEASSERT. -/
  | perstDeassert (q : Fin 4)
  /-- HOT_RESET. -/
  | hotReset (q : Fin 4)
  /-- PORT_READY. -/
  | portReady (q : Fin 4) (rate : Nat) (width : Nat) (flit : Bool)
  /-- DL_DOWN. -/
  | dlDown (q : Fin 4)
  /-- PME_TURN_OFF. -/
  | pmeTurnOff (q : Fin 4)
  /-- L0P_IDLE_TIMER. -/
  | l0pIdleTimer (q : Fin 4)
  /-- PRESENCE_DEBOUNCE. -/
  | presenceDebounce (q : Fin 4) (present : Bool)
  /-- ATTN_BUTTON. -/
  | attnButton (q : Fin 4)
  /-- ATTN_BUTTON_TIMEOUT. -/
  | attnButtonTimeout (q : Fin 4)
  /-- PWR_CMD_ON. -/
  | pwrCmdOn (hat : Nat) (q : Fin 4)
  /-- PWR_CMD_OFF. -/
  | pwrCmdOff (hat : Nat) (q : Fin 4)
  /-- PWR_GOOD_RISE. -/
  | pwrGoodRise (q : Fin 4)
  /-- PWR_GOOD_LOSS. -/
  | pwrGoodLoss (q : Fin 4)
  /-- HAT_REBIND. -/
  | hatRebind (q : Fin 4)
  /-- SEC_STAGE. -/
  | secStage (hat : Nat) (val : W64) (read : ReadIn)
  /-- SEC_STAGE_DONE. -/
  | secStageDone
  /-- CANCEL. -/
  | cancel (hat : Nat)
  /-- CONFIRM. -/
  | confirm (hat : Nat)
  /-- COMMIT_SVN. -/
  | commitSvn (hat : Nat)
  /-- REVOKE. -/
  | revoke (hat : Nat) (read : ReadIn)
  /-- I3C_RECOVERY_WRITE. -/
  | i3cRecoveryWrite (off : Nat) (bytes : List Byte)
  /-- I3C_RECOVERY_ERASE. -/
  | i3cRecoveryErase
  /-- I3C_BOOT_REGION_WRITE. -/
  | i3cBootRegionWrite (off : Nat) (bytes : List Byte)
  /-- I3C_BOOT_REGION_ERASE. -/
  | i3cBootRegionErase
  /-- I3C_REPORT_REQ. -/
  | i3cReportReq (payload : List Byte)
  /-- I3C_KEY_LOAD. -/
  | i3cKeyLoad (payload : List Byte)
  /-- I3C_READ_RESTART. -/
  | i3cReadRestart
  /-- I3C_PRIVATE_READ. -/
  | i3cPrivateRead (len : Nat)
  /-- REPORT_REQ. -/
  | reportReq (q : Fin 4) (fn : Fin 64) (payload : List Byte)
  /-- REPORT_READY. -/
  | reportReady
  /-- KEY_LOAD. -/
  | keyLoad (q : Fin 4) (fn : Fin 64) (payload : List Byte)
  /-- KEY_LOAD_DONE. -/
  | keyLoadDone (k : Fin 256)
  /-- POWER_SAMPLE. -/
  | powerSample (railEst : List Nat)
  /-- CAP_RELAX. -/
  | capRelax (ctl : Fin 17)
  /-- CAP_ESCALATE. -/
  | capEscalate
  /-- RAIL_TELEMETRY_READ. -/
  | railTelemetryRead (answers : List (Option (Nat × Nat)))
  /-- ENERGY_ATTRIBUTION. -/
  | energyAttribution (pkgUJ : Nat) (siteUJ : List Nat) (staticUJ : List Nat)
  /-- JUNCTION_SENSOR_READ. -/
  | junctionSensorRead (temps : List Int)
  /-- HUB_HEAT_STEP. -/
  | hubHeatStep (d : Fin 20)
  /-- THERMTRIP. -/
  | thermtrip
  /-- PWR_TARGET_WRITE. -/
  | pwrTargetWrite (hat : Nat) (d : Fin 20) (op : Fin 16)
  /-- DOMAIN_OP_STEP_DONE. -/
  | domainOpStepDone (d : Fin 20)
  /-- BAND_HOLD_DONE. -/
  | bandHoldDone (d : Fin 20)
  /-- DOMAIN_IDLE_ENTRY. -/
  | domainIdleEntry (d : Fin 20)
  /-- WEAR_HOURLY. -/
  | wearHourly (em : List Nat) (lanes : Nat)
  /-- PWR_OK_ASSERT. -/
  | pwrOkAssert
  /-- PWR_OK_DEASSERT. -/
  | pwrOkDeassert
  /-- PKG_RST_N. -/
  | pkgRstN
  /-- PKG_RST_N_RELEASE. -/
  | pkgRstNRelease
  /-- HUB_PKG_RESET. -/
  | hubPkgReset (hat : Nat) (val : W64)
  /-- PKG_RESET_CLOSE_DONE. -/
  | pkgResetCloseDone
  /-- BOOT_ROM_DONE. -/
  | bootRomDone
  /-- FUSE_LOAD_DONE. -/
  | fuseLoadDone (ok : Bool)
  /-- HUB_IMAGE_LOADED. -/
  | hubImageLoaded (railOk : Bool)
  /-- SELF_TEST_DONE. -/
  | selfTestDone (failures : List SelfTestFail) (transient : Nat)
  /-- HBM_TRAINING_DONE. -/
  | hbmTrainingDone (failedChannels : List (Nat × Nat))
  /-- BOOT_IMAGE_COMMIT. -/
  | bootImageCommit
  /-- BOOT_REGISTER_LIST. -/
  | bootRegisterList
  /-- HUB_UNIT_RESET. -/
  | hubUnitReset (hat : Nat) (val : W64)
  /-- DRAIN_BOUND_EXPIRY. -/
  | drainBoundExpiry (scope : DrainScope)
  /-- HUB_PART_RESET. -/
  | hubPartReset (hat : Nat) (val : W64)
  /-- PART_RESET_DRAIN_DONE. -/
  | partResetDrainDone (p : Fin 16)
  /-- PART_RESET_FLUSH_DONE. -/
  | partResetFlushDone (p : Fin 16)
  /-- PART_RESET_REFIT_DONE. -/
  | partResetRefitDone (p : Fin 16)
  /-- PART_RESET_DIRECTORY_DONE. -/
  | partResetDirectoryDone (p : Fin 16)
  /-- REFCLK_CORE_LOSS. -/
  | refclkCoreLoss
  /-- REFCLK_CORE_RETURN. -/
  | refclkCoreReturn
  /-- REFCLK_AON_LOSS. -/
  | refclkAonLoss
  /-- HOST_REFCLK_LOSS. -/
  | hostRefclkLoss (q : Fin 4)
  /-- NET_REFCLK_LOSS. -/
  | netRefclkLoss (c : Fin 2)
  /-- NETWORK_CHIPLET_LOSS. -/
  | networkChipletLoss (c : Fin 2)
  /-- WELLHEAD_LINK_LOSS. -/
  | wellheadLinkLoss
  /-- WELLHEAD_RELINK. -/
  | wellheadRelink
  /-- TEST_MODE_SET. -/
  | testModeSet (hat : Nat)
  /-- BYPASS. -/
  | bypass (tdi : Bool)
  /-- IDCODE. -/
  | idcode
  /-- SAMPLE_PRELOAD. -/
  | samplePreload (cells : List Byte)
  /-- EXTEST. -/
  | extest (cells : List Byte)
  /-- REGACC. -/
  | regacc (write : Bool) (off : Nat) (val : W64)
  /-- DIESEL. -/
  | diesel (die : Nat)
  /-- HUBSCAN. -/
  | hubscan (chain : List Byte)
  /-- TST_LTEST_GO. -/
  | tstLtestGo (hat : Nat) (val : W64)
  /-- TST_LTEST_STOP. -/
  | tstLtestStop (hat : Nat) (errBits errWords : Nat)
  /-- TST_LTEST_END. -/
  | tstLtestEnd (errBits errWords : Nat)
  /-- REGISTER_WRITE. -/
  | registerWrite (hat : Nat) (off : Nat) (size : Nat) (val : W64)
  /-- ALWAYS_ON_RAIL_GOOD. -/
  | alwaysOnRailGood
  /-- ALWAYS_ON_RAIL_REMOVED. -/
  | alwaysOnRailRemoved
  /-- REFCLK_AON_RETURN. -/
  | refclkAonReturn
  /-- WELLHEAD_LINK_TRAIN_TIMEOUT. -/
  | wellheadLinkTrainTimeout
  /-- TEST_LOGIC_RESET. -/
  | testLogicReset
  /-- LINK_POWER_STATE_CHANGE. -/
  | linkPowerStateChange (q : Fin 4) (pstate : Fin 8)
  deriving DecidableEq, Repr

end Sys2Proof
end

