-- ==== Sys2Proof/Config.lean ====
section
/-! DEFINITION. What the manual leaves open: free values, and functions that an implementation or a cipher fixes.  None has
a body, so no proof can rest on what it is.  `freeValue` is applied to the counter `Block.free`, which every use advances. -/

namespace Sys2Proof.Config

/-- A value the manual leaves undefined or does not state (notes/assumptions/2.md). -/
opaque freeValue : Nat → Nat

/-- A free value for each element of a vector: the counter, the element (R198's draws; element results the manual does not
state). -/
opaque freeElem : Nat → Nat → Nat

/-- Whether tininess is found before rounding: IEEE 754, which R207 cites, leaves it to the implementation. -/
opaque tinyBefore : Bool

/-- Which of two zeros of opposite sign VMIN and VMAX give, the first operand's or the second's: R214 does not say. -/
opaque zeroFirst : Bool

/-- SHA-384 of a string of bytes, as a 384-bit number whose byte 0 is the digest's first byte (R57). -/
opaque sha384 : List Byte → Nat

/-- AES-256-GCM (R336): the key, the initialisation vector, the data; what the cipher puts out. -/
opaque gcmText : Nat → List Byte → List Byte → List Byte

/-- AES-256-GCM (R336): the tag of a page from its key, initialisation vector, additional data and ciphertext. -/
opaque gcmTag : Nat → List Byte → List Byte → List Byte → List Byte

/-- Whether 97 bytes are a point of P-384 (R435). -/
opaque onCurve : List Byte → Bool

/-- The ML-KEM-768 shared secret of a ciphertext under the package's encapsulation key (R434): 32 bytes. -/
opaque kemShared : List Byte → List Byte

/-- The ECDH shared secret with a public key (R434): 48 bytes. -/
opaque ecdhShared : List Byte → List Byte

/-- HKDF-SHA-384 without salt (R434): keying material, info; the first 32 bytes put out, as a number. -/
opaque hkdf : List Byte → List Byte → Nat

/-- AES-KW (R433, R435): key-encryption key, wrapped bytes; the key, or nothing when the integrity check fails. -/
opaque unwrapKey : Nat → List Byte → Option Nat

/-- Which of a bank's 3,072 home cache sets a physical line address falls into (R253). -/
opaque hcSet : Nat → Fin 3072

/-- Which of a bank's 32,768 directory sets a physical line address falls into (R280). -/
opaque dirSet : Nat → Fin 32768

/-- The check word of a 32-byte half (R269: a (272, 256) code whose matrix the manual does not give). -/
opaque checkWord : List Byte → BitVec 16

/-- The check bits of a header over its bits 127:8 (R90: a SEC-DED code, whose matrix the manual does not give). -/
opaque hecc : Nat → BitVec 8

/-- The fused SHA-384 of a root key by algorithm (0 RSA, 1 SLH-DSA) and index (R421). -/
opaque rootHash : Nat → Nat → Nat

/-- RSASSA-PSS verification (R424): key field, message, signature. -/
opaque rsaVerify : List Byte → List Byte → List Byte → Bool

/-- SLH-DSA-SHA2-192s verification (R424): key, message, signature. -/
opaque slhVerify : List Byte → List Byte → List Byte → Bool

/-- RSASSA-PSS signature of a message with a salt, under the attestation key (R439). -/
opaque rsaSign : Nat → List Byte → List Byte

/-- SLH-DSA signature of a message under the attestation key (R439). -/
opaque slhSign : List Byte → List Byte

/-- Public keys of the package (R432, R438): 0 P-384, 1 ML-KEM-768, 2 RSA modulus, 3 SLH-DSA. -/
opaque identKey : Nat → List Byte

/-- The provisioned certificate chain of an algorithm, 1 RSA or 2 SLH-DSA (R432). -/
opaque certChain : Nat → List Byte

/-- The leaf of a chain holds the derived key (R432). -/
opaque leafMatches : Nat → Bool

/-- The order in which a reducer or a trough sums (R226, R242): a permutation seed for this sum. -/
opaque sumOrder : Nat → Nat → Nat

/-- The throttle levels that the well-heat and timing-pacing causes ask for (R136): the manual gives no number. -/
opaque heatLevel : Nat
opaque timingLevel : Nat

/-- The fused energy coefficient of an activity class, in pJ (R463). -/
opaque energyCoeff : Nat → Nat

/-- The weight with which a domain's static energy falls to a partition that holds objects of it (R463). -/
opaque staticWeight : Nat → Nat → Nat

/-- Karuri's JEP106 code (R488), which the manual does not give. -/
opaque jep106 : Nat

/-- What scan captures of cells and chains whose contents the model does not hold: the capture's number, the byte (R488, R490). -/
opaque scanCell : Nat → Nat → Nat

/-- A percentile of a list of values (R467): the manual does not fix how it is formed. -/
opaque percentile : Nat → List Nat → Nat

end Sys2Proof.Config
end

