-- ==== Sys2Proof/Machine/Image.lean ====
section
/-! DEFINITION. Structure bitstream records: their types, keys, payloads and bytes (R58–R62), the canonical image (R57), and
what a set of records says of the package's organisation. -/

namespace Sys2Proof.Machine

/-- The next multiple of 8. -/
def roundUp8 (n : Nat) : Nat := (n + 7) / 8 * 8

/-- The type of a record (R62). -/
def Rec.type : Rec → Nat
  | .target .. => 0x0101
  | .name .. => 0x0102
  | .mapout .. => 0x0201
  | .bypass .. => 0x0202
  | .nocArb .. => 0x0203
  | .partition .. => 0x0301
  | .lend .. => 0x0302
  | .region .. => 0x0401
  | .reserve .. => 0x0402
  | .hat .. => 0x0501
  | .portBind .. => 0x0502
  | .labelBudget .. => 0x0601
  | .spanIdentity .. => 0x0701
  | .spanPeer .. => 0x0702
  | .policy .. => 0x0801
  | .partitionCap .. => 0x0802
  | .domainOp .. => 0x0803

/-- The payload of a record (R62), multi-byte fields little-endian (R58). -/
def Rec.payload : Rec → List Byte
  | .target part rev grade kind sites wells =>
    toBytesLE 2 part ++ toBytesLE 1 rev ++ toBytesLE 1 grade ++ toBytesLE 4 kind ++ toBytesLE 2 sites ++ toBytesLE 2 wells
  | .name t => t
  | .mapout w ch => toBytesLE 1 w ++ toBytesLE 1 ch ++ toBytesLE 2 0
  | .bypass x y dir => toBytesLE 1 x ++ toBytesLE 1 y ++ toBytesLE 1 dir ++ toBytesLE 1 0
  | .nocArb hi => toBytesLE 1 hi ++ toBytesLE 3 0
  | .partition p fl sites wells trs =>
    toBytesLE 1 p ++ toBytesLE 1 fl ++ toBytesLE 2 sites ++ toBytesLE 2 wells ++ toBytesLE 2 0 ++ toBytesLE 8 trs
  | .lend kind unit p => toBytesLE 1 kind ++ toBytesLE 1 unit ++ toBytesLE 1 p ++ toBytesLE 1 0
  | .region p gran wells base size =>
    toBytesLE 1 p ++ toBytesLE 1 gran ++ toBytesLE 2 wells ++ toBytesLE 4 0 ++ toBytesLE 8 base ++ toBytesLE 8 size
  | .reserve w purpose size => toBytesLE 1 w ++ toBytesLE 1 purpose ++ toBytesLE 6 0 ++ toBytesLE 8 size
  | .hat h p rights fk kc lbl vec ten =>
    toBytesLE 2 h ++ toBytesLE 1 p ++ toBytesLE 1 0 ++ toBytesLE 4 rights ++ toBytesLE 2 fk ++ toBytesLE 2 kc ++
      toBytesLE 1 lbl ++ toBytesLE 1 vec ++ toBytesLE 2 ten
  | .portBind kind port fn h =>
    toBytesLE 1 kind ++ toBytesLE 1 port ++ toBytesLE 2 fn ++ toBytesLE 2 h ++ toBytesLE 2 0
  | .labelBudget h lbl share burst =>
    toBytesLE 2 h ++ toBytesLE 1 lbl ++ toBytesLE 1 0 ++ toBytesLE 2 share ++ toBytesLE 2 burst
  | .spanIdentity pkg et enc dom udp =>
    toBytesLE 2 pkg ++ toBytesLE 2 et ++ toBytesLE 1 enc ++ toBytesLE 3 0 ++ toBytesLE 8 dom ++ toBytesLE 2 udp ++
      toBytesLE 6 0
  | .spanPeer peer admin => toBytesLE 2 peer ++ toBytesLE 1 admin ++ toBytesLE 5 0
  | .policy guard rise cap => toBytesLE 1 guard ++ toBytesLE 1 rise ++ toBytesLE 2 cap ++ toBytesLE 4 0
  | .partitionCap p cap => toBytesLE 1 p ++ toBytesLE 1 0 ++ toBytesLE 2 cap
  | .domainOp d lo hi idle us => toBytesLE 1 d ++ toBytesLE 1 lo ++ toBytesLE 1 hi ++ toBytesLE 1 idle ++ toBytesLE 4 us

/-- Where the key of a record type lies in its payload, as (offset, bytes); a singleton has no key bytes (R62). -/
def keySpan (type : Nat) : Nat × Nat :=
  if type = 0x0201 ∨ type = 0x0202 ∨ type = 0x0302 ∨ type = 0x0402 ∨ type = 0x0501 ∨ type = 0x0702 then (0, 2)
  else if type = 0x0301 ∨ type = 0x0802 ∨ type = 0x0803 then (0, 1)
  else if type = 0x0401 then (8, 8)
  else if type = 0x0502 then (0, 4)
  else if type = 0x0601 then (0, 3)
  else (0, 0)

/-- The length of a record type's payload; NAME may be 1–64 bytes (R62). -/
def recLengths (type : Nat) : List Nat :=
  if type = 0x0101 then [12]
  else if type = 0x0102 then (List.range 64).map (· + 1)
  else if type = 0x0201 ∨ type = 0x0202 ∨ type = 0x0203 ∨ type = 0x0302 ∨ type = 0x0802 then [4]
  else if type = 0x0301 ∨ type = 0x0402 ∨ type = 0x0501 then [16]
  else if type = 0x0401 ∨ type = 0x0701 then [24]
  else if type = 0x0502 ∨ type = 0x0601 ∨ type = 0x0702 ∨ type = 0x0801 ∨ type = 0x0803 then [8]
  else []

/-- Whether R62 lists a record type. -/
def knownType (type : Nat) : Bool := decide (recLengths type ≠ [])

/-- The key of a record: its key bytes as one little-endian number (R60). -/
def Rec.key (r : Rec) : Nat := let (o, n) := keySpan r.type; numAt r.payload o n

/-- The record a payload of a type spells (R62); reserved bytes are not looked at. -/
def Rec.ofPayload (type : Nat) (b : List Byte) : Option Rec :=
  if ¬ b.length ∈ recLengths type then none
  else if type = 0x0101 then some (.target (numAt b 0 2) (numAt b 2 1) (numAt b 3 1) (numAt b 4 4) (numAt b 8 2) (numAt b 10 2))
  else if type = 0x0102 then some (.name b)
  else if type = 0x0201 then some (.mapout (numAt b 0 1) (numAt b 1 1))
  else if type = 0x0202 then some (.bypass (numAt b 0 1) (numAt b 1 1) (numAt b 2 1))
  else if type = 0x0203 then some (.nocArb (numAt b 0 1))
  else if type = 0x0301 then some (.partition (numAt b 0 1) (numAt b 1 1) (numAt b 2 2) (numAt b 4 2) (numAt b 8 8))
  else if type = 0x0302 then some (.lend (numAt b 0 1) (numAt b 1 1) (numAt b 2 1))
  else if type = 0x0401 then some (.region (numAt b 0 1) (numAt b 1 1) (numAt b 2 2) (numAt b 8 8) (numAt b 16 8))
  else if type = 0x0402 then some (.reserve (numAt b 0 1) (numAt b 1 1) (numAt b 8 8))
  else if type = 0x0501 then
    some (.hat (numAt b 0 2) (numAt b 2 1) (numAt b 4 4) (numAt b 8 2) (numAt b 10 2) (numAt b 12 1) (numAt b 13 1) (numAt b 14 2))
  else if type = 0x0502 then some (.portBind (numAt b 0 1) (numAt b 1 1) (numAt b 2 2) (numAt b 4 2))
  else if type = 0x0601 then some (.labelBudget (numAt b 0 2) (numAt b 2 1) (numAt b 4 2) (numAt b 6 2))
  else if type = 0x0701 then some (.spanIdentity (numAt b 0 2) (numAt b 2 2) (numAt b 4 1) (numAt b 8 8) (numAt b 16 2))
  else if type = 0x0702 then some (.spanPeer (numAt b 0 2) (numAt b 2 1))
  else if type = 0x0801 then some (.policy (numAt b 0 1) (numAt b 1 1) (numAt b 2 2))
  else if type = 0x0802 then some (.partitionCap (numAt b 0 1) (numAt b 2 2))
  else if type = 0x0803 then some (.domainOp (numAt b 0 1) (numAt b 1 1) (numAt b 2 1) (numAt b 3 1) (numAt b 4 4))
  else none

/-- The ranges of R62 that C04 tests: those no later rule names. -/
def Rec.inRange : Rec → Bool
  | .target _ _ _ _ sites wells => decide (sites < 2 ^ 16 ∧ wells < 2 ^ 12)
  | .name .. => true
  | .mapout w ch => decide (w < 12 ∧ ch < 16)
  | .bypass x y dir => decide (x < 16 ∧ y < 12 ∧ dir < 4)
  | .nocArb _ => true
  | .partition p fl sites wells trs => decide (p < 16 ∧ fl < 2 ∧ sites < 2 ^ 16 ∧ wells < 2 ^ 12 ∧ trs < 2 ^ 64)
  | .lend kind unit p => decide (p < 16) && (decide (kind = 1 ∧ unit < 48) || decide (kind = 2 ∧ unit < 24))
  | .region p _ wells _ _ => decide (p < 16 ∧ wells < 2 ^ 12)
  | .reserve w purpose size => decide (w < 12 ∧ purpose = 1 ∧ size % 2 ^ 21 = 0)
  | .hat _ p _ _ _ lbl vec _ => decide ((p < 16 ∨ p = 0xFF) ∧ lbl < 8 ∧ vec < 12)
  | .portBind kind port fn _ =>
    decide (kind < 4 ∧ port < 4 ∧ (kind = 2 ∨ port = 0)) &&
      (if kind = 2 then decide (fn < 64) else if kind = 3 then true else decide (fn = 0))
  | .labelBudget _ _ share _ => decide (share ≤ 1000)
  | .spanIdentity _ _ enc _ _ => decide (enc < 2)
  | .spanPeer _ admin => decide (admin < 2)
  | .policy .. => true
  | .partitionCap p _ => decide (p < 16)
  | .domainOp _ _ _ idle _ => decide (idle < 3)

/-- The bytes of a record in an image: header, payload, zero padding to a multiple of 8 (R60). -/
def recBytes (type : Nat) (payload : List Byte) : List Byte :=
  let n := 4 + payload.length
  toBytesLE 2 type ++ toBytesLE 2 payload.length ++ payload ++ List.replicate (roundUp8 n - n) 0

def Rec.bytes (r : Rec) : List Byte := recBytes r.type r.payload

/-- The order of R60: ascending type, then key. -/
def Rec.before (a b : Rec) : Bool := decide (a.type < b.type) || (decide (a.type = b.type) && decide (a.key < b.key))

/-- Put a record in a list kept in the order of R60, replacing the record of the same type and key (R61). -/
def putRec (r : Rec) : List Rec → List Rec
  | [] => [r]
  | x :: xs =>
    if r.before x then r :: x :: xs
    else if r.type = x.type ∧ r.key = x.key then r :: xs
    else x :: putRec r xs

/-- Take the record of a type and key out (R61, DELETE). -/
def delRec (type key : Nat) (l : List Rec) : List Rec := l.filter fun x => ¬ (x.type = type ∧ x.key = key)

/-- The record of a type and key. -/
def findRec (type key : Nat) (l : List Rec) : Option Rec := l.find? fun x => x.type = type ∧ x.key = key

def applyOp (l : List Rec) : RecOp → List Rec
  | .set r => putRec r l
  | .del t k => delRec t k l

/-- The section types a list of records uses, ascending. -/
def sectionTypes (l : List Rec) : List Nat := (List.range 128).filter fun t => l.any fun r => r.type / 256 = t

/-- One section: its 16-byte header and its records (R59). -/
def sectionBytes (l : List Rec) (t : Nat) : List Byte :=
  let rs := l.filter fun r => r.type / 256 = t
  let body := rs.flatMap Rec.bytes
  toBytesLE 2 t ++ toBytesLE 2 0 ++ toBytesLE 4 body.length ++ toBytesLE 4 rs.length ++ toBytesLE 4 0 ++ body

/-- The 128-byte header of an image (R58). -/
def headerBytes (kind rev grade length gen baseGen : Nat) (digest : List Byte) (sections flags : Nat) : List Byte :=
  toBytesLE 4 0x5453424D ++ toBytesLE 2 0x0200 ++ toBytesLE 2 kind ++ toBytesLE 2 0x1632 ++ toBytesLE 1 rev ++
    toBytesLE 1 grade ++ toBytesLE 4 length ++ toBytesLE 8 gen ++ toBytesLE 8 baseGen ++ digest ++
    toBytesLE 2 sections ++ toBytesLE 2 flags ++ toBytesLE 4 0 ++ List.replicate 40 0

/-- The canonical image of a committed state (R57). -/
def canonicalImage (rev grade gen : Nat) (l : List Rec) : List Byte :=
  let secs := sectionTypes l
  let body := secs.flatMap (sectionBytes l)
  headerBytes 1 rev grade (128 + body.length) gen 0 (List.replicate 48 0) secs.length 1 ++ body

/-! ### Reading an image back -/

/-- One record as it stands in an image. -/
structure RawRec where
  off     : Nat
  sec     : Nat
  type    : Nat
  del     : Bool
  payload : List Byte
  pad     : List Byte
  deriving DecidableEq, Repr

/-- One section as it stands in an image. -/
structure RawSec where
  off   : Nat
  type  : Nat
  flags : Nat
  len   : Nat
  count : Nat
  resv  : Nat
  recs  : List RawRec
  whole : Bool           -- its records' sizes add up to its length
  deriving DecidableEq, Repr

/-- The records of bytes `[off, stop)` of an image; the flag says that their sizes add up. -/
def parseRecs (img : List Byte) (sec stop : Nat) : Nat → Nat → List RawRec × Bool
  | 0, off => ([], decide (off = stop))
  | fuel + 1, off =>
    if off = stop then ([], true)
    else if stop < off + 4 then ([], false)
    else
      let t := numAt img off 2
      let len := numAt img (off + 2) 2
      let size := roundUp8 (4 + len)
      if stop < off + size then ([], false)
      else
        let (rest, ok) := parseRecs img sec stop fuel (off + size)
        (⟨off, sec, t % 2 ^ 15, decide (2 ^ 15 ≤ t), slice img (off + 4) len, slice img (off + 4 + len) (size - 4 - len)⟩ :: rest, ok)

/-- The sections of an image from `off`; the flag says that they end exactly at the image's end. -/
def parseSecs (img : List Byte) : Nat → Nat → List RawSec × Bool
  | 0, off => ([], decide (off = img.length))
  | fuel + 1, off =>
    if off = img.length then ([], true)
    else if img.length < off + 16 then ([], false)
    else
      let len := numAt img (off + 4) 4
      if img.length < off + 16 + len then ([], false)
      else
        let t := numAt img off 2
        let (rs, whole) := parseRecs img t (off + 16 + len) (len / 8 + 1) (off + 16)
        let (rest, ok) := parseSecs img fuel (off + 16 + len)
        (⟨off, t, numAt img (off + 2) 2, len, numAt img (off + 8) 4, numAt img (off + 12) 4, rs, whole⟩ :: rest, ok)

/-- The sections of an image. -/
def imageSecs (img : List Byte) : List RawSec × Bool := parseSecs img (img.length / 16 + 1) 128

/-- The records an image carries (R62), in image order, those that spell a record of R62. -/
def imageRecs (img : List Byte) : List Rec :=
  (imageSecs img).1.flatMap fun s => s.recs.filterMap fun r => if r.del then none else Rec.ofPayload r.type r.payload

/-! ### What the records say -/

/-- Enabled partitions with their site, well and trough masks. -/
def partitionsOf (l : List Rec) : List (Nat × Nat × Nat × Nat) :=
  l.filterMap fun
    | .partition p fl sites wells trs => if bit fl 0 then some (p, sites, wells, trs) else none
    | _ => none

/-- Whether partition `p` is enabled. -/
def partEnabled (l : List Rec) (p : Nat) : Bool := (partitionsOf l).any fun e => e.1 = p

def partOfSite (l : List Rec) (g : Nat) : Option Nat := ((partitionsOf l).find? fun e => bit e.2.1 g).map Prod.fst
def partOfWell (l : List Rec) (w : Nat) : Option Nat := ((partitionsOf l).find? fun e => bit e.2.2.1 w).map Prod.fst
def partOfTrough (l : List Rec) (t : Nat) : Option Nat := ((partitionsOf l).find? fun e => bit e.2.2.2 t).map Prod.fst

/-- The partition a UNIT_LEND record gives a unit to: kind 1 pump, 2 engine. -/
def lentTo (l : List Rec) (kind unit : Nat) : Option Nat :=
  l.findSome? fun
    | .lend k u p => if k = kind ∧ u = unit then some p else none
    | _ => none

/-- A unit belongs to the partition it is lent to, else to its well's (R62). -/
def partOfUnit (l : List Rec) (kind unit : Nat) : Option Nat :=
  match lentTo l kind unit with
  | some p => if partEnabled l p then some p else none
  | none => partOfWell l (if kind = 1 then unit / 4 else unit / 2)

def partOfPump (l : List Rec) (p : Nat) : Option Nat := partOfUnit l 1 p
def partOfEngine (l : List Rec) (e : Nat) : Option Nat := partOfUnit l 2 e

def sitesOfPart (l : List Rec) (p : Nat) : List Nat := (List.range 16).filter fun g => partOfSite l g = some p
def wellsOfPart (l : List Rec) (p : Nat) : List Nat := (List.range 12).filter fun w => partOfWell l w = some p
def pumpsOfPart (l : List Rec) (p : Nat) : List Nat := (List.range 48).filter fun u => partOfPump l u = some p
def enginesOfPart (l : List Rec) (p : Nat) : List Nat := (List.range 24).filter fun u => partOfEngine l u = some p
def troughsOfPart (l : List Rec) (p : Nat) : List Nat := (List.range 64).filter fun t => partOfTrough l t = some p

/-- A region: partition, granule (log2), its wells rising, base, size. -/
structure Region where
  part : Nat
  gran : Nat
  mask : Nat
  base : Nat
  size : Nat
  deriving DecidableEq, Repr

def regionsOf (l : List Rec) : List Region :=
  l.filterMap fun
    | .region p gran wells base size => some ⟨p, gran, wells, base, size⟩
    | _ => none

def Region.wells (r : Region) : List Nat := setBits r.mask 12

/-- The mapped-out channels of a well by records, as a mask. -/
def mapoutsOf (l : List Rec) (w : Nat) : Nat :=
  l.foldl (fun m r => match r with
    | .mapout w' ch => if w' = w then setBit m ch else m
    | _ => m) 0

/-- Bytes a well's RESERVE records take (R255, C13). -/
def reservedOf (l : List Rec) (w : Nat) : Nat :=
  l.foldl (fun n r => match r with
    | .reserve w' _ size => if w' = w then n + size else n
    | _ => n) 0

/-- The bypassed routers, with their rehome direction. -/
def bypassesOf (l : List Rec) : List (Nat × Nat × Nat) :=
  l.filterMap fun
    | .bypass x y d => some (x, y, d)
    | _ => none

/-- The HAT record of a hat. -/
structure HatRec where
  hat : Nat
  part : Nat
  rights : Nat
  firstKey : Nat
  keyCount : Nat
  label : Nat
  vecLog2 : Nat
  tenant : Nat
  deriving DecidableEq, Repr

def hatsOf (l : List Rec) : List HatRec :=
  l.filterMap fun
    | .hat h p r fk kc lb v t => some ⟨h, p, r, fk, kc, lb, v, t⟩
    | _ => none

def hatRec (l : List Rec) (h : Nat) : Option HatRec := (hatsOf l).find? fun r => r.hat = h

/-- The port index of a PORT_BIND record (R373). -/
def portIndex (kind port fn : Nat) : Nat :=
  if kind = 0 then 0x100 else if kind = 1 then 0x101 else if kind = 2 then port * 64 + fn else 0x400 + fn

/-- The bindings: port index and hat. -/
def bindsOf (l : List Rec) : List (Nat × Nat) :=
  l.filterMap fun
    | .portBind k q f h => some (portIndex k q f, h)
    | _ => none

/-- The LABEL_BUDGET records: hat, label, share, burst in KiB. -/
def budgetsOf (l : List Rec) : List (Nat × Nat × Nat × Nat) :=
  l.filterMap fun
    | .labelBudget h lb s b => some (h, lb, s, b)
    | _ => none

/-- SPAN_IDENTITY: package, EtherType, encapsulation, domain, UDP port; the defaults of R62 where there is no record.
An absent identity reads as package 0 (R295). -/
def identityOf (l : List Rec) : Nat × Nat × Nat × Nat × Nat :=
  (l.findSome? fun
    | .spanIdentity pkg et enc dom udp => some (pkg, et, enc, dom, udp)
    | _ => none).getD (0, 0x88B5, 0, 0, 0)

def hasIdentity (l : List Rec) : Bool := l.any fun r => r.type = 0x0701

/-- The peers with their SPAN_ADMIN bit. -/
def peersOf (l : List Rec) : List (Nat × Nat) :=
  l.filterMap fun
    | .spanPeer p a => some (p, a)
    | _ => none

/-- POLICY: GUARD, RISE_MAX, package cap; the defaults of R62, with the fused cap. -/
def policyOf (fusedCap : Nat) (l : List Rec) : Nat × Nat × Nat :=
  (l.findSome? fun
    | .policy g r c => some (g, r, c)
    | _ => none).getD (2, 6, fusedCap)

def nocArbOf (l : List Rec) : Nat :=
  (l.findSome? fun
    | .nocArb h => some h
    | _ => none).getD 0xC0

def partCapOf (l : List Rec) (p : Nat) : Option Nat :=
  l.findSome? fun
    | .partitionCap p' c => if p' = p then some c else none
    | _ => none

/-- DOMAIN_OP of a domain: lowest, highest, idle policy, idle time. -/
def domainOpOf (l : List Rec) (d : Nat) : Option (Nat × Nat × Nat × Nat) :=
  l.findSome? fun
    | .domainOp d' lo hi idle us => if d' = d then some (lo, hi, idle, us) else none
    | _ => none

end Sys2Proof.Machine
end

