-- ==== Sys2Proof/Machine/Regs.lean ====
section
/-! DEFINITION. The register map: for every register of the block the address of each of its copies (R30: its BAR0 offset;
a register of a Prour tile, R159, at 0x1_0000_0000 + site × 0x0100_0000 + its window offset), its fields with their
access codes (R11) and reset values, as the register tables of the chapters give them.  A reset value the tables give as
"fuses", "flash", "record", "boot", "after training" or "per die" is that of the instance which notes/assumptions/3.md names. -/

namespace Sys2Proof.Machine

/-- The access codes of R11 that fields of this package carry.  (R11 also names LCK; no field of the tables has it.) -/
inductive Acc where
  | rw | ro | wo | w1c | w1s | stg
  deriving DecidableEq, Repr

/-- One field of a register: where it stands, how it behaves, what it holds after reset. -/
structure FldDesc where
  fld   : Fld
  acc   : Acc
  reset : Nat
  deriving DecidableEq, Repr

/-- One register family: the address of its first copy, the strides and counts of its copies, its fields. -/
structure RegDesc where
  base : Nat
  dims : List (Nat × Nat)
  flds : List FldDesc
  deriving DecidableEq, Repr

/-- One field of the map. -/
def fd (lo width : Nat) (acc : Acc) (reset : Nat) : FldDesc := ⟨⟨lo, width⟩, acc, reset⟩

/-- The copy numbers that place address `a` in a family whose first copy is at `base`. -/
def copyOf (base : Nat) : List (Nat × Nat) → Nat → Option (List Nat)
  | [], a => if a = base then some [] else none
  | (stride, count) :: ds, a =>
    if a < base then none
    else if (a - base) / stride < count then
      match copyOf base ds (base + (a - base) % stride) with
      | some l => some ((a - base) / stride :: l)
      | none => none
    else none

namespace Reg

/-- HUB_ID (spec/01_package_and_dies.md). -/
def HUB_ID : Nat := 0x0
/-- HUB_POPULATION (spec/01_package_and_dies.md). -/
def HUB_POPULATION : Nat := 0x8
/-- HUB_TIMESTAMP (spec/02_clockless_timing.md). -/
def HUB_TIMESTAMP : Nat := 0x10
/-- HUB_CAPACITY (spec/10_wells.md). -/
def HUB_CAPACITY : Nat := 0x18
/-- HUB_PART_DOWN (spec/11_coherence.md). -/
def HUB_PART_DOWN : Nat := 0x20
/-- HUB_PART_CAUSEp (spec/11_coherence.md). -/
def HUB_PART_CAUSE (a : Nat) : Nat := 0x100 + a * 0x8
/-- HUB_BRINGUP (spec/19_bringup_and_reset.md). -/
def HUB_BRINGUP : Nat := 0x28
/-- HUB_REPAIR (spec/19_bringup_and_reset.md). -/
def HUB_REPAIR : Nat := 0x30
/-- HUB_UNIT_RESET (spec/19_bringup_and_reset.md). -/
def HUB_UNIT_RESET : Nat := 0x38
/-- HUB_PART_RESET (spec/19_bringup_and_reset.md). -/
def HUB_PART_RESET : Nat := 0x40
/-- HUB_PKG_RESET (spec/19_bringup_and_reset.md). -/
def HUB_PKG_RESET : Nat := 0x48
/-- HUB_RESET_CAUSE (spec/19_bringup_and_reset.md). -/
def HUB_RESET_CAUSE : Nat := 0x50
/-- HUB_SPAREq (spec/19_bringup_and_reset.md). -/
def HUB_SPARE (a : Nat) : Nat := 0x60 + a * 0x8
/-- MON_TMG_CTL (spec/02_clockless_timing.md). -/
def MON_TMG_CTL : Nat := 0x1d00000
/-- MON_RECAL (spec/02_clockless_timing.md). -/
def MON_RECAL : Nat := 0x1d00008
/-- MON_TMG_REGIONn (spec/02_clockless_timing.md). -/
def MON_TMG_REGION (a : Nat) : Nat := 0x1d00100 + a * 0x8
/-- MON_WEAR (spec/18_power_heat_wear.md). -/
def MON_WEAR : Nat := 0x1d00200
/-- MON_WEAR_BAND (spec/18_power_heat_wear.md). -/
def MON_WEAR_BAND : Nat := 0x1d00208
/-- MON_WEAR_MECHm (spec/18_power_heat_wear.md). -/
def MON_WEAR_MECH (a : Nat) : Nat := 0x1d00210 + a * 0x8
/-- MON_WEAR_REGIONn (spec/18_power_heat_wear.md). -/
def MON_WEAR_REGION (a : Nat) : Nat := 0x1d00300 + a * 0x8
/-- CFG_GEN (spec/03_structure_bitstream.md). -/
def CFG_GEN : Nat := 0x100000
/-- CFG_STATE_DIGESTk (spec/03_structure_bitstream.md). -/
def CFG_STATE_DIGEST (a : Nat) : Nat := 0x100008 + a * 0x8
/-- CFG_EXPORT (spec/03_structure_bitstream.md). -/
def CFG_EXPORT : Nat := 0x100040
/-- CFG_EXPORT_LEN (spec/03_structure_bitstream.md). -/
def CFG_EXPORT_LEN : Nat := 0x100048
/-- CFG_SLOTn_CMD (spec/03_structure_bitstream.md). -/
def CFG_SLOT_CMD (a : Nat) : Nat := 0x100100 + a * 0x40
/-- CFG_SLOTn_SRC (spec/03_structure_bitstream.md). -/
def CFG_SLOT_SRC (a : Nat) : Nat := 0x100108 + a * 0x40
/-- CFG_SLOTn_LEN (spec/03_structure_bitstream.md). -/
def CFG_SLOT_LEN (a : Nat) : Nat := 0x100110 + a * 0x40
/-- CFG_SLOTn_EXPECT (spec/03_structure_bitstream.md). -/
def CFG_SLOT_EXPECT (a : Nat) : Nat := 0x100118 + a * 0x40
/-- CFG_SLOTn_STATUS (spec/03_structure_bitstream.md). -/
def CFG_SLOT_STATUS (a : Nat) : Nat := 0x100120 + a * 0x40
/-- CFG_SLOTn_TOUCH (spec/03_structure_bitstream.md). -/
def CFG_SLOT_TOUCH (a : Nat) : Nat := 0x100128 + a * 0x40
/-- CFG_SLOTn_VIEW_ADDR (spec/03_structure_bitstream.md). -/
def CFG_SLOT_VIEW_ADDR (a : Nat) : Nat := 0x100130 + a * 0x40
/-- CFG_SLOTn_VIEW_DATA (spec/03_structure_bitstream.md). -/
def CFG_SLOT_VIEW_DATA (a : Nat) : Nat := 0x100138 + a * 0x40
/-- NOC_CTL (spec/04_network_on_hub.md). -/
def NOC_CTL : Nat := 0x400000
/-- NOC_BYPASSq (spec/04_network_on_hub.md). -/
def NOC_BYPASS (a : Nat) : Nat := 0x400010 + a * 0x8
/-- NOC_HDR_ERR (spec/04_network_on_hub.md). -/
def NOC_HDR_ERR : Nat := 0x400040
/-- NOC_HDR_RAWk (spec/04_network_on_hub.md). -/
def NOC_HDR_RAW (a : Nat) : Nat := 0x400048 + a * 0x8
/-- NOC_WAKE_STAT (spec/04_network_on_hub.md). -/
def NOC_WAKE_STAT : Nat := 0x400058
/-- NOC_LTEST_CTL (spec/04_network_on_hub.md). -/
def NOC_LTEST_CTL : Nat := 0x400100
/-- NOC_LTEST_PATk (spec/04_network_on_hub.md). -/
def NOC_LTEST_PAT (a : Nat) : Nat := 0x400108 + a * 0x8
/-- NOC_LTEST_STAT (spec/04_network_on_hub.md). -/
def NOC_LTEST_STAT : Nat := 0x400118
/-- GLV_CTL (spec/05_gloves.md). -/
def GLV_CTL (a : Nat) : Nat := 0x800000 + a * 0x10000
/-- GLV_STATUS (spec/05_gloves.md). -/
def GLV_STATUS (a : Nat) : Nat := 0x800008 + a * 0x10000
/-- GLV_FEATURES (spec/05_gloves.md). -/
def GLV_FEATURES (a : Nat) : Nat := 0x800010 + a * 0x10000
/-- GLV_MODULES (spec/05_gloves.md). -/
def GLV_MODULES (a : Nat) : Nat := 0x800018 + a * 0x10000
/-- GLV_THROTTLE (spec/05_gloves.md). -/
def GLV_THROTTLE (a : Nat) : Nat := 0x800020 + a * 0x10000
/-- GLV_TEMP (spec/05_gloves.md). -/
def GLV_TEMP (a : Nat) : Nat := 0x800028 + a * 0x10000
/-- GLV_IDENT (spec/05_gloves.md). -/
def GLV_IDENT (a : Nat) : Nat := 0x800030 + a * 0x10000
/-- GLV_ERR (spec/05_gloves.md). -/
def GLV_ERR (a : Nat) : Nat := 0x800038 + a * 0x10000
/-- GLV_HATSETj (spec/05_gloves.md). -/
def GLV_HATSET (a b : Nat) : Nat := 0x800040 + a * 0x10000 + b * 0x8
/-- GLV_FITk (spec/05_gloves.md). -/
def GLV_FIT (a b : Nat) : Nat := 0x800100 + a * 0x10000 + b * 0x8
/-- PRT_ID (spec/06_prour_tile.md). -/
def PRT_ID (a : Nat) : Nat := 0x100000000 + a * 0x1000000
/-- PRT_CLK (spec/06_prour_tile.md). -/
def PRT_CLK (a : Nat) : Nat := 0x100000008 + a * 0x1000000
/-- PRT_SRAM (spec/06_prour_tile.md). -/
def PRT_SRAM (a : Nat) : Nat := 0x100000010 + a * 0x1000000
/-- PRT_POWER (spec/06_prour_tile.md). -/
def PRT_POWER (a : Nat) : Nat := 0x100000018 + a * 0x1000000
/-- PRT_CTXc_CTL (spec/06_prour_tile.md). -/
def PRT_CTX_CTL (a b : Nat) : Nat := 0x100001000 + a * 0x1000000 + b * 0x80
/-- PRT_CTXc_STATUS (spec/06_prour_tile.md). -/
def PRT_CTX_STATUS (a b : Nat) : Nat := 0x100001008 + a * 0x1000000 + b * 0x80
/-- PRT_CTXc_PROG (spec/06_prour_tile.md). -/
def PRT_CTX_PROG (a b : Nat) : Nat := 0x100001010 + a * 0x1000000 + b * 0x80
/-- PRT_CTXc_PROG_ADDR (spec/06_prour_tile.md). -/
def PRT_CTX_PROG_ADDR (a b : Nat) : Nat := 0x100001018 + a * 0x1000000 + b * 0x80
/-- PRT_CTXc_PROG_DIGESTk (spec/06_prour_tile.md). -/
def PRT_CTX_PROG_DIGEST (a b c : Nat) : Nat := 0x100001020 + a * 0x1000000 + b * 0x80 + c * 0x8
/-- PRT_CTXc_PROG_RUN (spec/06_prour_tile.md). -/
def PRT_CTX_PROG_RUN (a b : Nat) : Nat := 0x100001050 + a * 0x1000000 + b * 0x80
/-- VEC_STATUS (spec/07_vector_engines.md). -/
def VEC_STATUS (a : Nat) : Nat := 0x1000000 + a * 0x10000
/-- VEC_BKT_STAT (spec/07_vector_engines.md). -/
def VEC_BKT_STAT (a : Nat) : Nat := 0x1000008 + a * 0x10000
/-- VEC_KLOAD_SRC (spec/07_vector_engines.md). -/
def VEC_KLOAD_SRC (a : Nat) : Nat := 0x1000010 + a * 0x10000
/-- VEC_KLOAD (spec/07_vector_engines.md). -/
def VEC_KLOAD (a : Nat) : Nat := 0x1000018 + a * 0x10000
/-- VEC_KERNELk (spec/07_vector_engines.md). -/
def VEC_KERNEL (a b : Nat) : Nat := 0x1000100 + a * 0x10000 + b * 0x40
/-- VEC_KERNELk_DIGESTj (spec/07_vector_engines.md). -/
def VEC_KERNEL_DIGEST (a b c : Nat) : Nat := 0x1000108 + a * 0x10000 + b * 0x40 + c * 0x8
/-- VEC_TREGt (spec/07_vector_engines.md). -/
def VEC_TREG (a b : Nat) : Nat := 0x1000400 + a * 0x10000 + b * 0x8
/-- VEC_CTXc_CTL (spec/07_vector_engines.md). -/
def VEC_CTX_CTL (a b : Nat) : Nat := 0x1001000 + a * 0x10000 + b * 0x100
/-- VEC_CTXc_START (spec/07_vector_engines.md). -/
def VEC_CTX_START (a b : Nat) : Nat := 0x1001008 + a * 0x10000 + b * 0x100
/-- VEC_CTXc_STATUS (spec/07_vector_engines.md). -/
def VEC_CTX_STATUS (a b : Nat) : Nat := 0x1001010 + a * 0x10000 + b * 0x100
/-- VEC_CTXc_FLAGS (spec/07_vector_engines.md). -/
def VEC_CTX_FLAGS (a b : Nat) : Nat := 0x1001018 + a * 0x10000 + b * 0x100
/-- VEC_CTXc_ARGk (spec/07_vector_engines.md). -/
def VEC_CTX_ARG (a b c : Nat) : Nat := 0x1001040 + a * 0x10000 + b * 0x100 + c * 0x8
/-- VEC_RED (spec/07_vector_engines.md). -/
def VEC_RED (a : Nat) : Nat := 0x1008000 + a * 0x20000
/-- TRG_CTL (spec/09_troughs.md). -/
def TRG_CTL (a : Nat) : Nat := 0x1800000 + a * 0x1000
/-- TRG_CFG (spec/09_troughs.md). -/
def TRG_CFG (a : Nat) : Nat := 0x1800008 + a * 0x1000
/-- TRG_PARAM (spec/09_troughs.md). -/
def TRG_PARAM (a : Nat) : Nat := 0x1800010 + a * 0x1000
/-- TRG_QUOTA (spec/09_troughs.md). -/
def TRG_QUOTA (a : Nat) : Nat := 0x1800018 + a * 0x1000
/-- TRG_DEADLINE (spec/09_troughs.md). -/
def TRG_DEADLINE (a : Nat) : Nat := 0x1800020 + a * 0x1000
/-- TRG_STATUS (spec/09_troughs.md). -/
def TRG_STATUS (a : Nat) : Nat := 0x1800028 + a * 0x1000
/-- TRG_EXPORT (spec/09_troughs.md). -/
def TRG_EXPORT (a : Nat) : Nat := 0x1800030 + a * 0x1000
/-- TRG_EXPORT_DST (spec/09_troughs.md). -/
def TRG_EXPORT_DST (a : Nat) : Nat := 0x1800038 + a * 0x1000
/-- TRG_MEMBERk (spec/09_troughs.md). -/
def TRG_MEMBER (a b : Nat) : Nat := 0x1800100 + a * 0x1000 + b * 0x8
/-- TRG_RNG (spec/09_troughs.md). -/
def TRG_RNG : Nat := 0x1840000
/-- WEL_STATUS (spec/10_wells.md). -/
def WEL_STATUS (a : Nat) : Nat := 0xc00000 + a * 0x10000
/-- WEL_CAP (spec/10_wells.md). -/
def WEL_CAP (a : Nat) : Nat := 0xc00008 + a * 0x10000
/-- WEL_CHAN (spec/10_wells.md). -/
def WEL_CHAN (a : Nat) : Nat := 0xc00010 + a * 0x10000
/-- WEL_CTL (spec/10_wells.md). -/
def WEL_CTL (a : Nat) : Nat := 0xc00018 + a * 0x10000
/-- WEL_ERR (spec/10_wells.md). -/
def WEL_ERR (a : Nat) : Nat := 0xc00020 + a * 0x10000
/-- WEL_ERR_ADDR (spec/10_wells.md). -/
def WEL_ERR_ADDR (a : Nat) : Nat := 0xc00028 + a * 0x10000
/-- WEL_HC (spec/10_wells.md). -/
def WEL_HC (a : Nat) : Nat := 0xc00030 + a * 0x10000
/-- WEL_WC (spec/10_wells.md). -/
def WEL_WC (a : Nat) : Nat := 0xc00038 + a * 0x10000
/-- WEL_DIR (spec/11_coherence.md). -/
def WEL_DIR (a : Nat) : Nat := 0xc00040 + a * 0x10000
/-- XLT_WALK_STAT (spec/12_addresses.md). -/
def XLT_WALK_STAT : Nat := 0x1a00000
/-- XLT_FQq_BASE (spec/12_addresses.md). -/
def XLT_FQ_BASE (a : Nat) : Nat := 0x1a01000 + a * 0x40
/-- XLT_FQq_HEAD_ADDR (spec/12_addresses.md). -/
def XLT_FQ_HEAD_ADDR (a : Nat) : Nat := 0x1a01008 + a * 0x40
/-- XLT_FQq_CTL (spec/12_addresses.md). -/
def XLT_FQ_CTL (a : Nat) : Nat := 0x1a01010 + a * 0x40
/-- XLT_FQq_STATUS (spec/12_addresses.md). -/
def XLT_FQ_STATUS (a : Nat) : Nat := 0x1a01018 + a * 0x40
/-- XLT_FQq_RESP (spec/12_addresses.md). -/
def XLT_FQ_RESP (a : Nat) : Nat := 0x1a01020 + a * 0x40
/-- XLT_CTXx_CTL (spec/12_addresses.md). -/
def XLT_CTX_CTL (a : Nat) : Nat := 0x1a04000 + a * 0x20
/-- XLT_CTXx_ROOT (spec/12_addresses.md). -/
def XLT_CTX_ROOT (a : Nat) : Nat := 0x1a04008 + a * 0x20
/-- XLT_CTXx_EPOCH (spec/12_addresses.md). -/
def XLT_CTX_EPOCH (a : Nat) : Nat := 0x1a04010 + a * 0x20
/-- XLT_GSEG_CTL (spec/12_addresses.md). -/
def XLT_GSEG_CTL (a b c : Nat) : Nat := 0x1a10000 + a * 0x1000 + b * 0x100 + c * 0x20
/-- XLT_VSEG_CTL (spec/12_addresses.md). -/
def XLT_VSEG_CTL (a b c : Nat) : Nat := 0x1a20000 + a * 0x400 + b * 0x100 + c * 0x20
/-- XLT_GSEG_BASE (spec/12_addresses.md). -/
def XLT_GSEG_BASE (a b c : Nat) : Nat := 0x1a10008 + a * 0x1000 + b * 0x100 + c * 0x20
/-- XLT_VSEG_BASE (spec/12_addresses.md). -/
def XLT_VSEG_BASE (a b c : Nat) : Nat := 0x1a20008 + a * 0x400 + b * 0x100 + c * 0x20
/-- XLT_GSEG_LIMIT (spec/12_addresses.md). -/
def XLT_GSEG_LIMIT (a b c : Nat) : Nat := 0x1a10010 + a * 0x1000 + b * 0x100 + c * 0x20
/-- XLT_VSEG_LIMIT (spec/12_addresses.md). -/
def XLT_VSEG_LIMIT (a b c : Nat) : Nat := 0x1a20010 + a * 0x400 + b * 0x100 + c * 0x20
/-- XLT_GSEG_OFFSET (spec/12_addresses.md). -/
def XLT_GSEG_OFFSET (a b c : Nat) : Nat := 0x1a10018 + a * 0x1000 + b * 0x100 + c * 0x20
/-- XLT_VSEG_OFFSET (spec/12_addresses.md). -/
def XLT_VSEG_OFFSET (a b c : Nat) : Nat := 0x1a20018 + a * 0x400 + b * 0x100 + c * 0x20
/-- PMP_STATUS (spec/13_pumps_and_intakes.md). -/
def PMP_STATUS (a : Nat) : Nat := 0x1900000 + a * 0x1000
/-- PMP_COUNT (spec/13_pumps_and_intakes.md). -/
def PMP_COUNT (a : Nat) : Nat := 0x1900008 + a * 0x1000
/-- PMP_BYTES (spec/13_pumps_and_intakes.md). -/
def PMP_BYTES (a : Nat) : Nat := 0x1900010 + a * 0x1000
/-- PMP_INTAKEi_CTL (spec/13_pumps_and_intakes.md). -/
def PMP_INTAKE_CTL (a : Nat) : Nat := 0x1940000 + a * 0x20
/-- PMP_INTAKEi_CPL (spec/13_pumps_and_intakes.md). -/
def PMP_INTAKE_CPL (a : Nat) : Nat := 0x1940008 + a * 0x20
/-- PMP_INTAKEi_STATUS (spec/13_pumps_and_intakes.md). -/
def PMP_INTAKE_STATUS (a : Nat) : Nat := 0x1940010 + a * 0x20
/-- PMP_KEYk (spec/13_pumps_and_intakes.md). -/
def PMP_KEY (a : Nat) : Nat := 0x1960000 + a * 0x8
/-- PMP_WSETw (spec/13_pumps_and_intakes.md). -/
def PMP_WSET (a : Nat) : Nat := 0x1970000 + a * 0x40
/-- PMP_WSETw_BYTES (spec/13_pumps_and_intakes.md). -/
def PMP_WSET_BYTES (a : Nat) : Nat := 0x1970008 + a * 0x40
/-- PMP_WSETw_DIGESTj (spec/13_pumps_and_intakes.md). -/
def PMP_WSET_DIGEST (a b : Nat) : Nat := 0x1970010 + a * 0x40 + b * 0x8
/-- PMP_REMOVE (spec/13_pumps_and_intakes.md). -/
def PMP_REMOVE : Nat := 0x1980000
/-- SPN_CTL (spec/14_span.md). -/
def SPN_CTL : Nat := 0x1b00000
/-- SPN_ID (spec/14_span.md). -/
def SPN_ID : Nat := 0x1b00008
/-- SPN_DISC (spec/14_span.md). -/
def SPN_DISC : Nat := 0x1b00010
/-- SPN_RLC (spec/14_span.md). -/
def SPN_RLC : Nat := 0x1b00018
/-- SPN_OWN_IPk (spec/14_span.md). -/
def SPN_OWN_IP (a : Nat) : Nat := 0x1b00020 + a * 0x8
/-- SPN_MAC (spec/14_span.md). -/
def SPN_MAC : Nat := 0x1b00030
/-- SPN_DROP (spec/14_span.md). -/
def SPN_DROP : Nat := 0x1b00038
/-- SPN_QUADc_q (spec/14_span.md). -/
def SPN_QUAD (a b : Nat) : Nat := 0x1b00100 + a * 0x60 + b * 0x8
/-- SPN_LANEc (spec/14_span.md). -/
def SPN_LANE (a : Nat) : Nat := 0x1b00200 + a * 0x8
/-- SPN_GWc (spec/14_span.md). -/
def SPN_GW (a : Nat) : Nat := 0x1b00300 + a * 0x8
/-- SPN_PEERn (spec/14_span.md). -/
def SPN_PEER (a : Nat) : Nat := 0x1b10000 + a * 0x20
/-- SPN_PEERn_IPk (spec/14_span.md). -/
def SPN_PEER_IP (a b : Nat) : Nat := 0x1b10008 + a * 0x20 + b * 0x8
/-- SPN_PEERn_STAT (spec/14_span.md). -/
def SPN_PEER_STAT (a : Nat) : Nat := 0x1b10018 + a * 0x20
/-- HAT_h_INFO (spec/15_hats_and_shared_hosts.md). -/
def HAT_INFO (a : Nat) : Nat := 0x200000 + a * 0x20
/-- HAT_h_KEYS (spec/15_hats_and_shared_hosts.md). -/
def HAT_KEYS (a : Nat) : Nat := 0x200008 + a * 0x20
/-- HAT_h_CTL (spec/15_hats_and_shared_hosts.md). -/
def HAT_CTL (a : Nat) : Nat := 0x200010 + a * 0x20
/-- HAT_h_FALLBACK (spec/15_hats_and_shared_hosts.md). -/
def HAT_FALLBACK (a : Nat) : Nat := 0x200018 + a * 0x20
/-- HAT_PORTk (spec/15_hats_and_shared_hosts.md). -/
def HAT_PORT (a : Nat) : Nat := 0x300000 + a * 0x8
/-- HAT_REMOVE (spec/15_hats_and_shared_hosts.md). -/
def HAT_REMOVE : Nat := 0x380000
/-- HAT_GRACEq (spec/15_hats_and_shared_hosts.md). -/
def HAT_GRACE (a : Nat) : Nat := 0x380020 + a * 0x8
/-- HAT_LBL_CTL (spec/15_hats_and_shared_hosts.md). -/
def HAT_LBL_CTL : Nat := 0x380040
/-- HST_CTL (spec/16_host_ports.md). -/
def HST_CTL (a : Nat) : Nat := 0xc0000 + a * 0x10000
/-- HST_STATUS (spec/16_host_ports.md). -/
def HST_STATUS (a : Nat) : Nat := 0xc0008 + a * 0x10000
/-- HST_SLOT (spec/16_host_ports.md). -/
def HST_SLOT (a : Nat) : Nat := 0xc0010 + a * 0x10000
/-- HST_ERR (spec/16_host_ports.md). -/
def HST_ERR (a : Nat) : Nat := 0xc0018 + a * 0x10000
/-- HST_INTX (spec/16_host_ports.md). -/
def HST_INTX (a : Nat) : Nat := 0xc0020 + a * 0x10000
/-- HST_FNf_BAR4 (spec/16_host_ports.md). -/
def HST_FN_BAR4 (a b : Nat) : Nat := 0xc0100 + a * 0x10000 + b * 0x8
/-- SEC_STATUS (spec/17_trust.md). -/
def SEC_STATUS : Nat := 0x1e00000
/-- SEC_FUSE (spec/17_trust.md). -/
def SEC_FUSE : Nat := 0x1e00008
/-- SEC_COUNT (spec/17_trust.md). -/
def SEC_COUNT : Nat := 0x1e00010
/-- SEC_UPD_SRC (spec/17_trust.md). -/
def SEC_UPD_SRC : Nat := 0x1e00018
/-- SEC_UPD_CTL (spec/17_trust.md). -/
def SEC_UPD_CTL : Nat := 0x1e00020
/-- SEC_RPT (spec/17_trust.md). -/
def SEC_RPT : Nat := 0x1e00028
/-- PWR_STATUS (spec/18_power_heat_wear.md). -/
def PWR_STATUS : Nat := 0x1c00000
/-- PWR_CAP (spec/18_power_heat_wear.md). -/
def PWR_CAP : Nat := 0x1c00008
/-- PWR_PARTp (spec/18_power_heat_wear.md). -/
def PWR_PART (a : Nat) : Nat := 0x1c00100 + a * 0x8
/-- PWR_DOMd_CTL (spec/18_power_heat_wear.md). -/
def PWR_DOM_CTL (a : Nat) : Nat := 0x1c00200 + a * 0x10
/-- PWR_DOMd_STATUS (spec/18_power_heat_wear.md). -/
def PWR_DOM_STATUS (a : Nat) : Nat := 0x1c00208 + a * 0x10
/-- PWR_TEMP (spec/18_power_heat_wear.md). -/
def PWR_TEMP : Nat := 0x1c00400
/-- PWR_RAILk (spec/18_power_heat_wear.md). -/
def PWR_RAIL (a : Nat) : Nat := 0x1c00500 + a * 0x8
/-- PWR_PKG_ENERGY (spec/18_power_heat_wear.md). -/
def PWR_PKG_ENERGY : Nat := 0x1c00600
/-- PWR_UNATTR_ENERGY (spec/18_power_heat_wear.md). -/
def PWR_UNATTR_ENERGY : Nat := 0x1c00608
/-- PWR_PARTp_ENERGY (spec/18_power_heat_wear.md). -/
def PWR_PART_ENERGY (a : Nat) : Nat := 0x1c00700 + a * 0x8
/-- PWR_HATh_ENERGY (spec/18_power_heat_wear.md). -/
def PWR_HAT_ENERGY (a : Nat) : Nat := 0x1c01000 + a * 0x8
/-- TST_CTL (spec/20_test.md). -/
def TST_CTL : Nat := 0x1f00000
/-- TST_LTEST_CTL (spec/20_test.md). -/
def TST_LTEST_CTL : Nat := 0x1f00100
/-- TST_LTEST_PATk (spec/20_test.md). -/
def TST_LTEST_PAT (a : Nat) : Nat := 0x1f00108 + a * 0x8
/-- TST_LTEST_STAT (spec/20_test.md). -/
def TST_LTEST_STAT : Nat := 0x1f00118
/-- TST_SPARE (spec/20_test.md). -/
def TST_SPARE : Nat := 0x1f00120

end Reg

namespace Fl

def HUB_ID_PART : Fld := ⟨48, 16⟩
def HUB_ID_HUB_REV : Fld := ⟨40, 8⟩
def HUB_ID_GRADE : Fld := ⟨32, 8⟩
def HUB_ID_SERIAL : Fld := ⟨0, 32⟩
def HUB_POPULATION_SITE_EN : Fld := ⟨48, 16⟩
def HUB_POPULATION_STACK_EN : Fld := ⟨32, 12⟩
def HUB_POPULATION_SITE_KIND : Fld := ⟨0, 32⟩
def HUB_TIMESTAMP_COUNT : Fld := ⟨0, 64⟩
def HUB_CAPACITY_CHANNELS : Fld := ⟨32, 8⟩
def HUB_CAPACITY_CAP_MIB : Fld := ⟨0, 32⟩
def HUB_PART_DOWN_EVENT : Fld := ⟨16, 16⟩
def HUB_PART_DOWN_DOWN : Fld := ⟨0, 16⟩
def HUB_PART_CAUSE_CAUSE : Fld := ⟨56, 8⟩
def HUB_PART_CAUSE_SITE : Fld := ⟨52, 4⟩
def HUB_PART_CAUSE_WELL : Fld := ⟨48, 4⟩
def HUB_PART_CAUSE_X : Fld := ⟨44, 4⟩
def HUB_PART_CAUSE_Y : Fld := ⟨40, 4⟩
def HUB_PART_CAUSE_TIME : Fld := ⟨0, 40⟩
def HUB_BRINGUP_STEP : Fld := ⟨60, 4⟩
def HUB_BRINGUP_READY : Fld := ⟨59, 1⟩
def HUB_BRINGUP_FAILED : Fld := ⟨58, 1⟩
def HUB_BRINGUP_CAUSE : Fld := ⟨54, 4⟩
def HUB_BRINGUP_IMG_CODE : Fld := ⟨46, 8⟩
def HUB_BRINGUP_IMG_NONE : Fld := ⟨45, 1⟩
def HUB_BRINGUP_LIST_APPLIED : Fld := ⟨28, 12⟩
def HUB_BRINGUP_READY_US : Fld := ⟨0, 28⟩
def HUB_REPAIR_BURNED : Fld := ⟨48, 16⟩
def HUB_REPAIR_TRANSIENT : Fld := ⟨32, 16⟩
def HUB_REPAIR_FUSED_OFF : Fld := ⟨16, 16⟩
def HUB_REPAIR_UNBURNED : Fld := ⟨0, 16⟩
def HUB_UNIT_RESET_GO : Fld := ⟨63, 1⟩
def HUB_UNIT_RESET_BUSY : Fld := ⟨62, 1⟩
def HUB_UNIT_RESET_DONE : Fld := ⟨61, 1⟩
def HUB_UNIT_RESET_CODE : Fld := ⟨53, 8⟩
def HUB_UNIT_RESET_KIND : Fld := ⟨51, 2⟩
def HUB_UNIT_RESET_UNIT : Fld := ⟨45, 6⟩
def HUB_PART_RESET_GO : Fld := ⟨63, 1⟩
def HUB_PART_RESET_PART : Fld := ⟨59, 4⟩
def HUB_PART_RESET_BUSY : Fld := ⟨58, 1⟩
def HUB_PART_RESET_DONE : Fld := ⟨57, 1⟩
def HUB_PART_RESET_STEP : Fld := ⟨54, 3⟩
def HUB_PART_RESET_CODE : Fld := ⟨46, 8⟩
def HUB_PART_RESET_ACTIVE : Fld := ⟨30, 16⟩
def HUB_PART_RESET_CAUSE_DURING : Fld := ⟨14, 16⟩
def HUB_PKG_RESET_GO : Fld := ⟨63, 1⟩
def HUB_PKG_RESET_KEY : Fld := ⟨32, 16⟩
def HUB_RESET_CAUSE_LAST : Fld := ⟨60, 4⟩
def HUB_RESET_CAUSE_COUNT : Fld := ⟨0, 32⟩
def HUB_SPARE_P0_USED : Fld := ⟨63, 1⟩
def HUB_SPARE_P0_FOR : Fld := ⟨57, 6⟩
def HUB_SPARE_P1_USED : Fld := ⟨56, 1⟩
def HUB_SPARE_P1_FOR : Fld := ⟨50, 6⟩
def HUB_SPARE_WK_USED : Fld := ⟨49, 1⟩
def HUB_SPARE_WK_FOR : Fld := ⟨44, 5⟩
def MON_TMG_CTL_RISE_MAX : Fld := ⟨8, 4⟩
def MON_TMG_CTL_GUARD : Fld := ⟨0, 3⟩
def MON_RECAL_REGION : Fld := ⟨0, 16⟩
def MON_TMG_REGION_TRIPS : Fld := ⟨32, 32⟩
def MON_TMG_REGION_RAISES : Fld := ⟨24, 8⟩
def MON_TMG_REGION_STATE : Fld := ⟨21, 3⟩
def MON_TMG_REGION_RECAL_SKIPPED : Fld := ⟨20, 1⟩
def MON_TMG_REGION_RECAL_DONE : Fld := ⟨19, 1⟩
def MON_TMG_REGION_MARGIN : Fld := ⟨18, 1⟩
def MON_TMG_REGION_CEILING : Fld := ⟨10, 5⟩
def MON_TMG_REGION_CODE : Fld := ⟨5, 5⟩
def MON_TMG_REGION_BASELINE : Fld := ⟨0, 5⟩
def MON_WEAR_REMAIN_H : Fld := ⟨32, 32⟩
def MON_WEAR_LIMIT : Fld := ⟨28, 4⟩
def MON_WEAR_CONSUMED : Fld := ⟨0, 16⟩
def MON_WEAR_BAND_LOW_H : Fld := ⟨32, 32⟩
def MON_WEAR_BAND_HIGH_H : Fld := ⟨0, 32⟩
def MON_WEAR_MECH_CONSUMED : Fld := ⟨48, 16⟩
def MON_WEAR_MECH_REMAIN_H : Fld := ⟨16, 32⟩
def MON_WEAR_REGION_DRIFT : Fld := ⟨48, 16⟩
def MON_WEAR_REGION_FIRST : Fld := ⟨43, 5⟩
def MON_WEAR_REGION_EM : Fld := ⟨16, 16⟩
def CFG_GEN_BUSY : Fld := ⟨63, 1⟩
def CFG_GEN_GEN : Fld := ⟨0, 63⟩
def CFG_STATE_DIGEST_DIGEST : Fld := ⟨0, 64⟩
def CFG_EXPORT_GO : Fld := ⟨63, 1⟩
def CFG_EXPORT_EXP_BUSY : Fld := ⟨62, 1⟩
def CFG_EXPORT_DST : Fld := ⟨3, 54⟩
def CFG_EXPORT_LEN_LEN : Fld := ⟨0, 20⟩
def CFG_SLOT_CMD_OP : Fld := ⟨0, 4⟩
def CFG_SLOT_SRC_ADDR : Fld := ⟨3, 54⟩
def CFG_SLOT_LEN_LEN : Fld := ⟨0, 20⟩
def CFG_SLOT_EXPECT_GEN : Fld := ⟨0, 63⟩
def CFG_SLOT_STATUS_OWNER : Fld := ⟨54, 10⟩
def CFG_SLOT_STATUS_STATE : Fld := ⟨51, 3⟩
def CFG_SLOT_STATUS_DONE : Fld := ⟨50, 1⟩
def CFG_SLOT_STATUS_CODE : Fld := ⟨40, 8⟩
def CFG_SLOT_STATUS_RULE : Fld := ⟨34, 6⟩
def CFG_SLOT_STATUS_OFFSET : Fld := ⟨14, 20⟩
def CFG_SLOT_STATUS_CARRY : Fld := ⟨5, 9⟩
def CFG_SLOT_TOUCH_LIVE : Fld := ⟨17, 1⟩
def CFG_SLOT_TOUCH_PACKAGE : Fld := ⟨16, 1⟩
def CFG_SLOT_TOUCH_PARTS : Fld := ⟨0, 16⟩
def CFG_SLOT_VIEW_ADDR_OFFSET : Fld := ⟨3, 23⟩
def CFG_SLOT_VIEW_DATA_VALUE : Fld := ⟨0, 64⟩
def NOC_CTL_LABEL_HI : Fld := ⟨0, 8⟩
def NOC_BYPASS_VALID : Fld := ⟨15, 1⟩
def NOC_BYPASS_FUSED : Fld := ⟨14, 1⟩
def NOC_BYPASS_DIR : Fld := ⟨12, 2⟩
def NOC_BYPASS_X : Fld := ⟨8, 4⟩
def NOC_BYPASS_Y : Fld := ⟨4, 4⟩
def NOC_HDR_ERR_CORRECTED : Fld := ⟨32, 32⟩
def NOC_HDR_ERR_UNCORR : Fld := ⟨31, 1⟩
def NOC_HDR_ERR_PLANE : Fld := ⟨28, 3⟩
def NOC_HDR_ERR_X : Fld := ⟨24, 4⟩
def NOC_HDR_ERR_Y : Fld := ⟨20, 4⟩
def NOC_HDR_RAW_RAW : Fld := ⟨0, 64⟩
def NOC_WAKE_STAT_WAKES : Fld := ⟨32, 32⟩
def NOC_WAKE_STAT_FULL_STALLS : Fld := ⟨0, 32⟩
def NOC_LTEST_CTL_GO : Fld := ⟨63, 1⟩
def NOC_LTEST_CTL_STOP : Fld := ⟨62, 1⟩
def NOC_LTEST_CTL_BUSY : Fld := ⟨61, 1⟩
def NOC_LTEST_CTL_REFUSED : Fld := ⟨60, 1⟩
def NOC_LTEST_CTL_LEN : Fld := ⟨40, 6⟩
def NOC_LTEST_CTL_PATTERN : Fld := ⟨36, 4⟩
def NOC_LTEST_CTL_PLANE : Fld := ⟨33, 3⟩
def NOC_LTEST_CTL_DIR : Fld := ⟨31, 2⟩
def NOC_LTEST_CTL_X : Fld := ⟨27, 4⟩
def NOC_LTEST_CTL_Y : Fld := ⟨23, 4⟩
def NOC_LTEST_PAT_PAT : Fld := ⟨0, 64⟩
def NOC_LTEST_STAT_ERR_BITS : Fld := ⟨32, 32⟩
def NOC_LTEST_STAT_ERR_WORDS : Fld := ⟨0, 32⟩
def GLV_CTL_RESET : Fld := ⟨63, 1⟩
def GLV_CTL_FORCE : Fld := ⟨62, 1⟩
def GLV_CTL_FLUSH : Fld := ⟨61, 1⟩
def GLV_CTL_MAX_RATE : Fld := ⟨0, 2⟩
def GLV_STATUS_STATE : Fld := ⟨61, 3⟩
def GLV_STATUS_FLUSHED : Fld := ⟨60, 1⟩
def GLV_STATUS_DEGRADED : Fld := ⟨59, 1⟩
def GLV_STATUS_LINK_LOST : Fld := ⟨58, 1⟩
def GLV_STATUS_PROTO_ERR : Fld := ⟨57, 1⟩
def GLV_STATUS_RESET_FAILED : Fld := ⟨56, 1⟩
def GLV_STATUS_RESET_DONE : Fld := ⟨55, 1⟩
def GLV_STATUS_FLUSH_DONE : Fld := ⟨54, 1⟩
def GLV_STATUS_REASON : Fld := ⟨50, 4⟩
def GLV_STATUS_RATE : Fld := ⟨48, 2⟩
def GLV_STATUS_VER_MAJ : Fld := ⟨44, 4⟩
def GLV_STATUS_VER_MIN : Fld := ⟨40, 4⟩
def GLV_STATUS_HATSET_DENIED : Fld := ⟨39, 1⟩
def GLV_STATUS_THROTTLE : Fld := ⟨32, 3⟩
def GLV_STATUS_ABSORBED : Fld := ⟨0, 32⟩
def GLV_FEATURES_LANES : Fld := ⟨32, 4⟩
def GLV_FEATURES_TILE_FMT : Fld := ⟨16, 16⟩
def GLV_FEATURES_CHANNELS : Fld := ⟨8, 8⟩
def GLV_FEATURES_FEATURES : Fld := ⟨0, 8⟩
def GLV_MODULES_LANE_REPAIRS : Fld := ⟨48, 16⟩
def GLV_MODULES_FAILED : Fld := ⟨30, 5⟩
def GLV_MODULES_IN_SERVICE : Fld := ⟨25, 5⟩
def GLV_MODULES_SPARE : Fld := ⟨20, 5⟩
def GLV_MODULES_MAP : Fld := ⟨0, 12⟩
def GLV_THROTTLE_HEAT : Fld := ⟨11, 1⟩
def GLV_THROTTLE_POWER : Fld := ⟨10, 1⟩
def GLV_THROTTLE_TIMING : Fld := ⟨9, 1⟩
def GLV_THROTTLE_LEVEL : Fld := ⟨3, 3⟩
def GLV_THROTTLE_SW_LEVEL : Fld := ⟨0, 3⟩
def GLV_TEMP_AGE : Fld := ⟨16, 16⟩
def GLV_TEMP_HOTTEST : Fld := ⟨0, 16⟩
def GLV_IDENT_VENDOR : Fld := ⟨48, 16⟩
def GLV_IDENT_PART : Fld := ⟨16, 32⟩
def GLV_ERR_RETRIES : Fld := ⟨32, 32⟩
def GLV_ERR_VIOLATIONS : Fld := ⟨16, 16⟩
def GLV_ERR_RECALS : Fld := ⟨0, 16⟩
def GLV_HATSET_ENTRY : Fld := ⟨0, 64⟩
def GLV_FIT_BYTES : Fld := ⟨0, 64⟩
def PRT_ID_PART : Fld := ⟨32, 32⟩
def PRT_ID_REV : Fld := ⟨16, 16⟩
def PRT_ID_CONTEXTS : Fld := ⟨8, 8⟩
def PRT_CLK_RATED_MHZ : Fld := ⟨32, 16⟩
def PRT_CLK_CAP_MHZ : Fld := ⟨16, 16⟩
def PRT_CLK_NOW_MHZ : Fld := ⟨0, 16⟩
def PRT_SRAM_BUFFERS : Fld := ⟨32, 8⟩
def PRT_SRAM_FREE_KIB : Fld := ⟨0, 32⟩
def PRT_POWER_POWER : Fld := ⟨48, 16⟩
def PRT_POWER_LEVEL : Fld := ⟨32, 3⟩
def PRT_POWER_HOTTEST : Fld := ⟨16, 16⟩
def PRT_POWER_HOT : Fld := ⟨0, 1⟩
def PRT_CTX_CTL_ENABLE : Fld := ⟨63, 1⟩
def PRT_CTX_CTL_HAT : Fld := ⟨53, 10⟩
def PRT_CTX_CTL_IRQ_VEC : Fld := ⟨42, 11⟩
def PRT_CTX_STATUS_STATE : Fld := ⟨61, 3⟩
def PRT_CTX_STATUS_INFLIGHT : Fld := ⟨53, 8⟩
def PRT_CTX_STATUS_NEXT_SEQ : Fld := ⟨37, 16⟩
def PRT_CTX_STATUS_SEQ_ERR : Fld := ⟨21, 16⟩
def PRT_CTX_STATUS_OVERRUN : Fld := ⟨5, 16⟩
def PRT_CTX_STATUS_DENIED : Fld := ⟨4, 1⟩
def PRT_CTX_PROG_GO : Fld := ⟨63, 1⟩
def PRT_CTX_PROG_STOP : Fld := ⟨62, 1⟩
def PRT_CTX_PROG_COUNT : Fld := ⟨49, 13⟩
def PRT_CTX_PROG_REPEAT : Fld := ⟨33, 16⟩
def PRT_CTX_PROG_ADDR_SEG : Fld := ⟨61, 3⟩
def PRT_CTX_PROG_ADDR_OFFSET : Fld := ⟨0, 57⟩
def PRT_CTX_PROG_DIGEST_DIGEST : Fld := ⟨0, 64⟩
def PRT_CTX_PROG_RUN_PASS : Fld := ⟨16, 16⟩
def PRT_CTX_PROG_RUN_RECORD : Fld := ⟨0, 16⟩
def VEC_STATUS_PARTITION : Fld := ⟨56, 8⟩
def VEC_STATUS_SPARES : Fld := ⟨48, 8⟩
def VEC_STATUS_CTX_ON : Fld := ⟨32, 4⟩
def VEC_STATUS_BOUND : Fld := ⟨16, 16⟩
def VEC_STATUS_FULL : Fld := ⟨0, 16⟩
def VEC_BKT_STAT_TILES : Fld := ⟨32, 32⟩
def VEC_BKT_STAT_ABSORBED : Fld := ⟨16, 16⟩
def VEC_BKT_STAT_POISONED : Fld := ⟨0, 16⟩
def VEC_KLOAD_SRC_ADDR : Fld := ⟨3, 54⟩
def VEC_KLOAD_GO : Fld := ⟨63, 1⟩
def VEC_KLOAD_FREE : Fld := ⟨62, 1⟩
def VEC_KLOAD_BUSY : Fld := ⟨61, 1⟩
def VEC_KLOAD_DONE : Fld := ⟨60, 1⟩
def VEC_KLOAD_CODE : Fld := ⟨52, 8⟩
def VEC_KLOAD_ENTRY : Fld := ⟨49, 3⟩
def VEC_KLOAD_LEN : Fld := ⟨33, 16⟩
def VEC_KLOAD_BASE : Fld := ⟨18, 15⟩
def VEC_KERNEL_VALID : Fld := ⟨63, 1⟩
def VEC_KERNEL_HAT : Fld := ⟨53, 10⟩
def VEC_KERNEL_LEN : Fld := ⟨37, 16⟩
def VEC_KERNEL_BASE : Fld := ⟨22, 15⟩
def VEC_KERNEL_LOADS : Fld := ⟨0, 22⟩
def VEC_KERNEL_DIGEST_DIGEST : Fld := ⟨0, 64⟩
def VEC_TREG_BIND : Fld := ⟨63, 1⟩
def VEC_TREG_BKT : Fld := ⟨62, 1⟩
def VEC_TREG_SHARE : Fld := ⟨61, 1⟩
def VEC_TREG_CTX : Fld := ⟨59, 2⟩
def VEC_TREG_SITE : Fld := ⟨55, 4⟩
def VEC_TREG_LANE : Fld := ⟨53, 2⟩
def VEC_TREG_HAT : Fld := ⟨43, 10⟩
def VEC_TREG_PENDING : Fld := ⟨42, 1⟩
def VEC_TREG_STATE : Fld := ⟨39, 3⟩
def VEC_TREG_FMT : Fld := ⟨37, 2⟩
def VEC_TREG_ROWS : Fld := ⟨30, 7⟩
def VEC_TREG_COLS : Fld := ⟨23, 7⟩
def VEC_TREG_TILE_ID : Fld := ⟨11, 12⟩
def VEC_TREG_POISON_ROWS : Fld := ⟨3, 8⟩
def VEC_CTX_CTL_ENABLE : Fld := ⟨63, 1⟩
def VEC_CTX_CTL_HAT : Fld := ⟨53, 10⟩
def VEC_CTX_CTL_IRQ_VEC : Fld := ⟨42, 11⟩
def VEC_CTX_CTL_POISON_TRAP : Fld := ⟨41, 1⟩
def VEC_CTX_CTL_TAIL : Fld := ⟨40, 1⟩
def VEC_CTX_CTL_RMODE : Fld := ⟨37, 3⟩
def VEC_CTX_CTL_LDM_SIZE : Fld := ⟨29, 8⟩
def VEC_CTX_CTL_LDM_BASE : Fld := ⟨22, 7⟩
def VEC_CTX_START_GO : Fld := ⟨63, 1⟩
def VEC_CTX_START_KERNEL : Fld := ⟨15, 3⟩
def VEC_CTX_START_ENTRY : Fld := ⟨0, 15⟩
def VEC_CTX_STATUS_STATE : Fld := ⟨61, 3⟩
def VEC_CTX_STATUS_FAULT : Fld := ⟨57, 4⟩
def VEC_CTX_STATUS_PC : Fld := ⟨42, 15⟩
def VEC_CTX_STATUS_DENIED : Fld := ⟨41, 1⟩
def VEC_CTX_STATUS_DONE : Fld := ⟨40, 1⟩
def VEC_CTX_STATUS_CODE : Fld := ⟨32, 8⟩
def VEC_CTX_STATUS_EXIT : Fld := ⟨0, 32⟩
def VEC_CTX_FLAGS_STORE_ERR : Fld := ⟨7, 1⟩
def VEC_CTX_FLAGS_PSN : Fld := ⟨6, 1⟩
def VEC_CTX_FLAGS_SAT : Fld := ⟨5, 1⟩
def VEC_CTX_FLAGS_NX : Fld := ⟨4, 1⟩
def VEC_CTX_FLAGS_UF : Fld := ⟨3, 1⟩
def VEC_CTX_FLAGS_OF : Fld := ⟨2, 1⟩
def VEC_CTX_FLAGS_DZ : Fld := ⟨1, 1⟩
def VEC_CTX_FLAGS_NV : Fld := ⟨0, 1⟩
def VEC_CTX_ARG_VALUE : Fld := ⟨0, 64⟩
def VEC_RED_JOBS : Fld := ⟨32, 32⟩
def VEC_RED_QUEUED_B : Fld := ⟨8, 4⟩
def VEC_RED_QUEUED_A : Fld := ⟨4, 4⟩
def TRG_CTL_CMD : Fld := ⟨60, 4⟩
def TRG_CTL_STATE : Fld := ⟨57, 3⟩
def TRG_CTL_RNG_WAIT : Fld := ⟨56, 1⟩
def TRG_CTL_DENIED : Fld := ⟨55, 1⟩
def TRG_CTL_ARM_FAIL : Fld := ⟨54, 1⟩
def TRG_CTL_CODE : Fld := ⟨46, 8⟩
def TRG_CFG_ELEMS : Fld := ⟨35, 29⟩
def TRG_CFG_WELL : Fld := ⟨31, 4⟩
def TRG_CFG_ACC_OFF : Fld := ⟨17, 14⟩
def TRG_CFG_RULE : Fld := ⟨16, 1⟩
def TRG_CFG_K : Fld := ⟨9, 7⟩
def TRG_CFG_QEXP : Fld := ⟨1, 8⟩
def TRG_PARAM_CLIP : Fld := ⟨32, 32⟩
def TRG_PARAM_SIGMA : Fld := ⟨0, 32⟩
def TRG_QUOTA_QUOTA : Fld := ⟨0, 16⟩
def TRG_DEADLINE_TIME : Fld := ⟨0, 64⟩
def TRG_STATUS_COMPLETE : Fld := ⟨57, 7⟩
def TRG_STATUS_ACTIVE : Fld := ⟨50, 7⟩
def TRG_STATUS_ACCEPTED : Fld := ⟨28, 22⟩
def TRG_STATUS_CLIPPED : Fld := ⟨6, 22⟩
def TRG_EXPORT_GO : Fld := ⟨63, 1⟩
def TRG_EXPORT_BUSY : Fld := ⟨62, 1⟩
def TRG_EXPORT_DONE : Fld := ⟨61, 1⟩
def TRG_EXPORT_CODE : Fld := ⟨53, 8⟩
def TRG_EXPORT_FIRST : Fld := ⟨25, 28⟩
def TRG_EXPORT_COUNT : Fld := ⟨0, 25⟩
def TRG_EXPORT_DST_ADDR : Fld := ⟨3, 54⟩
def TRG_MEMBER_VALID : Fld := ⟨63, 1⟩
def TRG_MEMBER_COMPLETE : Fld := ⟨62, 1⟩
def TRG_MEMBER_EJECTED : Fld := ⟨61, 1⟩
def TRG_MEMBER_PACKAGE : Fld := ⟨51, 10⟩
def TRG_MEMBER_HAT : Fld := ⟨41, 10⟩
def TRG_MEMBER_CLOSED : Fld := ⟨25, 16⟩
def TRG_RNG_RESEEDS : Fld := ⟨32, 32⟩
def TRG_RNG_FAIL : Fld := ⟨1, 1⟩
def TRG_RNG_READY : Fld := ⟨0, 1⟩
def WEL_STATUS_PARTITION : Fld := ⟨56, 8⟩
def WEL_STATUS_STATE : Fld := ⟨53, 3⟩
def WEL_STATUS_CLEARING : Fld := ⟨52, 1⟩
def WEL_STATUS_REFRESH_2X : Fld := ⟨51, 1⟩
def WEL_STATUS_HEAT : Fld := ⟨50, 1⟩
def WEL_STATUS_PACE : Fld := ⟨49, 1⟩
def WEL_STATUS_CH_FAIL : Fld := ⟨48, 1⟩
def WEL_STATUS_STACK_TEMP : Fld := ⟨16, 16⟩
def WEL_STATUS_CLEAR_PENDING : Fld := ⟨0, 16⟩
def WEL_CAP_CAP_MIB : Fld := ⟨48, 16⟩
def WEL_CAP_RESERVE_MIB : Fld := ⟨32, 16⟩
def WEL_CAP_SHARES_KIB : Fld := ⟨0, 32⟩
def WEL_CHAN_FUSED : Fld := ⟨48, 16⟩
def WEL_CHAN_MAPPED : Fld := ⟨32, 16⟩
def WEL_CHAN_FAILED : Fld := ⟨16, 16⟩
def WEL_CHAN_IN_SERVICE : Fld := ⟨0, 16⟩
def WEL_CTL_WB_INV : Fld := ⟨63, 1⟩
def WEL_CTL_WB_BUSY : Fld := ⟨62, 1⟩
def WEL_CTL_WB_DONE : Fld := ⟨61, 1⟩
def WEL_CTL_SCRUB_OFF : Fld := ⟨60, 1⟩
def WEL_ERR_HUB_CORR : Fld := ⟨48, 16⟩
def WEL_ERR_STACK_CORR : Fld := ⟨32, 16⟩
def WEL_ERR_UNCORR : Fld := ⟨16, 16⟩
def WEL_ERR_TAG_CORR : Fld := ⟨0, 16⟩
def WEL_ERR_ADDR_VALID : Fld := ⟨63, 1⟩
def WEL_ERR_ADDR_SOURCE : Fld := ⟨60, 3⟩
def WEL_ERR_ADDR_WL_ADDR : Fld := ⟨0, 47⟩
def WEL_HC_SPARE_USED : Fld := ⟨56, 8⟩
def WEL_HC_DISABLED : Fld := ⟨48, 8⟩
def WEL_WC_MERGE_READS : Fld := ⟨32, 32⟩
def WEL_WC_OCCUPANCY : Fld := ⟨0, 9⟩
def WEL_DIR_SNOOPS : Fld := ⟨40, 24⟩
def WEL_DIR_RECALLS : Fld := ⟨24, 16⟩
def WEL_DIR_ENTRIES : Fld := ⟨0, 22⟩
def XLT_WALK_STAT_WALKS : Fld := ⟨32, 32⟩
def XLT_WALK_STAT_FAULTS : Fld := ⟨0, 32⟩
def XLT_FQ_BASE_ADDR : Fld := ⟨12, 45⟩
def XLT_FQ_HEAD_ADDR_ADDR : Fld := ⟨3, 54⟩
def XLT_FQ_CTL_ENABLE : Fld := ⟨63, 1⟩
def XLT_FQ_CTL_OWNER : Fld := ⟨53, 10⟩
def XLT_FQ_CTL_IRQ_VEC : Fld := ⟨42, 11⟩
def XLT_FQ_CTL_SIZE : Fld := ⟨38, 4⟩
def XLT_FQ_STATUS_TAIL : Fld := ⟨32, 32⟩
def XLT_FQ_STATUS_OVERFLOW : Fld := ⟨31, 1⟩
def XLT_FQ_STATUS_DENIED : Fld := ⟨30, 1⟩
def XLT_FQ_STATUS_PARKED : Fld := ⟨20, 10⟩
def XLT_FQ_STATUS_OVF_COUNT : Fld := ⟨0, 20⟩
def XLT_FQ_RESP_ACTION : Fld := ⟨62, 2⟩
def XLT_FQ_RESP_FID : Fld := ⟨0, 16⟩
def XLT_CTX_CTL_ENABLE : Fld := ⟨63, 1⟩
def XLT_CTX_CTL_HAT : Fld := ⟨53, 10⟩
def XLT_CTX_CTL_FQ : Fld := ⟨49, 4⟩
def XLT_CTX_CTL_DENIED : Fld := ⟨48, 1⟩
def XLT_CTX_ROOT_ADDR : Fld := ⟨12, 35⟩
def XLT_CTX_EPOCH_BUMP : Fld := ⟨63, 1⟩
def XLT_CTX_EPOCH_BUSY : Fld := ⟨62, 1⟩
def XLT_CTX_EPOCH_DONE : Fld := ⟨61, 1⟩
def XLT_CTX_EPOCH_EPOCH : Fld := ⟨0, 16⟩
def XLT_GSEG_CTL_VALID : Fld := ⟨63, 1⟩
def XLT_GSEG_CTL_R : Fld := ⟨62, 1⟩
def XLT_GSEG_CTL_W : Fld := ⟨61, 1⟩
def XLT_GSEG_CTL_A : Fld := ⟨60, 1⟩
def XLT_GSEG_CTL_SPAN : Fld := ⟨59, 1⟩
def XLT_GSEG_CTL_PAGED : Fld := ⟨58, 1⟩
def XLT_GSEG_CTL_MALFORMED : Fld := ⟨57, 1⟩
def XLT_GSEG_CTL_CTX : Fld := ⟨0, 8⟩
def XLT_VSEG_CTL_VALID : Fld := ⟨63, 1⟩
def XLT_VSEG_CTL_R : Fld := ⟨62, 1⟩
def XLT_VSEG_CTL_W : Fld := ⟨61, 1⟩
def XLT_VSEG_CTL_A : Fld := ⟨60, 1⟩
def XLT_VSEG_CTL_SPAN : Fld := ⟨59, 1⟩
def XLT_VSEG_CTL_PAGED : Fld := ⟨58, 1⟩
def XLT_VSEG_CTL_MALFORMED : Fld := ⟨57, 1⟩
def XLT_VSEG_CTL_CTX : Fld := ⟨0, 8⟩
def XLT_GSEG_BASE_BASE : Fld := ⟨12, 45⟩
def XLT_VSEG_BASE_BASE : Fld := ⟨12, 45⟩
def XLT_GSEG_LIMIT_LIMIT : Fld := ⟨12, 46⟩
def XLT_VSEG_LIMIT_LIMIT : Fld := ⟨12, 46⟩
def XLT_GSEG_OFFSET_OFFSET : Fld := ⟨12, 45⟩
def XLT_VSEG_OFFSET_OFFSET : Fld := ⟨12, 45⟩
def PMP_STATUS_PARTITION : Fld := ⟨56, 8⟩
def PMP_STATUS_STATE : Fld := ⟨53, 3⟩
def PMP_STATUS_HELD : Fld := ⟨46, 7⟩
def PMP_STATUS_PIECES : Fld := ⟨41, 5⟩
def PMP_COUNT_DONE : Fld := ⟨32, 32⟩
def PMP_COUNT_ERRORS : Fld := ⟨0, 32⟩
def PMP_BYTES_BYTES : Fld := ⟨0, 64⟩
def PMP_INTAKE_CTL_ENABLE : Fld := ⟨63, 1⟩
def PMP_INTAKE_CTL_HAT : Fld := ⟨53, 10⟩
def PMP_INTAKE_CTL_PUMP : Fld := ⟨47, 6⟩
def PMP_INTAKE_CTL_IRQ_VEC : Fld := ⟨36, 11⟩
def PMP_INTAKE_CTL_IRQ_HOLDOFF : Fld := ⟨28, 8⟩
def PMP_INTAKE_CPL_ADDR : Fld := ⟨12, 45⟩
def PMP_INTAKE_STATUS_NEXT_SEQ : Fld := ⟨48, 16⟩
def PMP_INTAKE_STATUS_BUSY : Fld := ⟨41, 7⟩
def PMP_INTAKE_STATUS_CLOSING : Fld := ⟨40, 1⟩
def PMP_INTAKE_STATUS_DENIED : Fld := ⟨39, 1⟩
def PMP_INTAKE_STATUS_OVERRUN : Fld := ⟨31, 8⟩
def PMP_INTAKE_STATUS_SEQ_ERR : Fld := ⟨15, 16⟩
def PMP_KEY_STATE : Fld := ⟨62, 2⟩
def PMP_KEY_REVOKE : Fld := ⟨61, 1⟩
def PMP_KEY_TENANT : Fld := ⟨45, 16⟩
def PMP_KEY_PAGES : Fld := ⟨0, 32⟩
def PMP_WSET_VALID : Fld := ⟨63, 1⟩
def PMP_WSET_RESET : Fld := ⟨62, 1⟩
def PMP_WSET_INCOMPLETE : Fld := ⟨61, 1⟩
def PMP_WSET_HAT : Fld := ⟨51, 10⟩
def PMP_WSET_COUNT : Fld := ⟨35, 16⟩
def PMP_WSET_DENIED : Fld := ⟨34, 1⟩
def PMP_WSET_BYTES_BYTES : Fld := ⟨0, 64⟩
def PMP_WSET_DIGEST_DIGEST : Fld := ⟨0, 64⟩
def PMP_REMOVE_GO : Fld := ⟨63, 1⟩
def PMP_REMOVE_BUSY : Fld := ⟨62, 1⟩
def PMP_REMOVE_DONE : Fld := ⟨61, 1⟩
def PMP_REMOVE_STEP : Fld := ⟨58, 3⟩
def PMP_REMOVE_HAT : Fld := ⟨48, 10⟩
def PMP_REMOVE_DENIED : Fld := ⟨47, 1⟩
def SPN_CTL_TIMEOUT_US : Fld := ⟨57, 7⟩
def SPN_CTL_RTO : Fld := ⟨50, 7⟩
def SPN_CTL_RETRY_MAX : Fld := ⟨46, 4⟩
def SPN_CTL_RLC_ENABLE : Fld := ⟨45, 1⟩
def SPN_CTL_VLAN_EN : Fld := ⟨44, 1⟩
def SPN_CTL_VID : Fld := ⟨32, 12⟩
def SPN_CTL_MTU : Fld := ⟨18, 14⟩
def SPN_ID_OWN_ID : Fld := ⟨54, 10⟩
def SPN_ID_VALID : Fld := ⟨53, 1⟩
def SPN_ID_ENCAP : Fld := ⟨52, 1⟩
def SPN_ID_DUP_ID : Fld := ⟨51, 1⟩
def SPN_ID_INCARN : Fld := ⟨0, 32⟩
def SPN_DISC_CONVERGED : Fld := ⟨63, 1⟩
def SPN_DISC_LISTED : Fld := ⟨53, 10⟩
def SPN_DISC_UP : Fld := ⟨43, 10⟩
def SPN_DISC_DOWN : Fld := ⟨33, 10⟩
def SPN_DISC_HELLO_MS : Fld := ⟨25, 8⟩
def SPN_RLC_HITS : Fld := ⟨32, 32⟩
def SPN_RLC_MISSES : Fld := ⟨0, 32⟩
def SPN_OWN_IP_ADDR : Fld := ⟨0, 64⟩
def SPN_MAC_BASE : Fld := ⟨0, 48⟩
def SPN_DROP_DOMAIN : Fld := ⟨48, 16⟩
def SPN_DROP_UNLISTED : Fld := ⟨32, 16⟩
def SPN_DROP_BAD_INCARN : Fld := ⟨16, 16⟩
def SPN_DROP_FCS : Fld := ⟨0, 16⟩
def SPN_QUAD_MODE : Fld := ⟨62, 2⟩
def SPN_QUAD_MEDIA : Fld := ⟨60, 2⟩
def SPN_QUAD_UP : Fld := ⟨56, 4⟩
def SPN_QUAD_FEC_CORR : Fld := ⟨0, 32⟩
def SPN_LANE_SPARE0_USED : Fld := ⟨63, 1⟩
def SPN_LANE_SPARE1_USED : Fld := ⟨62, 1⟩
def SPN_LANE_SPARE0_FOR : Fld := ⟨56, 6⟩
def SPN_LANE_SPARE1_FOR : Fld := ⟨50, 6⟩
def SPN_LANE_FAILED : Fld := ⟨0, 50⟩
def SPN_GW_HOP_LIMIT : Fld := ⟨56, 8⟩
def SPN_GW_NEXT_MAC : Fld := ⟨0, 48⟩
def SPN_PEER_STATE : Fld := ⟨61, 3⟩
def SPN_PEER_PATHS : Fld := ⟨58, 3⟩
def SPN_PEER_ACTIVE : Fld := ⟨56, 2⟩
def SPN_PEER_ENGINE : Fld := ⟨53, 3⟩
def SPN_PEER_RETX : Fld := ⟨32, 21⟩
def SPN_PEER_INCARN : Fld := ⟨0, 32⟩
def SPN_PEER_IP_ADDR : Fld := ⟨0, 64⟩
def SPN_PEER_STAT_TIMEOUTS : Fld := ⟨32, 32⟩
def SPN_PEER_STAT_ABSORBED : Fld := ⟨0, 32⟩
def HAT_INFO_TENANT : Fld := ⟨48, 16⟩
def HAT_INFO_PARTITION : Fld := ⟨40, 8⟩
def HAT_INFO_VEC_LOG2 : Fld := ⟨36, 4⟩
def HAT_INFO_LABEL : Fld := ⟨33, 3⟩
def HAT_INFO_RIGHTS : Fld := ⟨0, 32⟩
def HAT_KEYS_KEY_COUNT : Fld := ⟨16, 9⟩
def HAT_KEYS_FIRST_KEY : Fld := ⟨0, 8⟩
def HAT_CTL_RESET : Fld := ⟨63, 1⟩
def HAT_CTL_STATE : Fld := ⟨60, 3⟩
def HAT_CTL_RESET_DONE : Fld := ⟨59, 1⟩
def HAT_CTL_BOUND : Fld := ⟨58, 1⟩
def HAT_CTL_PORT : Fld := ⟨32, 11⟩
def HAT_CTL_IRQ_DROPPED : Fld := ⟨0, 32⟩
def HAT_FALLBACK_BYTES : Fld := ⟨0, 64⟩
def HAT_PORT_VALID : Fld := ⟨63, 1⟩
def HAT_PORT_HAT : Fld := ⟨0, 10⟩
def HAT_REMOVE_GO : Fld := ⟨63, 1⟩
def HAT_REMOVE_BUSY : Fld := ⟨62, 1⟩
def HAT_REMOVE_DONE : Fld := ⟨61, 1⟩
def HAT_REMOVE_DENIED : Fld := ⟨60, 1⟩
def HAT_REMOVE_CLEAR : Fld := ⟨59, 1⟩
def HAT_REMOVE_SCOPE : Fld := ⟨57, 2⟩
def HAT_REMOVE_STEP : Fld := ⟨54, 3⟩
def HAT_REMOVE_QUEUED : Fld := ⟨50, 4⟩
def HAT_REMOVE_HAT : Fld := ⟨40, 10⟩
def HAT_REMOVE_TENANT : Fld := ⟨24, 16⟩
def HAT_REMOVE_CODE : Fld := ⟨16, 8⟩
def HAT_GRACE_GRACE_S : Fld := ⟨58, 6⟩
def HAT_GRACE_ORPHANS : Fld := ⟨48, 10⟩
def HAT_LBL_CTL_WINDOW_US : Fld := ⟨0, 8⟩
def HST_CTL_APT_HI : Fld := ⟨43, 21⟩
def HST_CTL_AUTO_PWR : Fld := ⟨42, 1⟩
def HST_CTL_AUTO_REBIND : Fld := ⟨41, 1⟩
def HST_CTL_L0P_EN : Fld := ⟨40, 1⟩
def HST_STATUS_PRSNT : Fld := ⟨63, 1⟩
def HST_STATUS_PERST : Fld := ⟨62, 1⟩
def HST_STATUS_LINK_UP : Fld := ⟨61, 1⟩
def HST_STATUS_READY : Fld := ⟨60, 1⟩
def HST_STATUS_RATE : Fld := ⟨57, 3⟩
def HST_STATUS_WIDTH : Fld := ⟨52, 5⟩
def HST_STATUS_FLIT : Fld := ⟨51, 1⟩
def HST_STATUS_PSTATE : Fld := ⟨48, 3⟩
def HST_STATUS_REMOVED : Fld := ⟨47, 1⟩
def HST_STATUS_ORDERLY : Fld := ⟨46, 1⟩
def HST_STATUS_PORT_RST : Fld := ⟨45, 1⟩
def HST_STATUS_D3COLD : Fld := ⟨44, 1⟩
def HST_STATUS_REBIND_PEND : Fld := ⟨32, 10⟩
def HST_STATUS_REMOVALS : Fld := ⟨0, 32⟩
def HST_SLOT_PWR_CMD : Fld := ⟨63, 1⟩
def HST_SLOT_PWR_GOOD : Fld := ⟨62, 1⟩
def HST_SLOT_PWR_FAULT : Fld := ⟨61, 1⟩
def HST_SLOT_PRSNT_CHG : Fld := ⟨60, 1⟩
def HST_SLOT_ATTN_BTN : Fld := ⟨59, 1⟩
def HST_SLOT_ATTN_IND : Fld := ⟨57, 2⟩
def HST_SLOT_PWR_IND : Fld := ⟨55, 2⟩
def HST_SLOT_BTN_PENDING : Fld := ⟨54, 1⟩
def HST_ERR_POISON_IN : Fld := ⟨48, 16⟩
def HST_ERR_POISON_OUT : Fld := ⟨32, 16⟩
def HST_ERR_CPL_TIMEOUT : Fld := ⟨16, 16⟩
def HST_ERR_ABSENT_DROPS : Fld := ⟨0, 16⟩
def HST_INTX_PENDING : Fld := ⟨63, 1⟩
def HST_INTX_LAST_VEC : Fld := ⟨52, 11⟩
def HST_INTX_COUNT : Fld := ⟨0, 32⟩
def HST_FN_BAR4_BASE : Fld := ⟨30, 17⟩
def SEC_STATUS_ACTIVE_SLOT : Fld := ⟨63, 1⟩
def SEC_STATUS_RUN_SLOT : Fld := ⟨62, 1⟩
def SEC_STATUS_PENDING : Fld := ⟨60, 2⟩
def SEC_STATUS_TRIES : Fld := ⟨58, 2⟩
def SEC_STATUS_UPD_STATE : Fld := ⟨56, 2⟩
def SEC_STATUS_SVN_FUSED : Fld := ⟨50, 6⟩
def SEC_STATUS_SVN_RUN : Fld := ⟨44, 6⟩
def SEC_STATUS_RECOVERY : Fld := ⟨43, 1⟩
def SEC_STATUS_NO_CERTS : Fld := ⟨42, 1⟩
def SEC_FUSE_REV_RSA : Fld := ⟨60, 4⟩
def SEC_FUSE_REV_SLH : Fld := ⟨56, 4⟩
def SEC_FUSE_RSA_IDX : Fld := ⟨54, 2⟩
def SEC_FUSE_SLH_IDX : Fld := ⟨52, 2⟩
def SEC_COUNT_PKG_RESETS : Fld := ⟨32, 32⟩
def SEC_COUNT_UPDATES : Fld := ⟨16, 16⟩
def SEC_COUNT_FALLBACKS : Fld := ⟨0, 16⟩
def SEC_UPD_SRC_ADDR : Fld := ⟨3, 54⟩
def SEC_UPD_CTL_CMD : Fld := ⟨60, 4⟩
def SEC_UPD_CTL_BUSY : Fld := ⟨59, 1⟩
def SEC_UPD_CTL_DONE : Fld := ⟨58, 1⟩
def SEC_UPD_CTL_CODE : Fld := ⟨50, 8⟩
def SEC_UPD_CTL_LEN : Fld := ⟨0, 23⟩
def SEC_RPT_REPORTS : Fld := ⟨32, 32⟩
def SEC_RPT_QUEUED : Fld := ⟨28, 4⟩
def SEC_RPT_RETAKES : Fld := ⟨20, 8⟩
def SEC_RPT_LAST_LEN : Fld := ⟨0, 20⟩
def PWR_STATUS_NOW_W : Fld := ⟨48, 16⟩
def PWR_STATUS_AVG_W : Fld := ⟨32, 16⟩
def PWR_STATUS_CAP_UNREACHABLE : Fld := ⟨31, 1⟩
def PWR_STATUS_ESCALATED : Fld := ⟨30, 1⟩
def PWR_STATUS_CLAMP : Fld := ⟨29, 1⟩
def PWR_STATUS_TELEM_FAIL : Fld := ⟨28, 1⟩
def PWR_STATUS_PACE : Fld := ⟨25, 3⟩
def PWR_STATUS_STAGE : Fld := ⟨23, 2⟩
def PWR_CAP_CAP_W : Fld := ⟨48, 16⟩
def PWR_CAP_FUSED_W : Fld := ⟨32, 16⟩
def PWR_CAP_ESC_VEC : Fld := ⟨21, 11⟩
def PWR_CAP_ESC_HAT : Fld := ⟨11, 10⟩
def PWR_CAP_UNMEASURED_W : Fld := ⟨0, 11⟩
def PWR_PART_CAP_W : Fld := ⟨48, 16⟩
def PWR_PART_AVG_W : Fld := ⟨32, 16⟩
def PWR_PART_UNREACH : Fld := ⟨31, 1⟩
def PWR_PART_PACE : Fld := ⟨28, 3⟩
def PWR_DOM_CTL_LOWEST : Fld := ⟨60, 4⟩
def PWR_DOM_CTL_HIGHEST : Fld := ⟨56, 4⟩
def PWR_DOM_CTL_IDLE : Fld := ⟨54, 2⟩
def PWR_DOM_CTL_TARGET : Fld := ⟨48, 4⟩
def PWR_DOM_CTL_IDLE_US : Fld := ⟨0, 32⟩
def PWR_DOM_STATUS_OP : Fld := ⟨60, 4⟩
def PWR_DOM_STATUS_FLOOR : Fld := ⟨56, 4⟩
def PWR_DOM_STATUS_STATE : Fld := ⟨53, 3⟩
def PWR_DOM_STATUS_HEAT_LIM : Fld := ⟨49, 4⟩
def PWR_DOM_STATUS_CAP_LIM : Fld := ⟨45, 4⟩
def PWR_DOM_STATUS_TIMING_OP : Fld := ⟨41, 4⟩
def PWR_DOM_STATUS_STEPS : Fld := ⟨0, 32⟩
def PWR_TEMP_HOTTEST : Fld := ⟨48, 16⟩
def PWR_TEMP_SENSOR : Fld := ⟨41, 7⟩
def PWR_TEMP_WARN : Fld := ⟨40, 1⟩
def PWR_TEMP_HEAT : Fld := ⟨39, 1⟩
def PWR_TEMP_PACE : Fld := ⟨38, 1⟩
def PWR_TEMP_TRIPS : Fld := ⟨0, 32⟩
def PWR_RAIL_MV : Fld := ⟨48, 16⟩
def PWR_RAIL_CURRENT : Fld := ⟨32, 16⟩
def PWR_RAIL_SET_MV : Fld := ⟨16, 16⟩
def PWR_RAIL_VALID : Fld := ⟨15, 1⟩
def PWR_RAIL_FAIL : Fld := ⟨14, 1⟩
def PWR_PKG_ENERGY_UJ : Fld := ⟨0, 64⟩
def PWR_UNATTR_ENERGY_UJ : Fld := ⟨0, 64⟩
def PWR_PART_ENERGY_UJ : Fld := ⟨0, 64⟩
def PWR_HAT_ENERGY_UJ : Fld := ⟨0, 64⟩
def TST_CTL_TEST_MODE : Fld := ⟨63, 1⟩
def TST_CTL_REFUSED : Fld := ⟨62, 1⟩
def TST_CTL_JTAG_BOUND : Fld := ⟨61, 1⟩
def TST_CTL_JTAG_HAT : Fld := ⟨51, 10⟩
def TST_LTEST_CTL_GO : Fld := ⟨63, 1⟩
def TST_LTEST_CTL_STOP : Fld := ⟨62, 1⟩
def TST_LTEST_CTL_BUSY : Fld := ⟨61, 1⟩
def TST_LTEST_CTL_REFUSED : Fld := ⟨60, 1⟩
def TST_LTEST_CTL_END : Fld := ⟨57, 3⟩
def TST_LTEST_CTL_LEN : Fld := ⟨40, 6⟩
def TST_LTEST_CTL_PATTERN : Fld := ⟨36, 4⟩
def TST_LTEST_CTL_KIND : Fld := ⟨33, 3⟩
def TST_LTEST_CTL_INDEX : Fld := ⟨24, 9⟩
def TST_LTEST_CTL_SUB : Fld := ⟨16, 8⟩
def TST_LTEST_CTL_MISSION : Fld := ⟨15, 1⟩
def TST_LTEST_PAT_PAT : Fld := ⟨0, 64⟩
def TST_LTEST_STAT_ERR_BITS : Fld := ⟨32, 32⟩
def TST_LTEST_STAT_ERR_WORDS : Fld := ⟨0, 32⟩
def TST_SPARE_LANE_SUSPECT : Fld := ⟨16, 4⟩
def TST_SPARE_MOD_SUSPECT : Fld := ⟨0, 16⟩

end Fl

namespace Regs

/-- The HUB_ registers. -/
def tblHUB : List RegDesc := [
  -- HUB_ID
  ⟨0x0, [],
   [fd 48 16 .ro 0x1632, fd 40 8 .ro 0xb0, fd 32 8 .ro 0xa, fd 0 32 .ro 0]⟩,
  -- HUB_POPULATION
  ⟨0x8, [],
   [fd 48 16 .ro 0xffff, fd 32 12 .ro 0xfff, fd 0 32 .ro 0x55555555]⟩,
  -- HUB_TIMESTAMP
  ⟨0x10, [],
   [fd 0 64 .ro 0]⟩,
  -- HUB_CAPACITY
  ⟨0x18, [],
   [fd 32 8 .ro 0, fd 0 32 .ro 0]⟩,
  -- HUB_PART_DOWN
  ⟨0x20, [],
   [fd 16 16 .w1c 0, fd 0 16 .ro 0]⟩,
  -- HUB_PART_CAUSE
  ⟨0x100, [(0x8, 16)],
   [fd 56 8 .ro 0, fd 52 4 .ro 0, fd 48 4 .ro 0, fd 44 4 .ro 0, fd 40 4 .ro 0, fd 0 40 .ro 0]⟩,
  -- HUB_BRINGUP
  ⟨0x28, [],
   [fd 60 4 .ro 0, fd 59 1 .ro 0, fd 58 1 .ro 0, fd 54 4 .ro 0, fd 46 8 .ro 0, fd 45 1 .ro 0, fd 28 12 .ro 0, fd 0 28 .ro 0]⟩,
  -- HUB_REPAIR
  ⟨0x30, [],
   [fd 48 16 .ro 0, fd 32 16 .ro 0, fd 16 16 .ro 0, fd 0 16 .ro 0]⟩,
  -- HUB_UNIT_RESET
  ⟨0x38, [],
   [fd 63 1 .wo 0, fd 62 1 .ro 0, fd 61 1 .w1c 0, fd 53 8 .ro 0, fd 51 2 .rw 0, fd 45 6 .rw 0]⟩,
  -- HUB_PART_RESET
  ⟨0x40, [],
   [fd 63 1 .wo 0, fd 59 4 .rw 0, fd 58 1 .ro 0, fd 57 1 .w1c 0, fd 54 3 .ro 0, fd 46 8 .ro 0, fd 30 16 .ro 0, fd 14 16 .ro 0]⟩,
  -- HUB_PKG_RESET
  ⟨0x48, [],
   [fd 63 1 .wo 0, fd 32 16 .wo 0]⟩,
  -- HUB_RESET_CAUSE
  ⟨0x50, [],
   [fd 60 4 .ro 1, fd 0 32 .ro 0]⟩,
  -- HUB_SPARE
  ⟨0x60, [(0x8, 4)],
   [fd 63 1 .ro 0, fd 57 6 .ro 0, fd 56 1 .ro 0, fd 50 6 .ro 0, fd 49 1 .ro 0, fd 44 5 .ro 0]⟩]

/-- The MON_ registers. -/
def tblMON : List RegDesc := [
  -- MON_TMG_CTL
  ⟨0x1d00000, [],
   [fd 8 4 .stg 6, fd 0 3 .stg 2]⟩,
  -- MON_RECAL
  ⟨0x1d00008, [],
   [fd 0 16 .wo 0]⟩,
  -- MON_TMG_REGION
  ⟨0x1d00100, [(0x8, 16)],
   [fd 32 32 .ro 0, fd 24 8 .ro 0, fd 21 3 .ro 0, fd 20 1 .w1c 0, fd 19 1 .w1c 0, fd 18 1 .w1c 0, fd 10 5 .ro 0, fd 5 5 .ro 0, fd 0 5 .ro 0]⟩,
  -- MON_WEAR
  ⟨0x1d00200, [],
   [fd 32 32 .ro 0, fd 28 4 .ro 0, fd 0 16 .ro 0]⟩,
  -- MON_WEAR_BAND
  ⟨0x1d00208, [],
   [fd 32 32 .ro 0, fd 0 32 .ro 0]⟩,
  -- MON_WEAR_MECH
  ⟨0x1d00210, [(0x8, 4)],
   [fd 48 16 .ro 0, fd 16 32 .ro 0]⟩,
  -- MON_WEAR_REGION
  ⟨0x1d00300, [(0x8, 16)],
   [fd 48 16 .ro 0, fd 43 5 .ro 0, fd 16 16 .ro 0]⟩]

/-- The CFG_ registers. -/
def tblCFG : List RegDesc := [
  -- CFG_GEN
  ⟨0x100000, [],
   [fd 63 1 .ro 0, fd 0 63 .ro 0]⟩,
  -- CFG_STATE_DIGEST
  ⟨0x100008, [(0x8, 6)],
   [fd 0 64 .ro 0]⟩,
  -- CFG_EXPORT
  ⟨0x100040, [],
   [fd 63 1 .wo 0, fd 62 1 .ro 0, fd 3 54 .rw 0]⟩,
  -- CFG_EXPORT_LEN
  ⟨0x100048, [],
   [fd 0 20 .ro 0xb8]⟩,
  -- CFG_SLOT_CMD
  ⟨0x100100, [(0x40, 4)],
   [fd 0 4 .wo 0]⟩,
  -- CFG_SLOT_SRC
  ⟨0x100108, [(0x40, 4)],
   [fd 3 54 .rw 0]⟩,
  -- CFG_SLOT_LEN
  ⟨0x100110, [(0x40, 4)],
   [fd 0 20 .rw 0]⟩,
  -- CFG_SLOT_EXPECT
  ⟨0x100118, [(0x40, 4)],
   [fd 0 63 .rw 0]⟩,
  -- CFG_SLOT_STATUS
  ⟨0x100120, [(0x40, 4)],
   [fd 54 10 .ro 0, fd 51 3 .ro 0, fd 50 1 .w1c 0, fd 40 8 .ro 0, fd 34 6 .ro 0, fd 14 20 .ro 0, fd 5 9 .ro 0]⟩,
  -- CFG_SLOT_TOUCH
  ⟨0x100128, [(0x40, 4)],
   [fd 17 1 .ro 0, fd 16 1 .ro 0, fd 0 16 .ro 0]⟩,
  -- CFG_SLOT_VIEW_ADDR
  ⟨0x100130, [(0x40, 4)],
   [fd 3 23 .rw 0]⟩,
  -- CFG_SLOT_VIEW_DATA
  ⟨0x100138, [(0x40, 4)],
   [fd 0 64 .ro 0]⟩]

/-- The NOC_ registers. -/
def tblNOC : List RegDesc := [
  -- NOC_CTL
  ⟨0x400000, [],
   [fd 0 8 .stg 0xc0]⟩,
  -- NOC_BYPASS
  ⟨0x400010, [(0x8, 4)],
   [fd 15 1 .ro 0, fd 14 1 .ro 0, fd 12 2 .ro 0, fd 8 4 .ro 0, fd 4 4 .ro 0]⟩,
  -- NOC_HDR_ERR
  ⟨0x400040, [],
   [fd 32 32 .ro 0, fd 31 1 .w1c 0, fd 28 3 .ro 0, fd 24 4 .ro 0, fd 20 4 .ro 0]⟩,
  -- NOC_HDR_RAW
  ⟨0x400048, [(0x8, 2)],
   [fd 0 64 .ro 0]⟩,
  -- NOC_WAKE_STAT
  ⟨0x400058, [],
   [fd 32 32 .ro 0, fd 0 32 .ro 0]⟩,
  -- NOC_LTEST_CTL
  ⟨0x400100, [],
   [fd 63 1 .wo 0, fd 62 1 .wo 0, fd 61 1 .ro 0, fd 60 1 .w1c 0, fd 40 6 .rw 0, fd 36 4 .rw 0, fd 33 3 .rw 0, fd 31 2 .rw 0, fd 27 4 .rw 0, fd 23 4 .rw 0]⟩,
  -- NOC_LTEST_PAT
  ⟨0x400108, [(0x8, 2)],
   [fd 0 64 .rw 0]⟩,
  -- NOC_LTEST_STAT
  ⟨0x400118, [],
   [fd 32 32 .ro 0, fd 0 32 .ro 0]⟩]

/-- The GLV_ registers. -/
def tblGLV : List RegDesc := [
  -- GLV_CTL
  ⟨0x800000, [(0x10000, 16)],
   [fd 63 1 .wo 0, fd 62 1 .wo 0, fd 61 1 .wo 0, fd 0 2 .rw 2]⟩,
  -- GLV_STATUS
  ⟨0x800008, [(0x10000, 16)],
   [fd 61 3 .ro 0, fd 60 1 .ro 0, fd 59 1 .ro 0, fd 58 1 .w1c 0, fd 57 1 .w1c 0, fd 56 1 .w1c 0, fd 55 1 .w1c 0, fd 54 1 .w1c 0, fd 50 4 .ro 0, fd 48 2 .ro 0, fd 44 4 .ro 0, fd 40 4 .ro 0, fd 39 1 .w1c 0, fd 32 3 .ro 0, fd 0 32 .ro 0]⟩,
  -- GLV_FEATURES
  ⟨0x800010, [(0x10000, 16)],
   [fd 32 4 .ro 0, fd 16 16 .ro 0, fd 8 8 .ro 0, fd 0 8 .ro 0]⟩,
  -- GLV_MODULES
  ⟨0x800018, [(0x10000, 16)],
   [fd 48 16 .ro 0, fd 30 5 .ro 0, fd 25 5 .ro 0xf, fd 20 5 .ro 0x10, fd 0 12 .ro 0x688]⟩,
  -- GLV_THROTTLE
  ⟨0x800020, [(0x10000, 16)],
   [fd 11 1 .ro 0, fd 10 1 .ro 0, fd 9 1 .ro 0, fd 3 3 .ro 0, fd 0 3 .rw 0]⟩,
  -- GLV_TEMP
  ⟨0x800028, [(0x10000, 16)],
   [fd 16 16 .ro 0, fd 0 16 .ro 0]⟩,
  -- GLV_IDENT
  ⟨0x800030, [(0x10000, 16)],
   [fd 48 16 .ro 0, fd 16 32 .ro 0x7001]⟩,
  -- GLV_ERR
  ⟨0x800038, [(0x10000, 16)],
   [fd 32 32 .ro 0, fd 16 16 .ro 0, fd 0 16 .ro 0]⟩,
  -- GLV_HATSET
  ⟨0x800040, [(0x10000, 16), (0x8, 4)],
   [fd 0 64 .rw 0]⟩,
  -- GLV_FIT
  ⟨0x800100, [(0x10000, 16), (0x8, 48)],
   [fd 0 64 .ro 0]⟩]

/-- The PRT_ registers. -/
def tblPRT : List RegDesc := [
  -- PRT_ID
  ⟨0x100000000, [(0x1000000, 16)],
   [fd 32 32 .ro 0x7001, fd 16 16 .ro 0x4201, fd 8 8 .ro 0x10]⟩,
  -- PRT_CLK
  ⟨0x100000008, [(0x1000000, 16)],
   [fd 32 16 .ro 0x773, fd 16 16 .rw 0x834, fd 0 16 .ro 0]⟩,
  -- PRT_SRAM
  ⟨0x100000010, [(0x1000000, 16)],
   [fd 32 8 .ro 0, fd 0 32 .ro 0x10000]⟩,
  -- PRT_POWER
  ⟨0x100000018, [(0x1000000, 16)],
   [fd 48 16 .ro 0, fd 32 3 .ro 0, fd 16 16 .ro 0, fd 0 1 .w1c 0]⟩,
  -- PRT_CTX_CTL
  ⟨0x100001000, [(0x1000000, 16), (0x80, 16)],
   [fd 63 1 .rw 0, fd 53 10 .rw 0, fd 42 11 .rw 0]⟩,
  -- PRT_CTX_STATUS
  ⟨0x100001008, [(0x1000000, 16), (0x80, 16)],
   [fd 61 3 .ro 0, fd 53 8 .ro 0, fd 37 16 .ro 0, fd 21 16 .ro 0, fd 5 16 .ro 0, fd 4 1 .w1c 0]⟩,
  -- PRT_CTX_PROG
  ⟨0x100001010, [(0x1000000, 16), (0x80, 16)],
   [fd 63 1 .wo 0, fd 62 1 .wo 0, fd 49 13 .rw 0, fd 33 16 .rw 0]⟩,
  -- PRT_CTX_PROG_ADDR
  ⟨0x100001018, [(0x1000000, 16), (0x80, 16)],
   [fd 61 3 .rw 0, fd 0 57 .rw 0]⟩,
  -- PRT_CTX_PROG_DIGEST
  ⟨0x100001020, [(0x1000000, 16), (0x80, 16), (0x8, 6)],
   [fd 0 64 .ro 0]⟩,
  -- PRT_CTX_PROG_RUN
  ⟨0x100001050, [(0x1000000, 16), (0x80, 16)],
   [fd 16 16 .ro 0, fd 0 16 .ro 0]⟩]

/-- The VEC_ registers. -/
def tblVEC : List RegDesc := [
  -- VEC_STATUS
  ⟨0x1000000, [(0x10000, 24)],
   [fd 56 8 .ro 0xff, fd 48 8 .ro 0, fd 32 4 .ro 0, fd 16 16 .ro 0, fd 0 16 .ro 0]⟩,
  -- VEC_BKT_STAT
  ⟨0x1000008, [(0x10000, 24)],
   [fd 32 32 .ro 0, fd 16 16 .ro 0, fd 0 16 .ro 0]⟩,
  -- VEC_KLOAD_SRC
  ⟨0x1000010, [(0x10000, 24)],
   [fd 3 54 .rw 0]⟩,
  -- VEC_KLOAD
  ⟨0x1000018, [(0x10000, 24)],
   [fd 63 1 .wo 0, fd 62 1 .wo 0, fd 61 1 .ro 0, fd 60 1 .w1c 0, fd 52 8 .ro 0, fd 49 3 .rw 0, fd 33 16 .rw 0, fd 18 15 .rw 0]⟩,
  -- VEC_KERNEL
  ⟨0x1000100, [(0x10000, 24), (0x40, 8)],
   [fd 63 1 .ro 0, fd 53 10 .ro 0, fd 37 16 .ro 0, fd 22 15 .ro 0, fd 0 22 .ro 0]⟩,
  -- VEC_KERNEL_DIGEST
  ⟨0x1000108, [(0x10000, 24), (0x40, 8), (0x8, 6)],
   [fd 0 64 .ro 0]⟩,
  -- VEC_TREG
  ⟨0x1000400, [(0x10000, 24), (0x8, 16)],
   [fd 63 1 .rw 0, fd 62 1 .rw 0, fd 61 1 .rw 0, fd 59 2 .rw 0, fd 55 4 .rw 0, fd 53 2 .rw 0, fd 43 10 .rw 0, fd 42 1 .ro 0, fd 39 3 .ro 0, fd 37 2 .ro 0, fd 30 7 .ro 0, fd 23 7 .ro 0, fd 11 12 .ro 0, fd 3 8 .ro 0]⟩,
  -- VEC_CTX_CTL
  ⟨0x1001000, [(0x10000, 24), (0x100, 4)],
   [fd 63 1 .rw 0, fd 53 10 .rw 0, fd 42 11 .rw 0, fd 41 1 .rw 0, fd 40 1 .rw 0, fd 37 3 .rw 0, fd 29 8 .rw 0, fd 22 7 .rw 0]⟩,
  -- VEC_CTX_START
  ⟨0x1001008, [(0x10000, 24), (0x100, 4)],
   [fd 63 1 .wo 0, fd 15 3 .rw 0, fd 0 15 .rw 0]⟩,
  -- VEC_CTX_STATUS
  ⟨0x1001010, [(0x10000, 24), (0x100, 4)],
   [fd 61 3 .ro 0, fd 57 4 .ro 0, fd 42 15 .ro 0, fd 41 1 .w1c 0, fd 40 1 .w1c 0, fd 32 8 .ro 0, fd 0 32 .ro 0]⟩,
  -- VEC_CTX_FLAGS
  ⟨0x1001018, [(0x10000, 24), (0x100, 4)],
   [fd 7 1 .w1c 0, fd 6 1 .w1c 0, fd 5 1 .w1c 0, fd 4 1 .w1c 0, fd 3 1 .w1c 0, fd 2 1 .w1c 0, fd 1 1 .w1c 0, fd 0 1 .w1c 0]⟩,
  -- VEC_CTX_ARG
  ⟨0x1001040, [(0x10000, 24), (0x100, 4), (0x8, 8)],
   [fd 0 64 .rw 0]⟩,
  -- VEC_RED
  ⟨0x1008000, [(0x20000, 12)],
   [fd 32 32 .ro 0, fd 8 4 .ro 0, fd 4 4 .ro 0]⟩]

/-- The TRG_ registers. -/
def tblTRG : List RegDesc := [
  -- TRG_CTL
  ⟨0x1800000, [(0x1000, 64)],
   [fd 60 4 .wo 0, fd 57 3 .ro 0, fd 56 1 .ro 0, fd 55 1 .w1c 0, fd 54 1 .w1c 0, fd 46 8 .ro 0]⟩,
  -- TRG_CFG
  ⟨0x1800008, [(0x1000, 64)],
   [fd 35 29 .rw 0, fd 31 4 .rw 0, fd 17 14 .rw 0, fd 16 1 .rw 0, fd 9 7 .rw 0, fd 1 8 .rw 0]⟩,
  -- TRG_PARAM
  ⟨0x1800010, [(0x1000, 64)],
   [fd 32 32 .rw 0, fd 0 32 .rw 0]⟩,
  -- TRG_QUOTA
  ⟨0x1800018, [(0x1000, 64)],
   [fd 0 16 .rw 0]⟩,
  -- TRG_DEADLINE
  ⟨0x1800020, [(0x1000, 64)],
   [fd 0 64 .rw 0]⟩,
  -- TRG_STATUS
  ⟨0x1800028, [(0x1000, 64)],
   [fd 57 7 .ro 0, fd 50 7 .ro 0, fd 28 22 .ro 0, fd 6 22 .ro 0]⟩,
  -- TRG_EXPORT
  ⟨0x1800030, [(0x1000, 64)],
   [fd 63 1 .wo 0, fd 62 1 .ro 0, fd 61 1 .w1c 0, fd 53 8 .ro 0, fd 25 28 .rw 0, fd 0 25 .rw 0]⟩,
  -- TRG_EXPORT_DST
  ⟨0x1800038, [(0x1000, 64)],
   [fd 3 54 .rw 0]⟩,
  -- TRG_MEMBER
  ⟨0x1800100, [(0x1000, 64), (0x8, 64)],
   [fd 63 1 .rw 0, fd 62 1 .ro 0, fd 61 1 .ro 0, fd 51 10 .rw 0, fd 41 10 .rw 0, fd 25 16 .ro 0]⟩,
  -- TRG_RNG
  ⟨0x1840000, [],
   [fd 32 32 .ro 0, fd 1 1 .w1c 0, fd 0 1 .ro 0]⟩]

/-- The WEL_ registers. -/
def tblWEL : List RegDesc := [
  -- WEL_STATUS
  ⟨0xc00000, [(0x10000, 12)],
   [fd 56 8 .ro 0xff, fd 53 3 .ro 0, fd 52 1 .ro 0, fd 51 1 .ro 0, fd 50 1 .ro 0, fd 49 1 .ro 0, fd 48 1 .w1c 0, fd 16 16 .ro 0, fd 0 16 .ro 0]⟩,
  -- WEL_CAP
  ⟨0xc00008, [(0x10000, 12)],
   [fd 48 16 .ro 0, fd 32 16 .ro 0, fd 0 32 .ro 0]⟩,
  -- WEL_CHAN
  ⟨0xc00010, [(0x10000, 12)],
   [fd 48 16 .ro 0, fd 32 16 .ro 0, fd 16 16 .ro 0, fd 0 16 .ro 0]⟩,
  -- WEL_CTL
  ⟨0xc00018, [(0x10000, 12)],
   [fd 63 1 .wo 0, fd 62 1 .ro 0, fd 61 1 .w1c 0, fd 60 1 .rw 0]⟩,
  -- WEL_ERR
  ⟨0xc00020, [(0x10000, 12)],
   [fd 48 16 .ro 0, fd 32 16 .ro 0, fd 16 16 .ro 0, fd 0 16 .ro 0]⟩,
  -- WEL_ERR_ADDR
  ⟨0xc00028, [(0x10000, 12)],
   [fd 63 1 .w1c 0, fd 60 3 .ro 0, fd 0 47 .ro 0]⟩,
  -- WEL_HC
  ⟨0xc00030, [(0x10000, 12)],
   [fd 56 8 .ro 0, fd 48 8 .ro 0]⟩,
  -- WEL_WC
  ⟨0xc00038, [(0x10000, 12)],
   [fd 32 32 .ro 0, fd 0 9 .ro 0]⟩,
  -- WEL_DIR
  ⟨0xc00040, [(0x10000, 12)],
   [fd 40 24 .ro 0, fd 24 16 .ro 0, fd 0 22 .ro 0]⟩]

/-- The XLT_ registers. -/
def tblXLT : List RegDesc := [
  -- XLT_WALK_STAT
  ⟨0x1a00000, [],
   [fd 32 32 .ro 0, fd 0 32 .ro 0]⟩,
  -- XLT_FQ_BASE
  ⟨0x1a01000, [(0x40, 16)],
   [fd 12 45 .rw 0]⟩,
  -- XLT_FQ_HEAD_ADDR
  ⟨0x1a01008, [(0x40, 16)],
   [fd 3 54 .rw 0]⟩,
  -- XLT_FQ_CTL
  ⟨0x1a01010, [(0x40, 16)],
   [fd 63 1 .rw 0, fd 53 10 .rw 0, fd 42 11 .rw 0, fd 38 4 .rw 0]⟩,
  -- XLT_FQ_STATUS
  ⟨0x1a01018, [(0x40, 16)],
   [fd 32 32 .ro 0, fd 31 1 .w1c 0, fd 30 1 .w1c 0, fd 20 10 .ro 0, fd 0 20 .ro 0]⟩,
  -- XLT_FQ_RESP
  ⟨0x1a01020, [(0x40, 16)],
   [fd 62 2 .wo 0, fd 0 16 .wo 0]⟩,
  -- XLT_CTX_CTL
  ⟨0x1a04000, [(0x20, 256)],
   [fd 63 1 .rw 0, fd 53 10 .rw 0, fd 49 4 .rw 0, fd 48 1 .w1c 0]⟩,
  -- XLT_CTX_ROOT
  ⟨0x1a04008, [(0x20, 256)],
   [fd 12 35 .rw 0]⟩,
  -- XLT_CTX_EPOCH
  ⟨0x1a04010, [(0x20, 256)],
   [fd 63 1 .wo 0, fd 62 1 .ro 0, fd 61 1 .w1c 0, fd 0 16 .ro 0]⟩,
  -- XLT_GSEG_CTL
  ⟨0x1a10000, [(0x1000, 16), (0x100, 16), (0x20, 8)],
   [fd 63 1 .rw 0, fd 62 1 .rw 0, fd 61 1 .rw 0, fd 60 1 .rw 0, fd 59 1 .rw 0, fd 58 1 .rw 0, fd 57 1 .ro 0, fd 0 8 .rw 0]⟩,
  -- XLT_VSEG_CTL
  ⟨0x1a20000, [(0x400, 24), (0x100, 4), (0x20, 8)],
   [fd 63 1 .rw 0, fd 62 1 .rw 0, fd 61 1 .rw 0, fd 60 1 .rw 0, fd 59 1 .rw 0, fd 58 1 .rw 0, fd 57 1 .ro 0, fd 0 8 .rw 0]⟩,
  -- XLT_GSEG_BASE
  ⟨0x1a10008, [(0x1000, 16), (0x100, 16), (0x20, 8)],
   [fd 12 45 .rw 0]⟩,
  -- XLT_VSEG_BASE
  ⟨0x1a20008, [(0x400, 24), (0x100, 4), (0x20, 8)],
   [fd 12 45 .rw 0]⟩,
  -- XLT_GSEG_LIMIT
  ⟨0x1a10010, [(0x1000, 16), (0x100, 16), (0x20, 8)],
   [fd 12 46 .rw 0]⟩,
  -- XLT_VSEG_LIMIT
  ⟨0x1a20010, [(0x400, 24), (0x100, 4), (0x20, 8)],
   [fd 12 46 .rw 0]⟩,
  -- XLT_GSEG_OFFSET
  ⟨0x1a10018, [(0x1000, 16), (0x100, 16), (0x20, 8)],
   [fd 12 45 .rw 0]⟩,
  -- XLT_VSEG_OFFSET
  ⟨0x1a20018, [(0x400, 24), (0x100, 4), (0x20, 8)],
   [fd 12 45 .rw 0]⟩]

/-- The PMP_ registers. -/
def tblPMP : List RegDesc := [
  -- PMP_STATUS
  ⟨0x1900000, [(0x1000, 48)],
   [fd 56 8 .ro 0xff, fd 53 3 .ro 0, fd 46 7 .ro 0, fd 41 5 .ro 0]⟩,
  -- PMP_COUNT
  ⟨0x1900008, [(0x1000, 48)],
   [fd 32 32 .ro 0, fd 0 32 .ro 0]⟩,
  -- PMP_BYTES
  ⟨0x1900010, [(0x1000, 48)],
   [fd 0 64 .ro 0]⟩,
  -- PMP_INTAKE_CTL
  ⟨0x1940000, [(0x20, 4096)],
   [fd 63 1 .rw 0, fd 53 10 .rw 0, fd 47 6 .rw 0, fd 36 11 .rw 0, fd 28 8 .rw 0]⟩,
  -- PMP_INTAKE_CPL
  ⟨0x1940008, [(0x20, 4096)],
   [fd 12 45 .rw 0]⟩,
  -- PMP_INTAKE_STATUS
  ⟨0x1940010, [(0x20, 4096)],
   [fd 48 16 .ro 0, fd 41 7 .ro 0, fd 40 1 .ro 0, fd 39 1 .w1c 0, fd 31 8 .ro 0, fd 15 16 .ro 0]⟩,
  -- PMP_KEY
  ⟨0x1960000, [(0x8, 256)],
   [fd 62 2 .ro 0, fd 61 1 .wo 0, fd 45 16 .ro 0xffff, fd 0 32 .ro 0]⟩,
  -- PMP_WSET
  ⟨0x1970000, [(0x40, 256)],
   [fd 63 1 .rw 0, fd 62 1 .wo 0, fd 61 1 .ro 0, fd 51 10 .rw 0, fd 35 16 .ro 0, fd 34 1 .w1c 0]⟩,
  -- PMP_WSET_BYTES
  ⟨0x1970008, [(0x40, 256)],
   [fd 0 64 .ro 0]⟩,
  -- PMP_WSET_DIGEST
  ⟨0x1970010, [(0x40, 256), (0x8, 6)],
   [fd 0 64 .ro 0]⟩,
  -- PMP_REMOVE
  ⟨0x1980000, [],
   [fd 63 1 .wo 0, fd 62 1 .ro 0, fd 61 1 .w1c 0, fd 58 3 .ro 0, fd 48 10 .rw 0, fd 47 1 .w1c 0]⟩]

/-- The SPN_ registers. -/
def tblSPN : List RegDesc := [
  -- SPN_CTL
  ⟨0x1b00000, [],
   [fd 57 7 .rw 8, fd 50 7 .rw 8, fd 46 4 .rw 8, fd 45 1 .rw 1, fd 44 1 .rw 0, fd 32 12 .rw 0, fd 18 14 .rw 0x1000]⟩,
  -- SPN_ID
  ⟨0x1b00008, [],
   [fd 54 10 .ro 0, fd 53 1 .ro 0, fd 52 1 .ro 0, fd 51 1 .w1c 0, fd 0 32 .ro 0]⟩,
  -- SPN_DISC
  ⟨0x1b00010, [],
   [fd 63 1 .ro 0, fd 53 10 .ro 0, fd 43 10 .ro 0, fd 33 10 .ro 0, fd 25 8 .rw 0xa]⟩,
  -- SPN_RLC
  ⟨0x1b00018, [],
   [fd 32 32 .ro 0, fd 0 32 .ro 0]⟩,
  -- SPN_OWN_IP
  ⟨0x1b00020, [(0x8, 2)],
   [fd 0 64 .rw 0]⟩,
  -- SPN_MAC
  ⟨0x1b00030, [],
   [fd 0 48 .ro 0]⟩,
  -- SPN_DROP
  ⟨0x1b00038, [],
   [fd 48 16 .ro 0, fd 32 16 .ro 0, fd 16 16 .ro 0, fd 0 16 .ro 0]⟩,
  -- SPN_QUAD
  ⟨0x1b00100, [(0x60, 2), (0x8, 12)],
   [fd 62 2 .rw 3, fd 60 2 .rw 0, fd 56 4 .ro 0, fd 0 32 .ro 0]⟩,
  -- SPN_LANE
  ⟨0x1b00200, [(0x8, 2)],
   [fd 63 1 .ro 0, fd 62 1 .ro 0, fd 56 6 .ro 0, fd 50 6 .ro 0, fd 0 50 .ro 0]⟩,
  -- SPN_GW
  ⟨0x1b00300, [(0x8, 2)],
   [fd 56 8 .rw 0x40, fd 0 48 .rw 0]⟩,
  -- SPN_PEER
  ⟨0x1b10000, [(0x20, 1024)],
   [fd 61 3 .ro 0, fd 58 3 .ro 0, fd 56 2 .ro 0, fd 53 3 .ro 0, fd 32 21 .ro 0, fd 0 32 .ro 0]⟩,
  -- SPN_PEER_IP
  ⟨0x1b10008, [(0x20, 1024), (0x8, 2)],
   [fd 0 64 .rw 0]⟩,
  -- SPN_PEER_STAT
  ⟨0x1b10018, [(0x20, 1024)],
   [fd 32 32 .ro 0, fd 0 32 .ro 0]⟩]

/-- The HAT_ registers. -/
def tblHAT : List RegDesc := [
  -- HAT_INFO
  ⟨0x200000, [(0x20, 1024)],
   [fd 48 16 .ro 0, fd 40 8 .ro 0xff, fd 36 4 .ro 0, fd 33 3 .ro 0, fd 0 32 .ro 0]⟩,
  -- HAT_KEYS
  ⟨0x200008, [(0x20, 1024)],
   [fd 16 9 .ro 0, fd 0 8 .ro 0]⟩,
  -- HAT_CTL
  ⟨0x200010, [(0x20, 1024)],
   [fd 63 1 .wo 0, fd 60 3 .ro 0, fd 59 1 .w1c 0, fd 58 1 .ro 0, fd 32 11 .ro 0, fd 0 32 .ro 0]⟩,
  -- HAT_FALLBACK
  ⟨0x200018, [(0x20, 1024)],
   [fd 0 64 .ro 0]⟩,
  -- HAT_PORT
  ⟨0x300000, [(0x8, 2048)],
   [fd 63 1 .ro 0, fd 0 10 .ro 0]⟩,
  -- HAT_REMOVE
  ⟨0x380000, [],
   [fd 63 1 .wo 0, fd 62 1 .ro 0, fd 61 1 .w1c 0, fd 60 1 .w1c 0, fd 59 1 .rw 0, fd 57 2 .rw 0, fd 54 3 .ro 0, fd 50 4 .ro 0, fd 40 10 .rw 0, fd 24 16 .rw 0, fd 16 8 .ro 0]⟩,
  -- HAT_GRACE
  ⟨0x380020, [(0x8, 4)],
   [fd 58 6 .rw 0xa, fd 48 10 .ro 0]⟩,
  -- HAT_LBL_CTL
  ⟨0x380040, [],
   [fd 0 8 .rw 0xa]⟩]

/-- The HST_ registers. -/
def tblHST : List RegDesc := [
  -- HST_CTL
  ⟨0xc0000, [(0x10000, 4)],
   [fd 43 21 .rw 0, fd 42 1 .rw 1, fd 41 1 .rw 1, fd 40 1 .rw 1]⟩,
  -- HST_STATUS
  ⟨0xc0008, [(0x10000, 4)],
   [fd 63 1 .ro 0, fd 62 1 .ro 1, fd 61 1 .ro 0, fd 60 1 .ro 0, fd 57 3 .ro 0, fd 52 5 .ro 0, fd 51 1 .ro 0, fd 48 3 .ro 6, fd 47 1 .w1c 0, fd 46 1 .w1c 0, fd 45 1 .w1c 0, fd 44 1 .ro 0, fd 32 10 .ro 0, fd 0 32 .ro 0]⟩,
  -- HST_SLOT
  ⟨0xc0010, [(0x10000, 4)],
   [fd 63 1 .rw 0, fd 62 1 .ro 0, fd 61 1 .w1c 0, fd 60 1 .w1c 0, fd 59 1 .w1c 0, fd 57 2 .rw 0, fd 55 2 .rw 0, fd 54 1 .ro 0]⟩,
  -- HST_ERR
  ⟨0xc0018, [(0x10000, 4)],
   [fd 48 16 .ro 0, fd 32 16 .ro 0, fd 16 16 .ro 0, fd 0 16 .ro 0]⟩,
  -- HST_INTX
  ⟨0xc0020, [(0x10000, 4)],
   [fd 63 1 .w1c 0, fd 52 11 .ro 0, fd 0 32 .ro 0]⟩,
  -- HST_FN_BAR4
  ⟨0xc0100, [(0x10000, 4), (0x8, 64)],
   [fd 30 17 .rw 0]⟩]

/-- The SEC_ registers. -/
def tblSEC : List RegDesc := [
  -- SEC_STATUS
  ⟨0x1e00000, [],
   [fd 63 1 .ro 0, fd 62 1 .ro 0, fd 60 2 .ro 0, fd 58 2 .ro 0, fd 56 2 .ro 0, fd 50 6 .ro 0, fd 44 6 .ro 0, fd 43 1 .ro 0, fd 42 1 .ro 0]⟩,
  -- SEC_FUSE
  ⟨0x1e00008, [],
   [fd 60 4 .ro 0, fd 56 4 .ro 0, fd 54 2 .ro 0, fd 52 2 .ro 0]⟩,
  -- SEC_COUNT
  ⟨0x1e00010, [],
   [fd 32 32 .ro 0, fd 16 16 .ro 0, fd 0 16 .ro 0]⟩,
  -- SEC_UPD_SRC
  ⟨0x1e00018, [],
   [fd 3 54 .rw 0]⟩,
  -- SEC_UPD_CTL
  ⟨0x1e00020, [],
   [fd 60 4 .wo 0, fd 59 1 .ro 0, fd 58 1 .w1c 0, fd 50 8 .ro 0, fd 0 23 .rw 0]⟩,
  -- SEC_RPT
  ⟨0x1e00028, [],
   [fd 32 32 .ro 0, fd 28 4 .ro 0, fd 20 8 .ro 0, fd 0 20 .ro 0]⟩]

/-- The PWR_ registers. -/
def tblPWR : List RegDesc := [
  -- PWR_STATUS
  ⟨0x1c00000, [],
   [fd 48 16 .ro 0, fd 32 16 .ro 0, fd 31 1 .ro 0, fd 30 1 .w1c 0, fd 29 1 .w1c 0, fd 28 1 .w1c 0, fd 25 3 .ro 0, fd 23 2 .ro 0]⟩,
  -- PWR_CAP
  ⟨0x1c00008, [],
   [fd 48 16 .stg 0xc80, fd 32 16 .ro 0xc80, fd 21 11 .rw 0, fd 11 10 .rw 0, fd 0 11 .rw 0x50]⟩,
  -- PWR_PART
  ⟨0x1c00100, [(0x8, 16)],
   [fd 48 16 .stg 0, fd 32 16 .ro 0, fd 31 1 .ro 0, fd 28 3 .ro 0]⟩,
  -- PWR_DOM_CTL
  ⟨0x1c00200, [(0x10, 20)],
   [fd 60 4 .stg 0, fd 56 4 .stg 0xf, fd 54 2 .stg 0, fd 48 4 .rw 7, fd 0 32 .stg 0x3e8]⟩,
  -- PWR_DOM_STATUS
  ⟨0x1c00208, [(0x10, 20)],
   [fd 60 4 .ro 7, fd 56 4 .ro 0, fd 53 3 .ro 0, fd 49 4 .ro 0xf, fd 45 4 .ro 0xf, fd 41 4 .ro 7, fd 0 32 .ro 0]⟩,
  -- PWR_TEMP
  ⟨0x1c00400, [],
   [fd 48 16 .ro 0, fd 41 7 .ro 0, fd 40 1 .w1c 0, fd 39 1 .ro 0, fd 38 1 .ro 0, fd 0 32 .ro 0]⟩,
  -- PWR_RAIL
  ⟨0x1c00500, [(0x8, 20)],
   [fd 48 16 .ro 0, fd 32 16 .ro 0, fd 16 16 .ro 0, fd 15 1 .ro 0, fd 14 1 .w1c 0]⟩,
  -- PWR_PKG_ENERGY
  ⟨0x1c00600, [],
   [fd 0 64 .ro 0]⟩,
  -- PWR_UNATTR_ENERGY
  ⟨0x1c00608, [],
   [fd 0 64 .ro 0]⟩,
  -- PWR_PART_ENERGY
  ⟨0x1c00700, [(0x8, 16)],
   [fd 0 64 .ro 0]⟩,
  -- PWR_HAT_ENERGY
  ⟨0x1c01000, [(0x8, 1024)],
   [fd 0 64 .ro 0]⟩]

/-- The TST_ registers. -/
def tblTST : List RegDesc := [
  -- TST_CTL
  ⟨0x1f00000, [],
   [fd 63 1 .w1s 0, fd 62 1 .w1c 0, fd 61 1 .ro 0, fd 51 10 .ro 0]⟩,
  -- TST_LTEST_CTL
  ⟨0x1f00100, [],
   [fd 63 1 .wo 0, fd 62 1 .wo 0, fd 61 1 .ro 0, fd 60 1 .w1c 0, fd 57 3 .ro 0, fd 40 6 .rw 0, fd 36 4 .rw 0, fd 33 3 .rw 0, fd 24 9 .rw 0, fd 16 8 .rw 0, fd 15 1 .ro 0]⟩,
  -- TST_LTEST_PAT
  ⟨0x1f00108, [(0x8, 2)],
   [fd 0 64 .rw 0]⟩,
  -- TST_LTEST_STAT
  ⟨0x1f00118, [],
   [fd 32 32 .ro 0, fd 0 32 .ro 0]⟩,
  -- TST_SPARE
  ⟨0x1f00120, [],
   [fd 16 4 .ro 0, fd 0 16 .ro 0]⟩]

/-- Every register family. -/
def table : List RegDesc :=
  tblHUB ++ tblMON ++ tblCFG ++ tblNOC ++ tblGLV ++ tblPRT ++ tblVEC ++ tblTRG ++ tblWEL ++ tblXLT ++ tblPMP ++ tblSPN ++ tblHAT ++ tblHST ++ tblSEC ++ tblPWR ++ tblTST

/-- The family and copy numbers of the register at an address, if there is one. -/
def findIn : List RegDesc → Nat → Option (RegDesc × List Nat)
  | [], _ => none
  | d :: ds, a => match copyOf d.base d.dims a with
    | some l => some (d, l)
    | none => findIn ds a

/-- The register at an address, if there is one. -/
def find (a : Nat) : Option (RegDesc × List Nat) := findIn table a

/-- A register word built from its fields' reset values. -/
def resetWord (d : RegDesc) : W64 := d.flds.foldl (fun w f => putFld w f.fld f.reset) 0

end Regs

end Sys2Proof.Machine
end

