-- ==== Sys2Proof/Machine/StateTypes.lean ====
section
/-! DEFINITION. The parts of the state that no register of the map shows: what each unit of the block holds inside.
Everything a register shows lives in the register itself (Machine/State.lean). -/

namespace Sys2Proof.Machine

/-! ### Timing regions (R41–R53) -/

/-- Where a recalibration window stands (R51). -/
inductive WinPhase where
  | closed | draining | searching
  deriving DecidableEq, Repr

/-- One timing region beyond its MON_TMG_REGION register. -/
structure RegionSt where
  opCode : Nat := 0  -- the operating code (R34)
  lastRaise : Option Nat := none  -- HUB_TIMESTAMP of the last raise (R46 steps 1, 2)
  tripped : Bool := false  -- a trip since the last pacing interval (R49)
  quiet : Nat := 0  -- pacing intervals without a trip (R49)
  pace : Nat := 0  -- admission runs at 1 / 2 ^ pace (R49)
  phase : WinPhase := .closed  -- the recalibration window (R51)
  waiting : Bool := false  -- a window asked for waits for a commit (R53)
  inside : List Pkt := []  -- packets that were on the mesh when the window opened, which still drain (R51)
  calibrated : Bool := false  -- idle calibration has ended in the wake under way (R45)
  firstKnown : Bool := false  -- a first baseline has been recorded (R466)
  deriving DecidableEq, Repr

/-! ### Power (R447–R468) -/

/-- One power domain beyond its PWR_DOM registers. -/
structure DomSt where
  stepTo : Option Nat := none  -- the OP a step in progress reaches (R451)
  codeFloor : Option Nat := none  -- the FLOOR a refused step down left (R451)
  hubHeat : Nat := 15  -- heat_lim of the hub sensors (R464)
  stackHeat : Nat := 15  -- heat_lim of the stack (R273)
  hot : Bool := false  -- the 105 °C action is in force at a sensor of the domain (R464)
  waking : Bool := false  -- a wake is under way (R99)
  goingOff : Bool := false  -- it goes off once its directory is empty (R294)
  deriving DecidableEq, Repr

/-- One cap controller: the package's (0) or partition p's (1 + p) (R458–R461). -/
structure CapSt where
  last : Nat := 0  -- its last sample, in W
  lvl : Tbl Nat := []  -- power-cause level it asks of each site
  lim : Tbl Nat := []  -- cap_lim it sets on each domain
  acts : List (List Nat) := []  -- domains each stage-2 action lowered, newest first
  raised : Nat := 0  -- stage-1 actions in force
  below : Nat := 0  -- samples in a row at or below 0.95 × cap
  escDone : Bool := false  -- the escalation of this stay has been raised (R461)
  deriving DecidableEq, Repr

/-- Power, heat and wear. -/
structure PwrSt where
  samples : List Nat := []  -- package samples of the last 10 ms (R456)
  partUJ : Tbl (List Nat) := []  -- a partition's attributed energy, last ten milliseconds
  railMiss : Tbl Nat := []  -- reads in a row a rail has missed (R455)
  activity : Tbl Nat := []  -- hat × 32 + class: activity since the last attribution (R463)
  mspBytes : Tbl Nat := []  -- site × 1024 + hat: MSP bytes since the last attribution
  warnOn : Bool := false  -- the 100 °C action is set (R464)
  thermtrip : Bool := false  -- THERMTRIP_N is asserted (R465)
  tripOwed : Bool := false  -- a trip the wellhead has yet to add to TRIPS
  hist : Tbl (List Nat) := []  -- CONSUMED of each mechanism per hour, newest first (R467)
  daily : List Nat := []  -- daily REMAIN_H values, newest first, at most 30
  hours : Nat := 0  -- operating hours counted
  errs : Tbl Nat := []  -- corrected errors of each well's stack since the last hourly update (R466)
  errHist : Tbl (List Nat) := []  -- those of each hour, newest first, at most 720
  deriving DecidableEq, Repr

/-! ### The staging cistern (R56–R82) -/

/-- What a slot holds: an image as staged, records staged by STG writes, and the generation these started from. -/
structure Content where
  img  : List Byte
  stg  : List RecOp
  base : Nat
  deriving DecidableEq, Repr

/-- One slot beyond its registers. -/
structure Slot where
  content : Option Content := none
  carry : List (Nat × W64 × Nat) := []  -- register, value, byte mask, oldest first (R65)
  copyLen : Nat := 0  -- bytes a STAGE copy in progress takes
  copySrc : Nat := 0  -- where from
  copyRights : Nat := 0  -- the claiming hat's rights at STAGE (R77)
  checking : Bool := false  -- a CHECK is running (R68)
  relOwed : Bool := false  -- released once its commit has finished (R67)
  deriving DecidableEq, Repr

/-- How far a commit has come (R73). -/
inductive CommitPhase where
  | blocked   -- before step 3: a partition reset, a window or a site reset must end first
  | draining  -- steps 3 and 4
  | copying   -- step 8
  deriving DecidableEq, Repr

/-- The commit in progress. -/
structure Commit where
  slot    : Nat
  touched : Nat             -- mask of partitions
  package : Bool
  next    : List Rec        -- the merged state the epoch will flip to
  leaving : List Nat        -- sites that leave a partition
  phase   : CommitPhase
  flushed : Bool            -- their flushes have been started (step 4)
  inside  : List Pkt := []  -- packets on the mesh when the hold of step 3 began, which still drain (R75)
  since   : Nat := 0        -- HUB_TIMESTAMP of COMMIT (R78)
  deriving DecidableEq, Repr

/-- The cistern and the committed state. -/
structure CisSt where
  committed : List Rec := emptyRecs  -- the empty state at reset (R56)
  commit : Option Commit := none
  waiting : List Nat := []  -- slots whose COMMIT waits for step 8 (R78)
  exporter : Nat := 0  -- the hat an export runs under
  expRights : Nat := 0  -- its rights at GO (R77)
  expDst : Nat := 0  -- the destination at GO
  deriving DecidableEq, Repr

/-! ### The mesh (R83–R104) -/

/-- A mesh link pattern test in progress: whether it runs until STOP. -/
structure LinkTest where
  running : Bool := false
  forever : Bool := false
  deriving DecidableEq, Repr

/-- A link pattern test of TST_LTEST_CTL in progress: whether it runs until STOP, and what KIND, INDEX and SUB named at GO. -/
structure LandTest where
  running : Bool := false
  forever : Bool := false
  kind    : Nat := 0
  index   : Nat := 0
  sub     : Nat := 0
  deriving DecidableEq, Repr

/-- What the arbiter of one router output on one plane remembers (R55, R88). -/
structure Arb where
  resp  : Nat := 0  -- response-class grants in a row while a request-class packet waited (R88)
  upper : Tbl Nat := []  -- for each class, 0 request and 1 response: upper-group grants in a row while a lower-group packet waited (R88)
  last  : Tbl Nat := []  -- for each group, 2 × class + 1 if upper: the input granted last (R55)
  deriving DecidableEq, Repr

/-- The mesh beyond the NOC_ registers. -/
structure NocSt where
  flights : List Flight := []  -- packets in the input buffers of the routers they have reached, oldest first (R87)
  arb     : Tbl Arb := []  -- arbiters, keyed by router, output and plane (R88)
  arrived : List (Ep × Flight) := []  -- packets handed to their endpoints
  wakeBuf : Tbl (List Flight) := []  -- wake buffers (R99), keyed by domain
  stalled : Tbl (List Flight) := []  -- packets waiting behind a full wake buffer or at their source for a wake (R99), keyed by domain
  held : Tbl (List Flight) := []  -- packets held at a region's boundary (R51), keyed by region
  net : List Pkt := []  -- packets sent by endpoints and not yet taken by their receivers
  ltest : LinkTest := {}
  deriving DecidableEq, Repr

/-! ### Gloves (R105–R143) -/

/-- The agreed set (R125). -/
structure Agreed where
  verMaj : Nat := 0
  verMin : Nat := 0
  features : Nat := 0
  channels : Nat := 0
  rate : Nat := 0  -- rate code
  cacheKib : Nat := 0
  maxRd : Nat := 0
  maxWr : Nat := 0
  maxSnp : Nat := 0
  tileFmt : Nat := 0
  powerW : Nat := 0
  lanes : Nat := 0
  deriving DecidableEq, Repr

/-- How far a site reset has come (R139). -/
inductive RstPhase where
  | none | waking | flushing | noticed | asserted | refitting
  deriving DecidableEq, Repr

/-- How far a flush has come (R138). -/
inductive FlushPhase where
  | none | awaitDone | query
  deriving DecidableEq, Repr

/-- Who asked for a flush. -/
inductive FlushFor where
  | software | reset | commit | partition
  deriving DecidableEq, Repr

/-- Credits of one pool: header and data (R114, R116). -/
structure Credit where
  hdr : Nat := 0
  data : Nat := 0
  deriving DecidableEq, Repr

/-- A request of a site that has no answer yet: its tag, command and address, the hat-set position it was checked under,
whether that position's segments have been written since (R303). -/
structure SiteReq where
  tag  : Nat
  cmd  : Nat
  addr : Nat
  pos  : Nat
  old  : Bool
  deriving DecidableEq, Repr

/-- One glove beyond its registers. -/
structure GloveSt where
  chunks : List (Nat × List Byte) := []  -- CAP chunks as they arrived
  cap : List Byte := []  -- the capability record last completed
  agreed : Agreed := {}
  fitted : Bool := false  -- fitted since the last package or site reset
  fitCount : Nat := 0
  linkUp : Bool := false
  rst : RstPhase := .none
  rstForce : Bool := false
  flush : FlushPhase := .none
  flushFor : FlushFor := .software
  fenced : Bool := false
  rstN : Bool := true  -- SITE_RST_N is asserted
  recal : Nat := 0  -- modules in runtime recalibration, as a mask (R109)
  hold : Nat := 0  -- logical modules held for a spare substitution (R107)
  toSite : Tbl Credit := []  -- credits the glove holds for sending to the site, by pool
  fromSite : Tbl Credit := []  -- credits the site holds for sending to the hub, by pool
  txq : List Msp := []  -- messages to the site that wait for credit
  withheld : Bool := false  -- the glove returns no MEM and COH credits (R75, R138)
  owed : Tbl Credit := []  -- credits withheld, by pool
  snoops : List Pkt := []  -- snoops the site has not answered
  window : List (Nat × Pkt) := []  -- register requests forwarded to the site: (tag on the link, request)
  reads : List SiteReq := []  -- the site's requests without their answer
  tcredit : List (Nat × Nat × Nat) := []  -- tile-register credits the site holds: (engine, register, hat)
  tile : Tbl (List Nat) := []  -- per lane: a tile partly sent: [engine, next chunk, chunks, address without CHUNK and LAST, tag, hat]
  lastSent : Nat := 0  -- the THROTTLE word last sent: level and causes
  lastCtl : Nat := 0  -- HUB_TIMESTAMP at which the CTL silence count was last restarted (R140)
  lastTemp : Nat := 0  -- HUB_TIMESTAMP of the last temperature report (R135)
  fitSent : Bool := false  -- FIT has been sent and waits for FIT_ACK (R127)
  woke : Bool := false  -- the link has come up in a wake since the last fit (R110)
  half : List Msp := []  -- sectors of lines whose other sector has yet to arrive
  heldSnoop : List Pkt := []  -- snoops kept back until the site's own answer has passed (R289)
  deriving DecidableEq, Repr

/-! ### The Prour tiles (R144–R168) -/

/-- A resident buffer (R150–R152): `rows` × `cols` elements.  Its codes and scales are kept lane by lane: a lane is a row of A or
a column of B, its elements in order of K. -/
structure Buffer where
  ctx    : Nat
  roleB  : Bool
  rows   : Nat
  cols   : Nat
  fmt    : Nat
  kib    : Nat
  codes  : List Nat
  scales : List Nat
  pois   : List Nat       -- lanes that poisoned data went into
  deriving DecidableEq, Repr

/-- A task accepted and not completed. -/
structure Task where
  seq    : Nat            -- its SEQ, or its index in a program
  bytes  : List Byte      -- the 128-byte record
  prog   : Bool
  begun  : Bool := false  -- it has started
  ran    : Bool := false  -- its work is done; the completion record is still owed
  start  : Nat := 0       -- HUB_TIMESTAMP at its start
  status : Nat := 0
  flags  : Nat := 0
  tiles  : Nat := 0       -- tiles sent
  made   : Nat := 0       -- tiles finished
  held   : List (List Msp) := []  -- finished tiles that wait in their cores for credit, oldest first (R163)
  halt   : Bool := false  -- its context was disabled: no further tile starts (R166)
  under  : Option (Nat × Nat) := none  -- hat and interrupt vector it ends under, where its context was disabled
  bufA   : Option Buffer := none  -- resident operands it still reads, where its context was disabled
  bufB   : Option Buffer := none
  deriving DecidableEq, Repr

/-- One Prour context beyond its registers. -/
structure PrtCtx where
  slots : Tbl (List Byte) := []  -- the task window, slot by slot
  tasks : List Task := []
  prog : List (List Byte) := []  -- the copied program
  count : Nat := 0  -- COUNT and REPEAT as GO found them
  again : Nat := 0
  stopping : Bool := false
  deriving DecidableEq, Repr

/-- One Prour tile. -/
structure PrtSt where
  ctx : Tbl PrtCtx := []
  bufs : Tbl (Option Buffer) := []
  hotNow : Bool := false  -- the array is paused for heat (R168)
  slow : Bool := false  -- its clock is lowered for heat (R168)
  temps : List Nat := []  -- its sensors at the last sample, as 16-bit words
  lines : List Nat := []  -- lines its coherent cache holds, by physical address / 128 (R150)
  level : Nat := 0  -- throttle level the tile holds to
  noRead : Bool := false  -- no new operand reads (FLUSH_REQ, R166)
  deriving DecidableEq, Repr

/-! ### Vector engines (R169–R230) -/

/-- A memory access of a context that has not completed: one packet, or one element range that waits for a walk. -/
structure Access where
  tag    : Nat
  group  : Nat             -- the instruction it belongs to
  write  : Bool
  scalar : Bool            -- the destination is a scalar
  dst    : Nat             -- destination register of a load
  pa     : Nat             -- physical address of its data unit
  size   : Nat             -- bytes of one element
  elems  : List (Nat × Nat)-- element index, byte offset within the data unit
  units  : List DUnit      -- what a store writes
  narrow : Bool
  walk   : Option (Nat × Nat)  -- it waits for the walk of (translation context, virtual address)
  tr     : Option (Nat × Nat)  -- the translation context and epoch it was translated under
  fid    : Option Nat      -- it waits on a fault's response
  va     : Nat             -- its offset in the segment, of the data unit's first byte
  need   : Nat             -- rights it needs: bit 0 read, 1 write, 2 atomic
  segSpan : Bool           -- its segment grants SPAN
  seg    : Nat             -- the register of the segment it was admitted under; 0 for none
  old    : Bool            -- the segment has been written since (R303)
  status : Nat             -- the highest status of its packets so far
  rights : Nat := 0        -- the hat's rights when the instruction issued (R77)
  unsent : Bool := false   -- it waits at the network interface while its partition's traffic is held (R75)
  deriving DecidableEq, Repr

/-- A trough contribution handle as the engine sees it (R227). -/
structure Handle where
  state : Nat := 0  -- 0 closed, 1 opening, 2 open, 3 refused, 4 closing
  trough : Nat := 0
  pkg : Nat := 0
  base : Nat := 0
  count : Nat := 0
  status : Nat := 0
  adds : List Nat := []  -- packets of each TRGADD without their TRG_ACK, oldest first
  sd : Nat := 0  -- the scalar that receives the status
  tag : Nat := 0  -- the mesh tag of its packets
  deriving DecidableEq, Repr

/-- One vector context (R171) beyond its registers. -/
structure VecCtx where
  s       : Tbl W64 := []
  sPois   : Nat := 0                   -- poison bits of s0–s31
  v       : Tbl Lane := []             -- register × 256 + lane
  vPois   : Nat := 0                   -- poison bits of v0–v63
  m       : Tbl Nat := []              -- masks, 1,024 bits each
  vl      : Nat := 0
  ew      : Nat := 32                  -- element width 32, 16 or 8
  tailZ   : Bool := false
  rmode   : Nat := 0
  kernel  : Nat := 0
  pend    : List Access := []
  nextTag : Nat := 0
  bad     : List (Bool × Nat × Nat) := []  -- destinations of loads refused late: scalar, register, code (R223)
  handles : Tbl Handle := []
  finish  : Option (Nat × Nat) := none -- a TRGFIN that waits for its status: scalar, mesh tag
  acq     : Option (Nat × Nat) := none -- slices that have yet to answer the SACQ before PC, its mesh tag
  far     : Bool := false              -- the last branch's target lay outside the instruction memory
  badSt   : Bool := false              -- a store has ended in an error since the start (R182)
  deriving DecidableEq, Repr

/-- One tile register beyond its VEC_TREG word. -/
structure Treg where
  cells   : Tbl Lane := []             -- row × 128 + column
  pois    : Nat := 0                   -- poison bit per row
  next    : Nat := 0                   -- next chunk of a tile that is landing
  wr      : Option W64 := none         -- a binding write held as PENDING (R195)
  readers : Nat := 0                   -- reducer jobs that read the register
  live    : Bool := false              -- a credit is out, or its tile is landing
  deriving DecidableEq, Repr

/-- A reducer job (R196, R226). -/
structure RedJob where
  ctx   : Nat
  op    : Nat                    -- 0 SUM, 1 SUMSQ, 2 MAX, 3 MIN, 4 AMAX
  axis  : Nat                    -- 0 rows, 1 columns, 2 whole tile, 3 across a vector
  reg   : Nat
  reg2  : Option Nat             -- the other engine's register
  dst   : Nat
  isInt : Bool
  tailZ : Bool                   -- tail policy and rounding mode of its context when it was issued
  rmode : Nat
  vals  : List Lane              -- a vector source, read at issue
  pois  : Bool                   -- its poison
  deriving DecidableEq, Repr

/-- A kernel load in progress (R178). -/
structure Kload where
  hat   : Nat
  entry : Nat
  len   : Nat
  base  : Nat
  src   : Nat := 0     -- physical address
  rights : Nat := 0    -- the hat's rights at GO (R77)
  deriving DecidableEq, Repr

/-- The vector units. -/
structure VecSt where
  kload : Tbl (Option Kload) := []
  red : Tbl (List RedJob) := []  -- reducer queues by engine
  last : Tbl Nat := []  -- the context that issued last on an engine (R175)
  ldmPois : List Nat := []  -- bytes of local data memory written from poisoned registers, rising (R184)
  deriving DecidableEq, Repr

/-! ### Troughs (R231–R251) -/

/-- A contribution in a trough unit. -/
structure Contrib where
  src    : Ep
  ctx    : Nat
  handle : Nat
  trough : Nat
  pkg    : Nat                   -- origin package
  hat    : Nat                   -- origin hat
  relay  : Option Nat            -- the relaying span peer's hat
  tag    : Nat
  base   : Nat
  count  : Nat
  staged : Tbl Lane
  seen   : List Nat              -- contribution indices written, rising
  sumsq  : Nat                   -- FP64 bits of the running sum of squares
  bad    : Bool
  pois   : Bool
  deriving DecidableEq, Repr

/-- An export of a trough. -/
structure TrgExport where
  hat    : Nat
  rights : Nat          -- the hat's rights at GO (R77)
  dst    : Nat
  first  : Nat
  count  : Nat
  deriving DecidableEq, Repr

/-- One trough beyond its registers. -/
structure TrgSt where
  acc : Tbl Lane := []  -- the accumulator
  toArmed : Bool := false  -- what ZEROISING leads to: ARMED, else IDLE
  adding : List Contrib := []  -- closed contributions not yet accumulated, oldest first
  exportOut : Nat := 0  -- writes of an export without their MACK
  exportSt : Nat := 0  -- the highest status of an export so far
  exporting : Option TrgExport := none  -- an export that waits for its accumulator's well (R251)
  waitCmd : Option (Nat × Nat) := none  -- REARM or DISARM waiting for an export, with its hat
  deriving DecidableEq, Repr

/-- One trough unit. -/
structure TrgUnit where
  opens : List Contrib := []
  waiting : List Contrib := []  -- opens that wait for a staging buffer, oldest first
  deriving DecidableEq, Repr

/-- The troughs. -/
structure TroughSt where
  healthy : Bool := true  -- the entropy source passes its health tests (R244)
  deriving DecidableEq, Repr

/-! ### Wells and memory (R252–R276) -/

/-- A line in a home cache, by its line key: sectors valid and dirty (two bits each), its last use. -/
structure HcLine where
  valid : Nat := 0
  dirty : Nat := 0
  used  : Nat := 0
  deriving DecidableEq, Repr

/-- A write-combining entry: its line key, its mask of written bytes, its halves poisoned by what was written (four bits). -/
structure WcEntry where
  key  : Nat
  mask : Nat
  pois : Nat
  deriving DecidableEq, Repr

/-- The wells beyond their registers and the bytes of memory.  A line key is (well × 2^40 + well-local address) div 128; a
block key that number div 2^21; a channel key well × 16 + channel. -/
structure MemSt where
  hc      : Tbl HcLine := []
  clock   : Nat := 0             -- use stamp for least-recent use
  waysOff : Tbl Nat := []        -- ways disabled, by home cache set
  wc      : Tbl (List WcEntry) := []  -- write-combining entries by well, oldest first
  clear   : List Nat := []       -- blocks pending clear, rising
  corr    : List (Nat × Nat) := []  -- corrected data errors of the last second: set × 32 + way, time
  unc     : List (Nat × Nat) := []  -- uncorrectable halves of the last millisecond: channel key, time
  stackPois : List Nat := []        -- halves (line key × 4 + half) the scrub found bad in the stack while the cache holds them, rising
  fresh   : Bool := true         -- no commit since package reset: the first makes all memory pending clear (R259)
  deriving DecidableEq, Repr

/-! ### Coherence (R277–R294) -/

/-- The directory's state of a line (R280). -/
inductive DState where
  | i | s | em | o
  deriving DecidableEq, Repr

/-- What follows the answers of a transaction: the requester is served; SNPO to the owner comes next; the entry is freed for the
line that waits for it; or the line itself waits for an entry (R281). -/
inductive TxnKind where
  | serve | snpo | recall | entry
  deriving DecidableEq, Repr

/-- A transaction open at the home (R285, R286). -/
structure Txn where
  req    : Pkt              -- the request it serves
  await  : List Nat         -- sites whose SACK or SDAT is still owed
  unsent : List (Nat × Nat) -- snoops not sent yet: site, command
  kind   : TxnKind
  data   : Option (List DUnit)  -- an owner's data
  prior  : Nat              -- what the owner answered
  fwd    : Bool
  wbk    : Bool             -- the owner's write-back is in flight (PRIOR 5)
  deriving DecidableEq, Repr

/-- One directory entry. -/
structure DirEnt where
  ds : DState := .i
  pa : Nat := 0  -- the line's physical address
  owner : Nat := 0
  grantM : Bool := false
  sharers : Nat := 0
  used : Nat := 0
  txn : Option Txn := none
  queue : List Pkt := []  -- requests that wait for the line, oldest first
  deriving DecidableEq, Repr

/-! ### Translation (R295–R321) -/

/-- Who a walk serves. -/
inductive WalkFor where
  | pump (p slot range page : Nat)       -- pump, working-set slot, 0 source 1 destination, page index
  | engine (e c tag : Nat)
  deriving DecidableEq, Repr

/-- A walk in progress. -/
structure Walk where
  for_  : WalkFor
  xctx  : Nat
  hat   : Nat
  va    : Nat
  need  : Nat               -- bit 0 read, 1 write, 2 atomic
  epoch : Nat
  level : Nat
  table : Nat
  extent : Nat
  deriving DecidableEq, Repr

/-- A translation-cache entry (R310). -/
structure TcEnt where
  quad  : Nat
  xctx  : Nat
  page  : Nat
  size  : Nat               -- log2 of the page
  pa    : Nat
  perms : Nat               -- R W A SPAN
  epoch : Nat
  deriving DecidableEq, Repr

/-- A fault record that has been formed (R317). -/
structure FaultRec where
  walk   : Walk
  reason : Nat
  entry  : Nat
  fid    : Nat
  time   : Nat
  deriving DecidableEq, Repr

/-- One translation context beyond its registers. -/
structure XctxSt where
  acks : List Ep := []  -- units that have yet to acknowledge the bump
  more : Nat := 0  -- BUMP writes that wait for BUSY to clear
  quiet : Bool := false  -- the steps run for a disable: DONE is not set
  deriving DecidableEq, Repr

/-- One fault queue beyond its registers. -/
structure FqSt where
  head : Nat := 0  -- the head value last read
  parked : List FaultRec := []  -- oldest first
  asked : List FaultRec := []  -- records that found the ring full and wait for the head word, oldest first
  open_ : List FaultRec := []  -- engine faults that wait for a response
  nextFid : Nat := 0
  irqOff : Bool := false  -- within 1 µs of a raise
  irqOwed : Bool := false
  deriving DecidableEq, Repr

/-- Translation. -/
structure XltSt where
  walks : Tbl (Option Walk) := []  -- by walker
  line : Tbl (Option (WalkFor × Nat × List Byte)) := []  -- the table line a walker keeps from its last read: whose walk, which line (R310)
  queue : List (Nat × Walk) := []  -- walks waiting, with their quadrant, oldest first
  tc : List TcEnt := []
  ctx : Tbl XctxSt := []
  fq : Tbl FqSt := []
  segRead : List (Nat × Nat × Nat) := []  -- segment reads held: register, hat, tag
  deriving DecidableEq, Repr

/-! ### Pumps (R322–R342) -/

/-- A run of pages (R311): byte offset within the range, physical address, length. -/
structure Run where
  off : Nat
  pa  : Nat
  len : Nat
  perms : Nat
  deriving DecidableEq, Repr

/-- A 4 KiB piece of a transfer in flight. -/
structure Piece where
  idx    : Nat  -- which piece of the transfer
  slot   : Nat  -- which of the pump's 16 places, in the tags of its packets
  reads  : List Nat  -- reads without their answer: unit number, 254 for the tag
  got    : List (Nat × List Byte)  -- what the answers brought: offset in the transfer, bytes
  pois   : List (Nat × Nat)  -- ranges of the transfer to be written poisoned: offset, end
  poisIn : Bool  -- the source, or the tag, came poisoned
  tag    : List Byte  -- the tag read
  tagSent : Bool  -- the tag has been written
  wrote  : Bool
  allPois : Bool  -- it was written poisoned as a whole
  writes : List Nat  -- writes without their answer
  deriving DecidableEq, Repr

/-- A descriptor in a pump's working set. -/
structure Desc where
  intake : Nat := 0
  seq : Nat := 0
  bytes : List Byte := []
  hat : Nat := 0
  admitted : Nat := 0  -- HUB_TIMESTAMP of admission
  srcRun : List Run := []
  dstRun : List Run := []
  epoch : Nat := 0
  xlat : Nat := 0  -- translation: 1 the source is walked, 2 the destination, 0 done
  fault : Option FaultRec := none  -- the fault at the lowest VA so far
  started : Nat := 0  -- pieces started
  done : Nat := 0  -- pieces completed
  moved : Nat := 0  -- bytes moved
  status : Nat := 0
  flags : Nat := 0
  stop : Bool := false  -- no further piece starts
  final : Nat := 0  -- status that ends a stopped transfer
  poisPage : Bool := false  -- a piece in flight is written poisoned: its key is being revoked
  plain : Tbl (List Byte) := []  -- plaintext measured so far, by piece, for WEIGHTS
  rights : Nat := 0  -- the hat's rights at admission (R77, R378)
  part : Nat := 0xFF  -- the hat's partition at admission
  pcs : List Piece := []  -- pieces in flight
  deriving DecidableEq, Repr

/-- One intake beyond its registers. -/
structure IntakeSt where
  slots : Tbl (List Byte) := []  -- the 64 slots' bytes
  busy : List Nat := []  -- SEQs accepted and not admitted, oldest first
  held : List Nat := []  -- SEQs whose record is still owed, admitted or not
  byHat : Bool := false  -- closing for a hat reset or removal, which ends it; else for a disable (R340, R342, R389)
  irqOff : Bool := false  -- within IRQ_HOLDOFF of a raise
  irqOwed : Bool := false
  deriving DecidableEq, Repr

/-- Steps 2 to 5 of R340 under way: the key slots, the hat removed if it is a removal's, the hats whose span writes are
drained, whether step 4 has begun, the drains not yet answered. -/
structure Revoke where
  slots  : List Nat
  hat    : Option Nat
  hats   : List Nat
  drain  : Bool
  await  : List (Nat × Nat)
  deriving DecidableEq, Repr

/-- What a pump's admission remembers (R327, R385). -/
structure Adm where
  runs : Nat := 0  -- in-budget admissions in a row, up to 32 (R385)
  pair : Nat := 0  -- the pair 8 × hat + label admitted last in budget (R385)
  turn : Tbl Nat := []  -- for each pair, the intake admitted last (R327)
  deriving DecidableEq, Repr

/-- A completion or error record that waits at its pump for the function whose aperture holds its ring (R514). -/
structure ParkedRec where
  rights  : Nat
  intake  : Nat
  pump    : Nat
  seq     : Nat
  status  : Status
  flags   : Nat
  bytes   : Nat
  user    : Nat
  elapsed : Nat
  irq     : Bool
  deriving DecidableEq, Repr

/-- The pumps. -/
structure PmpSt where
  parked : List ParkedRec := []  -- records waiting for a function in D3hot or D3cold, oldest first
  adm    : Tbl Adm := []  -- admission of each pump (R327)
  keymat : Tbl Nat := []  -- key material of a slot, as a number; 0 when zeroised
  revs : List Revoke := []  -- revocations and removals under way, oldest first
  deriving DecidableEq, Repr

/-! ### The span (R343–R372) -/

/-- A path to a peer (R356): chiplet, own port, the peer's port as 48c + port. -/
structure Path where
  chiplet : Nat
  port    : Nat
  far     : Nat
  mac     : Nat  -- the far port's MAC, as its frames show it
  deriving DecidableEq, Repr

/-- A request of this package that waits for its answer across the span. -/
structure SpanReq where
  stag : Nat
  peer : Nat
  req  : Pkt
  deriving DecidableEq, Repr

/-- A session and what is known of a peer, beyond its registers.  Sequence numbers and credits are kept as they accumulate; a
frame carries them modulo 2^32. -/
structure PeerSt where
  paths : List Path := []
  nextPsn : Nat := 0
  unacked : List SpanFrame := []  -- frames sent and not acknowledged, in PSN order
  sacked : List Nat := []  -- PSNs acknowledged out of order
  recvPsn : Nat := 0  -- next PSN to deliver
  window : List (Nat × SpanFrame) := []  -- frames received out of order, by PSN
  limit : Nat := 0  -- the peer's CREDIT limit, in 64-byte units
  used : Nat := 0  -- request units sent
  delivered : Nat := 0  -- request units delivered from the peer
  granted : Nat := 0  -- CREDIT granted to the peer
  expiries : Nat := 0  -- expiries without progress
  backoff : Nat := 0  -- the wait before the next OPEN, in ms
  moving : Bool := false  -- a handover between transport engines is under way
  ackOwed : Bool := false
  txq : List SpanMsg := []  -- messages that wait for a session, credit or the window, oldest first
  inject : List SpanMsg := []  -- requests of the peer not injected yet, oldest first
  lastBank : Tbl Nat := []  -- requester → home bank of its previous write, plus 1
  deriving DecidableEq, Repr

/-- A request of a peer that runs in the mesh: who it came from, the engine and mesh tag it was injected with, whether the
session it came by has ended. -/
structure SpanIn where
  peer  : Nat
  eng   : Nat
  tag   : Nat
  stag  : Nat
  who   : Nat
  cmd   : Nat
  label : Nat
  echo  : Nat      -- ADDR[56:8] of the request
  dead  : Bool
  deriving DecidableEq, Repr

/-- A line of the remote-line cache (R360, R362). -/
structure RlcLine where
  key    : Nat                     -- physical address div 128
  slice  : Nat
  pkgEp  : Nat
  gblEp  : Nat
  units  : List DUnit
  deriving DecidableEq, Repr

/-- A line on its way into the remote-line cache: the request that fetches it, the epochs it will be tagged with, sectors
written since; or not to be kept. -/
structure RlcFill where
  stag  : Nat
  line  : RlcLine
  wrote : List (Nat × DUnit)
  drop  : Bool
  deriving DecidableEq, Repr

/-- The span. -/
structure SpanSt where
  reqs : List SpanReq := []  -- requests without their answer, oldest first
  rlc : List RlcLine := []
  pkgEp : Tbl Nat := []  -- slice × 1024 + package → epoch
  gblEp : Tbl Nat := []  -- slice → epoch
  fills : List RlcFill := []
  ins : List SpanIn := []  -- requests of peers that run in the mesh
  drains : List (Nat × Nat) := []  -- drains asked and not answered: engine, hat
  waitDrain : List (Nat × Nat) := []  -- those an engine has received and cannot answer yet
  acqWrap : List (Nat × Pkt) := []  -- acquires that wait for lines of a returning epoch: slice, command
  nextTag : Nat := 0
  dup : Bool := false  -- a duplicate of the own ID has been seen (R368)
  deriving DecidableEq, Repr

/-! ### Hats (R373–R398) -/

/-- One regulator (R382–R384): entry point, hat, label; queue-level ones have hat 1024 + partition. -/
structure Regul where
  entry  : Ep
  hat    : Nat
  label  : Nat
  spent  : Nat
  carry  : Nat
  idle   : Bool
  deriving DecidableEq, Repr

/-- A tenant removal (R393, R394): its set, whether it clears memory, its step, what it waits for. -/
structure Removal where
  set     : List Nat := []
  clear   : Bool := false
  step    : Nat := 0
  await   : List (Ep × Nat) := []  -- units and hats that have yet to report HAT_CMD_DONE
  holding : List Nat := []         -- partitions held while their memory is marked (R396)
  inside  : List Pkt := []         -- packets on the mesh when that hold began
  kept    : Bool := false          -- a partition that keeps a live hat was not cleared
  port    : Option Nat := none     -- the host port whose grace ended
  deriving DecidableEq, Repr

/-- The hats. -/
structure HatSt where
  running : Option Removal := none
  queue : List Removal := []
  resets : List (Nat × List Ep) := []  -- hats in a hat reset and the units that have yet to answer
  orphanOf : Tbl (List (List Nat)) := []  -- port → the sets of hats its removals orphaned, oldest first
  absentLogged : List Nat := []  -- hats whose HOST_ABSENT has been logged (R391)
  reguls : List Regul := []
  acting : Option Nat := none  -- the hat on whose behalf a unit makes the register access in hand (R375)
  deriving DecidableEq, Repr

/-! ### Host ports (R399–R420) -/

/-- One packet's worth of a request of a host (R406): the bytes at an offset of a BAR (`own`: of the function's own MSI-X
structures), or for a read the number of bytes; the writes it waits for. -/
structure HostReq where
  fn    : Nat
  bar   : Nat
  own   : Bool
  addr  : Nat
  len   : Nat
  tag   : Nat               -- tag of the read TLP
  data  : List Byte         -- a write's data; a read's when it has come
  ep    : Bool
  sent  : Bool              -- injected into the mesh
  mtag  : Nat               -- its mesh tag
  wait  : List Nat          -- mesh tags of earlier posted writes without their answer
  done  : Bool
  st    : Nat
  deriving DecidableEq, Repr

/-- One function of a port. -/
structure FnSt where
  bme : Bool := false
  memEn : Bool := false
  intxOff : Bool := false
  d3hot : Bool := false
  pmeEn : Bool := false
  relaxed : Bool := false
  msixEn : Bool := false
  msixMask : Bool := false  -- function mask
  pba : List Nat := []  -- pending vectors, rising
  table : Tbl W64 := []  -- MSI-X table words
  bar4Log : Nat := 0  -- log2 of BAR4's size; 0 the default
  vfBar4Log : Nat := 0  -- of the PF: log2 of the size of each VF's BAR4; 0 the default
  cplOff : Bool := false  -- completion timeout disabled
  cfg : Tbl Nat := []  -- other configuration registers software has written
  aer : List Nat := []  -- AER errors logged, rising
  deriving DecidableEq, Repr

/-- One host port beyond its registers. -/
structure PortSt where
  fn : Tbl FnSt := []
  numVfs : Nat := 0
  vfEn : Bool := false
  posted : List HostReq := []  -- posted writes not yet acknowledged, oldest first
  reads : List HostReq := []  -- host reads waiting or outstanding
  issued : List (Nat × Pkt) := []  -- reads this port has issued to the host: host tag and the request
  nextTag : Nat := 0
  removed : Bool := false  -- removed and not ready since
  l2 : Bool := false  -- the link is in L2
  btn : Bool := false  -- the 5 s countdown runs
  wakeN : Bool := false  -- WAKE_N is asserted
  marks : List Nat := []  -- hats marked for rebind, rising
  deriving DecidableEq, Repr

/-! ### Trust (R421–R446) -/

/-- What a valid firmware image says of itself (R423): VERSION, SVN, key indices, PAYLOAD_DIGEST as a number. -/
structure Img where
  version : Nat := 0
  svn     : Nat := 0
  rsaIdx  : Nat := 0
  slhIdx  : Nat := 0
  digest  : Nat := 0
  deriving DecidableEq, Repr

/-- A bundle (R425): its wellhead image and its hub image. -/
structure Bundle where
  w : Img := {}
  h : Img := {}
  deriving DecidableEq, Repr

/-- How a request reached the wellhead, and how its answer goes back; `gone`: the exchange has been aborted. -/
inductive Via where
  | i3c
  | doe (q fn : Nat)
  | gone
  deriving DecidableEq, Repr

/-- A report request. -/
structure RptReq where
  hat     : Nat
  package : Bool
  nonce   : List Byte
  via     : Via
  deriving DecidableEq, Repr

/-- A key load in progress: what its unwrapping gives. -/
structure KeyLoad where
  slot : Nat
  via  : Via
  key  : Option Nat
  deriving DecidableEq, Repr

/-- The wellhead. -/
structure SecSt where
  slots : Tbl (Option Bundle) := []  -- slot A 0, slot B 1: what each holds, when it is whole
  run : Bundle := {}  -- the bundle that runs
  upd : Option (Nat × Bundle) := none  -- a STAGE that is writing: target slot and bundle
  stageWait : Option (Nat × Nat × ReadIn) := none  -- a STAGE whose copy waits with a held partition (R513): hat, length, what it is told
  recovery : Tbl Byte := []  -- recovery region (R428), erased bytes 0xFF
  boot : Tbl Byte := []  -- boot image region (R473), erased bytes 0xFF
  queue : List RptReq := []  -- report requests, head being served
  retakes : Nat := 0  -- of the head's snapshot
  unstable : Bool := false
  snapTime : Nat := 0
  loads : List KeyLoad := []  -- oldest first
  keyLoads : Nat := 0  -- key-slot loads since package reset (R438)
  partResets : Tbl Nat := []  -- partition resets since package reset
  answer : List Byte := []  -- the I3C answer
  readPos : Nat := 0
  ibi : Bool := false  -- an in-band interrupt is raised
  linkLost : Bool := false  -- its link to the hub is lost (R484)
  alwaysOn : Bool := true  -- the always-on rail is good
  armCfg : Tbl (List Nat) := []  -- trough configuration and time at ARM, for reports
  deriving DecidableEq, Repr

/-! ### Bring-up, reset and test (R469–R495, R508) -/

/-- A partition reset in progress (R481). -/
structure PartRst where
  step : Nat := 0
  wasDown : Bool := false
  failed : List Nat := []  -- sites whose flush failed
  deriving DecidableEq, Repr

/-- Bring-up, resets, clocks, pins and test access. -/
structure SysSt where
  calFail : List Nat := []  -- regions whose idle calibration failed at code 31 (R43)
  pwrOk : Bool := true
  pkgRstN : Bool := true  -- PKG_RST_N is deasserted
  faultN : Bool := false  -- PKG_FAULT_N is asserted
  coreClk : Bool := true
  aonClk : Bool := true
  begun : Bool := false  -- bring-up has begun since power-on
  start : Nat := 0  -- HUB_TIMESTAMP when it began
  romDone : Bool := false  -- step 1 has ended
  fuseDone : Bool := false  -- step 2
  imgDone : Bool := false  -- step 3
  testDone : Bool := false  -- step 4
  memDone : Bool := false  -- step 5
  cfgDone : Bool := false  -- step 7
  offEng : List Nat := []  -- engines fused off
  offPump : List Nat := []
  offWalk : List Nat := []
  offTrgU : List Nat := []  -- trough units fused off
  offRed : List Nat := []  -- reducers lost (R478)
  offPort : List Nat := []  -- host ports that stay down
  offSpan : List Nat := []  -- transport engines fused off
  offWay : List Nat := []  -- home cache sets that have lost a way, once for each
  offBridge : List Nat := []  -- network-bridge modules lost: chiplet × 8 + module
  unburned : List (Nat × Nat × Bool) := []  -- repairs held for this bring-up: class, object, fused off
  unit : Option (Nat × Nat) := none  -- unit reset in progress: kind and unit
  part : Tbl (Option PartRst) := []
  partWait : List Nat := []  -- partition resets that wait for a commit's step 6 (R82)
  closing : Bool := false  -- the CLOSE phase of HUB_PKG_RESET
  netLost : List Nat := []  -- network chiplets whose link or clock is lost
  ltest : LandTest := {}
  ir : Nat := 0  -- JTAG instruction register
  scan : List Byte := []  -- the selected test data register
  die : Option Nat := none  -- the die whose port DIESEL has put into the scan path
  scanned : Bool := false  -- scan has left the hub's state undefined (R490)
  deriving DecidableEq, Repr

end Sys2Proof.Machine
end

