-- ==== Sys2Proof/Machine/State.lean ====
section
/-! DEFINITION. The state of the block as plain data.  A register of the map is held in `regs` under its address
(Machine/Regs.lean); what no register shows is held in the other fields.  An unlisted key of a table reads as its reset
value (Machine/Prog.lean), so the state after reset lists nothing. -/

namespace Sys2Proof.Machine

/-- Everything the block holds but its queue of waiting commands.  Keys: `dom` power domain, `cap` cap controller (0 the
package, 1 + p partition p), `slot` cistern slot, `ctx` engine × 4 + context, `treg` engine × 16 + register, `imem`
engine × 32,768 + index, `ldm` engine × 524,288 + offset, `trg` trough, `trgU` trough unit, `work` pump × 64 + slot,
`peer` package number, `bytes` well × 2^40 + well-local address, `pois` that number div 32, `dir` that number div 128. -/
structure Block where
  regs   : Tbl W64
  free   : Nat                    -- the model's own: how many free values have been taken (notes/assumptions/2.md)
  logs   : List (Nat × Nat)       -- the error log of R32: status code and subject, oldest first
  outs   : List Out               -- what the block has sent to agents outside it, oldest first
  tmg    : Tbl RegionSt
  dom    : Tbl DomSt
  cap    : Tbl CapSt
  pwr    : PwrSt
  slot   : Tbl Slot
  cis    : CisSt
  noc    : NocSt
  glv    : Tbl GloveSt
  prt    : Tbl PrtSt
  ctx    : Tbl VecCtx
  treg   : Tbl Treg
  imem   : Tbl W64
  ldm    : Tbl Byte
  vec    : VecSt
  trg    : Tbl TrgSt
  trgU   : Tbl TrgUnit
  trough : TroughSt
  bytes  : Tbl Byte
  pois   : List Nat
  mem    : MemSt
  dir    : Tbl DirEnt
  xlt    : XltSt
  intake : Tbl IntakeSt
  work   : Tbl (Option Desc)
  pmp    : PmpSt
  peer   : Tbl PeerSt
  span   : SpanSt
  hats   : HatSt
  port   : Tbl PortSt
  sec    : SecSt
  sys    : SysSt
  deriving DecidableEq, Repr

/-- The machine: the block and the commands that wait, first in first out. -/
structure State where
  blk     : Block
  pending : List Instr
  deriving DecidableEq, Repr

/-- Why a step stops with a fault.  No command of this block does: the manual gives every command an effect in every
state, and an event whose condition does not hold changes nothing (notes/assumptions/4.md).  Safe: never raised. -/
inductive Fault where
  /-- Raised by nothing. Safe. -/
  | none
  deriving DecidableEq, Repr

/-- Why a command is refused. -/
inductive Refusal where
  /-- A command without its meaning; the string is its row of the opcode table. Safe: the step does not go on. -/
  | notModelled (mnemonic : String)
  deriving DecidableEq, Repr

/-- The block right after a package reset: every table empty, so every register and store reads as its reset value. -/
def Block.reset : Block :=
  { regs := [], free := 0, logs := [], outs := [], tmg := [], dom := [], cap := [], pwr := {}, slot := [], cis := {},
    noc := {}, glv := [], prt := [], ctx := [], treg := [], imem := [], ldm := [], vec := {}, trg := [], trgU := [],
    trough := {}, bytes := [], pois := [], mem := {}, dir := [], xlt := {}, intake := [], work := [], pmp := {},
    peer := [], span := {}, hats := {}, port := [], sec := {}, sys := {} }

/-- The machine right after reset: nothing waits. -/
def State.reset : State := { blk := Block.reset, pending := [] }

end Sys2Proof.Machine
end

