-- ==== Sys2Proof/Machine/Prog.lean ====
section
/-! DEFINITION. How a meaning changes the block: a program of edits.  An edit changes one part of the block in one way;
a program does nothing, does one edit, does two programs in turn, or looks at the block and goes on.  Every command's
meaning is such a program, run on everything but the queue.  What holds of every edit therefore holds of every command. -/

namespace Sys2Proof.Machine

/-! ### What unlisted keys read as -/

/-- What a register reads as while nothing has changed it: its reset value (R11 and the register tables).  The tables give
a few families a reset value that differs from copy to copy. -/
def resetVal (a : Nat) : W64 :=
  if a = Reg.HAT_INFO 0 then putFld (putFld 0 Fl.HAT_INFO_PARTITION 0xFF) Fl.HAT_INFO_RIGHTS 0x3FFFF
  else if a = Reg.HAT_CTL 0 then putFld (putFld (putFld 0 Fl.HAT_CTL_STATE 1) Fl.HAT_CTL_BOUND 1) Fl.HAT_CTL_PORT 0x100
  else if a = Reg.HAT_PORT 0x100 then putFld 0 Fl.HAT_PORT_VALID 1
  else if a = Reg.CFG_EXPORT_LEN then BitVec.ofNat 64 (canonicalImage 0xB0 0x0A 0 emptyRecs).length
  else if Reg.CFG_STATE_DIGEST 0 ≤ a ∧ a ≤ Reg.CFG_STATE_DIGEST 5 ∧ a % 8 = 0 then
    BitVec.ofNat 64 (bits (Config.sha384 (canonicalImage 0xB0 0x0A 0 emptyRecs)) (8 * (a - Reg.CFG_STATE_DIGEST 0)) 64)
  else match Regs.find a with
    | none => 0
    | some (d, _) =>
      if Reg.PWR_DOM_CTL 17 ≤ a ∧ a < Reg.PWR_DOM_CTL 20 then
        if a % 16 = 0 then putFld (Regs.resetWord d) Fl.PWR_DOM_CTL_LOWEST 4
        else putFld (Regs.resetWord d) Fl.PWR_DOM_STATUS_FLOOR 4
      else Regs.resetWord d

/-- Package memory that nothing has written reads as zero (R259, R261). -/
def memDefault (_ : Nat) : Byte := 0

/-! ### Reading -/

namespace Block

/-- The word a register holds. -/
def w (b : Block) (a : Nat) : W64 := Tbl.get resetVal a b.regs

/-- The value of a field of a register. -/
def f (b : Block) (a : Nat) (fl : Fld) : Nat := getFld (b.w a) fl

/-- Whether a field is not zero. -/
def on (b : Block) (a : Nat) (fl : Fld) : Bool := decide (b.f a fl ≠ 0)

def region (b : Block) (r : Nat) : RegionSt := Tbl.get (fun _ => {}) r b.tmg
def domSt (b : Block) (d : Nat) : DomSt := Tbl.get (fun _ => {}) d b.dom
def capSt (b : Block) (k : Nat) : CapSt := Tbl.get (fun _ => {}) k b.cap
def slotSt (b : Block) (n : Nat) : Slot := Tbl.get (fun _ => {}) n b.slot
def site (b : Block) (g : Nat) : GloveSt := Tbl.get (fun _ => {}) g b.glv
def prtTile (b : Block) (g : Nat) : PrtSt := Tbl.get (fun _ => {}) g b.prt
def vctx (b : Block) (k : Nat) : VecCtx := Tbl.get (fun _ => {}) k b.ctx
def tregSt (b : Block) (k : Nat) : Treg := Tbl.get (fun _ => {}) k b.treg
def imemAt (b : Block) (k : Nat) : W64 := Tbl.get (fun _ => 0) k b.imem
def ldmAt (b : Block) (k : Nat) : Byte := Tbl.get (fun _ => 0) k b.ldm
def trgSt (b : Block) (t : Nat) : TrgSt := Tbl.get (fun _ => {}) t b.trg
def trgUnit (b : Block) (u : Nat) : TrgUnit := Tbl.get (fun _ => {}) u b.trgU
def byteAt (b : Block) (k : Nat) : Byte := Tbl.get memDefault k b.bytes
def intakeSt (b : Block) (i : Nat) : IntakeSt := Tbl.get (fun _ => {}) i b.intake
def workAt (b : Block) (k : Nat) : Option Desc := Tbl.get (fun _ => none) k b.work
def peerSt (b : Block) (n : Nat) : PeerSt := Tbl.get (fun _ => {}) n b.peer
def portSt (b : Block) (q : Nat) : PortSt := Tbl.get (fun _ => {}) q b.port

/-- A directory entry; a line with none is I (R280). -/
def dirDefault : DirEnt := {}
def dirEnt (b : Block) (k : Nat) : DirEnt := Tbl.get (fun _ => dirDefault) k b.dir

/-- The committed records. -/
def recs (b : Block) : List Rec := b.cis.committed

/-- HUB_TIMESTAMP in ns. -/
def now (b : Block) : Nat := (b.w Reg.HUB_TIMESTAMP).toNat

end Block

/-! ### Edits -/

/-- One change of one part of the block. -/
inductive Edit where
  | reg (a : Nat) (v : W64)
  | fld (a : Nat) (fl : Fld) (v : Nat)
  | wipe (keep : Nat → Bool)                -- every register but those kept reads as its reset value again
  | free
  | log (code subject : Nat)
  | out (o : Out)
  | outs (g : List Out → List Out)
  | tmg (r : Nat) (g : RegionSt → RegionSt)
  | dom (d : Nat) (g : DomSt → DomSt)
  | cap (k : Nat) (g : CapSt → CapSt)
  | pwr (g : PwrSt → PwrSt)
  | slot (n : Nat) (g : Slot → Slot)
  | cis (g : CisSt → CisSt)
  | noc (g : NocSt → NocSt)
  | glv (s : Nat) (g : GloveSt → GloveSt)
  | prt (s : Nat) (g : PrtSt → PrtSt)
  | ctx (k : Nat) (g : VecCtx → VecCtx)
  | treg (k : Nat) (g : Treg → Treg)
  | imem (k : Nat) (l : List W64)
  | ldm (k : Nat) (l : List Byte)
  | ldmDrop (lo hi : Nat)                   -- local data memory in the range reads 0
  | imemDrop (lo hi : Nat)
  | vec (g : VecSt → VecSt)
  | trg (t : Nat) (g : TrgSt → TrgSt)
  | trgU (u : Nat) (g : TrgUnit → TrgUnit)
  | trough (g : TroughSt → TroughSt)
  | bytes (k : Nat) (l : List Byte)         -- package memory, from key k on
  | bytesDrop (lo hi : Nat)                 -- package memory in the range reads as never written
  | pois (half : Nat) (on : Bool)
  | poisDrop (lo hi : Nat)                  -- no half of the range is poisoned
  | mem (g : MemSt → MemSt)
  | dir (k : Nat) (g : DirEnt → DirEnt)
  | dirKeep (p : Nat → Bool)                -- lines not kept have no entry
  | xlt (g : XltSt → XltSt)
  | intake (i : Nat) (g : IntakeSt → IntakeSt)
  | work (k : Nat) (d : Option Desc)
  | pmp (g : PmpSt → PmpSt)
  | peer (n : Nat) (g : PeerSt → PeerSt)
  | span (g : SpanSt → SpanSt)
  | hats (g : HatSt → HatSt)
  | port (q : Nat) (g : PortSt → PortSt)
  | sec (g : SecSt → SecSt)
  | sys (g : SysSt → SysSt)
  | fresh                                   -- every unit as a package reset leaves it; registers and stores are wiped apart

/-- The default of a table whose unlisted keys all read alike. -/
def dflt {V : Type} (v : V) (_ : Nat) : V := v

/-- Change one key of a table of records. -/
def Tbl.upd {V : Type} [DecidableEq V] (v0 : V) (k : Nat) (g : V → V) (t : Tbl V) : Tbl V :=
  Tbl.set (dflt v0) k (g (Tbl.get (dflt v0) k t)) t

/-- Doing an edit. -/
def Edit.apply (b : Block) : Edit → Block
  | .reg a v => { b with regs := Tbl.set resetVal a v b.regs }
  | .fld a fl v => { b with regs := Tbl.set resetVal a (putFld (Tbl.get resetVal a b.regs) fl v) b.regs }
  | .wipe keep => { b with regs := Tbl.keep keep b.regs }
  | .free => { b with free := b.free + 1 }
  | .log code subject => { b with logs := b.logs ++ [(code, subject)] }
  | .out o => { b with outs := b.outs ++ [o] }
  | .outs g => { b with outs := g b.outs }
  | .tmg r g => { b with tmg := Tbl.upd {} r g b.tmg }
  | .dom d g => { b with dom := Tbl.upd {} d g b.dom }
  | .cap k g => { b with cap := Tbl.upd {} k g b.cap }
  | .pwr g => { b with pwr := g b.pwr }
  | .slot n g => { b with slot := Tbl.upd {} n g b.slot }
  | .cis g => { b with cis := g b.cis }
  | .noc g => { b with noc := g b.noc }
  | .glv s g => { b with glv := Tbl.upd {} s g b.glv }
  | .prt s g => { b with prt := Tbl.upd {} s g b.prt }
  | .ctx k g => { b with ctx := Tbl.upd {} k g b.ctx }
  | .treg k g => { b with treg := Tbl.upd {} k g b.treg }
  | .imem k l => { b with imem := Tbl.setRun (dflt 0) k l b.imem }
  | .ldm k l => { b with
      ldm := Tbl.setRun (dflt 0) k l b.ldm,
      vec := { b.vec with ldmPois := b.vec.ldmPois.filter fun i => decide (i < k ∨ k + l.length ≤ i) } }
  | .ldmDrop lo hi => { b with
      ldm := Tbl.clearRange lo hi b.ldm, vec := { b.vec with ldmPois := b.vec.ldmPois.filter fun i => decide (i < lo ∨ hi ≤ i) } }
  | .imemDrop lo hi => { b with imem := Tbl.clearRange lo hi b.imem }
  | .vec g => { b with vec := g b.vec }
  | .trg t g => { b with trg := Tbl.upd {} t g b.trg }
  | .trgU u g => { b with trgU := Tbl.upd {} u g b.trgU }
  | .trough g => { b with trough := g b.trough }
  | .bytes k l => { b with bytes := Tbl.setRun memDefault k l b.bytes }
  | .bytesDrop lo hi => { b with bytes := Tbl.clearRange lo hi b.bytes }
  | .pois half on => { b with pois := if on then insertNat half b.pois else removeNat half b.pois }
  | .poisDrop lo hi => { b with pois := b.pois.filter fun h => h < lo || hi ≤ h }
  | .mem g => { b with mem := g b.mem }
  | .dir k g => { b with dir := Tbl.upd Block.dirDefault k g b.dir }
  | .dirKeep p => { b with dir := Tbl.keep p b.dir }
  | .xlt g => { b with xlt := g b.xlt }
  | .intake i g => { b with intake := Tbl.upd {} i g b.intake }
  | .work k d => { b with work := Tbl.set (dflt none) k d b.work }
  | .pmp g => { b with pmp := g b.pmp }
  | .peer n g => { b with peer := Tbl.upd {} n g b.peer }
  | .span g => { b with span := g b.span }
  | .hats g => { b with hats := g b.hats }
  | .port q g => { b with port := Tbl.upd {} q g b.port }
  | .sec g => { b with sec := g b.sec }
  | .sys g => { b with sys := g b.sys }
  | .fresh => { Block.reset with
      regs := b.regs, free := b.free, outs := b.outs, bytes := b.bytes, pois := b.pois,
      pwr := b.pwr, sec := b.sec, sys := b.sys, tmg := b.tmg }

/-! ### Programs -/

/-- A program of edits. -/
inductive Prog where
  | skip
  | edit (e : Edit)
  | seq (p q : Prog)
  | read (k : Block → Prog)

/-- Running a program. -/
def Prog.run : Prog → Block → Block
  | .skip, b => b
  | .edit e, b => e.apply b
  | .seq p q, b => q.run (p.run b)
  | .read k, b => (k b).run b

/-- Programs one after another. -/
def Prog.all (l : List Prog) : Prog := l.foldr Prog.seq Prog.skip

/-- One program for each member of a list, in order. -/
def Prog.each {α : Type} (l : List α) (k : α → Prog) : Prog := l.foldr (fun x p => Prog.seq (k x) p) Prog.skip

/-- A program, if a condition holds. -/
def Prog.when (c : Bool) (p : Prog) : Prog := if c then p else .skip

/-- A program over what is there, if it is there. -/
def Prog.for? {α : Type} (o : Option α) (k : α → Prog) : Prog :=
  match o with
  | none => .skip
  | some x => k x

/-- The package is held in reset (R469, R508, R511): PWR_OK low, PKG_RST_N asserted, REFCLK_CORE lost, or stopped by the trip
comparator. -/
def Block.held (b : Block) : Bool := !b.sys.pwrOk || !b.sys.pkgRstN || !b.sys.coreClk || b.pwr.thermtrip

/-- The step of what works also while the package is held in reset: its program, on everything but the queue. -/
def State.runRaw (s : State) (p : Prog) : Host.Outcome State Fault Refusal := .next { s with blk := p.run s.blk }

/-- The step of a meaning of the wellhead's: nothing while the package is held in reset. -/
def State.runWell (s : State) (p : Prog) : Host.Outcome State Fault Refusal := s.runRaw (.read fun b => .when (!b.held) p)

/-- The step a meaning makes: its program, on everything but the queue; nothing while the package is held in reset, nor once scan
has left the hub's state undefined, until the package reset that must follow (R490). -/
def State.run (s : State) (p : Prog) : Host.Outcome State Fault Refusal := s.runWell (.read fun b => .when (!b.sys.scanned) p)

/-! ### Edits as programs -/

def setR (a : Nat) (v : W64) : Prog := .edit (.reg a v)
def setF (a : Nat) (fl : Fld) (v : Nat) : Prog := .edit (.fld a fl v)
def logEv (code subject : Nat) : Prog := .edit (.log code subject)
def send (o : Out) : Prog := .edit (.out o)
def modRegion (r : Nat) (g : RegionSt → RegionSt) : Prog := .edit (.tmg r g)
def modDom (d : Nat) (g : DomSt → DomSt) : Prog := .edit (.dom d g)
def modCap (k : Nat) (g : CapSt → CapSt) : Prog := .edit (.cap k g)
def modPwr (g : PwrSt → PwrSt) : Prog := .edit (.pwr g)
def modSlot (n : Nat) (g : Slot → Slot) : Prog := .edit (.slot n g)
def modCis (g : CisSt → CisSt) : Prog := .edit (.cis g)
def modNoc (g : NocSt → NocSt) : Prog := .edit (.noc g)
def modGlv (s : Nat) (g : GloveSt → GloveSt) : Prog := .edit (.glv s g)
def modPrt (s : Nat) (g : PrtSt → PrtSt) : Prog := .edit (.prt s g)
def modCtx (k : Nat) (g : VecCtx → VecCtx) : Prog := .edit (.ctx k g)
def modTreg (k : Nat) (g : Treg → Treg) : Prog := .edit (.treg k g)
def modVec (g : VecSt → VecSt) : Prog := .edit (.vec g)
def modTrg (t : Nat) (g : TrgSt → TrgSt) : Prog := .edit (.trg t g)
def modTrgU (u : Nat) (g : TrgUnit → TrgUnit) : Prog := .edit (.trgU u g)
def modTrough (g : TroughSt → TroughSt) : Prog := .edit (.trough g)
def modMem (g : MemSt → MemSt) : Prog := .edit (.mem g)
def modDir (k : Nat) (g : DirEnt → DirEnt) : Prog := .edit (.dir k g)
def modXlt (g : XltSt → XltSt) : Prog := .edit (.xlt g)
def modIntake (i : Nat) (g : IntakeSt → IntakeSt) : Prog := .edit (.intake i g)
def setWork (k : Nat) (d : Option Desc) : Prog := .edit (.work k d)
def modPmp (g : PmpSt → PmpSt) : Prog := .edit (.pmp g)
def modPeer (n : Nat) (g : PeerSt → PeerSt) : Prog := .edit (.peer n g)
def modSpan (g : SpanSt → SpanSt) : Prog := .edit (.span g)
def modHats (g : HatSt → HatSt) : Prog := .edit (.hats g)
def modPort (q : Nat) (g : PortSt → PortSt) : Prog := .edit (.port q g)
def modSec (g : SecSt → SecSt) : Prog := .edit (.sec g)
def modSys (g : SysSt → SysSt) : Prog := .edit (.sys g)

/-- A free value: what the manual leaves open (notes/assumptions/2.md). -/
def withFree (k : Nat → Prog) : Prog := .read fun b => .seq (.edit .free) (k (Config.freeValue b.free))

/-- Add to a field that saturates. -/
def addSat (a : Nat) (fl : Fld) (n : Nat) : Prog := .read fun b => setF a fl (satAdd fl.width (b.f a fl) n)

/-- Count one in a field that saturates. -/
def incSat (a : Nat) (fl : Fld) : Prog := addSat a fl 1

/-- Add to a field that wraps. -/
def addWrap (a : Nat) (fl : Fld) (n : Nat) : Prog := .read fun b => setF a fl (b.f a fl + n)

/-- Set some bits of a field. -/
def orF (a : Nat) (fl : Fld) (m : Nat) : Prog := .read fun b => setF a fl (b.f a fl ||| m)

/-- Clear some bits of a field. -/
def andNotF (a : Nat) (fl : Fld) (m : Nat) : Prog := .read fun b => setF a fl (b.f a fl - (b.f a fl &&& m))

end Sys2Proof.Machine
end

