-- ==== Sys2Proof/Machine/Ops.lean ====
section
/-! DEFINITION. Operations many commands share: the status codes, who a hat is and what it may do (R374–R377), packets put
on the mesh, interrupts raised (R388), admission charged to a regulator (R382–R386). -/

namespace Sys2Proof.Machine

/-! ### Status codes (R31, R32) -/

namespace St
abbrev ok : Status := 0x00
abbrev clipped : Status := 0x01
abbrev addrUnmapped : Status := 0x40
abbrev accessDenied : Status := 0x41
abbrev descInvalid : Status := 0x42
abbrev creditOverrun : Status := 0x43
abbrev stageStale : Status := 0x44
abbrev checkFailed : Status := 0x45
abbrev sigInvalid : Status := 0x46
abbrev digestMismatch : Status := 0x47
abbrev unsupported : Status := 0x48
abbrev notContributor : Status := 0x49
abbrev troughClosed : Status := 0x4A
abbrev fusedOff : Status := 0x4B
abbrev pageFault : Status := 0x4C
abbrev poisoned : Status := 0x80
abbrev keyRevoked : Status := 0x81
abbrev staleEpoch : Status := 0x82
abbrev spanTimeout : Status := 0x83
abbrev hostAbsent : Status := 0x84
abbrev drainAbsorbed : Status := 0x85
abbrev partitionDown : Status := 0xC0
abbrev siteFenced : Status := 0xC1
abbrev resetting : Status := 0xC2
abbrev timingMargin : Status := 0xC3
abbrev capUnreachable : Status := 0xC4
abbrev faultOverflow : Status := 0xC5
abbrev thermalThrottle : Status := 0xC6
abbrev spareConsumed : Status := 0xC7
end St

/-- Of several codes the numerically highest is reported (R32). -/
def worst (l : List Status) : Status := l.foldl max 0

/-- The request completed (R31: codes 0x00–0x3F). -/
def completed (c : Status) : Bool := decide (c < 0x40)
/-- The request was rejected without effect (R31). -/
def rejected (c : Status) : Bool := decide (0x40 ≤ c ∧ c < 0x80)
/-- The request completed with damaged or missing data (R31). -/
def damaged (c : Status) : Bool := decide (0x80 ≤ c ∧ c < 0xC0)

/-! ### Command classes (R376) -/

namespace Right
abbrev mem := 0
abbrev xmem := 1
abbrev compute := 2
abbrev xlate := 3
abbrev pumpAdmin := 4
abbrev key := 5
abbrev trgAdmin := 6
abbrev trgContrib := 7
abbrev trgRead := 8
abbrev partAdmin := 9
abbrev config := 10
abbrev hatAdmin := 11
abbrev power := 12
abbrev monitor := 13
abbrev span := 14
abbrev security := 15
abbrev test := 16
abbrev debug := 17
end Right

/-! ### The states of a hat (HAT_h_CTL) -/
namespace HatState
abbrev unused := 0
abbrev active := 1
abbrev resetting := 2
abbrev orphaned := 3
abbrev removing := 4
abbrev removed := 5
end HatState

namespace Block

def hatState (b : Block) (h : Nat) : Nat := b.f (Reg.HAT_CTL h) Fl.HAT_CTL_STATE
def hatRights (b : Block) (h : Nat) : Nat := b.f (Reg.HAT_INFO h) Fl.HAT_INFO_RIGHTS
def hatPart (b : Block) (h : Nat) : Nat := b.f (Reg.HAT_INFO h) Fl.HAT_INFO_PARTITION
def hatLabel (b : Block) (h : Nat) : Nat := b.f (Reg.HAT_INFO h) Fl.HAT_INFO_LABEL
def hatTenant (b : Block) (h : Nat) : Nat := b.f (Reg.HAT_INFO h) Fl.HAT_INFO_TENANT

/-- A hat holds a command class (R376; bits above 17 are treated as 0). -/
def holds (b : Block) (h right : Nat) : Bool := decide (h < 1024) && (b.hatRights h % 2 ^ 18).testBit right

/-- A hat's partition is the one named (R376: 0xFF is none). -/
def inPart (b : Block) (h : Nat) (p : Option Nat) : Bool :=
  decide (h < 1024) && decide (b.hatPart h ≠ 0xFF) && decide (p = some (b.hatPart h))

/-- In recovery or after a fatal failure of bring-up, ports take nothing but what R427 names, over I3C (R427, R471). -/
def i3cLimited (b : Block) : Bool :=
  b.on Reg.SEC_STATUS Fl.SEC_STATUS_RECOVERY || b.on Reg.HUB_BRINGUP Fl.HUB_BRINGUP_FAILED

/-- A port whose hat this is may command (R374), outside recovery (R427). -/
def portAdmits (b : Block) (h : Nat) : Bool :=
  !b.i3cLimited && decide (h < 1024) && (decide (b.hatState h = HatState.active) || decide (b.hatState h = HatState.resetting))

/-- A unit admits traffic under a hat (R375). -/
def unitAdmits (b : Block) (h : Nat) : Bool :=
  decide (h < 1024) && (decide (b.hatState h = HatState.active) || decide (b.hatState h = HatState.orphaned))

/-- A hat an object may be bound to: it has a record and is not removed (R397). -/
def hatRemoved (b : Block) (h : Nat) : Bool := decide (b.hatState h = HatState.removed)

/-- The hat bound at a port index (R373). -/
def boundHat (b : Block) (k : Nat) : Option Nat :=
  if b.on (Reg.HAT_PORT k) Fl.HAT_PORT_VALID then some (b.f (Reg.HAT_PORT k) Fl.HAT_PORT_HAT) else none

/-- The port index a hat is bound at. -/
def hatPort (b : Block) (h : Nat) : Option Nat :=
  if b.on (Reg.HAT_CTL h) Fl.HAT_CTL_BOUND then some (b.f (Reg.HAT_CTL h) Fl.HAT_CTL_PORT) else none

def sitePart (b : Block) (g : Nat) : Option Nat := partOfSite b.recs g
def wellPart (b : Block) (w : Nat) : Option Nat := partOfWell b.recs w
def pumpPart (b : Block) (p : Nat) : Option Nat := partOfPump b.recs p
def enginePart (b : Block) (e : Nat) : Option Nat := partOfEngine b.recs e
def troughPart (b : Block) (t : Nat) : Option Nat := partOfTrough b.recs t

/-- The package's own ID (R27, R295). -/
def ownPkg (b : Block) : Nat := (identityOf b.recs).1

/-- Site `g` is enabled (HUB_POPULATION). -/
def siteOn (b : Block) (g : Nat) : Bool := bit (b.f Reg.HUB_POPULATION Fl.HUB_POPULATION_SITE_EN) g
/-- Well `w` and its stack are enabled. -/
def wellOn (b : Block) (w : Nat) : Bool := bit (b.f Reg.HUB_POPULATION Fl.HUB_POPULATION_STACK_EN) w
/-- The kind of die at a site (R22): 0 blank, 1 Prour tile, 2 customer-supplied. -/
def siteKind (b : Block) (g : Nat) : Nat := bits (b.f Reg.HUB_POPULATION Fl.HUB_POPULATION_SITE_KIND) (2 * g) 2

/-- The site is enabled and its die is there: requests may name it (R21, R25). -/
def siteThere (b : Block) (g : Nat) : Bool := b.siteOn g && decide (b.siteKind g ≠ 0)

/-- Engine, pump, walker, reducer and trough unit in use: its well is enabled (R24) and it is not fused off (R478). -/
def engineOn (b : Block) (e : Nat) : Bool := b.wellOn (e / 2) && !b.sys.offEng.contains e
def pumpOn (b : Block) (p : Nat) : Bool := b.wellOn (p / 4) && !b.sys.offPump.contains p
def walkerOn (b : Block) (w : Nat) : Bool := !b.sys.offWalk.contains w
def reducerOn (b : Block) (w : Nat) : Bool := b.wellOn w && !b.sys.offRed.contains w
def trgUnitOn (b : Block) (u : Nat) : Bool := !b.sys.offTrgU.contains u

/-- A partition is down (R291). -/
def partDown (b : Block) (p : Nat) : Bool := bit (b.f Reg.HUB_PART_DOWN Fl.HUB_PART_DOWN_DOWN) p

end Block

/-- What a command under a hat does, if its port admits the hat (R374), or a unit that acts on the hat's behalf makes it (R375);
otherwise it completes with ACCESS_DENIED and changes nothing. -/
def underHat (h : Nat) (p : Prog) : Prog := .read fun b =>
  .when (b.portAdmits h || (decide (b.hats.acting = some h) && b.unitAdmits h)) p

/-- A command that recovery takes as well, of hat 0 over I3C (R427). -/
def inRecoveryToo (h : Nat) (p : Prog) : Prog := .read fun b => if b.i3cLimited then .when (decide (h = 0)) p else underHat h p

/-! ### Packets -/

/-- Put a packet on the mesh. -/
def sendPkt (p : Pkt) : Prog := modNoc fun n => { n with net := n.net ++ [p] }

/-- Take a packet that has reached its receiver off the mesh. -/
def takePkt (p : Pkt) : Prog := modNoc fun n => { n with net := n.net.erase p }

/-- A packet with no data units. -/
def Pkt.bare (cmd addr tag hat : Nat) (src dst : Ep) : Pkt := ⟨cmd, addr, tag, hat, 0, false, false, src, dst, []⟩

/-- The response of an endpoint: back to the requester with its tag and hat. -/
def Pkt.reply (p : Pkt) (cmd addr : Nat) (poison : Bool) (units : List DUnit) : Pkt :=
  { p with cmd := cmd, addr := addr, poison := poison, ordered := false, src := p.dst, dst := p.src, units := units }

/-- Raise a vector of a hat (R388): an IRQ packet to the host port the hat is bound at, else to the wellhead, where the
command IRQ settles what becomes of it. -/
def raiseIrq (src : Ep) (h v : Nat) : Prog := .read fun b =>
  sendPkt (Pkt.bare 0x84 v 0 h src (match b.hatPort h with
    | some k => if k < 0x100 then .host (k / 64) else .wellhead
    | none => .wellhead))

/-- The transport engine that the span steering tables name for a package (R357). -/
def Block.spanEngOf (b : Block) (pkg : Nat) : Nat := b.f (Reg.SPN_PEER pkg) Fl.SPN_PEER_ENGINE

/-- Where a packet to a package's trough unit goes: the unit here, or the engine of the span (R240, R250). -/
def Block.troughEp (b : Block) (pkg trough : Nat) : Ep :=
  if pkg = b.ownPkg then .trough (trough / 8) else .spanEng (b.spanEngOf pkg)

/-! ### Measured state (R440) -/

/-- Measured state has changed: a report whose snapshot is being taken takes it again, up to three times; the fourth stands
and is marked unstable. -/
def measured : Prog := .read fun b =>
  .when (decide (b.sec.queue ≠ []) && decide (b.sec.retakes < 3)) (.all [
    incSat Reg.SEC_RPT Fl.SEC_RPT_RETAKES,
    modSec fun s => { s with retakes := s.retakes + 1, snapTime := b.now, unstable := decide (s.retakes = 2) }])

/-! ### Mission tests (R493–R495) -/

/-- A mission test of kind `kind` and index `index` ends early; end 3: its spare is needed, 4: a reset.  Its counts are kept: what
its checker has counted so far, which no operand tells (notes/assumptions/2.md). -/
def endMission (kind index end_ : Nat) : Prog := .read fun b =>
  let a := Reg.TST_LTEST_CTL
  .when (b.on a Fl.TST_LTEST_CTL_MISSION && decide (b.sys.ltest.kind = kind ∧ b.sys.ltest.index = index)) (.all [
    setF a Fl.TST_LTEST_CTL_BUSY 0, setF a Fl.TST_LTEST_CTL_MISSION 0, setF a Fl.TST_LTEST_CTL_END end_,
    withFree fun k => setF Reg.TST_LTEST_STAT Fl.TST_LTEST_STAT_ERR_BITS k,
    withFree fun k => setF Reg.TST_LTEST_STAT Fl.TST_LTEST_STAT_ERR_WORDS k,
    modSys fun s => { s with ltest := {} }])

/-- A spare is SUSPECT and counts as none (R495): the spare module of a site, spare s of a network chiplet. -/
def Block.modSuspect (b : Block) (g : Nat) : Bool := bit (b.f Reg.TST_SPARE Fl.TST_SPARE_MOD_SUSPECT) g
def Block.laneSuspect (b : Block) (c s : Nat) : Bool := bit (b.f Reg.TST_SPARE Fl.TST_SPARE_LANE_SUSPECT) (2 * c + s)

/-! ### Windows and spares -/

/-- A recalibration window is open on a region (R51). -/
def Block.windowAt (b : Block) (r : Nat) : Bool := decide ((b.region r).phase ≠ .closed)

/-- The spare of its quadrant that stands in for a pump; the spare walker stands in for a walker (R477, HUB_SPARE). -/
def Block.pumpSpare (b : Block) (p : Nat) : Option Nat :=
  let a := Reg.HUB_SPARE (p / 12)
  if b.on a Fl.HUB_SPARE_P0_USED ∧ b.f a Fl.HUB_SPARE_P0_FOR = p then some 0
  else if b.on a Fl.HUB_SPARE_P1_USED ∧ b.f a Fl.HUB_SPARE_P1_FOR = p then some 1 else none
def Block.walkerSpare (b : Block) (w : Nat) : Bool :=
  b.on (Reg.HUB_SPARE (w / 8)) Fl.HUB_SPARE_WK_USED && decide (b.f (Reg.HUB_SPARE (w / 8)) Fl.HUB_SPARE_WK_FOR = w)

/-- The timing region of a pump (R41, R477): its well's, or its quadrant's fabric when a spare stands in for it. -/
def Block.pumpRegion (b : Block) (p : Nat) : Nat := if (b.pumpSpare p).isSome then 12 + p / 12 else p / 4

/-! ### Regulation (R382–R386) -/

/-- The regulators of an entry point and its reference rate in bytes per µs (R382). -/
def regulatorRoom : Ep → Nat
  | .engine _ => 4
  | .glove _ _ => 32
  | _ => 64

def Block.refRate (b : Block) : Ep → Nat
  | .engine _ => 200000
  | .glove g _ =>
    let r := (b.site g).agreed.rate
    if r = 2 then 960000 else if r = 1 then 720000 else 480000
  | .spanEng _ => 300000
  | _ => 128000

/-- WINDOW_US, clamped to 1–100. -/
def Block.windowUs (b : Block) : Nat := max 1 (min 100 (b.f Reg.HAT_LBL_CTL Fl.HAT_LBL_CTL_WINDOW_US))

/-- The LABEL_BUDGET record of a pair: share and burst in bytes. -/
def Block.budget (b : Block) (h lbl : Nat) : Option (Nat × Nat) :=
  ((budgetsOf b.recs).find? fun e => e.1 = h ∧ e.2.1 = lbl).map fun e => (e.2.2.1, e.2.2.2 * 1024)

/-- The sum of a partition and label's record shares. -/
def Block.shareSum (b : Block) (p lbl : Nat) : Nat :=
  (budgetsOf b.recs).foldl (fun n e => if b.hatPart e.1 = p ∧ e.2.1 = lbl then n + e.2.2.1 else n) 0

/-- The share a regulator has (R383, R384): that of its record, or of the queue-level rest. -/
def Block.regShare (b : Block) (r : Regul) : Nat :=
  if r.hat < 1024 then ((b.budget r.hat r.label).map Prod.fst).getD 0
  else
    let p := r.hat - 1024
    1000 - b.shareSum p r.label +
      (budgetsOf b.recs).foldl (fun n e =>
        if b.hatPart e.1 = p ∧ e.2.1 = r.label ∧
            ¬ (b.hats.reguls.any fun x => x.entry = r.entry ∧ x.hat = e.1 ∧ x.label = r.label)
        then n + e.2.2.1 else n) 0

/-- Under a set of records partition `p` uses timing region `r` (R41, R46): a well, engine, pump, site or trough of the partition
lies in it. -/
def usesRegionOf (l : List Rec) (p r : Nat) : Bool :=
  if r < 12 then
    decide (partOfWell l r = some p) || ([2 * r, 2 * r + 1].any fun e => partOfEngine l e = some p) ||
      ([4 * r, 4 * r + 1, 4 * r + 2, 4 * r + 3].any fun u => partOfPump l u = some p)
  else
    let q := r - 12
    ((List.range 4).any fun k => partOfSite l (4 * q + k) = some p) || ((List.range 3).any fun k => partOfWell l (3 * q + k) = some p) ||
      ((List.range 6).any fun k => partOfEngine l (6 * q + k) = some p) ||
      ((List.range 12).any fun k => partOfPump l (12 * q + k) = some p) ||
      (List.range 16).any fun k => partOfTrough l (16 * q + k) = some p

def Block.usesRegion (b : Block) (p r : Nat) : Bool := usesRegionOf b.recs p r

/-- The pacing of a power cap as an exponent of 2: 0 the package's, 1 + p partition p's (R461). -/
def Block.capPace (b : Block) (k : Nat) : Nat :=
  if k = 0 then b.f Reg.PWR_STATUS Fl.PWR_STATUS_PACE else b.f (Reg.PWR_PART (k - 1)) Fl.PWR_PART_PACE

/-! ### Activity (R463) -/

/-! The activity classes of R463; issue of format `f` is class `issue + f`. -/

namespace Act
abbrev reducer := 0
abbrev homeBank := 1
abbrev stack := 2
abbrev pumpBytes := 3
abbrev walker := 4
abbrev trough := 5
abbrev meshHop := 6
abbrev spanBytes := 7
abbrev issue := 16
end Act

/-- Count activity of a hat for the energy model. -/
def activity (h cls n : Nat) : Prog :=
  modPwr fun s => { s with activity := Tbl.upd 0 (h * 32 + cls) (fun k => k + n) s.activity }

/-- How the entry points of a partition are paced, as an exponent of 2: the lowest of the rates that the regions it uses (R46 step 4,
R49), the package cap and its own cap (R461) leave it, and one quarter while the hub junction is at its 110 °C action (R464). -/
def Block.partPace (b : Block) (p : Option Nat) : Nat :=
  let all := max (b.capPace 0) (if b.on Reg.PWR_TEMP Fl.PWR_TEMP_PACE then 2 else 0)
  match p with
  | none => all
  | some p => (List.range 16).foldl (fun n r => if b.usesRegion p r then max n (b.region r).pace else n) (max all (b.capPace (1 + p)))

/-- A well that heat paces admits at one quarter of its rate (R273). -/
def Block.heatPace (b : Block) (w : Nat) : Nat := if b.on (Reg.WEL_STATUS w) Fl.WEL_STATUS_PACE then 2 else 0

/-- The factor by which pacing scales an entry point's allowances, as an exponent of 2: the lowest rate applies (R49, R273, R386,
R461). -/
def Block.entryPace (b : Block) : Ep → Nat
  | .engine e => max (b.partPace (b.enginePart e)) (b.heatPace (e / 2))
  | .pump p => max (b.partPace (b.pumpPart p)) (b.heatPace (p / 4))
  | .glove g _ => b.partPace (b.sitePart g)
  | _ => 0

/-- A regulator's allowance in a window (R383, R386). -/
def Block.allowance (b : Block) (r : Regul) : Nat :=
  b.regShare r * b.refRate r.entry * b.windowUs / 1000 / 2 ^ b.entryPace r.entry

/-- Which regulator a pair is charged to at an entry point (R383, R384). -/
def Block.regulFor (b : Block) (e : Ep) (h lbl : Nat) : Nat :=
  let mine := b.hats.reguls.any fun x => x.entry = e ∧ x.hat = h ∧ x.label = lbl
  let room := (b.hats.reguls.filter fun x => x.entry = e ∧ x.hat < 1024).length < regulatorRoom e
  if (b.budget h lbl).isSome && (mine || room) then h else 1024 + b.hatPart h

/-- The regulator a pair is charged to, as it stands. -/
def Block.regulOf (b : Block) (e : Ep) (h lbl : Nat) : Regul :=
  let k := b.regulFor e h lbl
  (b.hats.reguls.find? fun x => x.entry = e ∧ x.hat = k ∧ x.label = lbl).getD ⟨e, k, lbl, 0, 0, true⟩

/-- A command of a pair is in budget (R383). -/
def Block.inBudget (b : Block) (e : Ep) (h lbl : Nat) : Bool :=
  let cur := b.regulOf e h lbl
  decide (cur.spent < b.allowance cur + cur.carry)

/-- Charge an admitted command (R382–R385); one that is not in budget comes from the fallback queue, and is counted there. -/
def charge (e : Ep) (h lbl bytes : Nat) : Prog := .read fun b =>
  let k := b.regulFor e h lbl
  let cur := b.regulOf e h lbl
  .all [
    modHats fun s => { s with
      reguls := s.reguls.filter (fun x => ¬ (x.entry = e ∧ x.hat = k ∧ x.label = lbl)) ++
        [{ cur with spent := cur.spent + bytes, idle := false }] },
    .when (!b.inBudget e h lbl && decide (h < 1024)) (addSat (Reg.HAT_FALLBACK h) Fl.HAT_FALLBACK_BYTES bytes)]

end Sys2Proof.Machine
end

