-- ==== Sys2Proof/Machine/Msp.lean ====
section
/-! DEFINITION. The Meone Site Protocol on the link (R113, R115, R116): header slots, data slots, credit slots and flits. -/

namespace Sys2Proof.Machine

/-- Sixteen bytes of a flit, byte 0 in bits [7:0]. -/
abbrev MspSlot := BitVec 128

/-- The header slot of a message (R115). -/
def Msp.header (m : Msp) : MspSlot := BitVec.ofNat 128 (
  m.chan % 8 * 2 ^ 125 + m.op % 256 * 2 ^ 117 + m.dlen % 8 * 2 ^ 114 + b2n m.poison * 2 ^ 113 + b2n m.ordered * 2 ^ 112 +
  m.lane % 4 * 2 ^ 110 + m.tag % 2 ^ 12 * 2 ^ 98 + m.hat % 2 ^ 10 * 2 ^ 88 + m.label % 8 * 2 ^ 85 + m.addr % 2 ^ 57 * 2 ^ 28 +
  m.arg % 2 ^ 28)

/-- Payload bytes a DLEN announces; none for one that is malformed. -/
def dlenBytes (dlen : Nat) : Option Nat :=
  if dlen = 0 then some 0 else if dlen = 2 then some 32 else if dlen = 4 ∨ dlen = 5 then some 64 else none

/-- The data slots of a message: slot i carries payload bytes 16i to 16i + 15; with DLEN 5 the byte mask follows. -/
def Msp.dataSlots (m : Msp) : List MspSlot :=
  ((List.range ((dlenBytes m.dlen).getD 0 / 16)).map fun i => BitVec.ofNat 128 (numAt m.data (16 * i) 16)) ++
    (if m.dlen = 5 then [BitVec.ofNat 128 (m.be % 2 ^ 64)] else [])

/-- A message as its slots read. -/
def Msp.ofSlots (hdr : MspSlot) (slots : List MspSlot) : Msp :=
  let h := hdr.toNat
  let dlen := bits h 114 3
  let n := (dlenBytes dlen).getD 0
  { chan := bits h 125 3, op := bits h 117 8, dlen := dlen, poison := h.testBit 113, ordered := h.testBit 112,
    lane := bits h 110 2, tag := bits h 98 12, hat := bits h 88 10, label := bits h 85 3, addr := bits h 28 57, arg := bits h 0 28,
    be := if dlen = 5 then (slots.getD (n / 16) 0).toNat % 2 ^ 64 else 0,
    data := (slots.take (n / 16)).flatMap fun s => toBytesLE 16 s.toNat }

/-- A message as the link carries it: what its slots hold. -/
def Msp.carried (m : Msp) : Msp := Msp.ofSlots m.header m.dataSlots

/-- The slot of a sender with nothing to send. -/
def nopSlot : MspSlot := BitVec.ofNat 128 (6 * 2 ^ 125)

/-- The stream of one logical module: each message's header slot, followed at once by its data slots (R113). -/
def slotStream (ms : List Msp) : List MspSlot := ms.flatMap fun m => m.header :: m.dataSlots

/-- Slots into flits of 240 protocol bytes: fifteen slots each, in byte order, a message straddling the boundary where it falls;
what is left of the last flit is NOP slots (R113). -/
def packFlits : Nat → List MspSlot → List (List Byte)
  | 0, _ | _, [] => []
  | n + 1, ss => ((List.range 15).flatMap fun i => toBytesLE 16 (ss.getD i nopSlot).toNat) :: packFlits n (ss.drop 15)

/-- The flits that carry some messages of one logical module. -/
def mspFlits (ms : List Msp) : List (List Byte) := packFlits (slotStream ms).length (slotStream ms)

/-- The credit slots that return credits, some a pool: at most 63 of a kind in each slot (R116). -/
def creditWords : Nat → Tbl Credit → List Nat
  | 0, _ => []
  | n + 1, owed =>
    let left := owed.map fun e => (e.1, (⟨e.2.hdr - 63, e.2.data - 63⟩ : Credit))
    owed.foldl (fun w e => w + (min 63 e.2.hdr + min 63 e.2.data * 64) * 2 ^ (12 * e.1)) 0 ::
      (if left.all fun e => decide (e.2.hdr = 0 ∧ e.2.data = 0) then [] else creditWords n left)

/-- Credits in the slots they go in. -/
def creditSlots (owed : Tbl Credit) : List Nat :=
  if owed.all fun e => decide (e.2.hdr = 0 ∧ e.2.data = 0) then []
  else creditWords (owed.foldl (fun n e => max n (max e.2.hdr e.2.data)) 0) owed

end Sys2Proof.Machine
end

