-- ==== Sys2Proof/Machine/Link.lean ====
section
/-! DEFINITION. What a glove sends to its site: credits (R114, R116, R120), the throttle word (R136, R137). -/

namespace Sys2Proof.Machine

/-- The pool a message to the site travels in (R114). -/
def poolToSite (m : Msp) : Nat :=
  if m.chan = 0 then 1 else if m.chan = 1 then 2 else if m.chan = 2 then 4 + m.lane
  else if m.chan = 3 then 8 else 9

/-- The pool a message from the site travels in (R114). -/
def poolFromSite (m : Msp) : Nat :=
  if m.chan = 0 then 0 else if m.chan = 1 then 3 else if m.chan = 2 then 4 + m.lane
  else if m.chan = 3 then 8 else 9

/-- The credit a message takes: one header, and one data credit for each 64-byte unit or its part (R116). -/
def creditOf (m : Msp) : Credit := ⟨1, if m.dlen = 0 then 0 else 1⟩

def credit0 : Nat → Credit := fun _ => ⟨0, 0⟩

def Credit.covers (c need : Credit) : Bool := decide (need.hdr ≤ c.hdr ∧ need.data ≤ c.data)
def Credit.sub (c need : Credit) : Credit := ⟨c.hdr - need.hdr, c.data - need.data⟩
def Credit.add (c more : Credit) : Credit := ⟨c.hdr + more.hdr, c.data + more.data⟩

/-- A link-local control message (R117). -/
def Msp.ctl (op arg : Nat) : Msp := ⟨3, op, 0, false, false, 0, 0, 0, 0, 0, arg, 0, []⟩

namespace Block

def gState (b : Block) (g : Nat) : Nat := b.f (Reg.GLV_STATUS g) Fl.GLV_STATUS_STATE

/-- The site passes traffic: fitted, its link up, not fenced. -/
def siteRuns (b : Block) (g : Nat) : Bool :=
  (b.site g).fitted && (b.site g).linkUp && !(b.site g).fenced &&
    (decide (b.gState g = 3) || decide (b.gState g = 4) || decide (b.gState g = 5))

/-- A feature bit is agreed (R130). -/
def agreedFeature (b : Block) (g k : Nat) : Bool := (b.site g).agreed.features.testBit k

end Block

/-- The logical module a message travels on (R118).  A tile has ORDERED set and a lane: the rule's sentence about BKT names its
lane, the one about ORDERED logical module 0; DEDUCED (notes/assumptions/61.md): the lane, which the rule on lanes needs. -/
def Msp.module (m : Msp) : Nat :=
  if m.chan = 2 then m.lane else if m.ordered ∨ m.chan = 3 ∨ m.chan = 4 then 0 else m.addr / 128 % 4

/-- The physical module that carries logical module `k` of a site: its own, or the next logical module's that has one (R107,
R108). -/
def Block.physModule (b : Block) (g k : Nat) : Option Nat :=
  let map := b.f (Reg.GLV_MODULES g) Fl.GLV_MODULES_MAP
  ((List.range 4).map fun i => bits map (3 * ((k + i) % 4)) 3).find? fun m => decide (m ≠ 7)

/-- The state of a power domain: 0 on, 1 retention, 2 off, 3 stepping, 4 held. -/
def Block.domState (b : Block) (d : Nat) : Nat := b.f (Reg.PWR_DOM_STATUS d) Fl.PWR_DOM_STATUS_STATE

/-- The domain sleeps: in retention or off. -/
def Block.domAsleep (b : Block) (d : Nat) : Bool := decide (b.domState d = 1) || decide (b.domState d = 2)

/-- A domain has something to power: its well is in use, or some site of its quadrant carries a die (R20, R447). -/
def Block.domThere (b : Block) (d : Nat) : Bool :=
  if d < 12 then b.wellOn d
  else if d < 16 then (List.range 4).any fun k => b.siteThere (4 * (d - 12) + k)
  else true

/-- Ask for a domain's wake, unless one is under way; one that a fused-off well or a quadrant of blank sites leaves off stays off
(R20). -/
def startWake (d : Nat) : Prog := .read fun b =>
  .when (b.domAsleep d && b.domThere d && !(b.domSt d).waking) (modDom d fun s => { s with waking := true })

/-- A packet held for a domain asks for its wake, which counts (R99, NOC_WAKE_STAT). -/
def packetWake (d : Nat) : Prog := .read fun b => .all [
  .when (b.domAsleep d && b.domThere d && !(b.domSt d).waking) (incSat Reg.NOC_WAKE_STAT Fl.NOC_WAKE_STAT_WAKES),
  startWake d]

/-- A logical module carries nothing now: it is in runtime recalibration or retrains (R107, R109), or its link domain sleeps
(R110). -/
def Block.moduleHeld (b : Block) (g k : Nat) : Bool :=
  b.domAsleep (12 + g / 4) || (b.site g).hold.testBit k || (match b.physModule g k with
    | some m => (b.site g).recal.testBit m
    | none => true)

/-- Count the bytes a message of a hat takes on a site's link: its header slot and its data slots (R115, R463). -/
def countMsp (g : Nat) (m : Msp) : Prog :=
  .when (decide (m.op < 0xC0)) (modPwr fun s => { s with mspBytes := Tbl.upd 0 (g * 1024 + m.hat) (fun k => k + 16 * (slotStream [m]).length) s.mspBytes })

/-- Send a message to the site: at once with credit and nothing of its pool waiting on its logical module, else in its turn (R109,
R119, R120); a link domain that sleeps is woken for it. -/
def toSite (g : Nat) (m : Msp) : Prog := .read fun b =>
  let s := b.site g
  let k := poolToSite m
  let c := Tbl.get credit0 k s.toSite
  if c.covers (creditOf m) && !(s.txq.any fun x => poolToSite x = k ∧ x.module = m.module) && !b.moduleHeld g m.module then
    .all [modGlv g fun s => { s with toSite := Tbl.set credit0 k (c.sub (creditOf m)) s.toSite }, countMsp g m, send (.msp g m)]
  else .all [modGlv g fun s => { s with txq := s.txq ++ [m] }, startWake (12 + g / 4)]

/-- The waiting messages that go out with the credits at hand, in order within a pool on a logical module; what still waits; the
credits left. -/
def drainQueue (held : Nat → Bool) : List Msp → List (Nat × Nat) → Tbl Credit → List Msp × List Msp × Tbl Credit
  | [], _, c => ([], [], c)
  | m :: ms, blocked, c =>
    let k := poolToSite m
    let have_ := Tbl.get credit0 k c
    if !blocked.contains (k, m.module) && have_.covers (creditOf m) && !held m.module then
      let (out, rest, c') := drainQueue held ms blocked (Tbl.set credit0 k (have_.sub (creditOf m)) c)
      (m :: out, rest, c')
    else
      let (out, rest, c') := drainQueue held ms ((k, m.module) :: blocked) c
      (out, m :: rest, c')

/-- Send what the credits at hand allow. -/
def pumpTx (g : Nat) : Prog := .read fun b =>
  let s := b.site g
  let (out, rest, c) := drainQueue (b.moduleHeld g) s.txq [] s.toSite
  .all [modGlv g fun s => { s with txq := rest, toSite := c }, .each out fun m => .all [countMsp g m, send (.msp g m)]]

/-- The wells adjacent to a site (R137). -/
def wellsBySite (g : Nat) : List Nat :=
  let q := g / 4
  if g % 4 = 0 then [3 * q, 3 * q + 1] else if g % 4 = 1 then [3 * q + 1]
  else if g % 4 = 2 then [3 * q, 3 * q + 2] else [3 * q + 2]

/-- The sites adjacent to a well (R137). -/
def sitesByWell (w : Nat) : List Nat :=
  let q := w / 3
  if w % 3 = 0 then [4 * q, 4 * q + 2] else if w % 3 = 1 then [4 * q, 4 * q + 1] else [4 * q + 2, 4 * q + 3]

/-- The power level all cap controllers together ask of a site: the highest. -/
def Block.powerLevel (b : Block) (g : Nat) : Nat :=
  (List.range 17).foldl (fun n k => max n (Tbl.get (dflt 0) g (b.capSt k).lvl)) 0

/-- Step 4 of R46 paces the partition of a site. -/
def Block.sitePaced (b : Block) (g : Nat) : Bool :=
  match b.sitePart g with
  | none => false
  | some p => (List.range 16).any fun r => decide (0 < (b.region r).pace) && b.usesRegion p r

/-- Form the throttle causes and level of a site anew, and send THROTTLE when what is sent changes (R130, R136, R137, R143:
a change while the site is fenced is recorded and sent after the refit). -/
def refreshThrottle (g : Nat) : Prog := .read fun b =>
  let heat := (wellsBySite g).any fun w => b.on (Reg.WEL_STATUS w) Fl.WEL_STATUS_HEAT
  let pw := b.powerLevel g
  let timing := b.sitePaced g
  let a := Reg.GLV_THROTTLE g
  let level := max (max (if heat then Config.heatLevel % 8 else 0) (if timing then Config.timingLevel % 8 else 0))
    (max pw (b.f a Fl.GLV_THROTTLE_SW_LEVEL))
  let sent := if b.agreedFeature g 0 || level = 0 then level else 7
  let word := sent + 8 * (b2n timing + 2 * b2n (decide (pw ≠ 0)) + 4 * b2n heat)
  .when (b.siteOn g) (.all [
    setF a Fl.GLV_THROTTLE_HEAT (b2n heat),
    setF a Fl.GLV_THROTTLE_POWER (b2n (decide (pw ≠ 0))),
    setF a Fl.GLV_THROTTLE_TIMING (b2n timing),
    setF a Fl.GLV_THROTTLE_LEVEL level,
    .when (b.siteRuns g && decide (word ≠ (b.site g).lastSent)) (.all [
      modGlv g fun s => { s with lastSent := word },
      setF (Reg.GLV_STATUS g) Fl.GLV_STATUS_THROTTLE sent,
      toSite g (Msp.ctl 0xC6 word)])])

end Sys2Proof.Machine
end

