-- ==== Sys2Proof/Machine/Hold.lean ====
section
/-! DEFINITION. What holds a partition's traffic (R75, R292, R481), what keeps a commit at its step 3 (R53, R82, R143), and how
credits withheld from a site go back to it. -/

namespace Sys2Proof.Machine

namespace Block

/-- A commit holds the traffic of partition `p`: it is between step 3 and the epoch (R73, R75). -/
def commitHolds (b : Block) (p : Nat) : Bool :=
  match b.cis.commit with
  | some c => decide (c.phase = .draining) && c.touched.testBit p
  | none => false

/-- Partition `p` is in a partition reset (R481). -/
def partResetting (b : Block) (p : Nat) : Bool := (Tbl.get (dflt none) p b.sys.part).isSome

/-- A memory clearing after removal holds partition `p` (R396). -/
def clearHolds (b : Block) (p : Nat) : Bool :=
  match b.hats.running with
  | some r => decide (r.step = 6) && r.holding.contains p
  | none => false

/-- New traffic of partition `p` is held at its entry points. -/
def partHeld (b : Block) (p : Nat) : Bool :=
  b.commitHolds p || b.partDown p || b.partResetting p || b.clearHolds p

def held? (b : Block) (p : Option Nat) : Bool :=
  match p with
  | some p => b.partHeld p
  | none => false

/-- A request's source is a unit of a held partition, or a walker: what it has outstanding still completes, and what is new it does
not send (R75). -/
def sourceHeld (b : Block) (has : Nat → Bool) (src : Ep) : Bool :=
  match src with
  | .engine e => (b.enginePart e).any has
  | .pump p => (b.pumpPart p).any has
  | .glove g _ => (b.sitePart g).any has
  | .host _ | .spanEng _ => false
  | _ => true

/-- A request for the memory of partition `p`, or a contribution to its troughs, came after a commit or a clear of its memory began
to hold it (R75, R396): it waits where it enters. -/
def entryHeld (b : Block) (k : Pkt) (p : Nat) (contribution : Bool) : Bool :=
  let waits := fun (has : Nat → Bool) (inside : List Pkt) =>
    has p && !inside.contains k && (contribution || !b.sourceHeld has k.src)
  (match b.cis.commit with
    | some c => decide (c.phase = .draining) && waits c.touched.testBit c.inside
    | none => false) ||
  (match b.hats.running with
    | some r => decide (r.step = 6) && waits r.holding.contains r.inside
    | none => false)

/-- The regions of a partition that a commit touches, under the old state or the new (R53). -/
def commitRegion (b : Block) (c : Commit) (r : Nat) : Bool :=
  (setBits c.touched 16).any fun p => b.usesRegion p r || usesRegionOf c.next p r

/-- What keeps a commit at step 3: a partition reset of a partition it touches, an open window in a region that such a
partition uses, a reset of a site it moves. -/
def commitBlocked (b : Block) (c : Commit) : Bool :=
  ((setBits c.touched 16).any b.partResetting) || ((List.range 16).any fun r => b.windowAt r && b.commitRegion c r) ||
  c.leaving.any fun g => decide ((b.site g).rst ≠ .none)

/-- A commit that quiesces region `r` is under way (R53). -/
def regionQuiescing (b : Block) (r : Nat) : Bool :=
  match b.cis.commit with
  | some c => decide (c.phase = .draining) && b.commitRegion c r
  | none => false

end Block

/-- Credit slots go out (R116). -/
def sendCredits (g : Nat) (owed : Tbl Credit) : Prog := .each (creditSlots owed) fun w =>
  send (.msp g { Msp.ctl 0 0 with chan := 5, data := toBytesLE 16 w })

/-- Return credits of a pool to the site, or keep them back: those of its requests (MEM and COH, which share pool 0) while a commit
or a flush withholds them, every pool's while a spare is substituted (R75, R107, R138).  Write-backs, eviction notices and answers
to snoops keep theirs; a site in a flush is left the credit of one write-back. -/
def returnCredit (g k : Nat) (c : Credit) (request : Bool) : Prog := .read fun b =>
  let s := b.site g
  let spare := (Tbl.get credit0 0 s.fromSite).covers ⟨2, 2⟩ || decide (s.flush = .none)
  if s.withheld && request && decide (k = 0) && spare || decide (s.hold ≠ 0) then
    modGlv g fun s => { s with owed := Tbl.set credit0 k ((Tbl.get credit0 k s.owed).add c) s.owed }
  else .all [
    modGlv g fun s => { s with fromSite := Tbl.set credit0 k ((Tbl.get credit0 k s.fromSite).add c) s.fromSite },
    sendCredits g [(k, c)]]

/-- Return what is owed of some pools. -/
def returnOwed (g : Nat) (pick : Nat → Bool) : Prog := .read fun b =>
  let owed := (b.site g).owed.filter fun e => pick e.1
  .all [
    modGlv g fun s => { s with
      owed := s.owed.filter fun e => !pick e.1,
      fromSite := owed.foldl (fun t e => Tbl.set credit0 e.1 ((Tbl.get credit0 e.1 t).add e.2) t) s.fromSite },
    sendCredits g owed]

/-- Nothing is withheld any longer; what is owed goes back, but while a spare is substituted (R107). -/
def reopenCredits (g : Nat) : Prog := .all [
  modGlv g fun s => { s with withheld := false },
  .read fun b => .when (decide ((b.site g).hold = 0)) (returnOwed g fun _ => true)]

/-- Hold the sites of the partitions a commit touches by withholding their credits (R75). -/
def holdSites (touched : Nat) : Prog := .read fun b =>
  .each ((List.range 16).filter fun g => match b.sitePart g with
    | some p => touched.testBit p
    | none => false) fun g => modGlv g fun s => { s with withheld := true }

/-- Give the sites of some partitions their credits back, but those whose credits a flush keeps (R138). -/
def releaseSites (touched : Nat) : Prog := .read fun b =>
  .each ((List.range 16).filter fun g => (match b.sitePart g with
    | some p => touched.testBit p
    | none => false) && decide ((b.site g).flush = .none)) reopenCredits

/-- A commit that waits at step 3 goes on when nothing blocks it any more (R53, R82, R143). -/
def unblockCommit : Prog := .read fun b =>
  match b.cis.commit with
  | some c => .when (decide (c.phase = .blocked) && !b.commitBlocked c) (.all [
      modCis fun s => { s with commit := some { c with phase := .draining, inside := b.noc.net } },
      holdSites c.touched])
  | none => .skip

end Sys2Proof.Machine
end

