-- ==== Sys2Proof/Machine/Addr.lean ====
section
/-! DEFINITION. Physical addresses: the local map (R27, R28), where an address lives (R254–R257), what a hat may reach
(R377, R404), the endpoint that serves it. -/

namespace Sys2Proof.Machine

/-- What a physical address names. -/
inductive Place where
  | mem (part well wl : Nat)     -- package memory: its region's partition, its well, its well-local address
  | reg (off : Nat)              -- register space
  | intake (i off : Nat)
  | site (g off : Nat)           -- a site's register window
  | host (q off : Nat)
  | remote (pkg : Nat)
  | none
  deriving DecidableEq, Repr

/-- Bytes of each share of a region. -/
def Region.share (r : Region) : Nat := if r.wells.length = 0 then 0 else r.size / r.wells.length

/-- Where the share of region `r` starts in well `w`: shares lie in ascending order of region base (R255). -/
def shareStart (l : List Region) (w : Nat) (r : Region) : Nat :=
  l.foldl (fun n x => if x.mask.testBit w ∧ x.base < r.base then n + x.share else n) 0

/-- The region that holds a local address. -/
def regionAt (l : List Region) (a : Nat) : Option Region := l.find? fun r => r.base ≤ a ∧ a < r.base + r.size

/-- The well and the well-local address of a local address of a region (R254, R255). -/
def wellOf (l : List Region) (r : Region) (a : Nat) : Nat × Nat :=
  let g := 2 ^ r.gran
  let o := a - r.base
  let n := r.wells.length
  let w := r.wells.getD (o / g % n) 0
  (w, shareStart l w r + (o / g / n) * g + o % g)

/-- The local address of a byte of a well, where a region's share holds it: R254 and R255 read backwards. -/
def localOf (l : List Region) (w wl : Nat) : Option Nat :=
  (l.find? fun r => r.mask.testBit w && decide (shareStart l w r ≤ wl ∧ wl < shareStart l w r + r.share)).map fun r =>
    let s := wl - shareStart l w r
    let g := 2 ^ r.gran
    r.base + (s / g * r.wells.length + r.wells.idxOf w) * g + s % g

/-- What a local address names under a set of records. -/
def placeLocal (recs : List Rec) (a : Nat) : Place :=
  if a < 0x8000000000 then
    match regionAt (regionsOf recs) a with
    | some r => let (w, wl) := wellOf (regionsOf recs) r a; .mem r.part w wl
    | none => .none
  else if 0x500000000000 ≤ a ∧ a < 0x500004000000 then .reg (a - 0x500000000000)
  else if 0x500004000000 ≤ a ∧ a < 0x500005000000 then .intake ((a - 0x500004000000) / 0x1000) (a % 0x1000)
  else if 0x500100000000 ≤ a ∧ a < 0x500110000000 then .site ((a - 0x500100000000) / 0x1000000) (a % 0x1000000)
  else if 0x600000000000 ≤ a ∧ a < 0x800000000000 then .host ((a - 0x600000000000) / 0x80000000000) (a % 0x80000000000)
  else .none

/-- What a physical address names (R27). -/
def Block.place (b : Block) (pa : Nat) : Place :=
  let p := pa / 2 ^ 47 % 1024
  if p = b.ownPkg then placeLocal b.recs (pa % 2 ^ 47) else .remote p

/-- The home bank of an address (R257). -/
def homeBank (pa : Nat) : Nat := bits pa 7 3 ^^^ bits pa 10 3 ^^^ bits pa 13 3

/-- The key of a byte of a well in `bytes`; a line key is this number div 128, a half key div 32, a block key div 2^21. -/
def byteKey (well wl : Nat) : Nat := well * 2 ^ 40 + wl

/-- The command classes a hat holds, as a mask (R376). -/
def Block.rightsOf (b : Block) (hat : Nat) : Nat := if hat < 1024 then b.hatRights hat % 2 ^ 18 else 0

/-- A hat with the rights given may reach package memory of partition `p` (R376, R377). -/
def Block.memRightBy (b : Block) (rights hat p : Nat) : Bool :=
  (rights.testBit Right.mem && b.inPart hat (some p)) || rights.testBit Right.xmem

def Block.memRight (b : Block) (hat p : Nat) : Bool := b.memRightBy (b.rightsOf hat) hat p

/-- The function of host q a hat's requests carry: its bound function, or the PF for hat 0 (R404). -/
def Block.hostFn (b : Block) (hat q : Nat) : Option Nat :=
  if hat = 0 then some 0
  else match b.hatPort hat with
    | some k => if k < 256 ∧ k / 64 = q then some (k % 64) else none
    | none => none

/-- One function of a host port. -/
def Block.fnSt (b : Block) (q fn : Nat) : FnSt := Tbl.get (dflt {}) fn (b.portSt q).fn

/-- The function is in D3hot, or in D3cold with its port (R412). -/
def Block.fnAsleep (b : Block) (q fn : Nat) : Bool :=
  (b.fnSt q fn).d3hot || b.on (Reg.HST_STATUS q) Fl.HST_STATUS_D3COLD

/-- Host q serves an aperture request of a hat (R404). -/
def Block.hostServes (b : Block) (hat q : Nat) : Bool :=
  match b.hostFn hat q with
  | some fn => (b.fnSt q fn).bme && !b.fnAsleep q fn
  | none => false

/-- An endpoint that is there to be sent to (R21, R98, R478). -/
def Block.epThere (b : Block) : Ep → Bool
  | .bank w _ | .wellReg w => b.wellOn w
  | .reducer w => b.reducerOn w
  | .engine e => b.engineOn e
  | .pump p => b.pumpOn p
  | .walker w => b.walkerOn w
  | .trough u => b.trgUnitOn u
  | .glove g _ => b.siteThere g
  | .host q => !b.sys.offPort.contains q
  | .spanEng e => !b.sys.offSpan.contains e
  | .netLink c m => !b.sys.offBridge.contains (8 * c + m)
  | _ => true

/-- Where a memory command of R262 goes under rights held when its command was admitted (R77), or the status with which its source completes it itself: no memory there (R29), a
right the hat lacks (R377), an endpoint that is blank or fused off (R98), register space, which only register commands reach
(R387). -/
def Block.routeBy (b : Block) (rights hat pa : Nat) : Status ⊕ Ep :=
  let to_ := fun d : Ep => if b.epThere d then .inr d else .inl St.fusedOff
  match b.place pa with
  | .mem p w _ => if b.memRightBy rights hat p then to_ (.bank w (homeBank pa)) else .inl St.accessDenied
  | .host q _ => to_ (.host q)
  | .remote n => to_ (.spanEng (b.spanEngOf n))
  | .intake i _ => to_ (.pump (b.f (Reg.PMP_INTAKE_CTL i) Fl.PMP_INTAKE_CTL_PUMP))
  | .site g _ => .inl (if b.siteThere g then St.descInvalid else St.fusedOff)
  | .reg _ => .inl St.descInvalid
  | .none => .inl St.addrUnmapped

/-- Where a memory command goes under the hat's present rights. -/
def Block.route (b : Block) (hat pa : Nat) : Status ⊕ Ep := b.routeBy (b.rightsOf hat) hat pa

/-- Memory of a ring that cannot be written: of a partition that is down, or of a host that is gone (R318, R342). -/
def Block.ringDown (b : Block) (pa : Nat) : Bool :=
  match b.place pa with
  | .mem p _ _ => b.partDown p
  | .host q _ => (b.portSt q).removed
  | _ => false

/-- A write of some bytes within one 64-byte data unit, as a packet (R262). -/
def writePkt (pa tag hat label : Nat) (data : List Byte) (pois : Bool) (src dst : Ep) : Pkt :=
  let o := pa % 64
  { cmd := 0x08, addr := pa - o, tag := tag, hat := hat, label := label, poison := false, ordered := true, src := src,
    dst := dst,
    units := [⟨(List.replicate o 0 ++ data ++ List.replicate (64 - o - data.length) 0), (2 ^ data.length - 1) * 2 ^ o, pois⟩] }

/-- The mesh tags of record writes: no other access of the unit uses them, so their answers end nothing. -/
def recordTags : Ep → List Nat
  | .pump _ => (List.range 16).map fun k => 256 * k + 253
  | _ => (List.range 4032).map fun k => k + 64

/-- A transaction of an endpoint under a tag is outstanding: its packet, or the answer, is on the mesh or waits at a home. -/
def Block.tagOut (b : Block) (e : Ep) (t : Nat) : Bool :=
  (b.noc.net.any fun p => decide (p.tag = t ∧ (p.src = e ∨ p.dst = e))) ||
    b.dir.any fun x => ((x.2.txn.map Txn.req).toList ++ x.2.queue).any fun p => decide (p.tag = t ∧ p.src = e)

/-- A tag that no outstanding record write of the unit has (R90). -/
def Block.recordTag (b : Block) (e : Ep) : Nat := ((recordTags e).find? fun t => !b.tagOut e t).getD 255

/-- Send a record of at most 64 bytes under a hat with the rights given (R77, R317, R331): nothing is sent where its address has no
home. -/
def sendRecordBy (rights : Nat) (src : Ep) (hat pa : Nat) (data : List Byte) : Prog := .read fun b =>
  match b.routeBy rights hat pa with
  | .inr d => sendPkt (writePkt pa (b.recordTag src) hat (b.hatLabel hat) data false src d)
  | .inl _ => .skip

/-- Send a record under the hat's present rights. -/
def sendRecord (src : Ep) (hat pa : Nat) (data : List Byte) : Prog := .read fun b => sendRecordBy (b.rightsOf hat) src hat pa data

end Sys2Proof.Machine
end

