-- ==== Sys2Proof/Machine/HomeBase.lean ====
section
/-! DEFINITION. A well's memory at its home (R252–R271): channels, bytes and poison, the write-combining buffer, the home cache,
blocks pending clear, errors.  `bytes` holds the current data of the home, wherever it stands; the cache and the buffer are
kept as what they hold of it.  A line key is `byteKey` div 128. -/

namespace Sys2Proof.Machine

/-! ### Keys -/

/-- The key of the line of a well-local address. -/
def lineKey (w wl : Nat) : Nat := byteKey w wl / 128

/-- The well of a line, and its well-local address. -/
def keyWell (k : Nat) : Nat := k / 2 ^ 33
def keyAddr (k : Nat) : Nat := k % 2 ^ 33 * 128

/-! ### Channels (R256, R258, R271) -/

/-- The channel of a line (R256). -/
def Block.chanOf (b : Block) (k : Nat) : Option Nat :=
  let l := setBits (b.f (Reg.WEL_CHAN (keyWell k)) Fl.WEL_CHAN_IN_SERVICE) 16
  l[(keyAddr k / 128) % l.length]?

/-- The line lies in a failed channel. -/
def Block.lineFailed (b : Block) (k : Nat) : Bool :=
  match b.chanOf k with
  | some c => bit (b.f (Reg.WEL_CHAN (keyWell k)) Fl.WEL_CHAN_FAILED) c
  | none => false

/-- A channel fails: its lines are lost until a commit maps it out. -/
def failChannel (w c : Nat) : Prog := .all [
  orF (Reg.WEL_CHAN w) Fl.WEL_CHAN_FAILED (2 ^ c),
  setF (Reg.WEL_STATUS w) Fl.WEL_STATUS_CH_FAIL 1]

/-! ### Blocks pending clear (R259, R261) -/

/-- CLEAR_PENDING and CLEARING of a well. -/
def showClear (w : Nat) : Prog := .read fun b =>
  let n := (b.mem.clear.filter fun k => decide (k / 2 ^ 19 = w)).length
  .all [
    setF (Reg.WEL_STATUS w) Fl.WEL_STATUS_CLEAR_PENDING n,
    setF (Reg.WEL_STATUS w) Fl.WEL_STATUS_CLEARING (b2n (decide (n ≠ 0)))]

/-- An access to a marked block waits until the well has cleared it: the block is marked no more. -/
def clearFirst (key : Nat) : Prog := .read fun b =>
  let blk := key / 2 ^ 14
  .when (b.mem.clear.contains blk) (.all [
    modMem fun m => { m with clear := removeNat blk m.clear }, showClear (keyWell key)])

/-! ### The write-combining buffer (R267, R270) -/

/-- The entries of a well. -/
def Block.wcOf (b : Block) (w : Nat) : List WcEntry := Tbl.get (dflt []) w b.mem.wc

/-- The bytes of half `h` of a line within its mask. -/
def halfMask (h : Nat) : Nat := (2 ^ 32 - 1) * 2 ^ (32 * h)

/-- OCCUPANCY of a well's buffer. -/
def setWc (w : Nat) (l : List WcEntry) : Prog := .all [
  modMem fun m => { m with wc := Tbl.set (dflt []) w l m.wc },
  setF (Reg.WEL_WC w) Fl.WEL_WC_OCCUPANCY l.length]

/-- An entry drains: a half written whole takes the poison of what was written; another touched half is read and merged, and
stays poisoned if it was (R267, R270). -/
def drainEntry (e : WcEntry) : Prog := .read fun b =>
  let w := keyWell e.key
  .all [
    setWc w ((b.wcOf w).filter fun x => decide (x.key ≠ e.key)),
    .each (List.range 4) fun h =>
      let m := e.mask &&& halfMask h
      let dirty := e.pois.testBit h
      if m = 0 then .when dirty (.edit (.pois (e.key * 4 + h) true))
      else if m = halfMask h then .edit (.pois (e.key * 4 + h) dirty)
      else .all [
        incSat (Reg.WEL_WC w) Fl.WEL_WC_MERGE_READS,
        .when dirty (.edit (.pois (e.key * 4 + h) true))]]

/-- The entry of a line drains, if there is one. -/
def drainLine (key : Nat) : Prog := .read fun b =>
  .for? ((b.wcOf (keyWell key)).find? fun e => decide (e.key = key)) drainEntry

/-- The oldest entries drain while the buffer holds 192 or more. -/
def drainOldest (w : Nat) : Prog := .read fun b =>
  .each ((b.wcOf w).take ((b.wcOf w).length - 191)) drainEntry

/-- Everything in the buffer of a well drains (R267, R275). -/
def drainWell (w : Nat) : Prog := .read fun b => .each (b.wcOf w) drainEntry

/-! ### The home cache (R253, R265) -/

def Block.hcLine (b : Block) (key : Nat) : HcLine := Tbl.get (dflt {}) key b.mem.hc

/-- Ways of a set in use. -/
def Block.hcWays (b : Block) (set : Nat) : Nat := 16 - Tbl.get (dflt 0) set b.mem.waysOff

/-- The home bank of a line (R257): its address is that of the share that holds it; the reserve has none, and its well-local
address stands for it. -/
def Block.keyBank (b : Block) (key : Nat) : Nat :=
  homeBank ((localOf (regionsOf b.recs) (keyWell key) (keyAddr key)).getD (keyAddr key))

/-- A line's home cache set among those of all banks: 3,072 of each bank of each well (R253). -/
def Block.hcSetOf (b : Block) (key : Nat) : Nat := (keyWell key * 8 + b.keyBank key) * 3072 + Config.hcSet key

/-- A line's directory set among those of all banks: 32,768 of each bank of each well (R280). -/
def Block.dirSetOf (b : Block) (key : Nat) : Nat := (keyWell key * 8 + b.keyBank key) * 32768 + Config.dirSet key

/-- A line leaves the cache: a dirty sector goes to the stack with its poison; where a clean one goes, the stack's copy is the
current one, poisoned if the scrub found it so (R265, R270). -/
def evictLine (key : Nat) : Prog := .read fun b =>
  let x := b.hcLine key
  .all [
    .each (List.range 4) fun h =>
      .when (x.valid.testBit (h / 2) && !x.dirty.testBit (h / 2) && b.mem.stackPois.contains (key * 4 + h))
        (.edit (.pois (key * 4 + h) true)),
    modMem fun m => { m with hc := Tbl.del key m.hc, stackPois := m.stackPois.filter fun k => decide (k / 4 ≠ key) }]

/-- The line of least recent use in a set. -/
def oldestLine (l : Tbl HcLine) : Option Nat :=
  (l.foldl (fun best e => match best with
    | none => some e
    | some x => if e.2.used < x.2.used then some e else some x) none).map Prod.fst

/-- A sector of a line is in the cache from now on; a full set gives up its line of least recent use. -/
def cacheSector (key sector : Nat) (dirty : Bool) : Prog := .read fun b =>
  let set := b.hcSetOf key
  let same := b.mem.hc.filter fun e => decide (b.hcSetOf e.1 = set)
  .when (decide (b.hcWays set ≠ 0)) (.all [
    .when (decide ((b.hcLine key).valid = 0 ∧ b.hcWays set ≤ same.length)) (.for? (oldestLine same) evictLine),
    modMem fun m =>
      let cur := Tbl.get (dflt {}) key m.hc
      let line : HcLine := ⟨setBit cur.valid sector, if dirty then setBit cur.dirty sector else cur.dirty, m.clock + 1⟩
      { m with hc := Tbl.set (dflt {}) key line m.hc, clock := m.clock + 1 }])

/-! ### Reading and writing a line -/

/-- `n` bytes from byte key `k`. -/
def Block.homeBytes (b : Block) (k n : Nat) : List Byte := Tbl.getRun memDefault k n b.bytes

/-- Half `h` of a line is poisoned, or its channel has failed. -/
def Block.halfPois (b : Block) (key h : Nat) : Bool := b.pois.contains (key * 4 + h) || b.lineFailed key

def Block.sectorPois (b : Block) (key s : Nat) : Bool := b.halfPois key (2 * s) || b.halfPois key (2 * s + 1)

/-- The check word a half is stored with (R269, R270): inverted where the half is poisoned. -/
def Block.storedWord (b : Block) (key h : Nat) : BitVec 16 :=
  let c := Config.checkWord (b.homeBytes (key * 128 + 32 * h) 32)
  if b.pois.contains (key * 4 + h) then ~~~c else c

/-- A sector of a line as a data unit. -/
def Block.sectorUnit (b : Block) (key s : Nat) : DUnit :=
  ⟨b.homeBytes (key * 128 + 64 * s) 64, 2 ^ 64 - 1, b.sectorPois key s⟩

/-- A line as two data units. -/
def Block.lineUnits (b : Block) (key : Nat) : List DUnit := [b.sectorUnit key 0, b.sectorUnit key 1]

/-- The unit of a narrow read: 32 bytes in their place, the rest 0 (R262). -/
def Block.narrowUnit (b : Block) (key h : Nat) : DUnit :=
  let d := b.homeBytes (key * 128 + 32 * h) 32
  let z := List.replicate 32 0
  ⟨if h % 2 = 0 then d ++ z else z ++ d, 2 ^ 64 - 1, b.halfPois key h⟩

/-- A line is owned by a site, whose copy is the current one (R281). -/
def Block.ownedLine (b : Block) (key : Nat) : Bool := decide ((b.dirEnt key).ds = .em ∨ (b.dirEnt key).ds = .o)

/-- What a read of `len` bytes at a physical address brings, under the rights held when its command was admitted (R77): a unit of
package memory what its home holds, with its poison (R265, R293); a unit of a line that a site owns, of a host or of another package
what `told` says of it; a unit that no endpoint serves the status of R29 or R377. -/
def Block.sourced (b : Block) (rights hat pa len : Nat) (told : ReadIn) : ReadIn :=
  let one := fun (o n : Nat) =>
    let other := (told.status, slice told.data o n, decide (o / 64 ∈ told.pois))
    match b.routeBy rights hat (pa + o), b.place (pa + o) with
    | .inl st, _ => (st, List.replicate n 0, true)
    | .inr (.bank _ _), .mem p w wl =>
      if b.partDown p then (St.poisoned, List.replicate n 0, true)
      else if b.ownedLine (lineKey w wl) then other
      else (0, b.homeBytes (byteKey w wl) n, b.sectorPois (lineKey w wl) (wl / 64 % 2))
    | .inr _, _ => other
  let l := (unitPieces (len / 64 + 2) pa 0 len).map fun x => (x.1, x.2, one x.1 x.2)
  ⟨worst (l.map fun x => x.2.2.1), l.flatMap fun x => x.2.2.2.1,
    ((l.filter fun x => x.2.2.2.2).flatMap fun x => [x.1 / 64, (x.1 + x.2.1 - 1) / 64]).eraseDups⟩

/-- How a read that must come whole and clean has ended (R64, R179). -/
def ReadIn.end_ (r : ReadIn) : Status := if !completed r.status then r.status else if r.pois ≠ [] then St.poisoned else St.ok

/-- A unit's marked bytes enter a sector at once: a half written whole takes the unit's poison mark, another keeps its poison;
a marked unit poisons both (R270). -/
def mergeSector (key s : Nat) (u : DUnit) : Prog := .read fun b => .all [
  .edit (.bytes (key * 128 + 64 * s) (mergeBE u.be (b.homeBytes (key * 128 + 64 * s) 64) u.data)),
  .each [0, 1] fun i =>
    if bits u.be (32 * i) 32 = 2 ^ 32 - 1 then .edit (.pois (key * 4 + 2 * s + i) u.pu)
    else .when u.pu (.edit (.pois (key * 4 + 2 * s + i) true))]

/-- The poison of an entry's halves after a unit's bytes join it at sector `s`. -/
def combinedPois (old s : Nat) (u : DUnit) : Nat :=
  [0, 1].foldl (fun n i =>
    let h := 2 * s + i
    if u.pu then setBit n h else if bits u.be (32 * i) 32 = 2 ^ 32 - 1 then clearBit n h else n) old

/-- A write that misses the cache goes to the buffer: its bytes are current at once, its poison is settled at the drain. -/
def combineSector (key s : Nat) (u : DUnit) : Prog := .read fun b =>
  let w := keyWell key
  let be := u.be % 2 ^ 64
  let old := ((b.wcOf w).find? fun e => decide (e.key = key)).getD ⟨key, 0, 0⟩
  .all [
    .edit (.bytes (key * 128 + 64 * s) (mergeBE be (b.homeBytes (key * 128 + 64 * s) 64) u.data)),
    setWc w (((b.wcOf w).filter fun x => decide (x.key ≠ key)) ++ [⟨key, old.mask ||| be * 2 ^ (64 * s), combinedPois old.pois s u⟩]),
    drainOldest w]

/-- One data unit of a normal write (R265). -/
def writeSector (key s : Nat) (u : DUnit) : Prog := .read fun b =>
  let be := u.be % 2 ^ 64
  if be = 0 then .skip
  else if be = 2 ^ 64 - 1 then .all [drainLine key, mergeSector key s u, cacheSector key s true]
  else if (b.hcLine key).valid.testBit s then .all [mergeSector key s u, cacheSector key s true]
  else combineSector key s u

/-- A narrow access is served as a normal one: the line is in the home cache, or a cache owned it (R266). -/
def Block.asNormal (b : Block) (key : Nat) (owned : Bool) : Bool := decide ((b.hcLine key).valid ≠ 0) || owned

/-- A narrow write of half `h` (R266): as a normal one, or to the stack, whole or combined. -/
def writeNarrow (key h : Nat) (u : DUnit) (owned : Bool) : Prog := .read fun b =>
  let s := h / 2
  if bits u.be (32 * (h % 2)) 32 = 0 then .skip
  else if b.asNormal key owned then writeSector key s u
  else if bits u.be (32 * (h % 2)) 32 = 2 ^ 32 - 1 then .all [drainLine key, mergeSector key s u]
  else combineSector key s u

/-- A whole line written back by its owner enters the home cache, dirty (R285). -/
def writeBack (key : Nat) (units : List DUnit) : Prog := .all [
  drainLine key,
  .each units.zipIdx fun e => .all [mergeSector key e.2 { e.1 with be := 2 ^ 64 - 1 }, cacheSector key e.2 true]]

/-- Both sectors of a line are poisoned and dirty in the home cache (R292). -/
def poisonLine (key : Nat) : Prog := .all [
  drainLine key,
  .each (List.range 4) fun h => .edit (.pois (key * 4 + h) true),
  cacheSector key 0 true, cacheSector key 1 true]

/-! ### Errors (R271) -/

/-- A bit is corrected in data: of the stack, which the wear gauges count (R466), or of way `y` of the line's set, which the fourth
within a second disables, its line written back. -/
def corrected (key : Nat) (way : Option Nat) : Prog := .read fun b =>
  let w := keyWell key
  .all [
    incSat (Reg.WEL_ERR w) Fl.WEL_ERR_HUB_CORR,
    match way with
    | none => modPwr fun p => { p with errs := Tbl.upd 0 w (fun n => n + 1) p.errs }
    | some y =>
      let id := b.hcSetOf key * 32 + y
      let recent := (b.mem.corr.filter fun e => decide (b.now < e.2 + 1000000000)) ++ [(id, b.now)]
      let off := decide (4 ≤ (recent.filter fun e => decide (e.1 = id)).length)
      .all [
        modMem fun m => { m with corr := if off then recent.filter fun e => decide (e.1 ≠ id) else recent },
        .when off (.all [
          evictLine key,
          modMem fun m => { m with waysOff := Tbl.upd 0 (b.hcSetOf key) (fun n => n + 1) m.waysOff },
          incSat (Reg.WEL_HC w) Fl.WEL_HC_DISABLED])]]

/-- The last uncorrectable error of a well. -/
def errAddr (key source : Nat) : Prog :=
  let a := Reg.WEL_ERR_ADDR (keyWell key)
  .all [setF a Fl.WEL_ERR_ADDR_VALID 1, setF a Fl.WEL_ERR_ADDR_SOURCE source, setF a Fl.WEL_ERR_ADDR_WL_ADDR (keyAddr key)]

/-- More than 16 uncorrectable halves of a channel within 1 ms fail it; the home cache's data (source 1) is no channel's. -/
def channelHit (key source : Nat) : Prog := .read fun b =>
  let ch := (b.chanOf key).getD 0
  let id := keyWell key * 16 + ch
  let recent := (b.mem.unc.filter fun e => decide (b.now < e.2 + 1000000)) ++ [(id, b.now)]
  .when (decide (source ≠ 1)) (.all [
    modMem fun m => { m with unc := recent },
    .when (decide (16 < (recent.filter fun e => decide (e.1 = id)).length)) (failChannel (keyWell key) ch)])

/-- An uncorrectable half: poisoned in place, counted, logged.  What the scrub (source 3) finds in the stack beneath a sector that
the cache holds poisons the stack's copy alone (R270). -/
def uncorrectable (key h source : Nat) : Prog := .read fun b =>
  let w := keyWell key
  .all [
    if decide (source = 3) && (b.hcLine key).valid.testBit (h / 2) then
      modMem fun m => { m with stackPois := insertNat (key * 4 + h) m.stackPois }
    else .edit (.pois (key * 4 + h) true),
    incSat (Reg.WEL_ERR w) Fl.WEL_ERR_UNCORR,
    errAddr key source,
    logEv St.poisoned w,
    channelHit key source]

/-! ### Answers -/

/-- An answer that carries the request's ADDR[56:8] and a status (R262). -/
def statusAddr (p : Pkt) (st : Status) : Nat := p.addr / 256 * 256 + st

/-- What a memory command is answered with. -/
def memAnswer (p : Pkt) (st : Status) (units : List DUnit) : Prog :=
  sendPkt (p.reply (if units.isEmpty then 0x19 else 0x18) (statusAddr p st) false units)

/-- The data units of a memory read. -/
def readCount (cmd : Nat) : Nat := if cmd = 1 then 2 else 1

/-- A packet is a memory read, a memory write, a coherent request, an atomic. -/
def isRead (p : Pkt) : Bool := decide (p.cmd ≤ 2)
def isWrite (p : Pkt) : Bool := decide (8 ≤ p.cmd ∧ p.cmd ≤ 0xA)
def isCoh (p : Pkt) : Bool := decide (0x20 ≤ p.cmd ∧ p.cmd ≤ 0x25)
def isAtomic (p : Pkt) : Bool := decide ((0x40 ≤ p.cmd ∧ p.cmd ≤ 0x4B) ∨ (0x50 ≤ p.cmd ∧ p.cmd ≤ 0x5B))

/-- The data a response brings. -/
def Pkt.data (p : Pkt) : List Byte := p.units.flatMap fun u => u.data

/-- Some of the data is poisoned. -/
def Pkt.anyPois (p : Pkt) : Bool := p.poison || p.units.any fun u => u.pu

/-- A unit of poisoned data. -/
def poisonUnit : DUnit := ⟨List.replicate 64 0, 2 ^ 64 - 1, true⟩

/-- A request ends with a status and without its effect: reads bring poisoned data (R29, R293). -/
def refuseReq (p : Pkt) (st : Status) : Prog :=
  if isRead p then memAnswer p st (List.replicate (readCount p.cmd) poisonUnit)
  else if p.cmd / 32 = 1 then sendPkt (p.reply 0x2D (statusAddr p st) false [])
  else if p.cmd / 32 = 2 then sendPkt (p.reply 0x5F (statusAddr p st) false [])
  else if p.cmd / 32 = 4 then sendPkt (p.reply 0x83 (statusAddr p st) false [])
  else memAnswer p st []

end Sys2Proof.Machine
end

