-- ==== Sys2Proof/Machine/Mesh.lean ====
section
/-! DEFINITION. Where endpoints attach to the mesh (R97, R98), the header unit (R90), which endpoints a partition uses. -/

namespace Sys2Proof.Machine

/-! ### Endpoint places (R16, R97, R98) -/

/-- The quadrant of a router. -/
def quadAt (x y : Nat) : Nat := (if 8 ≤ x then 1 else 0) + (if 6 ≤ y then 2 else 0)

/-- Local coordinates of a router in its quadrant. -/
def localAt (x y : Nat) : Nat × Nat := (if 8 ≤ x then 15 - x else x, if 6 ≤ y then 11 - y else y)

/-- The router at local coordinates of a quadrant. -/
def globalAt (q u v : Nat) : Nat × Nat := (if q % 2 = 1 then 15 - u else u, if 2 ≤ q then 11 - v else v)

/-- The router of index `i` of a well's block, of index `f` of a fabric block, of index `k` of a site's block (R97). -/
def wellAt (n i : Nat) : Nat × Nat :=
  if n % 3 = 0 then globalAt (n / 3) (i % 4) (i / 4) else if n % 3 = 1 then globalAt (n / 3) (4 + i % 4) (i / 4)
  else globalAt (n / 3) (i % 2) (2 + i / 2)
def fabricAt (q f : Nat) : Nat × Nat := globalAt q (2 + f % 2) (2 + f / 2)
def siteAt (g k : Nat) : Nat × Nat := globalAt (g / 4) (4 + 2 * (g % 2) + k % 2) (2 + 2 * (g % 4 / 2) + k / 2)

/-- The router and port of an endpoint (R97, R98), before any bypass or spare. -/
def Ep.at_ : Ep → (Nat × Nat) × Nat
  | .bank w i => (wellAt w i, 0)
  | .engine e => (wellAt (e / 2) (e % 2), 1)
  | .reducer w => (wellAt w 2, 1)
  | .pump p => (wellAt (p / 4) (3 + p % 4), 1)
  | .wellReg w => (wellAt w 7, 1)
  | .walker w => (fabricAt (w / 8) (w % 8), 0)
  | .trough u => (fabricAt (u / 2) (u % 2), 1)
  | .host q => (fabricAt q 2, 1)
  | .quadReg q => (fabricAt q 3, 1)
  | .island q => (fabricAt q 4, 1)
  | .testPort => (fabricAt 2 5, 1)
  | .glove g k => (siteAt g k, 0)
  | .netLink c m => ((15 * c, 2 * m + 1), 2)
  | .spanEng e => ((15 * (e / 4), 3 * (e % 4) + 1), 3)
  | .wellhead => ((3, 11), 2)
  | .commitLogic => ((3, 8), 2)

/-- The endpoints of a well's block at index `b` (R97). -/
def wellEp (n b port : Nat) : Option Ep :=
  if port = 0 then some (.bank n b)
  else if port = 1 then
    if b < 2 then some (.engine (2 * n + b)) else if b = 2 then some (.reducer n)
    else if b < 7 then some (.pump (4 * n + b - 3)) else some (.wellReg n)
  else none

/-- The endpoints of a fabric block at index `f` (R97). -/
def fabricEp (q f port : Nat) : Option Ep :=
  if port = 0 then some (.walker (8 * q + f))
  else if port = 1 then
    if f < 2 then some (.trough (2 * q + f)) else if f = 2 then some (.host q) else if f = 3 then some (.quadReg q)
    else if f = 4 then some (.island q) else if f = 5 ∧ q = 2 then some .testPort else none
  else none

/-- The edge endpoints (R98). -/
def edgeEp (x y port : Nat) : Option Ep :=
  if port = 2 then
    if (x = 0 ∨ x = 15) ∧ y % 2 = 1 ∧ y / 2 < 5 then some (.netLink (x / 15) (y / 2))
    else if x = 3 ∧ y = 11 then some .wellhead
    else if x = 3 ∧ y = 8 then some .commitLogic
    else none
  else if port = 3 ∧ (x = 0 ∨ x = 15) ∧ y % 3 = 1 then some (.spanEng (y / 3 + 4 * (x / 15)))
  else none

/-- The endpoint at a port of a router, before any bypass or spare. -/
def epAt (x y port : Nat) : Option Ep :=
  let q := quadAt x y
  let (u, v) := localAt x y
  if 16 ≤ x ∨ 12 ≤ y then none
  else if 2 ≤ port then edgeEp x y port
  else if v < 2 then
    if u < 4 then wellEp (3 * q) (4 * v + u) port else wellEp (3 * q + 1) (4 * v + (u - 4)) port
  else if u < 2 then wellEp (3 * q + 2) (2 * (v - 2) + u) port
  else if u < 4 then fabricEp q (2 * (v - 2) + (u - 2)) port
  else if port ≠ 0 then none
  else some (.glove (4 * q + (u - 4) / 2 + 2 * ((v - 2) / 2)) ((u - 4) % 2 + 2 * ((v - 2) % 2)))

/-- The neighbour in a direction: 0 north, 1 east, 2 south, 3 west. -/
def neighbour (x y dir : Nat) : Option (Nat × Nat) :=
  if dir = 0 then (if y = 0 then none else some (x, y - 1))
  else if dir = 1 then (if 15 ≤ x then none else some (x + 1, y))
  else if dir = 2 then (if 11 ≤ y then none else some (x, y + 1))
  else (if x = 0 then none else some (x - 1, y))

namespace Block

/-- The bypassed routers: place and direction of rehoming (R102, R103). -/
def bypasses (b : Block) : List (Nat × Nat × Nat) :=
  ((List.range 4).filter fun q => b.on (Reg.NOC_BYPASS q) Fl.NOC_BYPASS_VALID).map fun q =>
    let f := b.f (Reg.NOC_BYPASS q)
    (f Fl.NOC_BYPASS_X, f Fl.NOC_BYPASS_Y, f Fl.NOC_BYPASS_DIR)

/-- The router is a pass-through. -/
def bypassed (b : Block) (x y : Nat) : Bool := b.bypasses.any fun e => decide (e.1 = x ∧ e.2.1 = y)

/-- The router and port of an endpoint, a spare in its place (R477). -/
def standsAt (b : Block) (e : Ep) : (Nat × Nat) × Nat :=
  match e with
  | .pump p => match b.pumpSpare p with
    | some k => (fabricAt (p / 12) k, 2)
    | none => e.at_
  | .walker w => if b.walkerSpare w then (fabricAt (w / 8) 2, 3) else e.at_
  | _ => e.at_

/-- The endpoint a spare of a fabric block serves. -/
def spareEp (b : Block) (x y port : Nat) : Option Ep :=
  let q := quadAt x y
  let a := Reg.HUB_SPARE q
  if port = 2 ∧ (x, y) = fabricAt q 0 ∧ b.on a Fl.HUB_SPARE_P0_USED then some (.pump (b.f a Fl.HUB_SPARE_P0_FOR))
  else if port = 2 ∧ (x, y) = fabricAt q 1 ∧ b.on a Fl.HUB_SPARE_P1_USED then some (.pump (b.f a Fl.HUB_SPARE_P1_FOR))
  else if port = 3 ∧ (x, y) = fabricAt q 2 ∧ b.on a Fl.HUB_SPARE_WK_USED then some (.walker (b.f a Fl.HUB_SPARE_WK_FOR))
  else none

/-- The endpoint of a router's own port: a replaced unit cannot be reached (R477). -/
def ownEp (b : Block) (x y port : Nat) : Option Ep :=
  match b.spareEp x y port with
  | some e => some e
  | none => (epAt x y port).filter fun e => decide (b.standsAt e = ((x, y), port))

/-- The endpoint that a port of a router names: its own, or a bypassed neighbour's rehomed to it. -/
def portEp (b : Block) (x y port : Nat) : Option Ep :=
  if port < 4 then (if b.bypassed x y then none else b.ownEp x y port)
  else match b.bypasses.find? fun e => decide (neighbour e.1 e.2.1 e.2.2 = some (x, y)) with
    | some e => b.ownEp e.1 e.2.1 (port - 4)
    | none => none

/-- The router an endpoint's packets enter and leave by. -/
def homeRouter (b : Block) (x y : Nat) : Nat × Nat :=
  match b.bypasses.find? fun e => decide (e.1 = x ∧ e.2.1 = y) with
  | some e => (neighbour x y e.2.2).getD (x, y)
  | none => (x, y)

/-- The endpoint tables (R98): the router and port a packet for an endpoint names. -/
def epPort (b : Block) (e : Ep) : (Nat × Nat) × Nat :=
  let (r, port) := b.standsAt e
  if b.bypassed r.1 r.2 then (b.homeRouter r.1 r.2, 4 + port) else (r, port)

/-- A hat of partition `p` is bound at a port index that a test picks. -/
def partBound (b : Block) (p : Nat) (test : Nat → Bool) : Bool :=
  (bindsOf b.recs).any fun e => test e.1 && decide (b.hatPart e.2 = p)

/-- Partition `p` uses an endpoint (R94; notes/assumptions/57.md): its own, the walkers, register interfaces and clocked-island
endpoints of its units' quadrants, the host ports, span sides, wellhead link and test port that its hats are bound to, and the
commit logic, which hears of every hat. -/
def usesEp (b : Block) (p : Nat) : Ep → Bool
  | .bank w _ => decide (b.wellPart w = some p)
  | .engine e => decide (b.enginePart e = some p)
  | .reducer w => decide (b.wellPart w = some p)
  | .pump u => decide (b.pumpPart u = some p)
  | .wellReg w => decide (b.wellPart w = some p)
  | .walker w => b.usesRegion p (12 + w / 8)
  | .quadReg q => b.usesRegion p (12 + q)
  | .island q => b.usesRegion p (12 + q)
  | .wellhead => b.partBound p fun k => decide (k = 0x100)
  | .testPort => b.partBound p fun k => decide (k = 0x101)
  | .commitLogic => partEnabled b.recs p
  | .trough u => (List.range 8).any fun k => b.troughPart (8 * u + k) = some p
  | .host q => b.partBound p fun k => decide (k < 256 ∧ k / 64 = q)
  | .glove g _ => decide (b.sitePart g = some p)
  | .netLink c _ => b.partBound p fun k => decide (0x400 ≤ k ∧ b.spanEngOf (k - 0x400) / 4 = c)
  | .spanEng e => b.partBound p fun k => decide (0x400 ≤ k ∧ b.spanEngOf (k - 0x400) = e)

/-- The routers of the endpoints a partition uses. -/
def partRouters (b : Block) (p : Nat) : List (Nat × Nat) :=
  (List.range 16).flatMap fun x => (List.range 12).flatMap fun y =>
    if (List.range 4).any fun k => match b.ownEp x y k with
      | some e => b.usesEp p e
      | none => false
    then [b.homeRouter x y] else []

/-- Router (x, y) lies in the route rectangle of a partition (R94). -/
def inRectangle (b : Block) (p x y : Nat) : Bool :=
  let l := b.partRouters p
  l.any (fun r => r.1 ≤ x) && l.any (fun r => x ≤ r.1) && l.any (fun r => r.2 ≤ y) && l.any fun r => y ≤ r.2

end Block

/-- The power domain of an endpoint, where it has one that sleeps (R447, R477). -/
def Block.epDom (b : Block) : Ep → Option Nat
  | .bank w _ | .reducer w | .wellReg w => some w
  | .engine e => some (e / 2)
  | .pump p => if (b.pumpSpare p).isSome then none else some (p / 4)
  | .glove g _ => some (12 + g / 4)
  | .spanEng e => some (17 + e / 4)
  | .netLink c _ => some (17 + c)
  | .host _ => some 19
  | _ => none

/-- The timing region of an endpoint (R41, R477): its well's, or the fabric of its quadrant; the commit logic is in region 14. -/
def Block.epRegion (b : Block) : Ep → Option Nat
  | .bank w _ | .reducer w | .wellReg w => some w
  | .engine e => some (e / 2)
  | .pump p => some (b.pumpRegion p)
  | .walker w => some (12 + w / 8)
  | .trough u => some (12 + u / 2)
  | .glove g _ => some (12 + g / 4)
  | .commitLogic => some 14
  | _ => none

/-! ### The header unit (R90, R91) -/

namespace Flight
def n (f : Flight) (lo w : Nat) : Nat := bits f.hdr.toNat lo w
def addr (f : Flight) : Nat := f.n 71 57
def tag (f : Flight) : Nat := f.n 59 12
def hat (f : Flight) : Nat := f.n 49 10
def label (f : Flight) : Nat := f.n 46 3
def cmd (f : Flight) : Nat := f.n 38 8
def cls (f : Flight) : Nat := f.n 36 2
def count (f : Flight) : Nat := f.n 33 3
def poison (f : Flight) : Bool := decide (f.n 32 1 = 1)
def ordered (f : Flight) : Bool := decide (f.n 30 1 = 1)
def dst (f : Flight) : Nat × Nat := (f.n 26 4, f.n 22 4)
def dport (f : Flight) : Nat := f.n 19 3
def src (f : Flight) : Nat × Nat := (f.n 15 4, f.n 11 4)
def sport (f : Flight) : Nat := f.n 8 3
/-- Of the response class: on RSP, or a response on a DAT plane. -/
def isResp (f : Flight) : Bool := decide (f.cls % 2 = 1)
/-- On the plane and in the class its source places it on (R91, R95): an ORDERED request is never on REQ. -/
def placed (f : Flight) : Bool :=
  decide (f.plane = if f.cls < 2 then f.cls
    else 2 + (if f.ordered then (f.dst.1 + f.dst.2) % 4 else f.n 78 2)) && !(f.ordered && decide (f.cls = 0))
/-- CLASS and COUNT that do not go together (R91). -/
def malformed (f : Flight) : Bool :=
  decide ((f.cls < 2 ∧ f.count ≠ 0) ∨ (f.cls = 3 ∧ f.count = 0) ∨ 4 < f.count)
def withWake (f : Flight) : Flight := { f with hdr := f.hdr ||| (1#128 <<< 31) }
end Flight

/-- A command of the response class (the command tables of R187, R243, R262, R279, R290, R365, R387). -/
def respCmd (c : Nat) : Bool :=
  decide (c = 0x18 ∨ c = 0x19 ∨ (0x28 ≤ c ∧ c ≤ 0x2D) ∨ (0x30 ≤ c ∧ c ≤ 0x33) ∨ c = 0x38 ∨ c = 0x39 ∨ c = 0x5E ∨ c = 0x5F ∨
    c = 0x61 ∨ c = 0x62 ∨ c = 0x74 ∨ c = 0x75 ∨ c = 0x82 ∨ c = 0x83 ∨ c = 0x87 ∨ c = 0x89 ∨ c = 0xA1 ∨ c = 0xA3)

namespace Pkt

/-- CLASS of a packet (R91, R95). -/
def cls (p : Pkt) : Nat :=
  if respCmd p.cmd then (if p.units = [] then 1 else 3) else if p.units = [] ∧ p.ordered = false then 0 else 2

/-- The plane of a packet for a router (R91, R95). -/
def plane (p : Pkt) (dst : Nat × Nat) : Nat :=
  if p.cls < 2 then p.cls else 2 + (if p.ordered then (dst.1 + dst.2) % 4 else p.addr / 128 % 4)

end Pkt

/-- The header unit of a packet (R90); its check bits are the code's own (Config.hecc). -/
def Block.header (b : Block) (p : Pkt) : BitVec 128 :=
  let (d, dp) := b.epPort p.dst
  let (c, cp) := b.epPort p.src
  let body := bits p.addr 0 57 * 2 ^ 63 + bits p.tag 0 12 * 2 ^ 51 + bits p.hat 0 10 * 2 ^ 41 + bits p.label 0 3 * 2 ^ 38 +
    bits p.cmd 0 8 * 2 ^ 30 + p.cls * 2 ^ 28 + bits p.units.length 0 3 * 2 ^ 25 + b2n p.poison * 2 ^ 24 + b2n p.ordered * 2 ^ 22 +
    d.1 * 2 ^ 18 + d.2 * 2 ^ 14 + dp * 2 ^ 11 + c.1 * 2 ^ 7 + c.2 * 2 ^ 3 + cp
  BitVec.ofNat 128 (body * 2 ^ 8 + (Config.hecc body).toNat)

/-- The check word of half `h` of a data unit (R269): a poisoned half carries it inverted, and so decodes as poison (R270).  What bits
fail on the way, endpoints tell in the operands of their commands (notes/assumptions/60.md). -/
def DUnit.word (u : DUnit) (h : Nat) : BitVec 16 :=
  let c := Config.checkWord (slice u.data (32 * h) 32)
  if u.pu then ~~~c else c

/-- ECC[31:0] of a data unit (R93). -/
def DUnit.ecc (u : DUnit) : BitVec 32 := u.word 1 ++ u.word 0

/-- The 609 bits of a data unit (R93). -/
def DUnit.bits (u : DUnit) : BitVec 609 :=
  BitVec.ofNat 609 (ofBytesLE (slice u.data 0 64) + u.be % 2 ^ 64 * 2 ^ 512 + u.ecc.toNat * 2 ^ 576 + b2n u.pu * 2 ^ 608)

/-- The packet a header and its data units spell, between the endpoints its ports name. -/
def Block.flightPkt (b : Block) (f : Flight) : Option Pkt :=
  (b.portEp f.src.1 f.src.2 f.sport).bind fun c => (b.portEp f.dst.1 f.dst.2 f.dport).map fun d =>
    ⟨f.cmd, f.addr, f.tag, f.hat, f.label, f.poison, f.ordered, c, d, f.units⟩

/-- The endpoint a packet is bound for. -/
def Block.flightEp (b : Block) (f : Flight) : Option Ep := b.portEp f.dst.1 f.dst.2 f.dport

/-- The partition a packet belongs to (R101): its hat's, or that of the endpoint it is bound for where the hat has none. -/
def Block.flightOf (b : Block) (p : Nat) (f : Flight) : Bool :=
  if b.hatPart f.hat = 0xFF then (match b.flightEp f with
    | some e => b.usesEp p e
    | none => false)
  else decide (b.hatPart f.hat = p)

/-- Packets of a partition that are held for a wake are absorbed, each with a log entry (R101). -/
def absorbHeld (p : Nat) : Prog := .read fun b =>
  let keep := fun f : Flight => !b.flightOf p f
  .all [
    .each ((b.noc.wakeBuf ++ b.noc.stalled).flatMap fun e => e.2.filter (b.flightOf p)) fun _ => logEv St.drainAbsorbed p,
    modNoc fun n => { n with
      wakeBuf := n.wakeBuf.foldl (fun t e => Tbl.set (dflt []) e.1 (e.2.filter keep) t) n.wakeBuf,
      stalled := n.stalled.foldl (fun t e => Tbl.set (dflt []) e.1 (e.2.filter keep) t) n.stalled }]

/-! ### What a receiver may take (R51, R52, R87, R96, R452) -/

namespace Block

/-- The regions a packet meets: those of its two endpoints, and the fabric of the quadrants that its row and its column cross
(R41, R86). -/
def pathRegions (b : Block) (p : Pkt) : List Nat :=
  let d := (b.epPort p.dst).1
  let c := (b.epPort p.src).1
  (b.epRegion p.src).toList ++ (b.epRegion p.dst).toList ++ [12 + quadAt c.1 c.2, 12 + quadAt d.1 c.2, 12 + quadAt d.1 d.2]

/-- A packet waits at the boundary of a region in a window (R51, R52), or of a well or span side that crosses a band (R452); while
a window drains, the packets that were inside when it opened still move. -/
def boundaryHolds (b : Block) (p : Pkt) : Bool :=
  (b.tmg.any fun e => decide (e.2.phase ≠ .closed) && !(decide (e.2.phase = .draining) && e.2.inside.contains p) &&
    (b.pathRegions p).contains e.1) ||
  (match b.epDom p.dst with
    | some d => decide (b.domState d = 4)
    | none => false)

/-- Two packets that arrive in the order sent (R96): of one source port, destination port, plane and class; or both ORDERED. -/
def sameStream (b : Block) (p q : Pkt) : Bool :=
  decide (p.src = q.src ∧ p.dst = q.dst) && decide (p.cls % 2 = q.cls % 2) &&
    ((p.ordered && q.ordered) || decide (p.plane (b.epPort p.dst).1 = q.plane (b.epPort q.dst).1))

/-- No packet that must arrive before this one is still on its way (R96). -/
def inTurn (b : Block) (p : Pkt) : Bool := !(b.noc.net.takeWhile fun q => decide (q ≠ p)).any (b.sameStream p)

/-- The flight of a packet: the same header, but for WAKE and the check bits, and the same data units. -/
def carries (b : Block) (f : Flight) (p : Pkt) : Bool :=
  decide (f.units = p.units) &&
    decide ((f.hdr ||| (1#128 <<< 31)).toNat / 2 ^ 8 = (b.header p ||| (1#128 <<< 31)).toNat / 2 ^ 8)

/-- Flights on their way: in router buffers, held, or in wake buffers. -/
def flying (b : Block) : List Flight :=
  b.noc.flights ++ (b.noc.held ++ b.noc.stalled ++ b.noc.wakeBuf).flatMap Prod.snd

/-- The packet's flight has not reached its last router's endpoint yet. -/
def inFlight (b : Block) (p : Pkt) : Bool := b.flying.any fun f => b.carries f p

/-- A packet has reached its receiver. -/
def reached (b : Block) (p : Pkt) : Bool :=
  b.noc.net.contains p && b.inTurn p && !b.inFlight p && !b.boundaryHolds p

/-- A domain is entering sleep: a packet for it is held until entry ends, but for what entry itself awaits (R101, R294). -/
def enteringSleep (b : Block) (d : Nat) (p : Pkt) : Bool :=
  (b.domSt d).goingOff && !decide (p.cmd = 0x38 ∨ p.cmd = 0x39 ∨ p.cmd = 0x24 ∨ p.cmd = 0x25)

end Block

end Sys2Proof.Machine
end

