-- ==== Sys2Proof/Machine/Power.lean ====
section
/-! DEFINITION. Power domains and operating points (R447–R455), caps (R456–R462), energy (R463), heat (R464, R465), wear
(R466, R467), and the commands of spec/18_power_heat_wear.md but DOMAIN_IDLE_ENTRY (Machine/Sleep.lean). -/

namespace Sys2Proof.Machine

/-! ### Domains and operating points -/

/-- The timing regions a domain holds (R447). -/
def domRegions (d : Nat) : List Nat := if d < 12 then [d] else if d = 16 then [12, 13, 14, 15] else []

/-- The domain a timing region lies in (R41, R447). -/
def regionDom (r : Nat) : Nat := if r < 12 then r else 16

/-- The domain's voltage at an OP, in mV (R449). -/
def opMv (op : Nat) : Nat :=
  [600, 620, 640, 660, 680, 700, 720, 750, 770, 790, 810, 830, 850, 870, 890, 900].getD op 900

/-- The clock band of an OP (R449): OP00–OP03, OP04–OP06, OP07–OP15. -/
def opBand (op : Nat) : Nat := if op < 4 then 0 else if op < 7 then 1 else 2

namespace Block

def domOp (b : Block) (d : Nat) : Nat := b.f (Reg.PWR_DOM_STATUS d) Fl.PWR_DOM_STATUS_OP
def domFloor (b : Block) (d : Nat) : Nat := b.f (Reg.PWR_DOM_STATUS d) Fl.PWR_DOM_STATUS_FLOOR

/-- The lowest usable OP (R447); of site links, what the highest trained rate among the quadrant's sites needs. -/
def usableLowest (b : Block) (d : Nat) : Nat :=
  if 12 ≤ d ∧ d < 16 then
    (List.range 4).foldl (fun n k =>
      let g := 4 * (d - 12) + k
      if (b.site g).linkUp then
        let r := b.f (Reg.GLV_STATUS g) Fl.GLV_STATUS_RATE
        max n (if r = 0 then 0 else if r = 1 then 4 else 7)
      else n) 0
  else if 17 ≤ d then 4 else 0

/-- The lowest OP in force (R448). -/
def lowestInForce (b : Block) (d : Nat) : Nat := max (b.usableLowest d) (b.f (Reg.PWR_DOM_CTL d) Fl.PWR_DOM_CTL_LOWEST)

/-- heat_lim: the lower of the hub sensors' limit and the stack's (R464). -/
def heatLim (b : Block) (d : Nat) : Nat := min (b.domSt d).hubHeat (b.domSt d).stackHeat

/-- The effective OP (R450); in TEST_MODE OP07, or the lowest usable OP if that is higher, under the limits of the loops (R515). -/
def effOp (b : Block) (d : Nat) : Nat :=
  let a := Reg.PWR_DOM_STATUS d
  let c := Reg.PWR_DOM_CTL d
  if b.on Reg.TST_CTL Fl.TST_CTL_TEST_MODE then
    max (b.usableLowest d) (min 7 (min (b.f a Fl.PWR_DOM_STATUS_HEAT_LIM) (b.f a Fl.PWR_DOM_STATUS_CAP_LIM)))
  else
  let op := min (min (b.f a Fl.PWR_DOM_STATUS_HEAT_LIM) (b.f a Fl.PWR_DOM_STATUS_CAP_LIM))
    (max (b.f c Fl.PWR_DOM_CTL_TARGET) (b.f a Fl.PWR_DOM_STATUS_TIMING_OP))
  min (max op (b.domFloor d)) (b.f c Fl.PWR_DOM_CTL_HIGHEST)

def regionState (b : Block) (r : Nat) : Nat := b.f (Reg.MON_TMG_REGION r) Fl.MON_TMG_REGION_STATE
def regionCode (b : Block) (r : Nat) : Nat := b.f (Reg.MON_TMG_REGION r) Fl.MON_TMG_REGION_CODE

/-- VDD_CORE (R455): the highest voltage of any domain that is on or steps up, plus 50 mV, never above 950 mV. -/
def vddCore (b : Block) : Nat :=
  min 950 (50 + (List.range 20).foldl (fun n d =>
    if b.domAsleep d then n else max n (opMv (max (b.domOp d) ((b.domSt d).stepTo.getD 0)))) 0)

end Block

/-- FLOOR follows the lowest OP in force and the floor that a refused step left (R448, R451). -/
def refreshFloor (d : Nat) : Prog := .read fun b =>
  setF (Reg.PWR_DOM_STATUS d) Fl.PWR_DOM_STATUS_FLOOR (max (b.lowestInForce d) ((b.domSt d).codeFloor.getD 0))

/-- Write VDD_CORE over AVS0, when it changes (R454, R455). -/
def writeVdd : Prog := .read fun b =>
  .when (decide (b.f (Reg.PWR_RAIL 0) Fl.PWR_RAIL_SET_MV ≠ b.vddCore)) (.all [
    setF (Reg.PWR_RAIL 0) Fl.PWR_RAIL_SET_MV b.vddCore,
    send (.avs 0 0 b.vddCore)])

/-- Start the next one-OP step of a domain, if its effective OP is not where it stands (R451, R455, R468).  A step down
first raises the code and the ceiling of each calibrated region by 3; where a code would pass 31 the step is not taken and
FLOOR rises to the present OP. -/
def kickDomain (d : Nat) : Prog := .read fun b =>
  let op := b.domOp d
  let want := b.effOp d
  let rs := (domRegions d).filter fun r => b.regionState r ≠ 0
  if b.domState d ≠ 0 ∨ rs.any (fun r => b.regionState r = 4) then .skip
  else if op < want then
    .all [setF (Reg.PWR_DOM_STATUS d) Fl.PWR_DOM_STATUS_STATE 3, modDom d fun s => { s with stepTo := some (op + 1) }, writeVdd]
  else if want < op then
    if rs.any fun r => 31 < b.regionCode r + 3 then
      .all [modDom d fun s => { s with codeFloor := some op }, refreshFloor d]
    else .all [
      .each rs fun r => .all [
        setF (Reg.MON_TMG_REGION r) Fl.MON_TMG_REGION_CODE (b.regionCode r + 3),
        modRegion r fun s => { s with opCode := s.opCode + 3 },
        setF (Reg.MON_TMG_REGION r) Fl.MON_TMG_REGION_CEILING
          (min 31 (b.f (Reg.MON_TMG_REGION r) Fl.MON_TMG_REGION_CEILING + 3))],
      setF (Reg.PWR_DOM_STATUS d) Fl.PWR_DOM_STATUS_STATE 3,
      modDom d fun s => { s with stepTo := some (op - 1) }]
  else .skip

/-- Put the domain's heat_lim where its two sources have it (R464). -/
def refreshHeat (d : Nat) : Prog := .read fun b =>
  .all [setF (Reg.PWR_DOM_STATUS d) Fl.PWR_DOM_STATUS_HEAT_LIM (b.heatLim d), kickDomain d]

/-- TARGET, and timing_op with it (R450). -/
def setTarget (d op : Nat) : Prog := .all [
  setF (Reg.PWR_DOM_CTL d) Fl.PWR_DOM_CTL_TARGET op,
  setF (Reg.PWR_DOM_STATUS d) Fl.PWR_DOM_STATUS_TIMING_OP op,
  kickDomain d]

/-- A write of TARGET (R450, R379: POWER). -/
def targetWrite (hat d op : Nat) : Prog := underHat hat (.read fun b => .when (b.holds hat Right.power) (setTarget d op))

def execPwrTargetWrite (hat : Nat) (d : Fin 20) (op : Fin 16) (s : State) : Host.Outcome State Fault Refusal :=
  s.run (targetWrite hat d op)

/-- A step's voltage has moved (R451, R452, R455). -/
def domainOpStepDone (d : Nat) : Prog := .read fun b =>
  .for? (b.domSt d).stepTo fun t =>
    let held := decide (d < 12 ∨ d = 17 ∨ d = 18) && decide (opBand (b.domOp d) ≠ opBand t)
    .when (decide (b.domState d = 3)) (.all [
      setF (Reg.PWR_DOM_STATUS d) Fl.PWR_DOM_STATUS_OP t,
      incSat (Reg.PWR_DOM_STATUS d) Fl.PWR_DOM_STATUS_STEPS,
      modDom d fun s => { s with stepTo := none },
      setF (Reg.PWR_DOM_STATUS d) Fl.PWR_DOM_STATUS_STATE (if held then 4 else 0),
      writeVdd,
      kickDomain d])

def execDomainOpStepDone (d : Fin 20) (s : State) : Host.Outcome State Fault Refusal := s.run (domainOpStepDone d)

/-! ### Caps -/

/-- No limit: cap_lim is 15 unless a controller lowers it (R450). -/
abbrev lim15 : Nat → Nat := dflt 15

namespace Block

/-- The cap of a controller in W: 0 the package's, 1 + p partition p's. -/
def capW (b : Block) (k : Nat) : Nat :=
  if k = 0 then b.f Reg.PWR_CAP Fl.PWR_CAP_CAP_W else b.f (Reg.PWR_PART (k - 1)) Fl.PWR_PART_CAP_W

/-- The sites in a controller's scope (R458). -/
def capSites (b : Block) (k : Nat) : List Nat :=
  (List.range 16).filter fun g => b.siteOn g && (k = 0 || decide (b.sitePart g = some (k - 1)))

/-- The domains in a controller's scope, in the order of stage 2 (R458): wells, span sides, host ports, site links,
fabric; of a partition, the well domains of its wells. -/
def capDoms (b : Block) (k : Nat) : List Nat :=
  if k = 0 then (List.range 12).filter b.wellOn ++ [17, 18, 19, 12, 13, 14, 15, 16]
  else (List.range 12).filter fun w => b.wellPart w = some (k - 1)

def capUnreach (b : Block) (k : Nat) : Bool :=
  if k = 0 then b.on Reg.PWR_STATUS Fl.PWR_STATUS_CAP_UNREACHABLE else b.on (Reg.PWR_PART (k - 1)) Fl.PWR_PART_UNREACH

/-- An action of R458 is in force for a cap. -/
def capActive (b : Block) (k : Nat) : Bool :=
  decide ((b.capSt k).lvl ≠ []) || decide ((b.capSt k).lim ≠ []) || decide (b.capPace k ≠ 0)

/-- The caps whose scope holds a domain. -/
def capsOver (b : Block) (d : Nat) : List Nat :=
  0 :: (if d < 12 then match b.wellPart d with
    | some p => if b.capW (1 + p) ≠ 0 then [1 + p] else []
    | none => [] else [])

/-- The caps allow a raise of a domain (R460). -/
def capAllows (b : Block) (d : Nat) : Bool :=
  (b.capsOver d).all fun k => decide (20 * (b.capSt k).last < 19 * b.capW k) && !b.capActive k && !b.capUnreach k

/-- cap_lim of a domain: the lowest a controller sets. -/
def capLim (b : Block) (d : Nat) : Nat :=
  (List.range 17).foldl (fun n k => min n (Tbl.get lim15 d (b.capSt k).lim)) 15

end Block

def setCapPace (k n : Nat) : Prog :=
  if k = 0 then setF Reg.PWR_STATUS Fl.PWR_STATUS_PACE n else setF (Reg.PWR_PART (k - 1)) Fl.PWR_PART_PACE n

def setCapUnreach (k n : Nat) : Prog :=
  if k = 0 then setF Reg.PWR_STATUS Fl.PWR_STATUS_CAP_UNREACHABLE n else setF (Reg.PWR_PART (k - 1)) Fl.PWR_PART_UNREACH n

/-- PWR_STATUS STAGE: the highest stage of the package cap with an action in force. -/
def refreshStage : Prog := .read fun b =>
  let c := b.capSt 0
  setF Reg.PWR_STATUS Fl.PWR_STATUS_STAGE
    (if b.capPace 0 ≠ 0 ∨ b.capUnreach 0 then 3 else if c.lim ≠ [] then 2 else if c.lvl ≠ [] then 1 else 0)

/-- cap_lim of a domain follows its controllers. -/
def refreshCapLim (d : Nat) : Prog := .read fun b =>
  .all [setF (Reg.PWR_DOM_STATUS d) Fl.PWR_DOM_STATUS_CAP_LIM (b.capLim d), kickDomain d]

def raiseLevels (k lvl : Nat) (gs : List Nat) : Prog := .all [
  modCap k fun c => { c with
    lvl := gs.foldl (fun t g => Tbl.set (dflt 0) g (max (Tbl.get (dflt 0) g t) (min 7 (max lvl (Tbl.get (dflt 0) g t + 1)))) t) c.lvl,
    raised := c.raised + 1 },
  .each gs refreshThrottle]

/-- The action of one sample over a cap (R458, R461). -/
def capAct (k : Nat) (clamp : Bool) : Prog := .read fun b =>
  let c := b.capSt k
  let low := (b.capSites k).filter fun g => Tbl.get (dflt 0) g c.lvl < 7
  let doms := (b.capDoms k).filter fun d => !b.domAsleep d && decide (b.domFloor d < b.domOp d)
  if low ≠ [] then raiseLevels k (if clamp then 7 else 1) low
  else if doms ≠ [] then .all [
    modCap k fun c => { c with
      lim := doms.foldl (fun t d => Tbl.set lim15 d (b.domOp d - 1) t) c.lim, acts := doms :: c.acts },
    .each doms refreshCapLim]
  else .all [
    .when (!b.capUnreach k) (.all [setCapUnreach k 1, logEv St.capUnreachable k, modCap k fun c => { c with escDone := false }]),
    setCapPace k (min 4 (b.capPace k + 1))]

/-- One sample measured against a cap (R457–R461). -/
def capSample (k now : Nat) : Prog := .read fun b =>
  let cap := b.capW k
  let above := decide (cap < now)
  let clamp := decide (9 * cap < 8 * now)
  .when (k = 0 || decide (cap ≠ 0)) (.all [
    modCap k fun c => { c with last := now, below := if !above && decide (20 * now ≤ 19 * cap) then c.below + 1 else 0 },
    if above then .all [.when clamp (setF Reg.PWR_STATUS Fl.PWR_STATUS_CLAMP 1), capAct k clamp]
    else .when (b.capUnreach k) (setCapUnreach k 0),
    .when (k = 0) refreshStage])

/-- The power of one rail in units of 0.1 mW: what telemetry reads, or the energy model's estimate (W) times 1.2 for a rail
marked FAIL (R455, R456). -/
def Block.railPower (b : Block) (est : List Nat) (k : Nat) : Nat :=
  if 3 ≤ Tbl.get (dflt 0) k b.pwr.railMiss then est.getD k 0 * 12000
  else b.f (Reg.PWR_RAIL k) Fl.PWR_RAIL_MV * b.f (Reg.PWR_RAIL k) Fl.PWR_RAIL_CURRENT

/-- Package power in W (R456). -/
def Block.packageW (b : Block) (est : List Nat) : Nat :=
  (List.range 20).foldl (fun n k => n + b.railPower est k) 0 / 10000 + b.f Reg.PWR_CAP Fl.PWR_CAP_UNMEASURED_W

/-- The 100 µs sample (R456–R461). -/
def powerSample (est : List Nat) : Prog := .read fun b =>
  let w := b.packageW est
  let last := (w :: b.pwr.samples).take 100
  .all [
    modPwr fun p => { p with samples := last },
    setF Reg.PWR_STATUS Fl.PWR_STATUS_NOW_W w,
    setF Reg.PWR_STATUS Fl.PWR_STATUS_AVG_W (last.sum / last.length),
    capSample 0 w,
    .each (List.range 16) fun p => capSample (1 + p) (b.f (Reg.PWR_PART p) Fl.PWR_PART_AVG_W)]

def execPowerSample (railEst : List Nat) (s : State) : Host.Outcome State Fault Refusal := s.run (powerSample railEst)

/-- One action undone after 1 ms, ten samples, at or below 0.95 of the cap (R459): pacing, then cap_lim, then levels. -/
def capRelax (k : Nat) : Prog := .read fun b =>
  let c := b.capSt k
  .when (decide (10 ≤ c.below)) (.all [
    modCap k fun c => { c with below := 0 },
    (if b.capPace k ≠ 0 then setCapPace k (b.capPace k - 1)
     else match c.acts with
      | ds :: rest => .all [
          modCap k fun c => { c with
            lim := if rest = [] then [] else ds.foldl (fun t d => Tbl.set lim15 d (min 15 (Tbl.get lim15 d t + 1)) t) c.lim,
            acts := rest },
          .each (b.capDoms k) refreshCapLim]
      | [] => .when (decide (c.lvl ≠ [])) (.all [
          modCap k fun c => { c with
            lvl := c.lvl.filterMap (fun e => if e.2 ≤ 1 then none else some (e.1, e.2 - 1)), raised := c.raised - 1 },
          .each (b.capSites k) refreshThrottle])),
    .when (k = 0) refreshStage])

/-- The actions and pacing of a cap are released (R468). -/
def releaseCap (k : Nat) : Prog := .read fun b => .all [
  modCap k fun c => { c with lvl := [], lim := [], acts := [], raised := 0, below := 0, escDone := false },
  setCapPace k 0,
  setCapUnreach k 0,
  .each (b.capDoms k) refreshCapLim,
  .each (b.capSites k) refreshThrottle]

def execCapRelax (ctl : Fin 17) (s : State) : Host.Outcome State Fault Refusal := s.run (capRelax ctl)

/-- Raise ESC_VEC of ESC_HAT. -/
def raiseEsc : Prog := .read fun b =>
  raiseIrq .wellhead (b.f Reg.PWR_CAP Fl.PWR_CAP_ESC_HAT) (b.f Reg.PWR_CAP Fl.PWR_CAP_ESC_VEC)

/-- CAP_UNREACHABLE has stayed set for 100 ms (R461): one escalation for each stay. -/
def execCapEscalate (s : State) : Host.Outcome State Fault Refusal :=
  s.run (.read fun b => .when (b.capUnreach 0 && !(b.capSt 0).escDone) (.all [
    raiseEsc, setF Reg.PWR_STATUS Fl.PWR_STATUS_ESCALATED 1, modCap 0 fun c => { c with escDone := true }]))

/-- The 100 µs read of every rail (R454, R455): each answers with millivolts and tenths of an ampere, or does not. -/
def railTelemetryRead (answers : List (Option (Nat × Nat))) : Prog :=
  .each (List.range 20) fun k => .read fun b =>
    match answers.getD k none with
    | some (mv, cur) => .all [
        setF (Reg.PWR_RAIL k) Fl.PWR_RAIL_MV mv, setF (Reg.PWR_RAIL k) Fl.PWR_RAIL_CURRENT cur,
        setF (Reg.PWR_RAIL k) Fl.PWR_RAIL_VALID 1,
        modPwr fun p => { p with railMiss := Tbl.set (dflt 0) k 0 p.railMiss }]
    | none =>
      let n := Tbl.get (dflt 0) k b.pwr.railMiss + 1
      .all [
        modPwr fun p => { p with railMiss := Tbl.set (dflt 0) k (min 3 n) p.railMiss },
        .when (decide (n = 3)) (.all [
          setF (Reg.PWR_RAIL k) Fl.PWR_RAIL_FAIL 1, setF (Reg.PWR_RAIL k) Fl.PWR_RAIL_VALID 0,
          setF Reg.PWR_STATUS Fl.PWR_STATUS_TELEM_FAIL 1])]

def execRailTelemetryRead (answers : List (Option (Nat × Nat))) (s : State) : Host.Outcome State Fault Refusal :=
  s.run (railTelemetryRead answers)

/-! ### Energy attribution (R463) -/

/-- A hat's modelled dynamic energy of the millisecond, in pJ. -/
def Block.dynOf (b : Block) (h : Nat) : Nat :=
  (List.range 32).foldl (fun n c => n + Tbl.get (dflt 0) (h * 32 + c) b.pwr.activity * Config.energyCoeff c) 0

/-- The hats with a record. -/
def Block.liveHats (b : Block) : List Nat := (hatsOf b.recs).map HatRec.hat

/-- The partitions that hold objects of a power domain. -/
def Block.domParts (b : Block) (d : Nat) : List Nat :=
  (List.range 16).filter fun p => partEnabled b.recs p &&
    (if d < 12 then b.usesRegion p d
     else if d < 16 then (List.range 4).any fun k => b.sitePart (4 * (d - 12) + k) = some p
     else true)

/-- The energy that falls to a hat before scaling, in pJ: its dynamic energy, its shares of its sites' rails in proportion to
its MSP bytes, and its share of the static energy of the domains of its partition (µJ operands). -/
def Block.hatEnergy (b : Block) (siteUJ staticUJ : List Nat) (h : Nat) : Nat :=
  let p := b.hatPart h
  let rails := (List.range 16).foldl (fun n g =>
    let all := (List.range 1024).foldl (fun m k => m + Tbl.get (dflt 0) (g * 1024 + k) b.pwr.mspBytes) 0
    n + (if all = 0 then 0 else siteUJ.getD g 0 * 1000000 * Tbl.get (dflt 0) (g * 1024 + h) b.pwr.mspBytes / all)) 0
  let dynPart := (b.liveHats.filter fun k => b.hatPart k = p).foldl (fun n k => n + b.dynOf k) 0
  let stat := (List.range 20).foldl (fun n d =>
    let ps := b.domParts d
    let wsum := ps.foldl (fun m q => m + Config.staticWeight d q) 0
    n + (if ps.contains p ∧ wsum ≠ 0 ∧ dynPart ≠ 0 then
      staticUJ.getD d 0 * 1000000 * Config.staticWeight d p / wsum * b.dynOf h / dynPart else 0)) 0
  b.dynOf h + rails + stat

/-- The attribution of one millisecond (R463). -/
def energyAttribution (pkgUJ : Nat) (siteUJ staticUJ : List Nat) : Prog := .read fun b =>
  let raw := b.liveHats.map fun h => (h, b.hatEnergy siteUJ staticUJ h)
  let modelled := raw.foldl (fun n e => n + e.2) 0
  let loose := (siteUJ.sum + staticUJ.sum) * 1000000 + raw.foldl (fun n e => n + b.dynOf e.1) 0
  let total := max modelled loose
  let shares := raw.map fun e =>
    (e.1, if total = 0 ∨ b.hatPart e.1 = 0xFF then 0 else pkgUJ * e.2 / total)
  .all [
    addWrap Reg.PWR_PKG_ENERGY Fl.PWR_PKG_ENERGY_UJ pkgUJ,
    .each shares fun e => addWrap (Reg.PWR_HAT_ENERGY e.1) Fl.PWR_HAT_ENERGY_UJ e.2,
    .each (List.range 16) fun p =>
      let uj := (shares.filter fun e => b.hatPart e.1 = p).foldl (fun n e => n + e.2) 0
      let last := (uj :: Tbl.get (dflt []) p b.pwr.partUJ).take 10
      .all [
        addWrap (Reg.PWR_PART_ENERGY p) Fl.PWR_PART_ENERGY_UJ uj,
        modPwr fun s => { s with partUJ := Tbl.set (dflt []) p (if last.all (· = 0) then [] else last) s.partUJ },
        setF (Reg.PWR_PART p) Fl.PWR_PART_AVG_W (last.sum / 10000)],
    addWrap Reg.PWR_UNATTR_ENERGY Fl.PWR_UNATTR_ENERGY_UJ (pkgUJ - shares.foldl (fun n e => n + e.2) 0),
    modPwr fun s => { s with activity := [], mspBytes := [] }]

def execEnergyAttribution (pkgUJ : Nat) (siteUJ staticUJ : List Nat) (s : State) : Host.Outcome State Fault Refusal :=
  s.run (energyAttribution pkgUJ siteUJ staticUJ)

/-! ### Heat (R464, R465) -/

/-- The domain a junction sensor watches (R464): four for each timing region, four for each span side, two for each port. -/
def sensorDom (k : Nat) : Nat := if k < 64 then regionDom (k / 4) else if k < 72 then 17 + (k - 64) / 4 else 19

/-- The hottest of a list of sensors and its number. -/
def hottest : List Int → Nat → Nat × Int → Nat × Int
  | [], _, best => best
  | t :: ts, k, best => hottest ts (k + 1) (if best.2 < t then (k, t) else best)

/-- The 10 µs read of the 80 junction sensors, in units of 0.125 °C (R464). -/
def junctionSensorRead (temps : List Int) : Prog := .read fun b =>
  match temps with
  | [] => .skip
  | t0 :: _ =>
    let (k, t) := hottest temps 0 (0, t0)
    let a := Reg.PWR_TEMP
    let at_ := fun d => (List.range temps.length).filterMap fun i =>
      if sensorDom i = d then some (temps.getD i 0) else none
    let hotNow := fun d => if (b.domSt d).hot then (at_ d).any (fun x => 816 ≤ x) else (at_ d).any (fun x => 840 ≤ x)
    let warn := if b.pwr.warnOn then decide (776 ≤ t) else decide (800 ≤ t)
    let pace := if b.on a Fl.PWR_TEMP_PACE then decide (856 ≤ t) else decide (880 ≤ t)
    .all [
      setF a Fl.PWR_TEMP_HOTTEST (wrapInt 16 t),
      setF a Fl.PWR_TEMP_SENSOR k,
      .when (warn && !b.pwr.warnOn) (.all [setF a Fl.PWR_TEMP_WARN 1, raiseEsc]),
      modPwr fun p => { p with warnOn := warn },
      .each (List.range 20) fun d =>
        .when (hotNow d != (b.domSt d).hot) (
          if hotNow d then .all [modDom d fun s => { s with hot := true }, logEv St.thermalThrottle d]
          else .all [modDom d fun s => { s with hot := false, hubHeat := 15 }, refreshHeat d]),
      setF a Fl.PWR_TEMP_HEAT (b2n ((List.range 20).any hotNow)),
      setF a Fl.PWR_TEMP_PACE (b2n pace)]

def execJunctionSensorRead (temps : List Int) (s : State) : Host.Outcome State Fault Refusal := s.run (junctionSensorRead temps)

/-- The limit one OP below where a domain stands, not below its FLOOR. -/
def Block.lowerLim (b : Block) (d lim : Nat) : Nat := max (b.domFloor d) (min lim (b.domOp d) - 1)

/-- One millisecond of the 105 °C action at a domain (R464). -/
def execHubHeatStep (d : Fin 20) (s : State) : Host.Outcome State Fault Refusal :=
  s.run (.read fun b => .when ((b.domSt d).hot && !b.domAsleep d) (.all [
    modDom d fun s => { s with hubHeat := b.lowerLim d s.hubHeat }, refreshHeat d]))

/-- The trip comparator (R465): THERMTRIP_N asserts until the always-on rail goes, VDD_CORE is written to its minimum,
0.55 V (the rail's limits), every domain stops, and mission tests are lost (R494). -/
def thermtrip : Prog := .read fun b => .when (!b.pwr.thermtrip) (.all [
  modPwr fun p => { p with thermtrip := true, tripOwed := true },
  setF (Reg.PWR_RAIL 0) Fl.PWR_RAIL_SET_MV 550, send (.avs 0 0 550),
  .each (List.range 20) fun d => .all [
    setF (Reg.PWR_DOM_STATUS d) Fl.PWR_DOM_STATUS_STATE 2, modDom d fun s => { s with stepTo := none }],
  setF Reg.TST_LTEST_CTL Fl.TST_LTEST_CTL_BUSY 0, setF Reg.TST_LTEST_CTL Fl.TST_LTEST_CTL_MISSION 0,
  modSys fun s => { s with ltest := {} }])

def execThermtrip (s : State) : Host.Outcome State Fault Refusal := s.runRaw thermtrip

/-! ### Wear (R466, R467) -/

/-- CONSUMED of timing drift at a region: 65,536 × rise ÷ 6 against its first baseline, taken at OP07 (R466). -/
def Block.drift (b : Block) (r : Nat) : Nat :=
  if (b.region r).firstKnown && decide (b.domOp (regionDom r) = 7) then
    min 65535 ((b.f (Reg.MON_TMG_REGION r) Fl.MON_TMG_REGION_BASELINE - b.f (Reg.MON_WEAR_REGION r) Fl.MON_WEAR_REGION_FIRST) * 65536 / 6)
  else b.f (Reg.MON_WEAR_REGION r) Fl.MON_WEAR_REGION_DRIFT

/-- CONSUMED of the mission-time spares (R466): the largest fraction used in a class.  A site has one spare module, a network
chiplet two SerDes spares, of a home cache set's 16 ways (R253) the fraction disabled under R271 counts. -/
def Block.spareWear (b : Block) : Nat :=
  let site := (List.range 16).foldl (fun n g =>
    max n (if b.siteOn g && decide (b.f (Reg.GLV_MODULES g) Fl.GLV_MODULES_SPARE = 0) then 65536 else 0)) 0
  let serdes := (List.range 2).foldl (fun n c =>
    max n (32768 * (b.f (Reg.SPN_LANE c) Fl.SPN_LANE_SPARE0_USED + b.f (Reg.SPN_LANE c) Fl.SPN_LANE_SPARE1_USED))) 0
  let ways := b.mem.waysOff.foldl (fun n e => max n (min 65536 (e.2 * 4096))) 0
  min 65535 (max site (max serdes ways))

/-- REMAIN_H of a mechanism: CONSUMED now, and its hourly history (R467). -/
def remainH (c : Nat) (hist : List Nat) : Nat :=
  let old := hist.getLastD c
  if c ≤ old ∨ hist = [] then 0xFFFFFFFF else min 0xFFFFFFFF ((65536 - c) * hist.length / (c - old))

/-- The smallest of the four REMAIN_H and its mechanism. -/
def leastRemain (l : List Nat) : Nat × Nat :=
  ((List.range l.length).foldl (fun (best : Nat × Nat) i => if l.getD i 0 < best.1 then (l.getD i 0, i + 1) else best)
    (l.headD 0xFFFFFFFF, 1))

/-- Corrected errors of a well's stack in each of the last 720 hours, newest first, the hour that ends with them (R466). -/
def Block.errHours (b : Block) (w : Nat) : List Nat := (Tbl.get (dflt 0) w b.pwr.errs :: Tbl.get (dflt []) w b.pwr.errHist).take 720

/-- CONSUMED of HBM errors (R466): of the worst stack, the corrected errors per hour over those hours. -/
def Block.hbmWear (b : Block) : Nat :=
  min 65535 ((List.range 12).foldl (fun n w => max n (16 * (b.errHours w).sum / (b.errHours w).length)) 0)

/-- The hourly wear update (R466, R467): electromigration stress of each domain, and the largest fraction of a module's lane repairs
in use, as measured. -/
def wearHourly (em : List Nat) (lanes : Nat) : Prog := .read fun b =>
  let drifts := (List.range 16).map b.drift
  let cs := [drifts.foldl max 0, min 65535 (em.foldl max 0), min 65535 (max b.spareWear lanes), b.hbmWear]
  let hist := fun m => (cs.getD m 0 :: Tbl.get (dflt []) m b.pwr.hist).take 721
  let rem := (List.range 4).map fun m => remainH (cs.getD m 0) ((hist m).drop 1)
  let (least, lim) := leastRemain rem
  let daily := if (b.pwr.hours + 1) % 24 = 0 then (least :: b.pwr.daily).take 30 else b.pwr.daily
  .all [
    .each (List.range 16) fun r => .all [
      setF (Reg.MON_WEAR_REGION r) Fl.MON_WEAR_REGION_DRIFT (drifts.getD r 0),
      setF (Reg.MON_WEAR_REGION r) Fl.MON_WEAR_REGION_EM (min 65535 (em.getD (regionDom r) 0))],
    .each (List.range 4) fun m => .all [
      setF (Reg.MON_WEAR_MECH m) Fl.MON_WEAR_MECH_CONSUMED (cs.getD m 0),
      setF (Reg.MON_WEAR_MECH m) Fl.MON_WEAR_MECH_REMAIN_H (rem.getD m 0)],
    setF Reg.MON_WEAR Fl.MON_WEAR_REMAIN_H least,
    setF Reg.MON_WEAR Fl.MON_WEAR_LIMIT lim,
    setF Reg.MON_WEAR Fl.MON_WEAR_CONSUMED (cs.getD (lim - 1) 0),
    modPwr fun p => { p with
      hist := (List.range 4).foldl (fun t m => Tbl.set (dflt []) m (hist m) t) p.hist, daily := daily, hours := p.hours + 1, errs := [],
      errHist := (List.range 12).foldl (fun t w => Tbl.set (dflt []) w (b.errHours w) t) p.errHist },
    .when (decide (daily ≠ [])) (.all [
      setF Reg.MON_WEAR_BAND Fl.MON_WEAR_BAND_LOW_H (Config.percentile 10 daily),
      setF Reg.MON_WEAR_BAND Fl.MON_WEAR_BAND_HIGH_H (Config.percentile 90 daily)])]

def execWearHourly (em : List Nat) (lanes : Nat) (s : State) : Host.Outcome State Fault Refusal := s.run (wearHourly em lanes)

end Sys2Proof.Machine
end

