-- ==== Sys2Proof/Machine/Walk.lean ====
section
/-! DEFINITION. Segments (R298–R302), and walks up to the answer of their entry read (R305–R312). -/

namespace Sys2Proof.Machine

/-! ### Segments (R299, R300) -/

/-- A segment as its four words give it. -/
structure SegView where
  live   : Bool     -- valid, not malformed, not empty
  bad    : Bool     -- malformed
  rights : Nat      -- R, W, A in bits 0 to 2
  span   : Bool
  paged  : Bool
  ctx    : Nat
  base   : Nat
  limit  : Nat
  off    : Nat

/-- The segment whose control word is at register address `sb`; `eng`: it belongs to an engine context. -/
def Block.segAt (b : Block) (sb : Nat) (eng : Bool) : SegView :=
  let f := b.f sb
  let base := b.f (sb + 8) Fl.XLT_VSEG_BASE_BASE * 4096
  let limit := b.f (sb + 16) Fl.XLT_VSEG_LIMIT_LIMIT * 4096
  let off := b.f (sb + 24) Fl.XLT_VSEG_OFFSET_OFFSET * 4096
  let valid := b.on sb Fl.XLT_VSEG_CTL_VALID
  let paged := b.on sb Fl.XLT_VSEG_CTL_PAGED
  let bad := valid && (decide (2 ^ 57 < base + limit) || (paged && (decide (off ≠ 0 ∨ 2 ^ 48 < base + limit) || !eng)))
  { live := valid && !bad && decide (limit ≠ 0), bad := bad,
    rights := f Fl.XLT_VSEG_CTL_R + 2 * f Fl.XLT_VSEG_CTL_W + 4 * f Fl.XLT_VSEG_CTL_A,
    span := b.on sb Fl.XLT_VSEG_CTL_SPAN, paged := paged, ctx := f Fl.XLT_VSEG_CTL_CTX, base := base, limit := limit,
    off := off }

/-- All rights of `need` are among `have_`. -/
def covers (have_ need : Nat) : Bool := decide (have_ &&& need = need)

/-- The physical address an offset maps to. -/
def SegView.pa (s : SegView) (o : Nat) : Nat := (o + s.off) % 2 ^ 57

/-- The SPAN rule: another package's address needs SPAN. -/
def Block.spanOk (b : Block) (span : Bool) (pa : Nat) : Bool := span || decide (pa / 2 ^ 47 % 1024 = b.ownPkg)

/-- An access of `size` bytes at offset `o` is allowed (R300); for a paged segment the leaf is checked apart. -/
def Block.segAllows (b : Block) (s : SegView) (need o size : Nat) : Bool :=
  s.live && decide (s.base ≤ o ∧ o + size ≤ s.base + s.limit) && covers s.rights need &&
    (s.paged || b.spanOk s.span (s.pa o))

/-- A physical range lies in a segment of a site context and may be accessed (R302). -/
def Block.segReaches (b : Block) (s : SegView) (need pa size : Nat) : Bool :=
  b.segAllows s need ((pa + 2 ^ 57 - s.off) % 2 ^ 57) size

/-! ### Walks -/

def Block.xctx (b : Block) (x : Nat) : XctxSt := Tbl.get (dflt {}) x b.xlt.ctx
def Block.fq (b : Block) (q : Nat) : FqSt := Tbl.get (dflt {}) q b.xlt.fq
def Block.xepoch (b : Block) (x : Nat) : Nat := b.f (Reg.XLT_CTX_EPOCH x) Fl.XLT_CTX_EPOCH_EPOCH
def Block.walkAt (b : Block) (w : Nat) : Option Walk := Tbl.get (dflt none) w b.xlt.walks

def modFq (q : Nat) (g : FqSt → FqSt) : Prog := modXlt fun x => { x with fq := Tbl.upd {} q g x.fq }
def modXctx (k : Nat) (g : XctxSt → XctxSt) : Prog := modXlt fun x => { x with ctx := Tbl.upd {} k g x.ctx }

/-- The quadrant of whoever a walk serves. -/
def WalkFor.quad : WalkFor → Nat
  | .pump p _ _ _ => p / 12
  | .engine e _ _ => e / 6

/-- A record of the context waits for its queue: its further walks wait (R318). -/
def Block.xctxBlocked (b : Block) (x : Nat) : Bool :=
  b.xlt.fq.any fun q => (q.2.parked ++ q.2.asked).any fun r => decide (r.walk.xctx = x)

/-- One descriptor's walks share a walker's kept line (R310). -/
def WalkFor.sameDesc : WalkFor → WalkFor → Bool
  | .pump p s _ _, .pump p' s' _ _ => decide (p = p' ∧ s = s')
  | _, _ => false

/-- The address of the entry a walk reads at its level. -/
def Walk.entryAddr (k : Walk) : Nat := k.table + 8 * bits k.va (12 + 9 * k.level) 9

/-- The table line a walker keeps, where its walk's next entry lies in it (R310). -/
def Block.keptLine (b : Block) (w : Nat) (k : Walk) : Option (List Byte) :=
  ((Tbl.get (dflt none) w b.xlt.line).filter fun l => l.1.sameDesc k.for_ && decide (l.2.1 = k.entryAddr / 64)).map fun l => l.2.2

/-- The physical address of the table line that holds a walk's next entry. -/
def Block.entryLine (b : Block) (k : Walk) : Nat := (b.ownPkg * 2 ^ 47 + k.entryAddr) / 64 * 64

/-- A walker reads its next entry under the hat of the context, unless it keeps the line from its last read (R307, R310). -/
def readEntry (w : Nat) : Prog := .read fun b =>
  .for? (b.walkAt w) fun k =>
    .when (decide (k.va < 2 ^ 48) && (b.keptLine w k).isNone) (match b.route k.hat (b.entryLine k) with
      | .inr d => sendPkt (Pkt.bare 0x00 (b.entryLine k) w k.hat (.walker w) d)
      | .inl _ => .skip)

/-- A walk waits for a walker of its quadrant; one of a held partition's context is held (R75). -/
def Block.nextWalk (b : Block) (quad : Nat) : Option (Nat × Walk) :=
  b.xlt.queue.find? fun e => decide (e.1 = quad) && !b.xctxBlocked e.2.xctx && !b.held? (some (b.hatPart e.2.hat))

/-- A walker free for a walk; in a window of its region none starts one (R52). -/
def Block.freeWalker (b : Block) (quad : Nat) : Option Nat :=
  if b.windowAt (12 + quad) then none else ((List.range 8).map fun k => 8 * quad + k).find? fun w => b.walkerOn w && (b.walkAt w).isNone

/-- The oldest waiting walk goes to a free walker; it carries the context's epoch at its start (R310, R313). -/
def serveOne (quad : Nat) : Prog := .read fun b =>
  match b.nextWalk quad, b.freeWalker quad with
  | some e, some w => .all [
      modXlt fun x => { x with
        queue := x.queue.erase e,
        line := Tbl.set (dflt none) w ((Tbl.get (dflt none) w x.line).filter fun l => l.1.sameDesc e.2.for_) x.line,
        walks := Tbl.set (dflt none) w (some { e.2 with
          level := 3, table := b.f (Reg.XLT_CTX_ROOT e.2.xctx) Fl.XLT_CTX_ROOT_ADDR * 4096,
          epoch := b.xepoch e.2.xctx }) x.walks },
      readEntry w]
  | _, _ => .skip

def serveWalks (quad : Nat) : Prog := .all (List.replicate 8 (serveOne quad))

/-- Ask for a walk. -/
def requestWalk (k : Walk) : Prog := .all [
  modXlt fun x => { x with queue := x.queue ++ [(k.for_.quad, k)] },
  serveWalks k.for_.quad]

/-- Walks that are given up: those a test picks, waiting or in progress. -/
def dropWalks (p : Walk → Bool) : Prog := .all [
  modXlt fun x => { x with
    queue := x.queue.filter fun e => !p e.2,
    walks := x.walks.foldl (fun t e => match e.2 with
      | some k => if p k then Tbl.set (dflt none) e.1 none t else t
      | none => t) x.walks },
  .each (List.range 4) serveWalks]

end Sys2Proof.Machine
end

