-- ==== Sys2Proof/Machine/PumpBase.lean ====
section
/-! DEFINITION. Pumps: descriptors, their completion records, interrupts and stops (R326–R342). -/

namespace Sys2Proof.Machine

/-! ### Descriptors (R326) -/

/-- The key of working-set slot `s` of pump `p`. -/
def workKey (p s : Nat) : Nat := p * 64 + s

namespace Desc
def n (d : Desc) (o k : Nat) : Nat := numAt d.bytes o k
def op (d : Desc) : Nat := d.n 0 1
def dflags (d : Desc) : Nat := d.n 1 1
def irq (d : Desc) : Bool := d.dflags.testBit 0
def order (d : Desc) : Bool := d.dflags.testBit 1
def weights (d : Desc) : Bool := d.dflags.testBit 2
def srcVa (d : Desc) : Bool := d.dflags.testBit 3
def dstVa (d : Desc) : Bool := d.dflags.testBit 4
def crypto (d : Desc) : Nat := d.n 3 1
def key (d : Desc) : Nat := d.n 4 1
def xctx (d : Desc) : Nat := d.n 5 1
def wset (d : Desc) : Nat := d.n 6 1
def length (d : Desc) : Nat := d.n 8 4
def fillval (d : Desc) : Nat := d.n 0x0C 4
def src (d : Desc) : Nat := d.n 0x10 8
def dst (d : Desc) : Nat := d.n 0x18 8
def nonce (d : Desc) : Nat := d.n 0x20 8
def tags (d : Desc) : Nat := d.n 0x28 8
def user (d : Desc) : Nat := d.n 0x30 8
/-- The number of 4 KiB pieces (R314). -/
def pieces (d : Desc) : Nat := (d.length + 4095) / 4096
end Desc

namespace Block
def intakeF (b : Block) (i : Nat) (fl : Fld) : Nat := b.f (Reg.PMP_INTAKE_CTL i) fl
def intakeHat (b : Block) (i : Nat) : Nat := b.intakeF i Fl.PMP_INTAKE_CTL_HAT
def intakePump (b : Block) (i : Nat) : Nat := b.intakeF i Fl.PMP_INTAKE_CTL_PUMP
def intakeOn (b : Block) (i : Nat) : Bool := b.on (Reg.PMP_INTAKE_CTL i) Fl.PMP_INTAKE_CTL_ENABLE
def intakeClosing (b : Block) (i : Nat) : Bool := b.on (Reg.PMP_INTAKE_STATUS i) Fl.PMP_INTAKE_STATUS_CLOSING
def nextSeq (b : Block) (i : Nat) : Nat := b.f (Reg.PMP_INTAKE_STATUS i) Fl.PMP_INTAKE_STATUS_NEXT_SEQ
def keyState (b : Block) (k : Nat) : Nat := b.f (Reg.PMP_KEY k) Fl.PMP_KEY_STATE
/-- Slots of a pump's working set in use. -/
def workSlots (b : Block) (p : Nat) : List Nat := (List.range 64).filter fun s => (b.workAt (workKey p s)).isSome
/-- Pieces in flight of a pump. -/
def piecesOut (b : Block) (p : Nat) : Nat :=
  (List.range 64).foldl (fun n s => match b.workAt (workKey p s) with
    | some d => n + (d.started - d.done)
    | none => n) 0
/-- A weight-set entry is held by a hat (R341). -/
def wsetHeld (b : Block) (w h : Nat) : Bool :=
  b.on (Reg.PMP_WSET w) Fl.PMP_WSET_VALID && decide (b.f (Reg.PMP_WSET w) Fl.PMP_WSET_HAT = h)
/-- The digest of a weight-set entry, byte 0 first. -/
def wsetDigest (b : Block) (w : Nat) : List Byte :=
  (List.range 6).flatMap fun j => toBytesLE 8 (b.w (Reg.PMP_WSET_DIGEST w j)).toNat
end Block

/-- Change a descriptor of a working set. -/
def modDesc (k : Nat) (g : Desc → Desc) : Prog := .read fun b => .for? (b.workAt k) fun d => setWork k (some (g d))

/-- The well of a pump sleeps; a spare in the quadrant's fabric stands in no well (R342, R477). -/
def Block.pumpAsleep (b : Block) (p : Nat) : Bool := (b.pumpSpare p).isNone && b.domAsleep (p / 4)

/-- STATE of PMP_STATUS: disabled when no partition holds the pump (DESIGN CHOICE, notes/assumptions/65.md), in unit reset, asleep,
paused by a commit with descriptors at hand, idle, running. -/
def Block.pumpState (b : Block) (p : Nat) : Nat :=
  if (b.pumpPart p).isNone then 0
  else if b.sys.unit = some (1, p) then 4
  else if b.pumpAsleep p then 5
  else if b.workSlots p = [] then 1
  else if b.held? (b.pumpPart p) then 3 else 2

/-- HELD and PIECES of PMP_STATUS; STATE is computed where it is read (Block.pumpState). -/
def showPump (p : Nat) : Prog := .read fun b =>
  .when (b.pumpOn p) (.all [
    setF (Reg.PMP_STATUS p) Fl.PMP_STATUS_HELD (b.workSlots p).length,
    setF (Reg.PMP_STATUS p) Fl.PMP_STATUS_PIECES (b.piecesOut p)])

/-! ### Records and interrupts (R331–R334, R342) -/

/-- HOST_ABSENT, once per hat (R391). -/
def logAbsent (h : Nat) : Prog := .read fun b =>
  .when (!b.hats.absentLogged.contains h) (.all [
    modHats fun s => { s with absentLogged := insertNat h s.absentLogged },
    logEv St.hostAbsent h])

/-- Raise an intake's vector, at most once in IRQ_HOLDOFF µs. -/
def raiseIntake (i : Nat) : Prog := .read fun b =>
  if (b.intakeSt i).irqOff then modIntake i fun s => { s with irqOwed := true }
  else .all [
    raiseIrq (.pump (b.intakePump i)) (b.intakeHat i) (b.intakeF i Fl.PMP_INTAKE_CTL_IRQ_VEC),
    modIntake i fun s => { s with irqOff := decide (b.intakeF i Fl.PMP_INTAKE_CTL_IRQ_HOLDOFF ≠ 0) }]

/-- A record of 32 bytes (R331). -/
def recordBytes (seq status flags bytes user elapsed pump last : Nat) : List Byte :=
  toBytesLE 2 seq ++ toBytesLE 1 status ++ toBytesLE 1 flags ++ toBytesLE 4 bytes ++ toBytesLE 8 user ++
    toBytesLE 4 elapsed ++ toBytesLE 1 pump ++ List.replicate 10 0 ++ toBytesLE 1 last

/-- A record goes to an intake's ring under the rights its command was admitted with (R77), or is dropped where the ring is gone. -/
def putRecord (rights i off : Nat) (bytes : List Byte) : Prog := .read fun b =>
  let a := b.f (Reg.PMP_INTAKE_CPL i) Fl.PMP_INTAKE_CPL_ADDR * 4096
  if b.ringDown a then
    (match b.place a with
    | .host _ _ => logAbsent (b.intakeHat i)
    | _ => .skip)
  else sendRecordBy rights (.pump (b.intakePump i)) (b.intakeHat i) (a + off) bytes

/-- An intake's slots in use (BUSY), and the end of a disable once every record is issued (R342). -/
def showIntake (i : Nat) : Prog := .read fun b =>
  let s := b.intakeSt i
  .all [
    setF (Reg.PMP_INTAKE_STATUS i) Fl.PMP_INTAKE_STATUS_BUSY s.held.length,
    .when (b.intakeClosing i && decide (s.held = []) && !s.byHat) (.all [
      setF (Reg.PMP_INTAKE_CTL i) Fl.PMP_INTAKE_CTL_ENABLE 0,
      setF (Reg.PMP_INTAKE_STATUS i) Fl.PMP_INTAKE_STATUS_CLOSING 0])]

/-- The completion record of descriptor `seq` of intake `i`, its interrupt and its credit (R331–R334). -/
def putCompletion (rights i p seq : Nat) (status flags bytes user elapsed : Nat) (irq : Bool) : Prog := .all [
  putRecord rights i (32 * (seq % 64)) (recordBytes seq status flags bytes user elapsed p ((seq / 64) % 2 ^^^ 1)),
  .when (irq || decide (status ≠ 0)) (raiseIntake i),
  modIntake i fun s => { s with held := s.held.filter fun x => x ≠ seq, busy := s.busy.filter fun x => x ≠ seq },
  incSat (Reg.PMP_COUNT p) Fl.PMP_COUNT_DONE,
  .when (decide (status ≠ 0)) (incSat (Reg.PMP_COUNT p) Fl.PMP_COUNT_ERRORS),
  showIntake i]

/-- The ring of an intake lies in the aperture of a function that sleeps (R514). -/
def Block.ringAsleep (b : Block) (i : Nat) : Bool :=
  match b.place (b.f (Reg.PMP_INTAKE_CPL i) Fl.PMP_INTAKE_CPL_ADDR * 4096) with
  | .host q _ => !(b.portSt q).removed && (match b.hostFn (b.intakeHat i) q with
    | some fn => b.fnAsleep q fn
    | none => false)
  | _ => false

/-- A descriptor completes; its record waits at the pump while the function that holds its ring sleeps (R514). -/
def completeSeq (rights i p seq : Nat) (status flags bytes user elapsed : Nat) (irq : Bool) : Prog := .read fun b =>
  if b.ringAsleep i then .all [
    modIntake i fun s => { s with busy := s.busy.filter fun x => x ≠ seq },
    modPmp fun s => { s with parked := s.parked ++ [⟨rights, i, p, seq, status, flags, bytes, user, elapsed, irq⟩] }]
  else putCompletion rights i p seq status flags bytes user elapsed irq

/-- The records that waited for a function go out once it serves its aperture again, or are dropped with its port (R342, R514); those
of descriptors that were discarded meanwhile are gone. -/
def releaseParked : Prog := .read fun b =>
  let waits := fun (r : ParkedRec) => match b.place (b.f (Reg.PMP_INTAKE_CPL r.intake) Fl.PMP_INTAKE_CPL_ADDR * 4096) with
    | .host q _ => !(b.portSt q).removed && !b.hostServes (b.intakeHat r.intake) q
    | _ => false
  .all [
    modPmp fun s => { s with parked := s.parked.filter waits },
    .each (b.pmp.parked.filter fun r => !waits r && (b.intakeSt r.intake).held.contains r.seq) fun r =>
      putCompletion r.rights r.intake r.pump r.seq r.status r.flags r.bytes r.user r.elapsed r.irq]

/-! ### Revocation and removal (R339, R340) -/

/-- The intakes of a hat that are closing for it end disabled (R340 step 6, R389 step 3). -/
def endIntakes (h : Nat) : Prog := .read fun b =>
  .each ((b.intake.keys).filter fun i => (b.intakeSt i).byHat && decide (b.intakeHat i = h)) fun i => .all [
    setF (Reg.PMP_INTAKE_CTL i) Fl.PMP_INTAKE_CTL_ENABLE 0,
    setF (Reg.PMP_INTAKE_STATUS i) Fl.PMP_INTAKE_STATUS_CLOSING 0,
    setF (Reg.PMP_INTAKE_STATUS i) Fl.PMP_INTAKE_STATUS_NEXT_SEQ 0,
    setF (Reg.PMP_INTAKE_STATUS i) Fl.PMP_INTAKE_STATUS_BUSY 0,
    modIntake i fun s => { s with byHat := false, busy := [], held := [] }]

def closeRevoke (r : Revoke) : Prog := .read fun b => .all [
  .each r.slots fun k => .all [
    modPmp fun s => { s with keymat := Tbl.set (dflt 0) k 0 s.keymat },
    setF (Reg.PMP_KEY k) Fl.PMP_KEY_STATE 0],
  modPmp fun s => { s with revs := s.revs.erase r },
  .for? r.hat fun h => .all [
    endIntakes h,
    setF Reg.PMP_REMOVE Fl.PMP_REMOVE_DONE 1,
    .when (!((b.pmp.revs.erase r).any fun x => x.hat.isSome)) (.all [
      setF Reg.PMP_REMOVE Fl.PMP_REMOVE_BUSY 0,
      setF Reg.PMP_REMOVE Fl.PMP_REMOVE_STEP 0])]]

/-- A descriptor keeps step 3 of a revocation open: it names one of its slots, or it is of the removed hat. -/
def Revoke.holds (r : Revoke) (d : Desc) : Bool :=
  (decide (d.crypto ≠ 0) && r.slots.contains d.key) || decide (r.hat = some d.hat)

/-- The transport engines a span drain asks: those in use whose side is not off (R370). -/
def Block.drainEngines (b : Block) : List Nat :=
  (List.range 8).filter fun e => !b.sys.offSpan.contains e &&
    decide (b.f (Reg.PWR_DOM_STATUS (if e < 4 then 17 else 18)) Fl.PWR_DOM_STATUS_STATE ≠ 2)

/-- Steps 3 to 5: once the transfers concerned have ended, span writes are drained; with every answer, the slots are zeroed. -/
def progressRevoke (r : Revoke) : Prog := .read fun b =>
  if !r.drain then
    let busy := (b.work.any fun e => match e.2 with
      | some d => r.holds d
      | none => false)
    .when (!busy) (
      let asks := r.hats.flatMap fun h => b.drainEngines.map fun e => (e, h)
      let r' := { r with drain := true, await := asks }
      .all [
        modPmp fun s => { s with revs := s.revs.map fun x => if x = r then r' else x },
        .when r.hat.isSome (setF Reg.PMP_REMOVE Fl.PMP_REMOVE_STEP 4),
        .each asks fun a => .all [
          modSpan fun s => { s with drains := s.drains ++ [a] },
          sendPkt (Pkt.bare 0xA2 0 0 a.2 .commitLogic (.spanEng a.1))],
        .when (decide (asks = [])) (closeRevoke r')])
  else .when (decide (r.await = [])) (closeRevoke r)

/-- Carry every revocation as far as it goes. -/
def progressRevokes : Prog := .read fun b => .each b.pmp.revs progressRevoke

/-! ### Completion (R331, R341) -/

/-- The digest of a WEIGHTS transfer enters its entry, or marks it incomplete; whether it entered. -/
def foldWeights (d : Desc) (status : Nat) : Prog := .read fun b =>
  .when (d.weights && b.wsetHeld d.wset d.hat) (
    if status = 0 then
      let dig := Config.sha384 (b.wsetDigest d.wset ++ toBytesLE 48 (Config.sha384 (d.plain.flatMap Prod.snd)))
      .all [
        .each (List.range 6) fun j => setR (Reg.PMP_WSET_DIGEST d.wset j) (BitVec.ofNat 64 (dig / 2 ^ (64 * j))),
        incSat (Reg.PMP_WSET d.wset) Fl.PMP_WSET_COUNT,
        measured,
        addWrap (Reg.PMP_WSET_BYTES d.wset) Fl.PMP_WSET_BYTES_BYTES d.length]
    else setF (Reg.PMP_WSET d.wset) Fl.PMP_WSET_INCOMPLETE 1)

/-- A unit reset of a pump ends once its working set is empty (R480). -/
def unitDone : Prog := .read fun b =>
  match b.sys.unit with
  | some (1, p) => .when (decide (b.workSlots p = [])) (.all [
      setF Reg.HUB_UNIT_RESET Fl.HUB_UNIT_RESET_BUSY 0,
      setF Reg.HUB_UNIT_RESET Fl.HUB_UNIT_RESET_DONE 1,
      setF Reg.HUB_UNIT_RESET Fl.HUB_UNIT_RESET_CODE St.ok,
      modSys fun s => { s with unit := none },
      showPump p])
  | _ => .skip

/-- A descriptor of a working set completes. -/
def finishDesc (p s : Nat) (status : Status) (flags : Nat) : Prog := .read fun b =>
  .for? (b.workAt (workKey p s)) fun d =>
    let digested := d.weights && decide (status = 0) && b.wsetHeld d.wset d.hat
    let stopped := flags.testBit 0
    .all [
      foldWeights d status,
      completeSeq d.rights d.intake p d.seq status (flags + 8 * b2n digested)
        (if stopped then d.moved / 4096 * 4096 else d.moved) d.user (min (b.now - d.admitted) (2 ^ 32 - 1)) d.irq,
      setWork (workKey p s) none,
      dropWalks fun k => match k.for_ with
        | .pump p' s' _ _ => decide (p' = p ∧ s' = s)
        | _ => false,
      showPump p,
      unitDone,
      progressRevokes]

/-- A transfer stops with a status: at once when no piece is in flight, else after those (R340, R342, R389).  One whose pieces
have all been started runs to its end. -/
def stopDesc (p s : Nat) (status : Status) : Prog := .read fun b =>
  .for? (b.workAt (workKey p s)) fun d =>
    if d.started = d.done then finishDesc p s status (if d.done = 0 then 0 else 1)
    else modDesc (workKey p s) fun x => { x with stop := true, final := max x.final status }

/-- Descriptors of an intake that wait in their slots complete with a status and no byte moved. -/
def flushSlots (i : Nat) (status : Status) : Prog := .read fun b =>
  .each (b.intakeSt i).busy fun seq =>
    let d : Desc := { bytes := slice (Tbl.get (dflt []) (seq % 64) (b.intakeSt i).slots) 0 64 }
    completeSeq (b.rightsOf (b.intakeHat i)) i (b.intakePump i) seq status 0 0 d.user 0 d.irq

/-- The admitted descriptors a test picks stop. -/
def stopWhere (test : Desc → Bool) (status : Status) : Prog := .read fun b =>
  .each (b.work.filter fun e => match e.2 with
    | some d => test d
    | none => false) fun e => stopDesc (e.1 / 64) (e.1 % 64) status

/-- New writes of an intake are discarded and its waiting descriptors complete (R340 step 1). -/
def shutIntake (i : Nat) (byHat : Bool) : Prog := .all [
  setF (Reg.PMP_INTAKE_STATUS i) Fl.PMP_INTAKE_STATUS_CLOSING 1,
  modIntake i fun s => { s with byHat := byHat },
  flushSlots i St.drainAbsorbed]

/-- An intake closes: it is shut and its admitted descriptors stop (R340 steps 1 and 3, R342, R389). -/
def closeIntake (i : Nat) (byHat : Bool) : Prog := .all [
  shutIntake i byHat,
  stopWhere (fun d => decide (d.intake = i)) St.drainAbsorbed,
  showIntake i]

/-- The intakes of a hat that are enabled. -/
def Block.intakesOf (b : Block) (h : Nat) : List Nat :=
  (List.range 4096).filter fun i => b.intakeOn i && decide (b.intakeHat i = h)

/-- Unit reset of a pump: admitted descriptors finish their pieces and complete with DRAIN_ABSORBED; waiting ones are kept. -/
def resetPump (p : Nat) : Prog := .read fun b =>
  .each (b.workSlots p) fun s => stopDesc p s St.drainAbsorbed

/-- A slot's key is revoked: descriptors under it that have not started complete, others finish their pieces poisoned. -/
def revokeKeys (slots : List Nat) (hat : Option Nat) (hats : List Nat) : Prog := .read fun b =>
  let r : Revoke := ⟨slots, hat, hats, false, []⟩
  .all [
    .each slots fun k => setF (Reg.PMP_KEY k) Fl.PMP_KEY_STATE 3,
    modPmp fun s => { s with revs := s.revs ++ [r] },
    .each (b.work.filter fun e => match e.2 with
      | some d => decide (d.crypto ≠ 0) && slots.contains d.key
      | none => false) fun e => .all [
        modDesc e.1 fun d => { d with poisPage := decide (d.started ≠ d.done) },
        stopDesc (e.1 / 64) (e.1 % 64) St.keyRevoked],
    progressRevokes]

end Sys2Proof.Machine
end

