-- ==== Sys2Proof/Machine/Float.lean ====
section
/-! DEFINITION. The element formats of R206 and their arithmetic: each result computed exactly and rounded once (R207, R208),
with the sticky flags of IEEE 754 in the bit order of VEC_CTXc_FLAGS. -/

namespace Sys2Proof.Machine

/-! ### Formats -/

/-- A float format: exponent and fraction bits, bias, whether it has infinities and NaNs, its largest exponent field and the
largest fraction at that field, its canonical NaN. -/
structure FFmt where
  eb   : Nat
  mb   : Nat
  bias : Nat
  inf  : Bool
  nan  : Bool
  maxE : Nat
  maxM : Nat
  cnan : Nat
  deriving DecidableEq, Repr

namespace FFmt
def fp32 : FFmt := ⟨8, 23, 127, true, true, 254, 0x7FFFFF, 0x7FC00000⟩
def bf16 : FFmt := ⟨8, 7, 127, true, true, 254, 0x7F, 0x7FC0⟩
def fp16 : FFmt := ⟨5, 10, 15, true, true, 30, 0x3FF, 0x7E00⟩
def e4m3 : FFmt := ⟨4, 3, 7, false, true, 15, 6, 0x7F⟩
def e5m2 : FFmt := ⟨5, 2, 15, true, true, 30, 3, 0x7E⟩
def e3m2 : FFmt := ⟨3, 2, 3, false, false, 7, 3, 0⟩
def e2m3 : FFmt := ⟨2, 3, 1, false, false, 3, 7, 0⟩
def e2m1 : FFmt := ⟨2, 1, 1, false, false, 3, 1, 0⟩
def width (f : FFmt) : Nat := 1 + f.eb + f.mb
end FFmt

/-- What a float word stands for: a NaN (signalling or not), an infinity, or (-1)^neg × m × 2^e. -/
inductive FVal where
  | nan (signal : Bool)
  | inf (neg : Bool)
  | fin (neg : Bool) (m : Nat) (e : Int)
  deriving DecidableEq, Repr

/-- Reading a float word. -/
def FFmt.decode (f : FFmt) (x : Nat) : FVal :=
  let neg := x.testBit (f.eb + f.mb)
  let e := bits x f.mb f.eb
  let m := bits x 0 f.mb
  if e = 2 ^ f.eb - 1 ∧ f.inf then
    if m = 0 then .inf neg else .nan (!m.testBit (f.mb - 1))
  else if f.nan ∧ ¬ f.inf ∧ e = f.maxE ∧ f.maxM < m then .nan false
  else if e = 0 then .fin neg m (1 - (f.bias : Int) - f.mb)
  else .fin neg (m + 2 ^ f.mb) ((e : Int) - f.bias - f.mb)

def FFmt.signBit (f : FFmt) (neg : Bool) : Nat := if neg then 2 ^ (f.eb + f.mb) else 0
def FFmt.zero (f : FFmt) (neg : Bool) : Nat := f.signBit neg
def FFmt.maxFin (f : FFmt) (neg : Bool) : Nat := f.signBit neg + f.maxE * 2 ^ f.mb + f.maxM
def FFmt.infW (f : FFmt) (neg : Bool) : Nat := if f.inf then f.signBit neg + (2 ^ f.eb - 1) * 2 ^ f.mb else f.cnan

/-! ### Flags, in the bit order of VEC_CTXc_FLAGS -/

namespace Flag
abbrev nv := 1
abbrev dz := 2
abbrev of_ := 4
abbrev uf := 8
abbrev nx := 16
abbrev sat := 32
abbrev psn := 64
abbrev storeErr := 128
end Flag

/-- A value and the flags it raised. -/
structure FRes where
  val   : Nat
  flags : Nat
  deriving DecidableEq, Repr

/-! ### Rounding (R207, R208) -/

/-- The number of bits of a number, counting at most `fuel` of them. -/
def bitLen (n : Nat) : Nat := if n = 0 then 0 else n.log2 + 1

/-- Whether a magnitude `sig` + `rem` ÷ 2^`shift` rounds away from zero.  `u` is the 24-bit draw of stochastic rounding. -/
def roundsUp (mode : Nat) (neg : Bool) (sig rem shift u : Nat) : Bool :=
  if rem = 0 then false
  else if mode = 0 then decide (2 ^ shift < 2 * rem) || (decide (2 * rem = 2 ^ shift) && decide (sig % 2 = 1))
  else if mode = 1 then false
  else if mode = 2 then neg
  else if mode = 3 then !neg
  else decide (u * 2 ^ shift < rem * 2 ^ 24)

/-- An overflow goes to infinity rather than to the largest finite number. -/
def overflowsToInf (mode : Nat) (neg : Bool) : Bool :=
  if mode = 1 then false else if mode = 2 then neg else if mode = 3 then !neg else true

/-- Round (-1)^neg × m × 2^e to a format under a mode; with `sat`, an overflow gives the largest finite value (R218). -/
def FFmt.round (f : FFmt) (mode u : Nat) (sat neg : Bool) (m : Nat) (e : Int) : FRes :=
  if m = 0 then ⟨f.zero neg, 0⟩
  else
    let emin : Int := 1 - (f.bias : Int)
    let top : Int := e + (bitLen m : Int) - 1
    let q0 : Int := top - f.mb
    let q : Int := max q0 (emin - f.mb)
    let shift := (q - e).toNat
    let sig := if q ≤ e then m * 2 ^ (e - q).toNat else m / 2 ^ shift
    let rem := if q ≤ e then 0 else m % 2 ^ shift
    let sig1 := if roundsUp mode neg sig rem shift u then sig + 1 else sig
    let (sig2, q2) := if sig1 = 2 ^ (f.mb + 1) then (2 ^ f.mb, q + 1) else (sig1, q)
    let nx := if rem = 0 then 0 else Flag.nx
    let field : Int := if sig2 < 2 ^ f.mb then 0 else q2 + f.mb + f.bias
    if field > f.maxE ∨ (field = f.maxE ∧ f.maxM < sig2 % 2 ^ f.mb) then
      ⟨if sat ∨ ¬ overflowsToInf mode neg then f.maxFin neg else f.infW neg, Flag.of_ ||| Flag.nx⟩
    else
      let carry := decide (top = emin - 1) && (let k := (q0 - e).toNat
        let s0 := if q0 ≤ e then m * 2 ^ (e - q0).toNat else m / 2 ^ k
        let r0 := if q0 ≤ e then 0 else m % 2 ^ k
        decide (s0 + 1 = 2 ^ (f.mb + 1)) && roundsUp mode neg s0 r0 k u)
      let tiny := decide (top < emin) && (!carry || Config.tinyBefore)
      ⟨f.signBit neg + field.toNat * 2 ^ f.mb + sig2 % 2 ^ f.mb,
        nx ||| (if tiny ∧ rem ≠ 0 then Flag.uf else 0)⟩

/-- The canonical NaN, with NV when an operand signals or the operation is invalid. -/
def FFmt.nanRes (f : FFmt) (invalid : Bool) : FRes := ⟨f.cnan, if invalid then Flag.nv else 0⟩

def FVal.isNan : FVal → Bool
  | .nan _ => true
  | _ => false

def FVal.signals : FVal → Bool
  | .nan s => s
  | _ => false

def FVal.neg? : FVal → Bool
  | .nan _ => false
  | .inf n => n
  | .fin n _ _ => n

def FVal.isZero : FVal → Bool
  | .fin _ 0 _ => true
  | _ => false

def FVal.flip : FVal → FVal
  | .nan s => .nan s
  | .inf n => .inf (!n)
  | .fin n m e => .fin (!n) m e

/-- The signed integer a magnitude stands for on the grid 2^e0. -/
def onGrid (neg : Bool) (m : Nat) (e e0 : Int) : Int :=
  let v : Int := (m : Int) * 2 ^ (e - e0).toNat
  if neg then -v else v

/-- The sum of two finite values, rounded; an exact zero is negative only when both are, or under rounding down (IEEE 754). -/
def FFmt.addFin (f : FFmt) (mode u : Nat) (n1 : Bool) (m1 : Nat) (e1 : Int) (n2 : Bool) (m2 : Nat) (e2 : Int) : FRes :=
  let e0 := min e1 e2
  let v := onGrid n1 m1 e1 e0 + onGrid n2 m2 e2 e0
  if v = 0 then
    ⟨f.zero (if m1 = 0 ∧ m2 = 0 ∧ n1 = n2 then n1 else decide (mode = 2)), 0⟩
  else f.round mode u false (decide (v < 0)) v.natAbs e0

/-- a + b. -/
def FFmt.add (f : FFmt) (mode u : Nat) (a b : FVal) : FRes :=
  match a, b with
  | .nan s, y => f.nanRes (s || y.signals)
  | _, .nan s => f.nanRes s
  | .inf n1, .inf n2 => if n1 = n2 then ⟨f.infW n1, 0⟩ else f.nanRes true
  | .inf n, .fin .. => ⟨f.infW n, 0⟩
  | .fin .., .inf n => ⟨f.infW n, 0⟩
  | .fin n1 m1 e1, .fin n2 m2 e2 => f.addFin mode u n1 m1 e1 n2 m2 e2

/-- a × b. -/
def FFmt.mul (f : FFmt) (mode u : Nat) (a b : FVal) : FRes :=
  match a, b with
  | .nan s, y => f.nanRes (s || y.signals)
  | _, .nan s => f.nanRes s
  | .inf n1, .inf n2 => ⟨f.infW (n1 != n2), 0⟩
  | .inf n1, .fin n2 m _ => if m = 0 then f.nanRes true else ⟨f.infW (n1 != n2), 0⟩
  | .fin n1 m _, .inf n2 => if m = 0 then f.nanRes true else ⟨f.infW (n1 != n2), 0⟩
  | .fin n1 m1 e1, .fin n2 m2 e2 => f.round mode u false (n1 != n2) (m1 * m2) (e1 + e2)

/-- a × b + c, rounded once. -/
def FFmt.fma (f : FFmt) (mode u : Nat) (a b c : FVal) : FRes :=
  match a, b, c with
  | .fin n1 m1 e1, .fin n2 m2 e2, .fin n3 m3 e3 => f.addFin mode u (n1 != n2) (m1 * m2) (e1 + e2) n3 m3 e3
  | a, b, c =>
    let sig := a.signals || b.signals || c.signals
    let infZero := match a, b with
      | .inf _, y => y.isZero
      | x, .inf _ => x.isZero
      | _, _ => false
    if a.isNan || b.isNan then f.nanRes sig
    else if infZero then f.nanRes true
    else if c.isNan then f.nanRes sig
    else
      let p := match a, b with
        | .fin .., .fin .. => none
        | x, y => some (x.neg? != y.neg?)
      match p, c with
      | some n, .inf n' => if n = n' then ⟨f.infW n, 0⟩ else f.nanRes true
      | some n, _ => ⟨f.infW n, 0⟩
      | none, .inf n => ⟨f.infW n, 0⟩
      | none, _ => f.nanRes false

/-- How many bits past the binary point a quotient or a root keeps before its sticky bit: more than any format's precision
and the draw of stochastic rounding together need. -/
def extraBits : Nat := 80

/-- a ÷ b. -/
def FFmt.div (f : FFmt) (mode u : Nat) (a b : FVal) : FRes :=
  match a, b with
  | .nan s, y => f.nanRes (s || y.signals)
  | _, .nan s => f.nanRes s
  | .inf _, .inf _ => f.nanRes true
  | .inf n1, .fin n2 _ _ => ⟨f.infW (n1 != n2), 0⟩
  | .fin n1 _ _, .inf n2 => ⟨f.zero (n1 != n2), 0⟩
  | .fin n1 m1 e1, .fin n2 m2 e2 =>
    if m2 = 0 then
      if m1 = 0 then f.nanRes true else ⟨f.infW (n1 != n2), Flag.dz ||| (if f.inf then 0 else Flag.of_ ||| Flag.nx)⟩
    else
      let n := m1 * 2 ^ extraBits
      let qt := n / m2 * 2 + (if n % m2 = 0 then 0 else 1)
      f.round mode u false (n1 != n2) qt (e1 - e2 - extraBits - 1)

/-- The integer square root, found bit by bit from bit `i - 1` down. -/
def isqrtFrom (n : Nat) : Nat → Nat → Nat
  | 0, r => r
  | i + 1, r => isqrtFrom n i (if (r + 2 ^ i) * (r + 2 ^ i) ≤ n then r + 2 ^ i else r)

/-- The square root. -/
def FFmt.sqrt (f : FFmt) (mode u : Nat) (a : FVal) : FRes :=
  match a with
  | .nan s => f.nanRes s
  | .inf n => if n then f.nanRes true else ⟨f.infW false, 0⟩
  | .fin n m e =>
    if m = 0 then ⟨f.zero n, 0⟩
    else if n then f.nanRes true
    else
      let (m', e') := if e % 2 = 0 then (m, e) else (2 * m, e - 1)
      let x := m' * 2 ^ (2 * extraBits)
      let r := isqrtFrom x (extraBits + 20) 0
      f.round mode u false false (2 * r + (if r * r = x then 0 else 1)) (e' / 2 - extraBits - 1)

/-- a × 2^b, rounded once (R214); past ±4096 the shift changes no result. -/
def FFmt.scalb (f : FFmt) (mode u : Nat) (a : FVal) (k : Int) : FRes :=
  match a with
  | .nan s => f.nanRes s
  | .inf n => ⟨f.infW n, 0⟩
  | .fin n m e => f.round mode u false n m (e + max (-4096) (min 4096 k))

/-- floor(log2 |a|) of a finite value that is not zero. -/
def floorLog2 (m : Nat) (e : Int) : Int := e + (bitLen m : Int) - 1

/-- floor(log2 |a|) as a float (R214). -/
def FFmt.getExp (f : FFmt) (mode u : Nat) (a : FVal) : FRes :=
  match a with
  | .nan s => f.nanRes s
  | .inf _ => ⟨f.infW false, 0⟩
  | .fin _ m e =>
    if m = 0 then (if f.inf then ⟨f.infW true, Flag.dz⟩ else f.nanRes true)
    else let k := floorLog2 m e; f.round mode u false (decide (k < 0)) k.natAbs 0

/-- a ÷ 2^floor(log2 |a|): sign kept, magnitude in [1, 2); 0, infinity and NaN pass through (R214). -/
def FFmt.getMant (f : FFmt) (x : Nat) : FRes :=
  match f.decode x with
  | .fin n m e => if m = 0 then ⟨x, 0⟩ else f.round 0 0 false n m (e - floorLog2 m e)
  | _ => ⟨x, 0⟩

/-- a < b of two values that are not NaN. -/
def FVal.lt (a b : FVal) : Bool :=
  match a, b with
  | .nan _, _ => false
  | _, .nan _ => false
  | .inf n1, .inf n2 => n1 && !n2
  | .inf n, .fin .. => n
  | .fin .., .inf n => !n
  | .fin n1 m1 e1, .fin n2 m2 e2 =>
    let e0 := min e1 e2
    decide (onGrid n1 m1 e1 e0 < onGrid n2 m2 e2 e0)

/-- a = b of two values that are not NaN. -/
def FVal.eq (a b : FVal) : Bool := !a.isNan && !b.isNan && !FVal.lt a b && !FVal.lt b a

/-- The smaller, or the larger with `big`; a NaN operand yields the other, two NaNs yield the canonical NaN (R214). -/
def FFmt.minmax (f : FFmt) (big : Bool) (x y : Nat) : FRes :=
  let a := f.decode x
  let b := f.decode y
  let nv := if a.signals || b.signals then Flag.nv else 0
  if a.isNan && b.isNan then ⟨f.cnan, nv⟩
  else if a.isNan then ⟨y, nv⟩
  else if b.isNan then ⟨x, nv⟩
  else if FVal.lt a b then ⟨if big then y else x, 0⟩
  else if FVal.lt b a then ⟨if big then x else y, 0⟩
  else if x = y then ⟨x, 0⟩
  else ⟨if Config.zeroFirst then x else y, 0⟩

/-! ### Between floats and integers (R218) -/

/-- A finite value rounded to an integer under a mode, and whether it was exact. -/
def roundInt (mode u : Nat) (neg : Bool) (m : Nat) (e : Int) : Int × Bool :=
  let shift := (-e).toNat
  let sig := if 0 ≤ e then m * 2 ^ e.toNat else m / 2 ^ shift
  let rem := if 0 ≤ e then 0 else m % 2 ^ shift
  let n := if roundsUp mode neg sig rem shift u then sig + 1 else sig
  (if neg then -(n : Int) else n, decide (rem = 0))

/-- A float value to an integer in [lo, hi]: rounded and saturated; NaN gives 0; NV for a NaN or a saturated result. -/
def toIntSat (mode u : Nat) (lo hi : Int) (a : FVal) : Int × Nat :=
  match a with
  | .nan _ => (0, Flag.nv)
  | .inf n => (if n then lo else hi, Flag.nv)
  | .fin n m e =>
    let (v, exact) := roundInt mode u n m e
    if v < lo then (lo, Flag.nv) else if hi < v then (hi, Flag.nv) else (v, if exact then 0 else Flag.nx)

/-- An integer to a float, rounded. -/
def FFmt.ofInt (f : FFmt) (mode u : Nat) (sat : Bool) (i : Int) : FRes := f.round mode u sat (decide (i < 0)) i.natAbs 0

/-- A float of one format to another (R218). -/
def FFmt.convert (src dst : FFmt) (mode u : Nat) (sat : Bool) (x : Nat) : FRes :=
  match src.decode x with
  | .nan s => dst.nanRes s
  | .inf n => if dst.inf then ⟨dst.infW n, 0⟩
    else ⟨if sat then dst.maxFin n else dst.cnan, Flag.of_ ||| Flag.nx⟩
  | .fin n m e => dst.round mode u sat n m e

end Sys2Proof.Machine
end

