-- ==== Sys2Proof/Machine/VecBase.lean ====
section
/-! DEFINITION. The issue of one vector instruction (R171–R184, R201–R209): fetch, the checks before issue, the interlock,
poison, faults, and how scalar, vector and mask destinations are written. -/

namespace Sys2Proof.Machine

/-! ### The instruction word (R202) -/

namespace Ins
def op (w : Nat) : Nat := bits w 56 8
def fmt (w : Nat) : Nat := bits w 52 4
def mask (w : Nat) : Nat := bits w 49 3
def rm (w : Nat) : Nat := bits w 46 3
def d (w : Nat) : Nat := bits w 40 6
def a (w : Nat) : Nat := bits w 34 6
def b (w : Nat) : Nat := bits w 28 6
def c (w : Nat) : Nat := bits w 22 6
def bsrc (w : Nat) : Nat := bits w 20 2
def imm20 (w : Nat) : Nat := bits w 0 20
/-- COND, A, B and IMM32 of the J layout. -/
def cond (w : Nat) : Nat := bits w 52 4
def ja (w : Nat) : Nat := bits w 46 6
def jb (w : Nat) : Nat := bits w 40 6
def imm32 (w : Nat) : Nat := bits w 0 32
def jump (w : Nat) : Int := signed 32 (imm32 w)
/-- SEG, LDM, NARROW and OFF24 of the M layout. -/
def seg (w : Nat) : Nat := bits w 46 3
def ldm (w : Nat) : Bool := w.testBit 27
def narrow (w : Nat) : Bool := w.testBit 26
def off24 (w : Nat) : Int := signed 24 w
/-- T and TIMM of the T layout. -/
def tile (w : Nat) : Nat := bits w 52 4
def timm (w : Nat) : Nat := bits w 0 20
end Ins

/-- The opcodes the chapter lists; every other faults with code 1 (R205). -/
def assignedOp (o : Nat) : Bool :=
  decide ((0x01 ≤ o ∧ o ≤ 0x0C) ∨ (0x10 ≤ o ∧ o ≤ 0x1D) ∨ (0x20 ≤ o ∧ o ≤ 0x27) ∨ (0x30 ≤ o ∧ o ≤ 0x3E) ∨
    (0x40 ≤ o ∧ o ≤ 0x55) ∨ (0x60 ≤ o ∧ o ≤ 0x62) ∨ (0x70 ≤ o ∧ o ≤ 0x78) ∨ (0x80 ≤ o ∧ o ≤ 0x82) ∨
    (0x88 ≤ o ∧ o ≤ 0x8A) ∨ (0x90 ≤ o ∧ o ≤ 0x91) ∨ (0xA0 ≤ o ∧ o ≤ 0xA6) ∨ (0xB0 ≤ o ∧ o ≤ 0xB4) ∨
    (0xC0 ≤ o ∧ o ≤ 0xC4) ∨ (0xC8 ≤ o ∧ o ≤ 0xCA))

/-! ### Formats (R206) -/

def fmtWidth (f : Nat) : Nat := [32, 16, 16, 8, 8, 32, 32, 8, 8, 8, 6, 6, 4].getD f 0
def fmtFloat (f : Nat) : Bool := decide (f ≤ 4)
def fmtInt (f : Nat) : Bool := decide (5 ≤ f ∧ f ≤ 7)
def fmtMx (f : Nat) : Bool := decide (8 ≤ f ∧ f ≤ 12)

/-- The float arithmetic of a format code; MX codes give their element formats (R147, R148). -/
def fmtOf (f : Nat) : FFmt :=
  match f with
  | 1 => .bf16
  | 2 => .fp16
  | 3 => .e4m3
  | 4 => .e5m2
  | 8 => .e4m3
  | 9 => .e5m2
  | 10 => .e3m2
  | 11 => .e2m3
  | 12 => .e2m1
  | _ => .fp32

/-! ### Reading a context's registers (R171–R173) -/

/-- Elements of width `w` that a vector register holds (R172). -/
def vlmax (w : Nat) : Nat := 8192 / w

namespace VecCtx

/-- A scalar; s0 reads 0. -/
def sc (x : VecCtx) (n : Nat) : W64 := if n = 0 then 0 else Tbl.get (dflt 0) n x.s

/-- A mask register; m0 reads all ones. -/
def mreg (x : VecCtx) (n : Nat) : Nat := if n = 0 then 2 ^ 1024 - 1 else Tbl.get (dflt 0) n x.m

/-- Element `i` of width `w` of a vector register (R172). -/
def elem (x : VecCtx) (w r i : Nat) : Nat :=
  bits (Tbl.get (dflt 0) (r * 256 + i / (32 / w)) x.v).toNat (w * (i % (32 / w))) w

/-- The active elements: below VL, mask bit set. -/
def active (x : VecCtx) (mask : Nat) : List Nat := (List.range x.vl).filter fun i => (x.mreg mask).testBit i

end VecCtx

/-- Write element `i` of width `w` of register `r` in the vector file. -/
def putElem (w r : Nat) (t : Tbl Lane) (i val : Nat) : Tbl Lane :=
  let k := r * 256 + i / (32 / w)
  let o := w * (i % (32 / w))
  let old := (Tbl.get (dflt 0) k t).toNat
  Tbl.set (dflt 0) k (BitVec.ofNat 32 (old - bits old o w * 2 ^ o + val % 2 ^ w * 2 ^ o)) t

/-- Bit `i` of a mask set to a truth value. -/
def putBit (n i : Nat) (v : Bool) : Nat := if v then setBit n i else clearBit n i

/-- A register an instruction names: a scalar or a vector. -/
inductive VReg where
  | s (n : Nat)
  | v (n : Nat)
  deriving DecidableEq, Repr

/-- The poison bit of a register; s0 has none. -/
def VecCtx.isPois (x : VecCtx) : VReg → Bool
  | .s n => decide (n ≠ 0) && x.sPois.testBit n
  | .v n => x.vPois.testBit n

/-- The code of a load refused late, if the register is its destination (R223). -/
def VecCtx.badCode (x : VecCtx) (r : VReg) : Option Nat :=
  (x.bad.find? fun e => match r with
    | .s n => decide (n ≠ 0) && e.1 && decide (e.2.1 = n)
    | .v n => !e.1 && decide (e.2.1 = n)).map fun e => e.2.2

/-! ### Writing destinations -/

/-- A scalar written; s0 ignores it. -/
def VecCtx.putS (x : VecCtx) (d : Nat) (val : W64) (pois : Bool) : VecCtx :=
  if d = 0 then x
  else { x with s := Tbl.set (dflt 0) d val x.s, sPois := putBit x.sPois d pois,
                bad := x.bad.filter fun e => ¬ (e.1 = true ∧ e.2.1 = d) }

/-- A vector destination: the active elements' results, the tail as the policy says (R173), the poison bit (R204). -/
def VecCtx.putV (x : VecCtx) (w mask d : Nat) (res : List (Nat × Nat)) (pois : Bool) : VecCtx :=
  let v1 := res.foldl (fun t e => putElem w d t e.1 e.2) x.v
  let v2 := if x.tailZ then
      ((List.range (vlmax w)).filter fun i => x.vl ≤ i).foldl (fun t i => putElem w d t i 0) v1
    else v1
  let kept := (!x.tailZ && decide (x.vl < vlmax w)) || decide (res.length < x.vl)
  { x with v := v2, vPois := putBit x.vPois d (pois || (kept && x.vPois.testBit d)),
           bad := if kept then x.bad else x.bad.filter fun e => ¬ (e.1 = false ∧ e.2.1 = d) }

/-- A mask destination: the bits of some elements below VL, the tail as the policy says; m0 ignores it (R215, R221). -/
def VecCtx.putM (x : VecCtx) (d : Nat) (res : List (Nat × Bool)) : VecCtx :=
  if d = 0 then x
  else
    let m1 := res.foldl (fun n e => putBit n e.1 e.2) (x.mreg d)
    { x with m := Tbl.set (dflt 0) d (if x.tailZ then m1 % 2 ^ x.vl else m1) x.m }

/-! ### A context's registers of the map -/

/-- The key of context `c` of engine `e`. -/
def ctxKey (e c : Nat) : Nat := e * 4 + c

def Block.ctxState (b : Block) (e c : Nat) : Nat := b.f (Reg.VEC_CTX_STATUS e c) Fl.VEC_CTX_STATUS_STATE
def Block.ctxHat (b : Block) (e c : Nat) : Nat := b.f (Reg.VEC_CTX_CTL e c) Fl.VEC_CTX_CTL_HAT
def Block.ctxPc (b : Block) (e c : Nat) : Nat := b.f (Reg.VEC_CTX_STATUS e c) Fl.VEC_CTX_STATUS_PC

/-- The low eight bits of VEC_CTXc_FLAGS. -/
def flagBits : Fld := ⟨0, 8⟩

/-- Set sticky flags (R183). -/
def setFlags (e c m : Nat) : Prog := .when (decide (m ≠ 0)) (orF (Reg.VEC_CTX_FLAGS e c) flagBits m)

/-- The PC of a context, at an index that may lie outside the instruction memory. -/
def setPc (e c : Nat) (t : Int) : Prog := .all [
  setF (Reg.VEC_CTX_STATUS e c) Fl.VEC_CTX_STATUS_PC (wrapInt 15 t),
  modCtx (ctxKey e c) fun x => { x with far := decide (t < 0 ∨ 32768 ≤ t) }]

/-! ### Troughs and packages an engine's packets go to -/

/-- A trough packet of handle `h` of context `c` (R240).  Towards another package ADDR[56:47] names that package; the root
puts the origin there (R250). -/
def Block.trgPkt (b : Block) (e c h cmd pkg trough elem tag : Nat) (units : List DUnit) : Pkt :=
  { cmd := cmd, addr := pkg * 2 ^ 47 + elem * 2 ^ 19 + trough * 2 ^ 13 + h * 2 ^ 11 + c * 2 ^ 9, tag := tag,
    hat := b.ctxHat e c, label := b.hatLabel (b.ctxHat e c), poison := false, ordered := true, src := .engine e,
    dst := b.troughEp pkg trough, units := units }

/-- The abort an engine sends for a handle that is open, opening or closing (R228). -/
def handleAbort (e c h : Nat) (x : Handle) : Prog := .read fun b =>
  .when (decide (x.state = 1 ∨ x.state = 2 ∨ x.state = 4)) (sendPkt (b.trgPkt e c h 0x73 x.pkg x.trough 0 x.tag []))

/-- Abort every handle of a context (R228). -/
def abortHandles (e c : Nat) : Prog := .read fun b =>
  .all [.each ((b.vctx (ctxKey e c)).handles) fun kv => handleAbort e c kv.1 kv.2,
    modCtx (ctxKey e c) fun x => { x with handles := [], finish := none }]

/-- A fault stops the context with PC at its instruction, raises its vector, and aborts its handles (R182, R228). -/
def faultCtx (e c code : Nat) (status : Option Status) : Prog := .read fun b => .all [
  abortHandles e c,
  setF (Reg.VEC_CTX_STATUS e c) Fl.VEC_CTX_STATUS_FAULT code,
  .for? status fun st => setF (Reg.VEC_CTX_STATUS e c) Fl.VEC_CTX_STATUS_CODE st,
  setF (Reg.VEC_CTX_STATUS e c) Fl.VEC_CTX_STATUS_STATE 3,
  modCtx (ctxKey e c) fun x => { x with acq := none },
  raiseIrq (.engine e) (b.ctxHat e c) (b.f (Reg.VEC_CTX_CTL e c) Fl.VEC_CTX_CTL_IRQ_VEC)]

/-! ### The interlock (R181) -/

/-- The register waits for a load, a reducer job or a trough unit. -/
def Block.regBusy (b : Block) (e c : Nat) (r : VReg) : Bool :=
  let x := b.vctx (ctxKey e c)
  match r with
  | .s n => decide (n ≠ 0) &&
      ((x.pend.any fun p => !p.write && p.scalar && decide (p.dst = n)) ||
       ((Tbl.get (dflt []) e b.vec.red).any fun j => decide (j.ctx = c ∧ 2 ≤ j.axis ∧ j.dst = n)) ||
       (x.handles.any fun h => decide ((h.2.state = 1 ∨ h.2.state = 4) ∧ h.2.sd = n)) ||
       (match x.finish with
        | some f => decide (f.1 = n)
        | none => false))
  | .v n => (x.pend.any fun p => !p.write && !p.scalar && decide (p.dst = n)) ||
      ((Tbl.get (dflt []) e b.vec.red).any fun j => decide (j.ctx = c ∧ j.axis < 2 ∧ j.dst = n))

/-! ### Issue -/

/-- What one opcode needs at issue: its checks before issue (R203), the registers it reads and writes, what else it waits
for, poison it reads elsewhere, the fault its operands give, its effect. -/
structure VecOp where
  op     : Nat
  legal  : Block → VecCtx → Nat → Bool
  reads  : Nat → List VReg
  writes : Nat → List VReg
  ready  : Block → VecCtx → Nat → Bool := fun _ _ _ => true
  pois   : Block → VecCtx → Nat → Bool := fun _ _ _ => false
  refuse : Block → VecCtx → Nat → Option (Nat × Option Status) := fun _ _ _ => none
  body   : Block → VecCtx → Nat → Prog

/-- A reduction of an engine without a reducer runs in the engine and stalls its issue (R199). -/
def Block.redStalls (b : Block) (e : Nat) : Bool := !b.reducerOn (e / 2) && decide (Tbl.get (dflt []) e b.vec.red ≠ [])

/-- Whether a context has an instruction to issue: its engine is in use and not stalled, its region is not in a window (R52), and it
runs. -/
def Block.ctxRuns (b : Block) (e c : Nat) : Bool :=
  b.engineOn e && !b.windowAt (e / 2) && decide (b.ctxState e c = 2) && !b.redStalls e

/-- PC lies in the kernel the context runs (R180). -/
def Block.pcInKernel (b : Block) (e c : Nat) : Bool :=
  let x := b.vctx (ctxKey e c)
  let a := Reg.VEC_KERNEL e x.kernel
  let base := b.f a Fl.VEC_KERNEL_BASE
  !x.far && decide (base ≤ b.ctxPc e c ∧ b.ctxPc e c < base + b.f a Fl.VEC_KERNEL_LEN)

/-- The instruction word at PC. -/
def Block.ctxWord (b : Block) (e c : Nat) : Nat := (b.imemAt (e * 32768 + b.ctxPc e c)).toNat

/-- A context has nothing to wait for: it runs, nothing it has issued is out, and its instruction is one that uses neither memory, a
tile register, a reducer, a trough nor a fence. -/
def Block.surelyReady (b : Block) (e c : Nat) : Bool :=
  let x := b.vctx (ctxKey e c)
  let op := Ins.op (b.ctxWord e c)
  b.ctxRuns e c && b.pcInKernel e c && decide (0x10 ≤ op ∧ op ≤ 0x78) && x.acq.isNone && decide (x.pend = [] ∧ x.handles = []) &&
    x.finish.isNone && !(Tbl.get (dflt []) e b.vec.red).any fun j => decide (j.ctx = c)

/-- It is the context's turn: none between the one that issued last and it is sure to be ready (R175).  Whether a context that waits
for something has become ready is left to the commands (notes/assumptions/7.md). -/
def Block.issueTurn (b : Block) (e c : Nat) : Bool :=
  (((List.range 4).map fun i => (Tbl.get (dflt 3) e b.vec.last + 1 + i) % 4).takeWhile (· ≠ c)).all fun k => !b.surelyReady e k

/-- The context has taken its engine's issue slot (R175), an activity of its hat (R463). -/
def tookTurn (e c : Nat) : Prog := .read fun b => .all [
  modVec fun v => { v with last := Tbl.set (dflt 3) e c v.last },
  activity (b.ctxHat e c) (Act.issue + Ins.fmt (b.ctxWord e c)) 1]

/-- An instruction has a poisoned source (R184). -/
def VecOp.poisoned (o : VecOp) (b : Block) (x : VecCtx) (w : Nat) : Bool := (o.reads w).any x.isPois || o.pois b x w

/-- Issue of the instruction at PC, when it is this opcode's.  A fetch outside the kernel and a word of no opcode fault
whatever instruction was to issue; a word of another opcode is not this command's, and nothing changes. -/
def vecIssue (e c : Nat) (o : VecOp) : Prog := .read fun b =>
  let x := b.vctx (ctxKey e c)
  let w := b.ctxWord e c
  if !b.ctxRuns e c || !b.issueTurn e c then .skip
  else if !b.pcInKernel e c then faultCtx e c 2 none
  else if !assignedOp (Ins.op w) then faultCtx e c 1 none
  else if Ins.op w ≠ o.op then .skip
  else if !o.legal b x w then faultCtx e c 1 none
  else if x.acq.isSome || (o.reads w ++ o.writes w).any (b.regBusy e c) || !o.ready b x w then .skip
  else match (o.reads w).findSome? x.badCode with
    | some st => faultCtx e c 5 (some st)
    | none =>
      if o.poisoned b x w && b.on (Reg.VEC_CTX_CTL e c) Fl.VEC_CTX_CTL_POISON_TRAP then faultCtx e c 8 none
      else match o.refuse b x w with
        | some (code, st) => faultCtx e c code st
        | none => .all [
            tookTurn e c,
            .when (o.poisoned b x w) (setFlags e c Flag.psn),
            setPc e c (b.ctxPc e c + 1),
            o.body b x w]

/-! ### Checks and operands the groups share (R203, R206, R208, R209) -/

/-- RM is one R208 allows. -/
def rmOk (rm : Nat) : Bool := decide (rm ≤ 4 ∨ rm = 7)

/-- The rounding in force (R208). -/
def VecCtx.modeOf (x : VecCtx) (rm : Nat) : Nat := if rm = 7 then x.rmode else rm

/-- The 24-bit draw of stochastic rounding for an element (R198, R208). -/
def srDraw (b : Block) (i : Nat) : Nat := Config.freeElem b.free i % 2 ^ 24

/-- A draw was taken: the next instruction's differ. -/
def drew (mode : Nat) : Prog := .when (decide (mode = 4)) (.edit .free)

/-- BSRC of an instruction that reads B, and the fields it then leaves unused: with a scalar allowed or not. -/
def bOk (bcast : Bool) (lim : Nat) (w : Nat) : Bool :=
  match Ins.bsrc w with
  | 0 => decide (Ins.b w < lim ∧ Ins.imm20 w = 0)
  | 1 => bcast && decide (Ins.b w < 32 ∧ Ins.imm20 w = 0)
  | 2 => decide (Ins.b w = 0)
  | _ => false

/-- B, BSRC and IMM20 of an instruction that reads no B. -/
def noB (w : Nat) : Bool := decide (Ins.b w = 0 ∧ Ins.bsrc w = 0 ∧ Ins.imm20 w = 0)

/-- The register B names: none with an immediate. -/
def bReg (w : Nat) : List VReg :=
  match Ins.bsrc w with
  | 0 => [.v (Ins.b w)]
  | 1 => [.s (Ins.b w)]
  | _ => []

/-- The FP32 word of a float immediate (R209). -/
def immFp32 (w : Nat) : Nat := Ins.imm20 w * 4096

/-- The immediate as an element of a format (R209); `int` for the shifts and VSCALB. -/
def immElem (fmt : Nat) (int : Bool) (w : Nat) : Nat :=
  if int || fmtInt fmt then wrapInt (fmtWidth fmt) (signed 20 (Ins.imm20 w))
  else (FFmt.fp32.convert (fmtOf fmt) 0 0 false (immFp32 w)).val

/-- Operand B of element `i`. -/
def VecCtx.bElem (x : VecCtx) (fmt : Nat) (int : Bool) (w i : Nat) : Nat :=
  match Ins.bsrc w with
  | 0 => x.elem (fmtWidth fmt) (Ins.b w) i
  | 1 => (x.sc (Ins.b w)).toNat % 2 ^ fmtWidth fmt
  | _ => immElem fmt int w

end Sys2Proof.Machine
end

