-- ==== Sys2Proof/Machine/VecTile.lean ====
section
/-! DEFINITION. Tile registers: their states and the tile instructions (R192–R195, R225). -/

namespace Sys2Proof.Machine

/-! ### The state of a tile register (R192) -/

def tregKey (e t : Nat) : Nat := e * 16 + t

namespace Block
def tregF (b : Block) (e t : Nat) (fl : Fld) : Nat := b.f (Reg.VEC_TREG e t) fl
def tregState (b : Block) (e t : Nat) : Nat := b.tregF e t Fl.VEC_TREG_STATE
def tregBkt (b : Block) (e t : Nat) : Bool := b.on (Reg.VEC_TREG e t) Fl.VEC_TREG_BKT

/-- The register cannot be used by the context: unbound, bound to another, or bucket-fed and IDLE (R194). -/
def tregBad (b : Block) (e c t : Nat) : Bool :=
  !b.on (Reg.VEC_TREG e t) Fl.VEC_TREG_BIND || decide (b.tregF e t Fl.VEC_TREG_CTX ≠ c) ||
    (b.tregBkt e t && decide (b.tregState e t = 1))

/-- The register is bucket-fed and its tile has yet to land (R194). -/
def tregWaits (b : Block) (e t : Nat) : Bool :=
  b.on (Reg.VEC_TREG e t) Fl.VEC_TREG_BIND && b.tregBkt e t && decide (b.tregState e t = 2 ∨ b.tregState e t = 3)

/-- Rows and columns of a register's tile: its header's, or 128 × 128 for scratch (R226). -/
def tregShape (b : Block) (e t : Nat) : Nat × Nat :=
  if b.tregBkt e t then (b.tregF e t Fl.VEC_TREG_ROWS + 1, b.tregF e t Fl.VEC_TREG_COLS + 1) else (128, 128)

/-- Cell (r, c) of a tile register. -/
def cell (b : Block) (e t r c : Nat) : Lane := Tbl.get (dflt 0) (r * 128 + c) (b.tregSt (tregKey e t)).cells
end Block

/-- STATE of a tile register and the summary bits of VEC_STATUS. -/
def setTreg (e t st : Nat) : Prog := .read fun b =>
  let full := b.f (Reg.VEC_STATUS e) Fl.VEC_STATUS_FULL
  let bound := b.f (Reg.VEC_STATUS e) Fl.VEC_STATUS_BOUND
  .all [
    setF (Reg.VEC_TREG e t) Fl.VEC_TREG_STATE st,
    setF (Reg.VEC_STATUS e) Fl.VEC_STATUS_FULL (putBit full t (decide (st = 4))),
    setF (Reg.VEC_STATUS e) Fl.VEC_STATUS_BOUND (putBit bound t (decide (st ≠ 0)))]

/-- Poison marks of a register's rows, and their number in VEC_TREGt. -/
def setTregPois (e t m : Nat) : Prog := .all [
  modTreg (tregKey e t) fun x => { x with pois := m },
  setF (Reg.VEC_TREG e t) Fl.VEC_TREG_POISON_ROWS (popCount m 128)]

/-- A bucket-fed register that is free sends its credit to the bound site and lane, if the site is fitted and passes traffic
no commit holds the engine's partition, and no job still reads the register (R190–R192, R197). -/
def armTreg (e t : Nat) : Prog := .read fun b =>
  let g := b.tregF e t Fl.VEC_TREG_SITE
  let h := b.tregF e t Fl.VEC_TREG_HAT
  .when (b.on (Reg.VEC_TREG e t) Fl.VEC_TREG_BIND && b.tregBkt e t && decide (b.tregState e t = 1) && b.engineOn e &&
      b.siteRuns g && !b.held? (b.enginePart e) && decide ((b.tregSt (tregKey e t)).readers = 0)) (.all [
    setTreg e t 2,
    sendPkt (Pkt.bare 0x61 (t * 2 ^ 26 + e * 2) 0 h (.engine e) (.glove g (b.tregF e t Fl.VEC_TREG_LANE)))])

/-- Arm every register that can be armed: after a fit, a commit, a partition's return. -/
def armAll : Prog := .each (List.range 24) fun e => .each (List.range 16) fun t => armTreg e t

/-- A write of VEC_TREGt changes what R195 holds back while a tile is under way. -/
def bindChanges (old new : W64) : Bool :=
  [Fl.VEC_TREG_BIND, Fl.VEC_TREG_SITE, Fl.VEC_TREG_LANE, Fl.VEC_TREG_CTX, Fl.VEC_TREG_HAT].any fun fl =>
    decide (getFld old fl ≠ getFld new fl)

/-- The binding fields of VEC_TREGt take a written word; a FULL bucket-fed register keeps its tile, and a write that changes only
SHARE leaves the register's state alone (R192, R195). -/
def applyBind (e t : Nat) (val : W64) : Prog := .read fun b =>
  let a := Reg.VEC_TREG e t
  let g := fun fl => setF a fl (getFld val fl)
  let bind := decide (getFld val Fl.VEC_TREG_BIND ≠ 0)
  let bkt := decide (getFld val Fl.VEC_TREG_BKT ≠ 0)
  let moves := bindChanges (b.w a) val || decide (getFld (b.w a) Fl.VEC_TREG_BKT ≠ getFld val Fl.VEC_TREG_BKT)
  .all [
    g Fl.VEC_TREG_BIND, g Fl.VEC_TREG_BKT, g Fl.VEC_TREG_SHARE, g Fl.VEC_TREG_CTX, g Fl.VEC_TREG_SITE, g Fl.VEC_TREG_LANE,
    g Fl.VEC_TREG_HAT,
    setF a Fl.VEC_TREG_PENDING 0,
    modTreg (tregKey e t) fun x => { x with wr := none },
    .when moves (setTreg e t (if !bind then 0 else if bkt && b.tregBkt e t && decide (b.tregState e t = 4) then 4 else 1)),
    armTreg e t]

/-- The register becomes free: IDLE, its held binding takes effect, its next credit goes out (R192, R195). -/
def freeTreg (e t : Nat) : Prog := .read fun b => .all [
  setTreg e t 1,
  match (b.tregSt (tregKey e t)).wr with
  | some val => applyBind e t val
  | none => armTreg e t]

/-- The register is unbound: its context is disabled or its engine reset.  A tile that is landing is absorbed (R200); a job of the
other engine that reads the register goes on reading it (R197). -/
def unbindTreg (e t : Nat) : Prog := .read fun b => .all [
  .when (decide (b.tregState e t = 3)) (.all [
    incSat (Reg.VEC_BKT_STAT e) Fl.VEC_BKT_STAT_ABSORBED, logEv St.drainAbsorbed e]),
  setF (Reg.VEC_TREG e t) Fl.VEC_TREG_BIND 0,
  setF (Reg.VEC_TREG e t) Fl.VEC_TREG_PENDING 0,
  modTreg (tregKey e t) fun x => { x with wr := none, next := 0 },
  setTreg e t 0]

/-! ### The tile instructions (R225) -/

/-- MASK, bits 48:46 and 33:20 are 0, the width is 32. -/
def tileRest (x : VecCtx) (w : Nat) : Bool := decide (x.ew = 32 ∧ Ins.mask w = 0 ∧ Ins.rm w = 0 ∧ bits w 20 14 = 0)

/-- A tile instruction: `timm` the largest TIMM it allows, whether it writes the register. -/
def vecTile (e c op timm : Nat) (store : Bool) (dLim aLim : Nat) (reads writes : Nat → List VReg)
    (pois : Block → VecCtx → Nat → Bool) (align : VecCtx → Nat → Bool) (body : Block → VecCtx → Nat → Prog) : Prog :=
  vecIssue e c {
    op := op,
    legal := fun _ x w => tileRest x w && decide (Ins.timm w ≤ timm ∧ Ins.d w < dLim ∧ Ins.a w < aLim),
    reads := reads, writes := writes,
    ready := fun b _ w => b.tregBad e c (Ins.tile w) ||
      (!b.tregWaits e (Ins.tile w) && !(store && decide (0 < (b.tregSt (tregKey e (Ins.tile w))).readers))),
    pois := fun b x w => !b.tregBad e c (Ins.tile w) && pois b x w,
    refuse := fun b x w =>
      if b.tregBad e c (Ins.tile w) then some (6, none) else if align x w then none else some (4, none),
    body := body }

/-- The row or column index of a tile instruction. -/
def tileIdx (x : VecCtx) (w : Nat) : Nat := (x.sc (Ins.a w)).toNat % 128

def tilePair (w : Nat) : Bool := (Ins.timm w).testBit 0

/-- PAIR with r odd is misaligned. -/
def pairAligned (x : VecCtx) (w : Nat) : Bool := !tilePair w || decide (tileIdx x w % 2 = 0)

def dataA (w : Nat) : List VReg := [.s (Ins.a w)]

/-- The rows TRD reads are poisoned. -/
def rowPois (b : Block) (e : Nat) (x : VecCtx) (w : Nat) : Bool :=
  let m := (b.tregSt (tregKey e (Ins.tile w))).pois
  m.testBit (tileIdx x w) || (tilePair w && m.testBit (tileIdx x w + 1))

/-- Lanes of a vector register, from lane `o`. -/
def putLanes (x : VecCtx) (r o : Nat) (l : List Lane) : Tbl Lane := Tbl.setRun (dflt 0) (r * 256 + o) l x.v

def execTrd (e : Fin 24) (c : Fin 4) (s : State) : Host.Outcome State Fault Refusal :=
  s.run (vecTile e c 0xA0 1 false 64 32 dataA (fun w => [.v (Ins.d w)]) (fun b x w => rowPois b e x w) pairAligned
    fun b x w =>
      let r := tileIdx x w
      let row := fun r => (List.range 128).map fun k => b.cell e (Ins.tile w) r k
      modCtx (ctxKey e c) fun y => { y with
        v := putLanes y (Ins.d w) 0 (row r ++ if tilePair w then row (r + 1) else []),
        vPois := putBit y.vPois (Ins.d w) (rowPois b e x w),
        bad := if tilePair w then y.bad.filter fun t => ¬ (t.1 = false ∧ t.2.1 = Ins.d w) else y.bad })

def execTrdc (e : Fin 24) (c : Fin 4) (s : State) : Host.Outcome State Fault Refusal :=
  s.run (vecTile e c 0xA1 0 false 64 32 dataA (fun w => [.v (Ins.d w)])
    (fun b _ w => decide ((b.tregSt (tregKey e (Ins.tile w))).pois ≠ 0)) (fun _ _ => true)
    fun b x w =>
      modCtx (ctxKey e c) fun y => { y with
        v := putLanes y (Ins.d w) 0 ((List.range 128).map fun r => b.cell e (Ins.tile w) r (tileIdx x w)),
        vPois := putBit y.vPois (Ins.d w) (decide ((b.tregSt (tregKey e (Ins.tile w))).pois ≠ 0)) })

/-- Lane `k` of a vector register. -/
def VecCtx.lane (x : VecCtx) (r k : Nat) : Lane := Tbl.get (dflt 0) (r * 256 + k) x.v

def execTwr (e : Fin 24) (c : Fin 4) (s : State) : Host.Outcome State Fault Refusal :=
  s.run (vecTile e c 0xA2 1 true 64 32 (fun w => [.s (Ins.a w), .v (Ins.d w)]) (fun _ => []) (fun _ _ _ => false) pairAligned
    fun b x w =>
      let r := tileIdx x w
      let n := if tilePair w then 256 else 128
      let k := tregKey e (Ins.tile w)
      let pois := x.isPois (.v (Ins.d w))
      let m1 := putBit (b.tregSt k).pois r pois
      .all [
        modTreg k fun y => { y with
          cells := Tbl.setRun (dflt 0) (r * 128) ((List.range n).map fun i => x.lane (Ins.d w) i) y.cells },
        setTregPois e (Ins.tile w) (if tilePair w then putBit m1 (r + 1) pois else m1)])

def execTwrc (e : Fin 24) (c : Fin 4) (s : State) : Host.Outcome State Fault Refusal :=
  s.run (vecTile e c 0xA3 0 true 64 32 (fun w => [.s (Ins.a w), .v (Ins.d w)]) (fun _ => []) (fun _ _ _ => false)
    (fun _ _ => true)
    fun _ x w =>
      let k := tregKey e (Ins.tile w)
      let pois := x.isPois (.v (Ins.d w))
      .all [
        modTreg k fun y => { y with
          cells := (List.range 128).foldl
            (fun t r => Tbl.set (dflt 0) (r * 128 + tileIdx x w) (x.lane (Ins.d w) r) t) y.cells },
        setTregPois e (Ins.tile w) (if pois then 2 ^ 128 - 1 else 0)])

/-- Every cell 0, no row poisoned. -/
def zeroTreg (e t : Nat) : Prog := .all [modTreg (tregKey e t) fun x => { x with cells := [] }, setTregPois e t 0]

def execTfree (e : Fin 24) (c : Fin 4) (s : State) : Host.Outcome State Fault Refusal :=
  s.run (vecTile e c 0xA4 0 true 1 1 (fun _ => []) (fun _ => []) (fun _ _ _ => false) (fun _ _ => true)
    fun b _ w => if b.tregBkt e (Ins.tile w) then freeTreg e (Ins.tile w) else zeroTreg e (Ins.tile w))

def execTzero (e : Fin 24) (c : Fin 4) (s : State) : Host.Outcome State Fault Refusal :=
  s.run (vecTile e c 0xA5 0 true 1 1 (fun _ => []) (fun _ => []) (fun _ _ _ => false) (fun _ _ => true)
    fun _ _ w => zeroTreg e (Ins.tile w))

def execTinfo (e : Fin 24) (c : Fin 4) (s : State) : Host.Outcome State Fault Refusal :=
  s.run (vecTile e c 0xA6 0 false 32 1 (fun _ => []) (fun w => [.s (Ins.d w)]) (fun _ _ _ => false) (fun _ _ => true)
    fun b _ w => modCtx (ctxKey e c) fun y => y.putS (Ins.d w) (b.w (Reg.VEC_TREG e (Ins.tile w))) false)

end Sys2Proof.Machine
end

