-- ==== Sys2Proof/Machine/VecReduce.lean ====
section
/-! DEFINITION. Reductions (R196–R199, R226). -/

namespace Sys2Proof.Machine

/-! ### The arithmetic -/

/-- Combine a list in an order the manual leaves open (R198): two at a time, chosen by the seed; `g` is told which step it is. -/
def reduceAny {α : Type} (seed : Nat) (g : Nat → α → α → α) : Nat → List α → Option α
  | _, [] => none
  | 0, x :: _ => some x
  | fuel + 1, l =>
    match l.drop (Config.sumOrder seed (2 * fuel) % l.length), l.take (Config.sumOrder seed (2 * fuel) % l.length) with
    | x :: after, before =>
      let rest := before ++ after
      match rest.drop (Config.sumOrder seed (2 * fuel + 1) % rest.length), rest.take (Config.sumOrder seed (2 * fuel + 1) % rest.length) with
      | y :: after', before' => reduceAny seed g fuel (before' ++ after' ++ [g fuel x y])
      | [], _ => some x
    | [], _ => none

/-- A value in a reduction and the flags it has raised. -/
def FRes.join (g : Nat → Nat → FRes) (x y : FRes) : FRes :=
  let r := g x.val y.val
  ⟨r.val, x.flags ||| y.flags ||| r.flags⟩

/-- The magnitude of an INT32, exact in 32 bits: 2^31 for the most negative value (R198). -/
def absI32 (n : Nat) : Nat := (signed 32 n).natAbs

/-- An INT32 saturated, with SAT. -/
def satI32 (i : Int) : FRes :=
  if i < -(2 ^ 31) then ⟨2 ^ 31, Flag.sat⟩ else if 2 ^ 31 - 1 < i then ⟨2 ^ 31 - 1, Flag.sat⟩ else ⟨wrapInt 32 i, 0⟩

/-- What each element contributes to a reduction: itself, its square, its magnitude. -/
def redTerm (op : Nat) (isInt : Bool) (mode u n : Nat) : FRes :=
  match op, isInt with
  | 1, false => FFmt.fp32.mul mode u (FFmt.fp32.decode n) (FFmt.fp32.decode n)
  | 1, true => satI32 (signed 32 n * signed 32 n)
  | 4, false => ⟨n % 2 ^ 31, 0⟩
  | 4, true => ⟨absI32 n, 0⟩
  | _, _ => ⟨n, 0⟩

/-- How two contributions combine. -/
def redJoin (op : Nat) (isInt : Bool) (mode u : Nat) (a b : Nat) : FRes :=
  match op, isInt with
  | 2, false => FFmt.fp32.minmax true a b
  | 2, true => ⟨if signed 32 a < signed 32 b then b else a, 0⟩
  | 3, false => FFmt.fp32.minmax false a b
  | 3, true => ⟨if signed 32 b < signed 32 a then b else a, 0⟩
  | 4, false => FFmt.fp32.minmax true a b
  | 4, true => ⟨max a b, 0⟩
  | _, false => FFmt.fp32.add mode u (FFmt.fp32.decode a) (FFmt.fp32.decode b)
  | _, true => satI32 (signed 32 a + signed 32 b)

/-- One reduction, with a draw of its own for each term and each step (R208); a result that is a NaN is the canonical one (R207).  A
sum of nothing is 0; the manual states no largest or smallest of nothing. -/
def reduce (seed op : Nat) (isInt : Bool) (mode : Nat) (l : List Nat) : FRes :=
  let draw := fun i => Config.freeElem seed i % 2 ^ 24
  let terms := l.zipIdx.map fun n => redTerm op isInt mode (draw (2 * n.2)) n.1
  match reduceAny seed (fun i => FRes.join (redJoin op isInt mode (draw (2 * i + 1)))) l.length terms with
  | some r => if !isInt && (FFmt.fp32.decode r.val).isNan then { r with val := FFmt.fp32.cnan } else r
  | none => ⟨if op ≤ 1 then 0 else Config.freeElem seed 0 % 2 ^ 32, 0⟩

/-! ### Issue (R226) -/

def redFmt (w : Nat) : Nat := bits (Ins.timm w) 16 4
def redAxis (w : Nat) : Nat := bits (Ins.timm w) 8 2
def redPair (w : Nat) : Bool := (Ins.timm w).testBit 4
def redU (w : Nat) : Nat := bits (Ins.timm w) 0 4

/-- The other engine of the well. -/
def otherEngine (e : Nat) : Nat := if e % 2 = 0 then e + 1 else e - 1

def redOk (x : VecCtx) (w : Nat) : Bool :=
  decide (redFmt w = 0 ∨ redFmt w = 5) && decide (bits (Ins.timm w) 10 6 = 0 ∧ bits (Ins.timm w) 5 3 = 0) &&
    decide (Ins.rm w = 0 ∧ bits w 20 14 = 0) && (redPair w || decide (redU w = 0)) &&
    (if redAxis w = 3 then decide (x.ew = 32 ∧ Ins.tile w = 0 ∧ Ins.d w < 32) && !redPair w
     else decide (Ins.mask w = 0 ∧ Ins.a w = 0 ∧ (redAxis w < 2 ∨ Ins.d w < 32)))

def redReads (w : Nat) : List VReg := if redAxis w = 3 then [.v (Ins.a w)] else []
def redWrites (w : Nat) : List VReg := if redAxis w < 2 then [.v (Ins.d w)] else [.s (Ins.d w)]

/-- The other engine's register serves a job of context (e, c): bound, SHARE, the context's hat (R197). -/
def Block.pairOk (b : Block) (e c u : Nat) : Bool :=
  let e' := otherEngine e
  b.on (Reg.VEC_TREG e' u) Fl.VEC_TREG_BIND && b.on (Reg.VEC_TREG e' u) Fl.VEC_TREG_SHARE &&
    decide (b.tregF e' u Fl.VEC_TREG_HAT = b.ctxHat e c) && !(b.tregBkt e' u && decide (b.tregState e' u = 1))

/-- A job cannot run: the other engine's register without a reducer (R199), a register that cannot be used (R194, R197). -/
def redRefuse (e c : Nat) (b : Block) (w : Nat) : Option (Nat × Option Status) :=
  if redAxis w = 3 then none
  else if redPair w && !b.reducerOn (e / 2) then some (9, some St.unsupported)
  else if b.tregBad e c (Ins.tile w) || (redPair w && !b.pairOk e c (redU w)) then some (6, none)
  else none

/-- Rows of a tile register that its tile covers are poisoned. -/
def Block.tilePois (b : Block) (e t : Nat) : Bool :=
  decide ((b.tregSt (tregKey e t)).pois % 2 ^ (b.tregShape e t).1 ≠ 0)

def redPois (e c : Nat) (b : Block) (w : Nat) : Bool :=
  decide (redAxis w ≠ 3) && (redRefuse e c b w).isNone &&
    (b.tilePois e (Ins.tile w) || (redPair w && b.tilePois (otherEngine e) (redU w)))

/-- The field of VEC_RED that shows an engine's queue. -/
def queuedFld (e : Nat) : Fld := if e % 2 = 0 then Fl.VEC_RED_QUEUED_A else Fl.VEC_RED_QUEUED_B

/-- The jobs an engine has queued. -/
def setJobs (e : Nat) (l : List RedJob) : Prog := .all [
  modVec fun v => { v with red := Tbl.set (dflt []) e l v.red },
  setF (Reg.VEC_RED (e / 2)) (queuedFld e) l.length]

/-- A job starts or stops reading a tile register. -/
def addReader (e t : Nat) (more : Bool) : Prog :=
  modTreg (tregKey e t) fun x => { x with readers := if more then x.readers + 1 else x.readers - 1 }

def jobReaders (e : Nat) (j : RedJob) (more : Bool) : Prog :=
  let one := fun e t => Prog.all [addReader e t more, .when (!more) (armTreg e t)]
  .when (decide (j.axis ≠ 3)) (.all [one e j.reg, .for? j.reg2 (one (otherEngine e))])

/-- A reduction issues a job to the reducer's queue of its engine, or waits while that holds eight. -/
def vecReduce (e c op kind : Nat) : Prog :=
  vecIssue e c {
    op := op, legal := fun _ x w => redOk x w, reads := redReads, writes := redWrites,
    ready := fun b _ w =>
      decide ((Tbl.get (dflt []) e b.vec.red).length < 8) &&
        (decide (redAxis w = 3) || (redRefuse e c b w).isSome ||
          (!b.tregWaits e (Ins.tile w) && !(redPair w && b.tregWaits (otherEngine e) (redU w)))),
    pois := fun b _ w => redPois e c b w,
    refuse := fun b _ w => redRefuse e c b w,
    body := fun b x w =>
      let j : RedJob := {
        ctx := c, op := kind, axis := redAxis w, reg := Ins.tile w, reg2 := if redPair w then some (redU w) else none,
        dst := Ins.d w, isInt := decide (redFmt w = 5), tailZ := x.tailZ, rmode := x.rmode,
        vals := if redAxis w = 3 then (x.active (Ins.mask w)).map fun i => x.lane (Ins.a w) i else [],
        pois := redPois e c b w || (redReads w).any x.isPois }
      .all [setJobs e (Tbl.get (dflt []) e b.vec.red ++ [j]), jobReaders e j true] }

def execRsum (e : Fin 24) (c : Fin 4) (s : State) : Host.Outcome State Fault Refusal := s.run (vecReduce e c 0xB0 0)
def execRsumsq (e : Fin 24) (c : Fin 4) (s : State) : Host.Outcome State Fault Refusal := s.run (vecReduce e c 0xB1 1)
def execRmax (e : Fin 24) (c : Fin 4) (s : State) : Host.Outcome State Fault Refusal := s.run (vecReduce e c 0xB2 2)
def execRmin (e : Fin 24) (c : Fin 4) (s : State) : Host.Outcome State Fault Refusal := s.run (vecReduce e c 0xB3 3)
def execRamax (e : Fin 24) (c : Fin 4) (s : State) : Host.Outcome State Fault Refusal := s.run (vecReduce e c 0xB4 4)

/-! ### Completion (R196) -/

/-- The cells a job reduces for each result: rows, columns, the whole tile, both registers' with a pair, or a vector's. -/
def Block.jobGroups (b : Block) (e : Nat) (j : RedJob) : List (List Nat) :=
  let (rows, cols) := b.tregShape e j.reg
  let line := fun (e t r : Nat) (byRow : Bool) =>
    (List.range (if byRow then cols else rows)).map fun k =>
      (if byRow then b.cell e t r k else b.cell e t k r).toNat
  let both := fun (r : Nat) (byRow : Bool) => line e j.reg r byRow ++ (match j.reg2 with
    | some u => line (otherEngine e) u r byRow
    | none => [])
  match j.axis with
  | 0 => (List.range rows).map fun r => both r true
  | 1 => (List.range cols).map fun k => both k false
  | 2 => [((List.range rows).map fun r => both r true).flatten]
  | _ => [j.vals.map BitVec.toNat]

/-- A paired job names registers of one shape (R196); where the shapes differ the manual states no result. -/
def Block.shapesAgree (b : Block) (e : Nat) (j : RedJob) : Bool :=
  match j.reg2 with
  | some u => decide (b.tregShape e j.reg = b.tregShape (otherEngine e) u)
  | none => true

/-- A vector destination of `n` results; the elements beyond follow the tail policy the job was issued under. -/
def VecCtx.putResults (x : VecCtx) (tailZ : Bool) (d : Nat) (l : List Nat) (pois : Bool) : VecCtx :=
  let y := { x with vl := l.length, tailZ := tailZ }.putV 32 0 d ((List.range l.length).zip l) pois
  { y with vl := x.vl, tailZ := x.tailZ }

/-- The reducer completes the oldest job of an engine. -/
def reducerJobDone (e : Nat) : Prog := .read fun b =>
  match (if b.windowAt (e / 2) then [] else Tbl.get (dflt []) e b.vec.red) with
  | [] => .skip
  | j :: rest =>
    let res := (b.jobGroups e j).zipIdx.map fun l =>
      let r := reduce (Config.freeElem b.free l.2) j.op j.isInt j.rmode l.1
      if b.shapesAgree e j then r else ⟨Config.freeElem b.free l.2 % 2 ^ 32, 0⟩
    .all [
      modCtx (ctxKey e j.ctx) fun y =>
        if j.axis < 2 then y.putResults j.tailZ j.dst (res.map FRes.val) j.pois
        else y.putS j.dst (BitVec.ofNat 64 (res.foldl (fun _ r => r.val) 0)) j.pois,
      setFlags e j.ctx (res.foldl (fun n r => n ||| r.flags) 0),
      .edit .free,
      setJobs e rest,
      jobReaders e j false,
      incSat (Reg.VEC_RED (e / 2)) Fl.VEC_RED_JOBS,
      activity (b.ctxHat e j.ctx) Act.reducer 1]

def execReducerJobDone (e : Fin 24) (s : State) : Host.Outcome State Fault Refusal := s.run (reducerJobDone e)

/-- The jobs of a stopped context end and their results are discarded (R230). -/
def dropJobs (e c : Nat) : Prog := .read fun b =>
  let l := Tbl.get (dflt []) e b.vec.red
  .all [
    .each (l.filter fun j => decide (j.ctx = c)) fun j => jobReaders e j false,
    setJobs e (l.filter fun j => decide (j.ctx ≠ c)),
    addSat (Reg.VEC_RED (e / 2)) Fl.VEC_RED_JOBS (l.filter fun j => decide (j.ctx = c)).length]

end Sys2Proof.Machine
end

