-- ==== Sys2Proof/Machine/VecCtl.lean ====
section
/-! DEFINITION. Kernels, contexts, tile-register bindings and the bucket queue at an engine (R174–R200). -/

namespace Sys2Proof.Machine

/-- A hat that may write an engine's registers (R379): hat 0, or a COMPUTE hat of the engine's partition. -/
def Block.mayEngine (b : Block) (hat e : Nat) : Bool :=
  decide (hat = 0) || (b.holds hat Right.compute && b.inPart hat (b.enginePart e))

/-! ### Kernels (R178, R179) -/

/-- A context of the engine runs kernel entry `k`. -/
def Block.kernelRuns (b : Block) (e k : Nat) : Bool :=
  (List.range 4).any fun c => decide (b.ctxState e c = 2 ∧ (b.vctx (ctxKey e c)).kernel = k)

/-- A range of instructions overlaps a valid entry other than `k`. -/
def Block.kernelOverlap (b : Block) (e k base len : Nat) : Bool :=
  (List.range 8).any fun j =>
    let a := Reg.VEC_KERNEL e j
    let base' := b.f a Fl.VEC_KERNEL_BASE
    decide (j ≠ k) && b.on a Fl.VEC_KERNEL_VALID && decide (base < base' + b.f a Fl.VEC_KERNEL_LEN ∧ base' < base + len)

/-- The digest of an entry. -/
def setDigest (e k dig : Nat) : Prog :=
  .each (List.range 6) fun j => setR (Reg.VEC_KERNEL_DIGEST e k j) (BitVec.ofNat 64 (dig / 2 ^ (64 * j)))

/-- The last GO or FREE has finished with a status. -/
def kloadEnd (e code : Nat) : Prog := .all [
  setF (Reg.VEC_KLOAD e) Fl.VEC_KLOAD_BUSY 0,
  setF (Reg.VEC_KLOAD e) Fl.VEC_KLOAD_DONE 1,
  setF (Reg.VEC_KLOAD e) Fl.VEC_KLOAD_CODE code]

/-- ENTRY, LEN and BASE as written. -/
def kloadFields (e : Nat) (val : W64) : Prog := .all [
  setF (Reg.VEC_KLOAD e) Fl.VEC_KLOAD_ENTRY (getFld val Fl.VEC_KLOAD_ENTRY),
  setF (Reg.VEC_KLOAD e) Fl.VEC_KLOAD_LEN (getFld val Fl.VEC_KLOAD_LEN),
  setF (Reg.VEC_KLOAD e) Fl.VEC_KLOAD_BASE (getFld val Fl.VEC_KLOAD_BASE)]

/-- A write of VEC_KLOAD with GO: the load begins, its entry invalid until it ends. -/
def kloadGo (hat e : Nat) (val : W64) : Prog := underHat hat (.read fun b =>
  let k := getFld val Fl.VEC_KLOAD_ENTRY
  let len := getFld val Fl.VEC_KLOAD_LEN
  let base := getFld val Fl.VEC_KLOAD_BASE
  .when (b.mayEngine hat e && b.engineOn e) (.all [
    kloadFields e val,
    .when (!b.on (Reg.VEC_KLOAD e) Fl.VEC_KLOAD_BUSY) (
      if len = 0 ∨ 32768 < base + len ∨ b.kernelOverlap e k base len ∨ b.kernelRuns e k then kloadEnd e St.descInvalid
      else .all [
        setF (Reg.VEC_KLOAD e) Fl.VEC_KLOAD_BUSY 1,
        setF (Reg.VEC_KERNEL e k) Fl.VEC_KERNEL_VALID 0,
        setDigest e k 0,
        modVec fun v => { v with
          kload := Tbl.set (dflt none) e (some ⟨hat, k, len, base, b.f (Reg.VEC_KLOAD_SRC e) Fl.VEC_KLOAD_SRC_ADDR * 8, b.rightsOf hat⟩)
            v.kload }])]))

def execVecKloadGo (hat : Nat) (e : Fin 24) (val : W64) (s : State) : Host.Outcome State Fault Refusal :=
  s.run (kloadGo hat e val)

/-- The words a list of bytes holds, `n` of them. -/
def wordsOf (l : List Byte) (n : Nat) : List W64 := (List.range n).map fun i => BitVec.ofNat 64 (numAt l (8 * i) 8)

/-- The source read of a kernel load has ended: package memory brings what it holds (R178), and a poisoned unit ends the load
(R179). -/
def kloadDone (e : Nat) (told : ReadIn) : Prog := .read fun b =>
  .for? (Tbl.get (dflt none) e b.vec.kload) fun j =>
    let a := Reg.VEC_KERNEL e j.entry
    let read := b.sourced j.rights j.hat j.src (8 * j.len) told
    let bytes := slice read.data 0 (8 * j.len)
    .all [
      modVec fun v => { v with kload := Tbl.set (dflt none) e none v.kload },
      if read.end_ = St.ok then .all [
        .edit (.imem (e * 32768 + j.base) (wordsOf bytes j.len)),
        setF a Fl.VEC_KERNEL_HAT j.hat,
        setF a Fl.VEC_KERNEL_LEN j.len,
        setF a Fl.VEC_KERNEL_BASE j.base,
        setF a Fl.VEC_KERNEL_VALID 1,
        incSat a Fl.VEC_KERNEL_LOADS,
        setDigest e j.entry (Config.sha384 bytes),
        measured,
        kloadEnd e St.ok]
      else kloadEnd e read.end_]

def execVecKloadDone (e : Fin 24) (read : ReadIn) (s : State) : Host.Outcome State Fault Refusal := s.run (kloadDone e read)

/-- An entry freed: VALID and the digest cleared, its instructions 0. -/
def freeKernel (e k : Nat) : Prog := .read fun b =>
  let a := Reg.VEC_KERNEL e k
  let base := e * 32768 + b.f a Fl.VEC_KERNEL_BASE
  .when (b.on a Fl.VEC_KERNEL_VALID) (.all [
    .edit (.imemDrop base (base + b.f a Fl.VEC_KERNEL_LEN)),
    setF a Fl.VEC_KERNEL_VALID 0,
    setDigest e k 0,
    measured])

/-- A write of VEC_KLOAD with FREE. -/
def kloadFree (hat e : Nat) (val : W64) : Prog := underHat hat (.read fun b =>
  let k := getFld val Fl.VEC_KLOAD_ENTRY
  .when (b.mayEngine hat e && b.engineOn e) (.all [
    kloadFields e val,
    .when (!b.on (Reg.VEC_KLOAD e) Fl.VEC_KLOAD_BUSY) (
      if b.kernelRuns e k then kloadEnd e St.descInvalid else .all [freeKernel e k, kloadEnd e St.ok])]))

def execVecKloadFree (hat : Nat) (e : Fin 24) (val : W64) (s : State) : Host.Outcome State Fault Refusal :=
  s.run (kloadFree hat e val)

/-! ### Contexts (R174, R180, R185) -/

def setDenied (e c : Nat) : Prog := setF (Reg.VEC_CTX_STATUS e c) Fl.VEC_CTX_STATUS_DENIED 1

/-- Who may write a context's registers (R174, R379). -/
def Block.mayCtx (b : Block) (hat e c : Nat) : Bool :=
  decide (hat = 0) || (b.mayEngine hat e &&
    (decide (hat = b.ctxHat e c) || !b.on (Reg.VEC_CTX_CTL e c) Fl.VEC_CTX_CTL_ENABLE))

/-- A window of LDM reaches past the memory, or into that of an enabled context of another hat. -/
def Block.ldmClash (b : Block) (e c hat base size : Nat) : Bool :=
  decide (128 < base + size) || (List.range 4).any fun k =>
    let a := Reg.VEC_CTX_CTL e k
    let base' := b.f a Fl.VEC_CTX_CTL_LDM_BASE
    decide (k ≠ c) && b.on a Fl.VEC_CTX_CTL_ENABLE && decide (b.ctxHat e k ≠ hat) &&
      decide (base < base' + b.f a Fl.VEC_CTX_CTL_LDM_SIZE ∧ base' < base + size)

/-- The summary bit of an enabled context. -/
def setCtxOn (e c : Nat) (on : Bool) : Prog := .read fun b =>
  setF (Reg.VEC_STATUS e) Fl.VEC_STATUS_CTX_ON (putBit (b.f (Reg.VEC_STATUS e) Fl.VEC_STATUS_CTX_ON) c on)

/-- A write of VEC_CTXc_CTL by a hat that may make it. -/
def ctxCtlWrite (e c : Nat) (val : W64) : Prog := .read fun b =>
  let a := Reg.VEC_CTX_CTL e c
  let was := b.on a Fl.VEC_CTX_CTL_ENABLE
  let on := decide (getFld val Fl.VEC_CTX_CTL_ENABLE ≠ 0)
  let hat := if was then b.ctxHat e c else getFld val Fl.VEC_CTX_CTL_HAT
  let g := fun fl => setF a fl (getFld val fl)
  if (on && b.ldmClash e c hat (getFld val Fl.VEC_CTX_CTL_LDM_BASE) (getFld val Fl.VEC_CTX_CTL_LDM_SIZE)) ||
      (!was && b.hatRemoved hat) || (on && !was && decide (b.ctxState e c ≠ 0)) then setDenied e c
  else .all [
    setF a Fl.VEC_CTX_CTL_HAT hat,
    g Fl.VEC_CTX_CTL_IRQ_VEC, g Fl.VEC_CTX_CTL_POISON_TRAP, g Fl.VEC_CTX_CTL_TAIL, g Fl.VEC_CTX_CTL_RMODE,
    g Fl.VEC_CTX_CTL_LDM_SIZE, g Fl.VEC_CTX_CTL_LDM_BASE, g Fl.VEC_CTX_CTL_ENABLE,
    .when (on && !was) (.all [setF (Reg.VEC_CTX_STATUS e c) Fl.VEC_CTX_STATUS_STATE 1, setCtxOn e c true]),
    .when (was && !on) (setF (Reg.VEC_CTX_STATUS e c) Fl.VEC_CTX_STATUS_STATE 4)]

/-- A write of a context's register: made, or discarded with DENIED set (R174). -/
def ctxWrite (hat e c : Nat) (p : Prog) : Prog := underHat hat (.read fun b =>
  .when (b.engineOn e) (if b.mayCtx hat e c then p else setDenied e c))

def execVecCtxEnable (hat : Nat) (e : Fin 24) (c : Fin 4) (val : W64) (s : State) : Host.Outcome State Fault Refusal :=
  s.run (ctxWrite hat e c (ctxCtlWrite e c (putFld val Fl.VEC_CTX_CTL_ENABLE 1)))

def execVecCtxDisable (hat : Nat) (e : Fin 24) (c : Fin 4) (s : State) : Host.Outcome State Fault Refusal :=
  s.run (ctxWrite hat e c (.read fun b => ctxCtlWrite e c (putFld (b.w (Reg.VEC_CTX_CTL e c)) Fl.VEC_CTX_CTL_ENABLE 0)))

/-- The context is disabled: handles aborted, queued jobs dropped, registers 0, its tile registers unbound (R185, R228). -/
def clearCtx (e c : Nat) : Prog := .read fun b => .all [
  abortHandles e c,
  dropJobs e c,
  .each ((List.range 16).filter fun t => b.on (Reg.VEC_TREG e t) Fl.VEC_TREG_BIND && decide (b.tregF e t Fl.VEC_TREG_CTX = c))
    (unbindTreg e),
  modCtx (ctxKey e c) fun x => { nextTag := x.nextTag },
  setF (Reg.VEC_CTX_CTL e c) Fl.VEC_CTX_CTL_ENABLE 0,
  setF (Reg.VEC_CTX_STATUS e c) Fl.VEC_CTX_STATUS_STATE 0,
  setCtxOn e c false]

def execVecCtxStopDone (e : Fin 24) (c : Fin 4) (s : State) : Host.Outcome State Fault Refusal :=
  s.run (.read fun b => .when (decide (b.ctxState e c = 4)) (clearCtx e c))

/-- Why a start fails, if it does (R174, R180; the numerically highest code, R32). -/
def Block.startCode (b : Block) (e c k entry : Nat) : Status :=
  let h := b.ctxHat e c
  let a := Reg.VEC_KERNEL e k
  let kh := b.f a Fl.VEC_KERNEL_HAT
  worst [
    if b.inPart h (b.enginePart e) then 0 else St.accessDenied,
    if b.on a Fl.VEC_KERNEL_VALID ∧ kh ≠ h ∧ kh ≠ 0 then St.accessDenied else 0,
    if ¬ b.on a Fl.VEC_KERNEL_VALID ∨ b.f a Fl.VEC_KERNEL_LEN ≤ entry ∨ ¬ (b.ctxState e c = 1 ∨ b.ctxState e c = 3) ∨
        4 < b.f (Reg.VEC_CTX_CTL e c) Fl.VEC_CTX_CTL_RMODE then St.descInvalid else 0]

/-- The registers of a context at a start (R180); stores of an earlier run that are still out complete (R182). -/
def Block.startCtx (b : Block) (e c k : Nat) (x : VecCtx) : VecCtx :=
  { s := (List.range 8).foldl (fun t i => Tbl.set (dflt 0) (i + 1) (b.w (Reg.VEC_CTX_ARG e c i)) t) [],
    tailZ := b.on (Reg.VEC_CTX_CTL e c) Fl.VEC_CTX_CTL_TAIL, rmode := b.f (Reg.VEC_CTX_CTL e c) Fl.VEC_CTX_CTL_RMODE,
    kernel := k, nextTag := x.nextTag, pend := x.pend.filter Access.write }

/-- A start with GO. -/
def ctxStart (e c : Nat) (val : W64) : Prog := .read fun b =>
  let k := getFld val Fl.VEC_CTX_START_KERNEL
  let entry := getFld val Fl.VEC_CTX_START_ENTRY
  let a := Reg.VEC_CTX_STATUS e c
  let code := b.startCode e c k entry
  .all [
    setF (Reg.VEC_CTX_START e c) Fl.VEC_CTX_START_KERNEL k,
    setF (Reg.VEC_CTX_START e c) Fl.VEC_CTX_START_ENTRY entry,
    .when (decide (getFld val Fl.VEC_CTX_START_GO ≠ 0)) (.all [
      setF a Fl.VEC_CTX_STATUS_CODE code,
      if code ≠ 0 then setDenied e c
      else .all [
        dropJobs e c,
        modCtx (ctxKey e c) (b.startCtx e c k),
        setF a Fl.VEC_CTX_STATUS_PC (b.f (Reg.VEC_KERNEL e k) Fl.VEC_KERNEL_BASE + entry),
        setF a Fl.VEC_CTX_STATUS_FAULT 0,
        setF a Fl.VEC_CTX_STATUS_STATE 2,
        .edit .free]])]

def execVecCtxStart (hat : Nat) (e : Fin 24) (c : Fin 4) (val : W64) (s : State) : Host.Outcome State Fault Refusal :=
  s.run (ctxWrite hat e c (ctxStart e c (putFld val Fl.VEC_CTX_START_GO 1)))

/-! ### The bucket queue at the engine (R187–R195, R200) -/

/-- The fields of a bucket packet's ADDR, which is BODY[84:28] of its MSP message (R188). -/
structure BktHdr where
  chunk : Nat
  last  : Bool
  treg  : Nat
  fmt   : Nat
  rows  : Nat
  cols  : Nat
  ctx   : Nat
  eng   : Nat

def bktHdr (a : Nat) : BktHdr :=
  ⟨bits a 31 10, a.testBit 30, bits a 26 4, bits a 24 2, bits a 17 7, bits a 10 7, bits a 6 4, bits a 1 5⟩

/-- Bytes of an element of a bucket format. -/
def bktBytes (fmt : Nat) : Nat := if fmt = 1 then 2 else 4

/-- A write of VEC_TREGt (R195): held while the register is ARMED or FILLING, discarded for a site the engine cannot have, whatever
else it says. -/
def tregBindWrite (hat e t : Nat) (val : W64) : Prog := underHat hat (.read fun b =>
  let g := getFld val Fl.VEC_TREG_SITE
  .when (b.mayEngine hat e && b.engineOn e) (
    if decide (g / 4 ≠ e / 6) || (b.sitePart g).isNone || decide (b.sitePart g ≠ b.enginePart e) ||
        b.hatRemoved (getFld val Fl.VEC_TREG_HAT) then
      setDenied e (getFld val Fl.VEC_TREG_CTX)
    else if b.tregWaits e t && bindChanges (b.w (Reg.VEC_TREG e t)) val then .all [
      modTreg (tregKey e t) fun x => { x with wr := some val },
      setF (Reg.VEC_TREG e t) Fl.VEC_TREG_PENDING 1]
    else applyBind e t val))

def execTregBindWrite (hat : Nat) (e : Fin 24) (t : Fin 16) (val : W64) (s : State) : Host.Outcome State Fault Refusal :=
  s.run (tregBindWrite hat e t val)

/-- Element `i` of a chunk as a cell: FP32 and INT32 whole, BF16 in the upper half (R193). -/
def chunkCell (fmt : Nat) (data : List Byte) (i : Nat) : Lane :=
  if fmt = 1 then BitVec.ofNat 32 (numAt data (2 * i) 2 * 65536) else BitVec.ofNat 32 (numAt data (4 * i) 4)

/-- The elements of chunk `n` that lie in the tile: index within the chunk, row, column. -/
def chunkElems (h : BktHdr) : List (Nat × Nat × Nat) :=
  let per := 64 / bktBytes h.fmt
  let cols := h.cols + 1
  ((List.range per).filter fun i => h.chunk * per + i < (h.rows + 1) * cols).map fun i =>
    (i, (h.chunk * per + i) / cols, (h.chunk * per + i) % cols)

/-- A chunk lands in its cells (R193). -/
def landChunk (e : Nat) (h : BktHdr) (p : Pkt) : Prog := .read fun b =>
  let a := Reg.VEC_TREG e h.treg
  let k := tregKey e h.treg
  let u := (p.units.head?).getD ⟨[], 0, false⟩
  let els := chunkElems h
  let pois := if u.pu || p.poison then els.foldl (fun m x => setBit m x.2.1) (b.tregSt k).pois else (b.tregSt k).pois
  .all [
    modTreg k fun x => { x with
      cells := els.foldl (fun t x => Tbl.set (dflt 0) (x.2.1 * 128 + x.2.2) (chunkCell h.fmt u.data x.1) t) x.cells,
      next := h.chunk + 1 },
    setTregPois e h.treg pois,
    .when (decide (h.chunk = 0)) (.all [
      setF a Fl.VEC_TREG_FMT h.fmt, setF a Fl.VEC_TREG_ROWS h.rows, setF a Fl.VEC_TREG_COLS h.cols,
      setF a Fl.VEC_TREG_TILE_ID p.tag, setTreg e h.treg 3]),
    .when h.last (.all [
      setTreg e h.treg 4,
      incSat (Reg.VEC_BKT_STAT e) Fl.VEC_BKT_STAT_TILES,
      .when (decide (pois ≠ 0)) (incSat (Reg.VEC_BKT_STAT e) Fl.VEC_BKT_STAT_POISONED)])]

/-- A tile absorbed (R200). -/
def absorbTile (e : Nat) (h : BktHdr) (wrongHat : Bool) : Prog := .read fun b => .all [
  incSat (Reg.VEC_BKT_STAT e) Fl.VEC_BKT_STAT_ABSORBED,
  logEv (if wrongHat then St.accessDenied else St.drainAbsorbed) e,
  .when (b.on (Reg.VEC_TREG e h.treg) Fl.VEC_TREG_BIND && b.tregBkt e h.treg) (freeTreg e h.treg)]

/-- A bucket chunk reaches its engine. -/
def bktTile (p : Pkt) : Prog := .read fun b =>
  match p.dst with
  | .engine e =>
    let h := bktHdr p.addr
    let st := b.tregState e h.treg
    let mine := decide (p.hat = b.tregF e h.treg Fl.VEC_TREG_HAT)
    .all [takePkt p,
      if h.chunk = 0 then
        if st = 2 ∧ mine then .all [
          modTreg (tregKey e h.treg) fun x => { x with cells := [], pois := 0 },
          landChunk e h p]
        else absorbTile e h (decide (st = 2) && !mine)
      else .when (decide (st = 3 ∧ h.chunk = (b.tregSt (tregKey e h.treg)).next) && mine) (landChunk e h p)]
  | _ => .skip

/-- A credit reaches the glove: on to the site, and counted; a site that passes no traffic gives it back (R190, R200). -/
def bktCredit (p : Pkt) : Prog := .read fun b =>
  match p.dst with
  | .glove g k =>
    let h := bktHdr p.addr
    .all [takePkt p,
      if b.siteRuns g then .all [
        modGlv g fun s => { s with
          tcredit := (h.eng, h.treg, p.hat) :: s.tcredit.filter fun c => ¬ (c.1 = h.eng ∧ c.2.1 = h.treg) },
        toSite g { Msp.ctl 0x61 0 with chan := 2, lane := k, hat := p.hat, tag := p.tag, addr := p.addr }]
      else sendPkt (p.reply 0x62 p.addr false [])]
  | _ => .skip

/-- A credit given back: the register is IDLE and a held binding takes effect (R195, R200). -/
def bktReturn (p : Pkt) : Prog := .read fun b =>
  match p.dst with
  | .engine e =>
    let t := (bktHdr p.addr).treg
    .all [takePkt p, .when (decide (b.tregState e t = 2)) (freeTreg e t)]
  | _ => .skip

/-! ### Stops of a whole engine and of a hat (R200) -/

/-- Unit reset of an engine. -/
def resetEngine (e : Nat) : Prog := .read fun b => .all [
  .each (List.range 4) (clearCtx e),
  .each (List.range 16) (unbindTreg e),
  .edit (.ldmDrop (e * 524288) ((e + 1) * 524288)),
  .when (Tbl.get (dflt none) e b.vec.kload).isSome (.all [
    modVec fun v => { v with kload := Tbl.set (dflt none) e none v.kload },
    kloadEnd e St.drainAbsorbed])]

/-- The LDM window of a context reads 0. -/
def clearWindow (e c : Nat) : Prog := .read fun b =>
  let a := Reg.VEC_CTX_CTL e c
  let lo := e * 524288 + b.f a Fl.VEC_CTX_CTL_LDM_BASE * 4096
  .edit (.ldmDrop lo (lo + b.f a Fl.VEC_CTX_CTL_LDM_SIZE * 4096))

/-- A hat's contexts on an engine are disabled, their windows cleared, its kernels freed. -/
def dropEngineHat (e h : Nat) : Prog := .read fun b => .all [
  .each ((List.range 4).filter fun c => decide (b.ctxHat e c = h)) fun c =>
    .all [.when (decide (b.ctxState e c ≠ 0)) (clearCtx e c), clearWindow e c],
  .each ((List.range 8).filter fun k => decide (b.f (Reg.VEC_KERNEL e k) Fl.VEC_KERNEL_HAT = h)) (freeKernel e)]

end Sys2Proof.Machine
end

