-- ==== Sys2Proof/Machine/VecAccess.lean ====
section
/-! DEFINITION. Memory accesses of an engine context in flight: sent, answered, refused (R182, R184, R223, R303). -/

namespace Sys2Proof.Machine

/-! ### Segment reads that wait (R303) -/

/-- The control-word address of the segment a segment word belongs to. -/
def segBaseOf (a : Nat) : Nat := a / 32 * 32

/-- An access admitted under a segment's old words has not completed: of the engine context or site context that owns it. -/
def Block.segBusy (b : Block) (a : Nat) : Bool :=
  let sb := segBaseOf a
  if 0x1a20000 ≤ a then
    let e := (a - 0x1a20000) / 0x400
    let c := (a - 0x1a20000) / 0x100 % 4
    (b.vctx (ctxKey e c)).pend.any fun p => p.old && decide (p.seg = sb)
  else
    let g := (a - 0x1a10000) / 0x1000
    let pos := (a - 0x1a10000) / 0x100 % 16
    (b.site g).reads.any fun r => r.old && decide (r.pos = pos)

/-- Held reads of segment words whose old accesses have ended are answered. -/
def releaseSegReads : Prog := .read fun b =>
  let ready := b.xlt.segRead.filter fun r => !b.segBusy r.1
  .all [
    .each ready fun r => send (.regRead r.2.1 r.1 r.2.2 (b.w r.1)),
    .when (decide (ready ≠ [])) (modXlt fun x => { x with segRead := x.segRead.filter fun r => b.segBusy r.1 })]

/-! ### Completion -/

/-- The data of a load reaches its elements, whose register is poisoned with it (R184). -/
def landLoad (x : VecCtx) (a : Access) (data : List Byte) (pois : Bool) : VecCtx :=
  if a.scalar then
    a.elems.foldl (fun y el => y.putS a.dst (BitVec.ofNat 64 (numAt data el.2 8)) (pois || x.isPois (.s a.dst))) x
  else
    { x with
      v := a.elems.foldl (fun t el => putElem (8 * a.size) a.dst t el.1 (numAt data el.2 a.size)) x.v,
      vPois := putBit x.vPois a.dst (pois || x.isPois (.v a.dst)) }

/-- Bytes the manual states no value for. -/
def freeBytes (seed n : Nat) : List Byte := (List.range n).map fun i => BitVec.ofNat 8 (Config.freeElem seed i)

/-- An access of a context completes with a status: a load writes its destination, or is refused late (R223); a store that ends
in an error sets STORE_ERR (R182). -/
def completeAccess (e c tag : Nat) (status : Status) (data : Option (List Byte)) (pu : Bool) : Prog := .read fun b =>
  .for? ((b.vctx (ctxKey e c)).pend.find? fun p => decide (p.tag = tag)) fun a => .all [
    modCtx (ctxKey e c) fun x => { x with pend := x.pend.filter fun p => decide (p.tag ≠ tag) },
    if a.write then .when (!completed status) (.all [
      setFlags e c Flag.storeErr, modCtx (ctxKey e c) fun x => { x with badSt := true }])
    else .all [
      modCtx (ctxKey e c) fun x => landLoad x a (data.getD (freeBytes b.free 64)) (pu || !completed status),
      .when data.isNone (.edit .free),
      .when (rejected status) (modCtx (ctxKey e c) fun x => { x with
        bad := (a.scalar, a.dst, status) :: x.bad.filter fun t => ¬ (t.1 = a.scalar ∧ t.2.1 = a.dst) })],
    releaseSegReads]

/-- The packet of a translated access. -/
def Access.pkt (a : Access) (e c hat label : Nat) (dst : Ep) : Pkt :=
  { cmd := (if a.write then 0x08 else 0x00) + (if a.narrow then 2 else 0), addr := a.pa, tag := c * 1024 + a.tag, hat := hat,
    label := label, poison := false, ordered := false, src := .engine e, dst := dst, units := a.units }

/-- A translated access leaves the engine under its context's hat, with the rights it had at issue (R77), or completes at once with
the status of R29 or R377; while the partition's traffic is held it waits at the network interface (R75). -/
def sendAccess (e c : Nat) (a : Access) : Prog := .read fun b =>
  let h := b.ctxHat e c
  let mark := fun (u : Bool) => modCtx (ctxKey e c) fun x => { x with
    pend := x.pend.map fun p => if p.tag = a.tag then { p with unsent := u } else p }
  if b.held? (b.enginePart e) then mark true
  else .all [.when a.unsent (mark false), match b.routeBy a.rights h a.pa with
  | .inr d => .all [charge (.engine e) h (b.hatLabel h) 64, sendPkt (a.pkt e c h (b.hatLabel h) d)]
  | .inl st => completeAccess e c a.tag st none false]

/-- The requests that waited at the network interfaces leave, in order (R75). -/
def releaseAccesses : Prog := .read fun b => .each b.ctx fun t =>
  .each (t.2.pend.filter Access.unsent) fun a => sendAccess (t.1 / 4) (t.1 % 4) a

/-- What is left of a paged access once its page is known: its physical address, and SPAN of its segment (R300). -/
def translateAccess (e c : Nat) (a : Access) (pa : Nat) (epoch : Nat) : Prog := .read fun b =>
  let a' := { a with pa := pa, walk := none, fid := none, tr := a.walk.map fun w => (w.1, epoch) }
  .all [
    modCtx (ctxKey e c) fun x => { x with pend := x.pend.map fun p => if p.tag = a.tag then a' else p },
    if b.spanOk a.segSpan pa then sendAccess e c a' else completeAccess e c a.tag St.accessDenied none false]

/-- The walk of a paged access, under the hat of its translation context. -/
def walkAccess (e c : Nat) (a : Access) : Prog := .read fun b =>
  .for? a.walk fun w =>
    requestWalk { for_ := .engine e c a.tag, xctx := w.1, hat := b.f (Reg.XLT_CTX_CTL w.1) Fl.XLT_CTX_CTL_HAT, va := w.2,
                  need := a.need, epoch := 0, level := 3, table := 0, extent := if a.narrow then 32 else 64 }

end Sys2Proof.Machine
end

