-- ==== Sys2Proof/Machine/Xlate.lean ====
section
/-! DEFINITION. Translation: walks, fault queues, epochs, contexts, segment words (R303–R321). -/

namespace Sys2Proof.Machine

/-! ### Fault records (R316–R319) -/

def Block.fqBase (b : Block) (q : Nat) : Nat := b.f (Reg.XLT_FQ_BASE q) Fl.XLT_FQ_BASE_ADDR * 4096
def Block.fqHead (b : Block) (q : Nat) : Nat := b.f (Reg.XLT_FQ_HEAD_ADDR q) Fl.XLT_FQ_HEAD_ADDR_ADDR * 8
def Block.fqSize (b : Block) (q : Nat) : Nat := 2 ^ (8 + b.f (Reg.XLT_FQ_CTL q) Fl.XLT_FQ_CTL_SIZE)
def Block.fqTail (b : Block) (q : Nat) : Nat := b.f (Reg.XLT_FQ_STATUS q) Fl.XLT_FQ_STATUS_TAIL
def Block.fqOwner (b : Block) (q : Nat) : Nat := b.f (Reg.XLT_FQ_CTL q) Fl.XLT_FQ_CTL_OWNER

/-- An address in the aperture of a function that is asleep or may not master the bus. -/
def Block.aperture (b : Block) (hat pa : Nat) : Bool :=
  match b.place pa with
  | .host q _ => !b.hostServes hat q
  | _ => false

/-- The ring cannot be reached (R318). -/
def Block.fqUnreachable (b : Block) (q : Nat) : Bool :=
  !b.on (Reg.XLT_FQ_CTL q) Fl.XLT_FQ_CTL_ENABLE ||
    [b.fqBase q, b.fqHead q].any fun a => b.ringDown a || b.aperture (b.fqOwner q) a

/-- Records between the head last read and TAIL. -/
def Block.fqFill (b : Block) (q : Nat) : Nat := (b.fqTail q + 2 ^ 32 - (b.fq q).head) % 2 ^ 32

/-- SOURCE and UNIT of a record. -/
def WalkFor.source : WalkFor → Nat × Nat
  | .pump p _ _ _ => (1, p)
  | .engine e c _ => (2, e * 4 + c)

/-- The 64 bytes of record `n` of a ring of `size` records. -/
def FaultRec.record (r : FaultRec) (n size : Nat) : List Byte :=
  let k := r.walk
  toBytesLE 8 k.va ++ toBytesLE 2 k.xctx ++ toBytesLE 2 k.hat ++ toBytesLE 1 r.reason ++ toBytesLE 1 k.need ++
    toBytesLE 1 k.level ++ toBytesLE 1 k.for_.source.1 ++ toBytesLE 2 k.for_.source.2 ++ toBytesLE 2 r.fid ++
    toBytesLE 2 k.epoch ++ toBytesLE 2 0 ++ toBytesLE 8 r.entry ++ toBytesLE 8 r.time ++
    toBytesLE 4 (min k.extent 0xFFFFFFFF) ++ toBytesLE 4 n ++ List.replicate 15 0 ++ toBytesLE 1 ((n / size) % 2 ^^^ 1)

/-- Raise a fault queue's vector, at most once in 1 µs (R317). -/
def raiseFq (q : Nat) : Prog := .read fun b =>
  if (b.fq q).irqOff then modFq q fun s => { s with irqOwed := true }
  else .all [
    raiseIrq (.walker 0) (b.fqOwner q) (b.f (Reg.XLT_FQ_CTL q) Fl.XLT_FQ_CTL_IRQ_VEC),
    modFq q fun s => { s with irqOff := true }]

/-- Write a record: its slot, TAIL, the interrupt; a pump's descriptor then completes, an engine's access waits for its
response (R317, R319). -/
def writeFault (q : Nat) (r : FaultRec) : Prog := .read fun b =>
  let n := b.fqTail q
  let size := b.fqSize q
  .all [
    sendRecord (.walker 0) (b.fqOwner q) (b.fqBase q + 64 * (n % size)) (r.record n size),
    setF (Reg.XLT_FQ_STATUS q) Fl.XLT_FQ_STATUS_TAIL (n + 1),
    raiseFq q,
    match r.walk.for_ with
    | .pump p s _ _ => finishDesc p s St.pageFault 0
    | .engine _ _ _ => modFq q fun s => { s with open_ := s.open_ ++ [r] }]

/-- The count of parked records. -/
def showParked (q : Nat) : Prog := .read fun b =>
  setF (Reg.XLT_FQ_STATUS q) Fl.XLT_FQ_STATUS_PARKED (b.fq q).parked.length

/-- A record parks (R318). -/
def parkFault (q : Nat) (r : FaultRec) : Prog := .all [
  modFq q fun s => { s with parked := s.parked ++ [r] },
  setF (Reg.XLT_FQ_STATUS q) Fl.XLT_FQ_STATUS_OVERFLOW 1,
  incSat (Reg.XLT_FQ_STATUS q) Fl.XLT_FQ_STATUS_OVF_COUNT,
  logEv St.faultOverflow q,
  showParked q]

/-- A fault's record goes to its ring, waits for the head word while the ring looks full, or parks. -/
def submitFault (r : FaultRec) : Prog := .read fun b =>
  let q := b.f (Reg.XLT_CTX_CTL r.walk.xctx) Fl.XLT_CTX_CTL_FQ
  if b.fqUnreachable q then parkFault q r
  else if (b.fq q).parked ≠ [] ∨ (b.fq q).asked ≠ [] ∨ b.fqFill q = b.fqSize q then
    modFq q fun s => { s with asked := s.asked ++ [r] }
  else writeFault q r

/-- One waiting record, oldest first, is written if there is space. -/
def drainFault (q : Nat) : Prog := .read fun b =>
  let s := b.fq q
  .when (!b.fqUnreachable q && decide (b.fqFill q ≠ b.fqSize q)) (
    match s.parked, s.asked with
    | r :: rest, _ => .all [modFq q fun s => { s with parked := rest }, showParked q, writeFault q r]
    | [], r :: rest => .all [modFq q fun s => { s with asked := rest }, writeFault q r]
    | [], [] => .skip)

/-- The head word has been read under the owner's rights: waiting records are written while there is space, the rest park (R312,
R316, R318). -/
def headReread (q : Nat) (told : ReadIn) : Prog := .read fun b =>
  let n := (b.fq q).parked.length + (b.fq q).asked.length
  let read := b.sourced (b.rightsOf (b.fqOwner q)) (b.fqOwner q) (b.fqHead q) 8 told
  .when (decide (n ≠ 0)) (.all [
    .when (decide (read.end_ = 0)) (modFq q fun s => { s with head := numAt read.data 0 4 }),
    .all (List.replicate n (drainFault q)),
    .read fun b => .all [
      modFq q fun s => { s with asked := [] },
      .each (b.fq q).asked (parkFault q)],
    .each (List.range 4) serveWalks])

def execHeadWordReread (q : Fin 16) (read : ReadIn) (s : State) : Host.Outcome State Fault Refusal :=
  s.run (headReread q read)

def execFaultIrqHoldoff (q : Fin 16) (s : State) : Host.Outcome State Fault Refusal :=
  s.run (.read fun b => .all [
    modFq q fun s => { s with irqOff := false, irqOwed := false },
    .when (b.fq q).irqOwed (raiseFq q)])

/-! ### The end of a walk (R306, R310, R311) -/

/-- What a walk comes to. -/
inductive WalkEnd where
  | fault (reason entry : Nat)
  | leaf (pa size perms : Nat)      -- the page, log2 of its size, R W A SPAN
  | down (table : Nat)
  deriving DecidableEq, Repr

/-- What one entry means at a level (R306). -/
def readLeaf (own level need : Nat) (status : Status) (entry : Nat) : WalkEnd :=
  let addr := bits entry 12 45 * 4096
  let leaf := entry.testBit 1
  if !completed status then .fault 5 0
  else if !entry.testBit 0 then .fault 1 entry
  else if bits entry 57 7 ≠ 0 ∨ entry.testBit 7 ∨ entry.testBit 5 ∨ (level = 0 ∧ ¬ leaf) ∨ (level = 3 ∧ leaf) then .fault 3 entry
  else if leaf then
    let size := 12 + 9 * level
    let perms := bits entry 2 3 + 8 * bits entry 6 1
    if addr % 2 ^ size ≠ 0 then .fault 3 entry
    else if ¬ covers perms need ∨ (addr / 2 ^ 47 ≠ own ∧ ¬ perms.testBit 3) then .fault 2 entry
    else .leaf addr size perms
  else if bits entry 2 3 ≠ 0 ∨ entry.testBit 6 ∨ addr / 2 ^ 47 ≠ own then .fault 3 entry
  else .down (addr % 2 ^ 47)

/-- A run is added to a descriptor's range: merged with the run before it where it continues it (R311). -/
def addRun (l : List Run) (r : Run) : List Run :=
  match l.getLast? with
  | some x => if x.pa + x.len = r.pa ∧ x.off + x.len = r.off ∧ x.perms = r.perms
      then l.dropLast ++ [{ x with len := x.len + r.len }] else l ++ [r]
  | none => [r]

/-- The VA range a descriptor is walking: its start and the rights it needs. -/
def Desc.range (d : Desc) (stage : Nat) : Nat × Nat := if stage = 1 then (d.src, 1) else (d.dst, 2)

/-- Ask for the walk at offset `off` of the range being translated. -/
def walkRange (p s off : Nat) : Prog := .read fun b =>
  .for? (b.workAt (workKey p s)) fun d =>
    let (start, need) := d.range d.xlat
    requestWalk { for_ := .pump p s (d.xlat - 1) off, xctx := d.xctx, hat := d.hat, va := start + off, need := need,
                  epoch := d.epoch, level := 3, table := 0, extent := d.length - off }

/-- A range has been walked, or has faulted: on to the other, or the translation ends (R311, R313, R321). -/
def nextRange (p s : Nat) : Prog := .read fun b =>
  .for? (b.workAt (workKey p s)) fun d =>
    if d.xlat = 1 ∧ d.dstVa then .all [modDesc (workKey p s) fun x => { x with xlat := 2 }, walkRange p s 0]
    else .all [
      modDesc (workKey p s) fun x => { x with xlat := 0 },
      match d.fault with
      | some r => submitFault r
      | none => .when (decide (d.epoch ≠ b.xepoch d.xctx)) (finishDesc p s St.staleEpoch 0)]

/-- A walk of a pump's range has ended. -/
def pumpWalkEnd (p s off : Nat) (k : Walk) (o : WalkEnd) : Prog := .read fun b =>
  .for? (b.workAt (workKey p s)) fun d =>
    match o with
    | .leaf pa size perms =>
      let inPage := k.va % 2 ^ size
      let len := min (2 ^ size - inPage) (d.length - off)
      let run : Run := ⟨off, pa + inPage, len, perms⟩
      let runs := addRun (if d.xlat = 1 then d.srcRun else d.dstRun) run
      .all [
        modDesc (workKey p s) fun x => if x.xlat = 1 then { x with srcRun := runs } else { x with dstRun := runs },
        if 1024 < runs.length then finishDesc p s St.descInvalid 0
        else if off + len < d.length then walkRange p s (off + len)
        else nextRange p s]
    | .fault reason entry =>
      let r : FaultRec := ⟨k, reason, entry, 0, b.now⟩
      .all [
        modDesc (workKey p s) fun x => { x with fault := match x.fault with
          | some f => if f.walk.va ≤ k.va then some f else some r
          | none => some r },
        nextRange p s]
    | .down _ => .skip

/-- The accesses of one instruction that wait for the page of a walk. -/
def Block.waiters (b : Block) (e c tag : Nat) : List Access :=
  let l := (b.vctx (ctxKey e c)).pend
  match l.find? fun a => decide (a.tag = tag) with
  | some a => l.filter fun x => decide (x.group = a.group) && x.walk.isSome &&
      decide (x.walk.map (fun w => w.2 / 4096) = a.walk.map fun w => w.2 / 4096)
  | none => []

/-- A translation-cache entry is kept; a quadrant's cache holds 1,024, the oldest gives way (R310). -/
def cacheLeaf (t : TcEnt) : Prog := modXlt fun x =>
  let same := x.tc.filter fun u => u.quad = t.quad
  let kept := if same.length < 1024 then x.tc else match same with
    | u :: _ => x.tc.erase u
    | [] => x.tc
  { x with tc := kept.filter (fun u => ¬ (u.quad = t.quad ∧ u.xctx = t.xctx ∧ u.page = t.page ∧ u.size = t.size)) ++ [t] }

/-- An identifier no unanswered engine fault of the queue has. -/
def FqSt.freshFid (s : FqSt) : Nat :=
  let used := (s.open_ ++ s.parked ++ s.asked).map fun r => r.fid
  match (List.range (used.length + 1)).find? fun i => !used.contains ((s.nextFid + i) % 65536) with
  | some i => (s.nextFid + i) % 65536
  | none => s.nextFid

/-- A walk of an engine's access has ended. -/
def engineWalkEnd (e c tag : Nat) (k : Walk) (o : WalkEnd) : Prog := .read fun b =>
  let ws := b.waiters e c tag
  match o with
  | .leaf pa size perms => .all [
      .when (decide (k.epoch = b.xepoch k.xctx))
        (cacheLeaf ⟨e / 6, k.xctx, k.va / 2 ^ size, size, pa, perms, k.epoch⟩),
      .each ws fun a => .for? a.walk fun w => translateAccess e c a (pa + w.2 % 2 ^ size) k.epoch]
  | .fault reason entry =>
    let q := b.f (Reg.XLT_CTX_CTL k.xctx) Fl.XLT_CTX_CTL_FQ
    let fid := (b.fq q).freshFid
    .when (decide (ws ≠ [])) (.all [
      modFq q fun s => { s with nextFid := (fid + 1) % 65536 },
      modCtx (ctxKey e c) fun x => { x with pend := x.pend.map fun p => if ws.contains p then { p with fid := some fid } else p },
      submitFault ⟨k, reason, entry, fid, b.now⟩])
  | .down _ => .skip

/-- A walker's walk has ended: it is counted, its result delivered, and the walker serves the next. -/
def endWalk (w : Nat) (k : Walk) (o : WalkEnd) : Prog := .all [
  modXlt fun x => { x with walks := Tbl.set (dflt none) w none x.walks },
  incSat Reg.XLT_WALK_STAT Fl.XLT_WALK_STAT_WALKS,
  .when (match o with
    | .fault _ _ => true
    | _ => false) (incSat Reg.XLT_WALK_STAT Fl.XLT_WALK_STAT_FAULTS),
  (match k.for_ with
  | .pump p s _ off => pumpWalkEnd p s off k o
  | .engine e c tag => engineWalkEnd e c tag k o),
  .each (List.range 4) serveWalks]

/-- A packet is the answer to a walker's entry read. -/
def Block.entryRsp (b : Block) (w : Nat) (k : Walk) (p : Pkt) : Bool :=
  decide (p.dst = .walker w ∧ p.cmd = 0x18 ∧ p.addr / 256 = b.entryLine k / 256)

/-- What a walker's entry read has come to: the line it keeps; the answer that has reached it; nothing yet, while the read is on its
way; else what the address holds, and of memory outside the package what is told (R307, R310). -/
def Block.walkGot (b : Block) (w : Nat) (k : Walk) (status : Status) (entry : W64) : Option (Status × List Byte) :=
  match b.keptLine w k, b.noc.net.find? fun p => b.entryRsp w k p && b.reached p with
  | some l, _ => some (St.ok, l)
  | none, some p => some (worst [p.addr % 256, if p.anyPois then St.poisoned else St.ok], p.data)
  | none, none =>
    if b.tagOut (.walker w) w then none
    else
      let r := b.sourced (b.rightsOf k.hat) k.hat (b.entryLine k) 64
        ⟨status, List.replicate (k.entryAddr % 64) 0 ++ toBytesLE 8 entry.toNat ++ List.replicate 56 0, []⟩
      some (r.end_, r.data)

/-- The answer to a walker's entry read.  A VA that is not canonical needs none. -/
def walkEntryReadDone (w : Nat) (status : Status) (entry : W64) : Prog := .read fun b =>
  .for? (if b.windowAt (12 + w / 8) then none else b.walkAt w) fun k =>
    if 2 ^ 48 ≤ k.va then endWalk w k (.fault 4 0)
    else .for? (b.walkGot w k status entry) fun g => .all [
      .each (b.noc.net.filter (b.entryRsp w k)) takePkt,
      activity k.hat Act.walker 1,
      modXlt fun x => { x with line := Tbl.set (dflt none) w (some (k.for_, k.entryAddr / 64, g.2)) x.line },
      match readLeaf b.ownPkg k.level k.need g.1 (numAt g.2 (k.entryAddr % 64) 8) with
      | .down t => .all [
          modXlt fun x => { x with walks := Tbl.set (dflt none) w (some { k with level := k.level - 1, table := t }) x.walks },
          readEntry w]
      | o => endWalk w k o]

def execWalkEntryReadDone (w : Fin 32) (status : Nat) (entry : W64) (s : State) : Host.Outcome State Fault Refusal :=
  s.run (walkEntryReadDone w status entry)

/-! ### Responses (R319) -/

/-- The accesses that wait on a fault. -/
def Block.faulted (b : Block) (r : FaultRec) : List (Nat × Nat × Access) :=
  match r.walk.for_ with
  | .engine e c _ => ((b.vctx (ctxKey e c)).pend.filter fun a => decide (a.fid = some r.fid)).map fun a => (e, c, a)
  | .pump _ _ _ _ => []

/-- A fault answered with ABORT. -/
def abortFault (r : FaultRec) : Prog := .read fun b =>
  .each (b.faulted r) fun t => completeAccess t.1 t.2.1 t.2.2.tag (if r.reason = 2 then St.accessDenied else St.addrUnmapped) none false

/-- A hat that may write the registers of translation context `x` (R376, R379): its hat, an XLATE hat of its hat's partition,
hat 0. -/
def Block.mayXctx (b : Block) (hat x : Nat) : Bool :=
  let h := b.f (Reg.XLT_CTX_CTL x) Fl.XLT_CTX_CTL_HAT
  decide (hat = 0) || decide (hat = h) || (b.holds hat Right.xlate && b.inPart hat (some (b.hatPart h)))

/-- A hat that may write the registers of fault queue `q`. -/
def Block.mayFq (b : Block) (hat q : Nat) : Bool :=
  let h := b.fqOwner q
  decide (hat = 0) || decide (hat = h) || (b.holds hat Right.xlate && b.inPart hat (some (b.hatPart h)))

/-- The unanswered fault with an identifier. -/
def respond (hat q fid : Nat) (k : FaultRec → Prog) : Prog := underHat hat (.read fun b =>
  .when (b.mayFq hat q) (.for? ((b.fq q).open_.find? fun r => decide (r.fid = fid)) fun r => .all [
    modFq q fun s => { s with open_ := s.open_.filter fun x => decide (x.fid ≠ fid) },
    k r]))

/-- RESUME: the access is walked again. -/
def resumeFault (r : FaultRec) : Prog := .read fun b =>
  let l := b.faulted r
  .all [
    .each l fun t => modCtx (ctxKey t.1 t.2.1) fun x => { x with
      pend := x.pend.map fun p => if p.tag = t.2.2.tag then { p with fid := none } else p },
    .for? l.head? fun t => walkAccess t.1 t.2.1 t.2.2]

def execResume (hat : Nat) (q : Fin 16) (fid : Nat) (s : State) : Host.Outcome State Fault Refusal :=
  s.run (respond hat q fid resumeFault)

def execAbort (hat : Nat) (q : Fin 16) (fid : Nat) (s : State) : Host.Outcome State Fault Refusal :=
  s.run (respond hat q fid abortFault)

/-! ### Epochs (R313, R314, R321) -/

/-- The engines with an enabled context that has a paged segment on a translation context. -/
def Block.pagedEngines (b : Block) (x : Nat) : List Nat :=
  (List.range 24).filter fun e => b.engineOn e && (List.range 4).any fun c =>
    decide (b.ctxState e c ≠ 0) && (List.range 8).any fun k =>
      let s := b.segAt (Reg.XLT_VSEG_CTL e c k) true
      s.live && s.paged && decide (s.ctx = x)

/-- Units that have yet to acknowledge a bump: walkers on the context, pumps that hold runs of it, engines (steps 2, 4, 5). -/
def Block.bumpUnits (b : Block) (x : Nat) : List Ep :=
  (((List.range 32).filter fun w => match b.walkAt w with
    | some k => decide (k.xctx = x)
    | none => false).map Ep.walker) ++
  (((List.range 48).filter fun p => (b.workSlots p).any fun s => match b.workAt (workKey p s) with
    | some d => (d.srcVa || d.dstVa) && decide (d.xctx = x)
    | none => false).map Ep.pump) ++
  (b.pagedEngines x).map Ep.engine

/-- A unit has nothing left of an older epoch of the context. -/
def Block.bumpClear (b : Block) (x : Nat) (u : Ep) : Bool :=
  let ep := b.xepoch x
  match u with
  | .walker w => (match b.walkAt w with
    | some k => !(decide (k.xctx = x) && decide (k.epoch ≠ ep))
    | none => true)
  | .pump p => !((b.workSlots p).any fun s => match b.workAt (workKey p s) with
    | some d => (d.srcVa || d.dstVa) && decide (d.xctx = x ∧ d.epoch ≠ ep)
    | none => false)
  | .engine e => !((List.range 4).any fun c => (b.vctx (ctxKey e c)).pend.any fun a => match a.tr with
    | some (y, n) => decide (y = x ∧ n ≠ ep)
    | none => false)
  | _ => true

/-- Steps 1 to 5 of a bump; `quiet`: they run for a disable, and DONE is not set. -/
def startBump (x : Nat) (quiet : Bool) : Prog := .read fun b =>
  let units := b.bumpUnits x
  .all [
    addWrap (Reg.XLT_CTX_EPOCH x) Fl.XLT_CTX_EPOCH_EPOCH 1,
    setF (Reg.XLT_CTX_EPOCH x) Fl.XLT_CTX_EPOCH_BUSY 1,
    modXctx x fun s => { s with acks := units, quiet := quiet },
    modXlt fun s => { s with tc := s.tc.filter fun t => decide (t.xctx ≠ x) },
    stopWhere (fun d => (d.srcVa || d.dstVa) && decide (d.xctx = x ∧ d.xlat = 0) && d.fault.isNone) St.staleEpoch,
    .when (decide (units = [])) (.all [
      setF (Reg.XLT_CTX_EPOCH x) Fl.XLT_CTX_EPOCH_BUSY 0,
      .when (!quiet) (setF (Reg.XLT_CTX_EPOCH x) Fl.XLT_CTX_EPOCH_DONE 1)])]

/-- A write of BUMP: it runs, or waits while one runs. -/
def xltBump (hat x : Nat) : Prog := underHat hat (.read fun b =>
  .when (b.mayXctx hat x) (
    if b.on (Reg.XLT_CTX_EPOCH x) Fl.XLT_CTX_EPOCH_BUSY then modXctx x fun s => { s with more := s.more + 1 }
    else startBump x false))

def execXltBump (hat : Nat) (x : Fin 256) (s : State) : Host.Outcome State Fault Refusal := s.run (xltBump hat x)

/-- A unit acknowledges; with the last, BUSY clears, and a BUMP that waited runs (R313 step 6, R314). -/
def xltBumpAck (x : Nat) (u : Ep) : Prog := .read fun b =>
  let s := b.xctx x
  let rest := s.acks.filter fun y => y ≠ u
  .when (s.acks.contains u && b.bumpClear x u) (.all [
    modXctx x fun s => { s with acks := rest },
    .when (decide (rest = [])) (.all [
      setF (Reg.XLT_CTX_EPOCH x) Fl.XLT_CTX_EPOCH_BUSY 0,
      .when (!s.quiet) (setF (Reg.XLT_CTX_EPOCH x) Fl.XLT_CTX_EPOCH_DONE 1),
      .when (decide (s.more ≠ 0)) (.all [
        modXctx x fun s => { s with more := s.more - 1 },
        startBump x false])])])

def execXltBumpAck (x : Fin 256) (unit : Ep) (s : State) : Host.Outcome State Fault Refusal := s.run (xltBumpAck x unit)

/-! ### Contexts and queues enabled and disabled -/

def xctxDenied (x : Nat) : Prog := setF (Reg.XLT_CTX_CTL x) Fl.XLT_CTX_CTL_DENIED 1

/-- A write of XLT_CTXx_CTL with ENABLE set; HAT only while ENABLE is clear; a removed hat is refused (R397). -/
def xctxEnable (hat x : Nat) (val : W64) : Prog := underHat hat (.read fun b =>
  let a := Reg.XLT_CTX_CTL x
  let was := b.on a Fl.XLT_CTX_CTL_ENABLE
  let h := if was then b.f a Fl.XLT_CTX_CTL_HAT else getFld val Fl.XLT_CTX_CTL_HAT
  .when (b.mayXctx hat x) (
    if b.hatRemoved h then xctxDenied x
    else .all [
      setF a Fl.XLT_CTX_CTL_HAT h,
      setF a Fl.XLT_CTX_CTL_FQ (getFld val Fl.XLT_CTX_CTL_FQ),
      setF a Fl.XLT_CTX_CTL_ENABLE 1]))

def execXltCtxEnable (hat : Nat) (x : Fin 256) (val : W64) (s : State) : Host.Outcome State Fault Refusal :=
  s.run (xctxEnable hat x val)

/-- Records of some contexts that wait for a queue are discarded; `k` says what becomes of each (R321). -/
def discardParked (p : Walk → Bool) (k : FaultRec → Prog) : Prog := .each (List.range 16) fun q => .read fun b =>
  let gone := ((b.fq q).parked ++ (b.fq q).asked).filter fun r => p r.walk
  .when (decide (gone ≠ [])) (.all [
    modFq q fun s => { s with
      parked := s.parked.filter fun r => !p r.walk, asked := s.asked.filter fun r => !p r.walk },
    showParked q,
    .each gone k])

/-- The engine accesses that wait for walks of some contexts complete as aborted. -/
def abortWalks (p : Nat → Bool) : Prog := .read fun b =>
  .each b.ctx fun kv => .each (kv.2.pend.filter fun a => match a.walk with
    | some w => p w.1 && a.fid.isNone
    | none => false) fun a => completeAccess (kv.1 / 4) (kv.1 % 4) a.tag St.addrUnmapped none false

/-- A context is disabled (R321). -/
def disableXctx (x : Nat) : Prog := .read fun b => .when (b.on (Reg.XLT_CTX_CTL x) Fl.XLT_CTX_CTL_ENABLE) (.all [
  setF (Reg.XLT_CTX_CTL x) Fl.XLT_CTX_CTL_ENABLE 0,
  discardParked (fun k => decide (k.xctx = x)) (fun r => match r.walk.for_ with
    | .pump p s _ _ => finishDesc p s St.pageFault 0
    | .engine _ _ _ => abortFault r),
  .each (List.range 16) fun q => .read fun b =>
    let mine := (b.fq q).open_.filter fun r => decide (r.walk.xctx = x)
    .all [modFq q fun s => { s with open_ := s.open_.filter fun r => decide (r.walk.xctx ≠ x) }, .each mine abortFault],
  dropWalks fun k => decide (k.xctx = x) && (match k.for_ with
    | .engine _ _ _ => true
    | _ => false),
  abortWalks fun y => decide (y = x),
  if b.on (Reg.XLT_CTX_EPOCH x) Fl.XLT_CTX_EPOCH_BUSY then modXctx x fun s => { s with more := s.more + 1 } else startBump x true])

def xctxOff (hat x : Nat) : Prog := underHat hat (.read fun b => .when (b.mayXctx hat x) (disableXctx x))

def execXltCtxDisable (hat : Nat) (x : Fin 256) (s : State) : Host.Outcome State Fault Refusal := s.run (xctxOff hat x)

def fqDenied (q : Nat) : Prog := setF (Reg.XLT_FQ_STATUS q) Fl.XLT_FQ_STATUS_DENIED 1

/-- A write of XLT_FQq_CTL with ENABLE set. -/
def fqEnable (hat q : Nat) (val : W64) : Prog := underHat hat (.read fun b =>
  let a := Reg.XLT_FQ_CTL q
  let was := b.on a Fl.XLT_FQ_CTL_ENABLE
  .when (b.mayFq hat q) (
    if 8 < getFld val Fl.XLT_FQ_CTL_SIZE ∨ b.hatRemoved (getFld val Fl.XLT_FQ_CTL_OWNER) then fqDenied q
    else .all [
      setF a Fl.XLT_FQ_CTL_OWNER (getFld val Fl.XLT_FQ_CTL_OWNER),
      setF a Fl.XLT_FQ_CTL_IRQ_VEC (getFld val Fl.XLT_FQ_CTL_IRQ_VEC),
      setF a Fl.XLT_FQ_CTL_SIZE (getFld val Fl.XLT_FQ_CTL_SIZE),
      setF a Fl.XLT_FQ_CTL_ENABLE 1,
      .when (!was) (.all [
        setF (Reg.XLT_FQ_STATUS q) Fl.XLT_FQ_STATUS_TAIL 0,
        modFq q fun s => { s with head := 0 }])]))

def execXltFqEnable (hat : Nat) (q : Fin 16) (val : W64) (s : State) : Host.Outcome State Fault Refusal :=
  s.run (fqEnable hat q val)

/-- ENABLE of a queue cleared: refused while an enabled context names it (R321). -/
def fqOff (hat q : Nat) : Prog := underHat hat (.read fun b => .when (b.mayFq hat q) (
  if (List.range 256).any fun x => b.on (Reg.XLT_CTX_CTL x) Fl.XLT_CTX_CTL_ENABLE &&
      decide (b.f (Reg.XLT_CTX_CTL x) Fl.XLT_CTX_CTL_FQ = q) then fqDenied q
  else setF (Reg.XLT_FQ_CTL q) Fl.XLT_FQ_CTL_ENABLE 0))

def execXltFqDisable (hat : Nat) (q : Fin 16) (s : State) : Host.Outcome State Fault Refusal := s.run (fqOff hat q)

/-! ### Segment words (R303) -/

/-- The engine context or site context a segment word belongs to. -/
inductive SegOwner where
  | engine (e c : Nat)
  | site (g pos : Nat)
  | none

def segOwner (a : Nat) : SegOwner :=
  if 0x1a10000 ≤ a ∧ a < 0x1a20000 then .site ((a - 0x1a10000) / 0x1000) ((a - 0x1a10000) / 0x100 % 16)
  else if 0x1a20000 ≤ a ∧ a < 0x1a20000 + 24 * 0x400 then .engine ((a - 0x1a20000) / 0x400) ((a - 0x1a20000) / 0x100 % 4)
  else .none

/-- A hat that may read or write a segment word (R379); a dead owner's words read 0 and take no write. -/
def Block.maySeg (b : Block) (hat a : Nat) (write : Bool) : Bool :=
  match segOwner a with
  | .engine e c => b.engineOn e &&
      (decide (hat = 0) || decide (hat = b.ctxHat e c) || (b.holds hat Right.xlate && b.inPart hat (b.enginePart e)))
  | .site g _ => b.siteThere g &&
      (decide (hat = 0) || ((!write || b.holds hat Right.xlate) && b.inPart hat (b.sitePart g)))
  | .none => false

/-- The fields of a segment word software writes. -/
def segWord (a : Nat) (old val : W64) : W64 :=
  if a % 32 = 0 then
    let keep := getFld old Fl.XLT_VSEG_CTL_MALFORMED
    putFld (BitVec.ofNat 64 (bits val.toNat 58 6 * 2 ^ 58 + bits val.toNat 0 8)) Fl.XLT_VSEG_CTL_MALFORMED keep
  else if a % 32 = 16 then BitVec.ofNat 64 (bits val.toNat 12 46 * 4096)
  else BitVec.ofNat 64 (bits val.toNat 12 45 * 4096)

/-- A segment word is written: accesses already admitted keep the old descriptor (R299, R303). -/
def segWrite (a : Nat) (val : W64) : Prog := .read fun b =>
  let sb := segBaseOf a
  .all [
    setR a (segWord a (b.w a) val),
    .read fun b => setF sb Fl.XLT_VSEG_CTL_MALFORMED (b2n (b.segAt sb (decide (0x1a20000 ≤ a))).bad),
    match segOwner a with
    | .engine e c => modCtx (ctxKey e c) fun x => { x with
        pend := x.pend.map fun p => if p.seg = sb then { p with old := true } else p }
    | .site g pos => modGlv g fun s => { s with reads := s.reads.map fun r => if r.pos = pos then { r with old := true } else r }
    | .none => .skip]

def execSegmentWordWrite (hat : Nat) (off : Nat) (val : W64) (s : State) : Host.Outcome State Fault Refusal :=
  s.run (underHat hat (.read fun b => .when (b.maySeg hat off true && decide (off % 8 = 0)) (segWrite off val)))

/-- A segment word is read: the answer waits for the accesses admitted under the old descriptor. -/
def segRead (hat off tag : Nat) : Prog := underHat hat (.read fun b =>
  .when (b.maySeg hat off false && decide (off % 8 = 0)) (.all [
    modXlt fun x => { x with segRead := x.segRead ++ [(off, hat, tag)] },
    releaseSegReads]))

def execSegmentWordRead (hat : Nat) (off : Nat) (tag : Nat) (s : State) : Host.Outcome State Fault Refusal :=
  s.run (segRead hat off tag)

/-! ### A partition that goes down or is reset (R321) -/

/-- Walks of contexts whose hat is of the partition end; their waiting records are discarded. -/
def xltPartStop (p : Nat) : Prog := .read fun b =>
  let mine := fun k : Walk => decide (b.hatPart (b.f (Reg.XLT_CTX_CTL k.xctx) Fl.XLT_CTX_CTL_HAT) = p)
  .all [dropWalks mine, discardParked mine fun _ => .skip]

end Sys2Proof.Machine
end

