-- ==== Sys2Proof/Machine/VecMem.lean ====
section
/-! DEFINITION. The memory instructions of an engine context (R222–R224). -/

namespace Sys2Proof.Machine

/-! ### Addresses (R222) -/

/-- How an instruction forms its addresses. -/
inductive MemKind where
  | unit | stride | index | scalar
  deriving DecidableEq, Repr

/-- Bytes of one element. -/
def MemKind.size (k : MemKind) (x : VecCtx) : Nat := if k = .scalar then 8 else x.ew / 8

/-- The elements accessed and the offset of each. -/
def MemKind.addrs (k : MemKind) (x : VecCtx) (w : Nat) : List (Nat × Nat) :=
  let base : Int := (x.sc (Ins.a w)).toNat + Ins.off24 w
  match k with
  | .scalar => [(0, wrapInt 64 base)]
  | .unit => (x.active (Ins.mask w)).map fun i => (i, wrapInt 64 (base + (i * (x.ew / 8) : Nat)))
  | .stride => (x.active (Ins.mask w)).map fun i => (i, wrapInt 64 (base + i * signed 64 (x.sc (Ins.b w)).toNat))
  | .index => (x.active (Ins.mask w)).map fun i => (i, wrapInt 64 (base + (x.elem 32 (Ins.b w) i : Nat)))

/-- The fields a memory instruction may hold (R202, R203, R222). -/
def MemKind.legal (k : MemKind) (x : VecCtx) (w : Nat) : Bool :=
  decide (bits w 52 4 = 0 ∧ bits w 24 2 = 0 ∧ Ins.a w < 32) &&
    (!Ins.ldm w || decide (Ins.seg w = 0)) &&
    (!Ins.narrow w || (decide (k = .index) && !Ins.ldm w)) &&
    (match k with
     | .unit => decide (Ins.b w = 0)
     | .stride => decide (Ins.b w < 32)
     | .index => decide (x.ew = 32)
     | .scalar => decide (Ins.b w = 0 ∧ Ins.mask w = 0 ∧ Ins.d w < 32))

/-- The registers that give the address. -/
def MemKind.addrRegs (k : MemKind) (w : Nat) : List VReg :=
  .s (Ins.a w) :: match k with
    | .stride => [.s (Ins.b w)]
    | .index => [.v (Ins.b w)]
    | _ => []

/-- The register loaded or stored. -/
def MemKind.dreg (k : MemKind) (w : Nat) : VReg := if k = .scalar then .s (Ins.d w) else .v (Ins.d w)

/-! ### Data units -/

/-- The distinct blocks of `us` bytes that some elements lie in, in order of first use. -/
def blocksOf (us : Nat) (els : List (Nat × Nat)) : List Nat :=
  els.foldl (fun l e => if l.contains (e.2 / us) then l else l ++ [e.2 / us]) []

/-- The value an instruction stores for element `i`. -/
def MemKind.value (k : MemKind) (x : VecCtx) (w i : Nat) : Nat :=
  if k = .scalar then (x.sc (Ins.d w)).toNat else x.elem x.ew (Ins.d w) i

/-- The data unit a store writes: later elements over earlier ones (R222). -/
def storeUnit (size : Nat) (els : List (Nat × Nat)) (pois : Bool) : DUnit :=
  els.foldl (fun u e => { u with
    data := u.data.take e.1 ++ toBytesLE size e.2 ++ u.data.drop (e.1 + size),
    be := u.be ||| (2 ^ size - 1) * 2 ^ e.1 }) ⟨List.replicate 64 0, 0, pois⟩

/-- The segment an instruction names. -/
def segReg (e c w : Nat) : Nat := Reg.XLT_VSEG_CTL e c (Ins.seg w)

/-- The accesses of an instruction, one for each data unit, without their tags. -/
def MemKind.accesses (k : MemKind) (write : Bool) (b : Block) (e c : Nat) (x : VecCtx) (w : Nat) : List Access :=
  let us := if Ins.narrow w then 32 else 64
  let size := k.size x
  let els := k.addrs x w
  let sg := b.segAt (segReg e c w) true
  (blocksOf us els).map fun blk =>
    let mine := els.filter fun el => el.2 / us = blk
    { tag := 0, group := 0, write := write, scalar := decide (k = .scalar), dst := Ins.d w, pa := sg.pa (blk * us),
      size := size, elems := mine.map fun el => (el.1, el.2 % 64),
      units := if write then [storeUnit size (mine.map fun el => (el.2 % 64, k.value x w el.1)) (x.isPois (k.dreg w))] else [],
      narrow := Ins.narrow w, walk := if sg.paged then some (sg.ctx, blk * us) else none, tr := none, fid := none,
      va := blk * us, need := if write then 2 else 1, segSpan := sg.span, seg := segReg e c w, old := false, status := 0,
      rights := b.rightsOf (b.ctxHat e c) }

/-! ### The interlock of memory accesses (R224) -/

/-- Two accesses may touch one data unit; translation keeps the low 12 bits of an address. -/
def Access.meets (a p : Access) : Bool :=
  if a.walk.isSome || p.walk.isSome then decide (a.va / 64 % 64 = p.va / 64 % 64) else decide (a.pa / 64 = p.pa / 64)

/-- Instructions of the context outstanding. -/
def VecCtx.groups (x : VecCtx) : Nat := (x.pend.foldl (fun l p => insertNat p.group l) []).length

/-- Tags no access holds, from the next one on. -/
def VecCtx.tags (x : VecCtx) : List Nat :=
  ((List.range 1024).map fun i => (x.nextTag + i) % 1024).filter fun t => !(x.pend.any fun p => decide (p.tag = t))

/-- An instruction may issue: room for it, and no earlier access to the same bytes whose order matters. -/
def memReady (x : VecCtx) (l : List Access) : Bool :=
  decide (x.groups < 32 ∧ l.length ≤ x.tags.length) &&
    !(l.any fun a => x.pend.any fun p => (a.write || p.write) && a.meets p)

/-! ### Faults before issue (R222, R223) -/

/-- An offset range lies in the context's LDM window. -/
def Block.inWindow (b : Block) (e c o size : Nat) : Bool :=
  decide (o + size ≤ b.f (Reg.VEC_CTX_CTL e c) Fl.VEC_CTX_CTL_LDM_SIZE * 4096)

/-- The key in `ldm` of an offset of the context's window. -/
def Block.ldmKey (b : Block) (e c o : Nat) : Nat :=
  e * 524288 + b.f (Reg.VEC_CTX_CTL e c) Fl.VEC_CTX_CTL_LDM_BASE * 4096 + o

/-- The fault an instruction's addresses give. -/
def MemKind.refuse (k : MemKind) (write : Bool) (b : Block) (e c : Nat) (x : VecCtx) (w : Nat) : Option (Nat × Option Status) :=
  let size := k.size x
  let els := k.addrs x w
  if els.any fun el => decide (el.2 % size ≠ 0) then some (4, none)
  else if Ins.ldm w then
    if els.all fun el => b.inWindow e c el.2 size then none else some (3, none)
  else if els.all fun el => b.segAllows (b.segAt (segReg e c w) true) (if write then 2 else 1) el.2 size then none
  else some (5, some St.accessDenied)

/-! ### The LDM window -/

/-- A load from the window is done at once; bytes stored from a poisoned register poison its destination (R184). -/
def MemKind.ldmLoad (k : MemKind) (b : Block) (e c : Nat) (x : VecCtx) (w : Nat) (addrPois : Bool) : Prog :=
  let size := k.size x
  let pois := addrPois || (k.addrs x w).any fun el => (List.range size).any fun i => b.vec.ldmPois.contains (b.ldmKey e c el.2 + i)
  let val := fun o => ofBytesLE ((List.range size).map fun i => b.ldmAt (b.ldmKey e c o + i))
  modCtx (ctxKey e c) fun y =>
    if k = .scalar then (k.addrs x w).foldl (fun z el => z.putS (Ins.d w) (BitVec.ofNat 64 (val el.2)) pois) y
    else y.putV x.ew (Ins.mask w) (Ins.d w) ((k.addrs x w).map fun el => (el.1, val el.2)) pois

/-- A store to the window, elements in order; from a poisoned register, with the poison mark (R184). -/
def MemKind.ldmStore (k : MemKind) (b : Block) (e c : Nat) (x : VecCtx) (w : Nat) : Prog :=
  .each (k.addrs x w) fun el =>
    let key := b.ldmKey e c el.2
    .all [
      .edit (.ldm key (toBytesLE (k.size x) (k.value x w el.1))),
      .when (x.isPois (k.dreg w)) (modVec fun v => { v with
        ldmPois := (List.range (k.size x)).foldl (fun l i => insertNat (key + i) l) v.ldmPois })]

/-! ### Accesses through a segment -/

/-- A page of a translation context that an engine's quadrant keeps, if it grants what is needed (R310). -/
def Block.tcHit (b : Block) (e xctx va need : Nat) : Option TcEnt :=
  b.xlt.tc.find? fun t => decide (t.quad = e / 6 ∧ t.xctx = xctx ∧ t.page = va / 2 ^ t.size ∧ t.epoch = b.xepoch xctx) &&
    covers t.perms need

/-- An access starts: it leaves at once, is translated from the cache, or waits for its walk, asked once for each page. -/
def startAccess (e c : Nat) (first : Bool) (a : Access) : Prog := .read fun b =>
  match a.walk with
  | none => sendAccess e c a
  | some (xc, va) =>
    if !b.on (Reg.XLT_CTX_CTL xc) Fl.XLT_CTX_CTL_ENABLE then completeAccess e c a.tag St.accessDenied none false
    else match b.tcHit e xc va a.need with
      | some t => translateAccess e c a (t.pa + va % 2 ^ t.size) t.epoch
      | none => .when first (walkAccess e c a)

/-- The first access of its page among those of an instruction. -/
def firstOfPage (l : List Access) (a : Access) : Bool :=
  match l.find? fun p => decide (p.va / 4096 = a.va / 4096) with
  | some p => decide (p.tag = a.tag)
  | none => false

/-- The accesses of an instruction with their tags. -/
def tagAccesses (x : VecCtx) (l : List Access) : List Access :=
  let g := x.tags.headD 0
  (l.zip x.tags).map fun p => { p.1 with tag := p.2, group := g }

/-- The elements a load is to write keep their old values until its data lands; its tail is set at once, and the poison of
its address and of what it leaves unchanged is put on the destination (R204). -/
def MemKind.claim (k : MemKind) (x : VecCtx) (w : Nat) (pois : Bool) (y : VecCtx) : VecCtx :=
  if k = .scalar then y.putS (Ins.d w) (y.sc (Ins.d w)) pois
  else y.putV x.ew (Ins.mask w) (Ins.d w) ((x.active (Ins.mask w)).map fun i => (i, x.elem x.ew (Ins.d w) i)) pois

/-- A memory instruction through a segment. -/
def MemKind.issue (k : MemKind) (write : Bool) (b : Block) (e c : Nat) (x : VecCtx) (w : Nat) (pois : Bool) : Prog :=
  let l := tagAccesses x (k.accesses write b e c x w)
  .all [
    modCtx (ctxKey e c) fun y =>
      let z := if write then y else k.claim x w pois y
      { z with pend := z.pend ++ l, nextTag := (((l.getLast?).map fun a => a.tag + 1).getD z.nextTag) % 1024 },
    .each l fun a => startAccess e c (firstOfPage l a) a]

/-- A memory instruction. -/
def vecMem (e c op : Nat) (k : MemKind) (write : Bool) : Prog :=
  vecIssue e c {
    op := op,
    legal := fun _ x w => k.legal x w,
    reads := fun w => k.addrRegs w ++ (if write then [k.dreg w] else []),
    writes := fun w => if write then [] else [k.dreg w],
    ready := fun b x w => Ins.ldm w || memReady x (k.accesses write b e c x w),
    refuse := fun b x w => k.refuse write b e c x w,
    body := fun b x w =>
      let pois := (k.addrRegs w).any x.isPois
      if Ins.ldm w then (if write then k.ldmStore b e c x w else k.ldmLoad b e c x w pois)
      else k.issue write b e c x w pois }

def execVld (e : Fin 24) (c : Fin 4) (s : State) : Host.Outcome State Fault Refusal := s.run (vecMem e c 0x80 .unit false)
def execVlds (e : Fin 24) (c : Fin 4) (s : State) : Host.Outcome State Fault Refusal := s.run (vecMem e c 0x81 .stride false)
def execVldx (e : Fin 24) (c : Fin 4) (s : State) : Host.Outcome State Fault Refusal := s.run (vecMem e c 0x82 .index false)
def execVst (e : Fin 24) (c : Fin 4) (s : State) : Host.Outcome State Fault Refusal := s.run (vecMem e c 0x88 .unit true)
def execVsts (e : Fin 24) (c : Fin 4) (s : State) : Host.Outcome State Fault Refusal := s.run (vecMem e c 0x89 .stride true)
def execVstx (e : Fin 24) (c : Fin 4) (s : State) : Host.Outcome State Fault Refusal := s.run (vecMem e c 0x8A .index true)
def execLds (e : Fin 24) (c : Fin 4) (s : State) : Host.Outcome State Fault Refusal := s.run (vecMem e c 0x90 .scalar false)
def execSts (e : Fin 24) (c : Fin 4) (s : State) : Host.Outcome State Fault Refusal := s.run (vecMem e c 0x91 .scalar true)

end Sys2Proof.Machine
end

