-- ==== Sys2Proof/Machine/VecTrg.lean ====
section
/-! DEFINITION. Trough contributions and fences of an engine context (R227–R229), and the answers that reach the engine. -/

namespace Sys2Proof.Machine

/-! ### Handles (R227) -/

/-- A handle of a context. -/
def VecCtx.handle (x : VecCtx) (h : Nat) : Handle := Tbl.get (dflt {}) h x.handles

/-- One handle changed. -/
def modHandle (e c h : Nat) (g : Handle → Handle) : Prog :=
  modCtx (ctxKey e c) fun x => { x with handles := Tbl.upd {} h g x.handles }

/-- The handle closes. -/
def dropHandle (e c h : Nat) : Prog := modCtx (ctxKey e c) fun x => { x with handles := Tbl.set (dflt {}) h {} x.handles }

/-- A scalar takes a status. -/
def putStatus (e c d : Nat) (st : Status) : Prog := modCtx (ctxKey e c) fun x => x.putS d (BitVec.ofNat 64 st) false

/-- The next mesh tag of a context, and that it is used. -/
def VecCtx.meshTag (x : VecCtx) (c : Nat) : Nat := c * 1024 + x.nextTag
def takeTag (e c : Nat) : Prog := modCtx (ctxKey e c) fun x => { x with nextTag := (x.nextTag + 1) % 1024 }

/-- The trough, base element and package an sA names, and whether its other bits are 0 (R237). -/
structure TrgName where
  trough : Nat
  base   : Nat
  pkg    : Nat
  good   : Bool

def trgName (b : Block) (a : Nat) : TrgName :=
  let remote := a.testBit 31
  ⟨bits a 0 6, bits a 32 28, if remote then bits a 16 10 else b.ownPkg,
    decide (bits a 6 10 = 0 ∧ bits a 26 5 = 0 ∧ bits a 60 4 = 0) && (remote || decide (bits a 16 10 = 0))⟩

/-- The fields of a trough instruction that must be 0: all but its operands and the handle. -/
def trgOk (w : Nat) (useD useA useB mask handle : Bool) : Bool :=
  decide (Ins.fmt w = 0 ∧ Ins.rm w = 0 ∧ Ins.c w = 0 ∧ Ins.bsrc w = 0) &&
    decide (Ins.d w < if useD then 32 else 1) && decide (Ins.a w < if useA then 32 else 1) &&
    decide (Ins.b w < if useB then 32 else 1) && decide (Ins.mask w < if mask then 8 else 1) &&
    decide (Ins.imm20 w < if handle then 4 else 1)

/-- TRGOPEN: a handle already open faults; a malformed sA is answered here. -/
def execTrgopen (e : Fin 24) (c : Fin 4) (s : State) : Host.Outcome State Fault Refusal :=
  s.run (vecIssue e c {
    op := 0xC0, legal := fun _ _ w => trgOk w true true true false true,
    reads := fun w => [.s (Ins.a w), .s (Ins.b w)], writes := fun w => [.s (Ins.d w)],
    refuse := fun _ x w => if (x.handle (Ins.imm20 w)).state = 0 then none else some (1, none),
    body := fun b x w =>
      let h := Ins.imm20 w
      let n := trgName b (x.sc (Ins.a w)).toNat
      let count := min (x.sc (Ins.b w)).toNat 0xFFFFFFFF
      let new : Handle := ⟨if n.good then 1 else 3, n.trough, n.pkg, n.base, count, St.descInvalid, [], Ins.d w, x.meshTag c⟩
      .all [
        modHandle e c h fun _ => new,
        takeTag e c,
        if n.good then sendPkt (b.trgPkt e c h 0x70 n.pkg n.trough n.base (x.meshTag c)
          [⟨slice (toBytesLE 4 count) 0 64, 0xF, false⟩])
        else putStatus e c (Ins.d w) St.descInvalid] })

/-- The contribution index an offset names; one past the field stays past every count. -/
def contribIdx (o i : Nat) : Nat := min (o + i) (2 ^ 28 - 1)

/-- The data units of a TRGADD, 16 elements each: inactive elements are 0, elements from VL on have no BE. -/
def addUnits (x : VecCtx) (a mask : Nat) (pois : Bool) : List DUnit :=
  let act := x.active mask
  (List.range ((x.vl + 15) / 16)).map fun k =>
    let n := min 16 (x.vl - 16 * k)
    ⟨slice ((List.range n).flatMap fun j => toBytesLE 4 (if act.contains (16 * k + j) then x.elem 32 a (16 * k + j) else 0)) 0 64,
      2 ^ (4 * n) - 1, pois⟩

/-- Groups of at most four units, with the number of units before each. -/
def packUnits : Nat → Nat → List DUnit → List (Nat × List DUnit)
  | 0, _, _ => []
  | f + 1, k, l => if l.isEmpty then [] else (k, l.take 4) :: packUnits f (k + 4) (l.drop 4)

/-- TRGADDs of a context without all their TRG_ACKs. -/
def VecCtx.addsOut (x : VecCtx) : Nat := x.handles.foldl (fun n h => n + h.2.adds.length) 0

/-- TRGADD: in vain on a handle whose open was refused.  While the handle's TRGCLOSE is under way it waits (notes/assumptions/28.md). -/
def execTrgadd (e : Fin 24) (c : Fin 4) (s : State) : Host.Outcome State Fault Refusal :=
  s.run (vecIssue e c {
    op := 0xC1,
    legal := fun _ x w => trgOk (w - Ins.a w * 2 ^ 34) false false true true true && decide (x.ew = 32),
    reads := fun w => [.v (Ins.a w), .s (Ins.b w)], writes := fun _ => [],
    ready := fun _ x w => decide (x.addsOut < 8 ∧ (x.handle (Ins.imm20 w)).state ≠ 4),
    refuse := fun _ x w => if (x.handle (Ins.imm20 w)).state = 0 then some (1, none) else none,
    body := fun b x w =>
      let h := Ins.imm20 w
      let y := x.handle h
      let o := (x.sc (Ins.b w)).toNat
      let pk := packUnits 16 0 (addUnits x (Ins.a w) (Ins.mask w) (x.isPois (.v (Ins.a w))))
      .when (decide (y.state ≠ 3 ∧ pk ≠ [])) (.all [
        modHandle e c h fun y => { y with adds := y.adds ++ [pk.length] },
        .each pk fun p => sendPkt (b.trgPkt e c h 0x71 y.pkg y.trough (contribIdx o (16 * p.1)) y.tag p.2)]) })

/-- The close of a handle goes out. -/
def sendClose (e c h : Nat) : Prog := .read fun b =>
  let y := (b.vctx (ctxKey e c)).handle h
  sendPkt (b.trgPkt e c h 0x72 y.pkg y.trough 0 y.tag [])

/-- TRGCLOSE: after the open has been answered, and after another TRGCLOSE of the handle (notes/assumptions/28.md); a refused handle
closes with the status of its open. -/
def execTrgclose (e : Fin 24) (c : Fin 4) (s : State) : Host.Outcome State Fault Refusal :=
  s.run (vecIssue e c {
    op := 0xC2, legal := fun _ _ w => trgOk w true false false false true,
    reads := fun _ => [], writes := fun w => [.s (Ins.d w)],
    ready := fun _ x w => decide ((x.handle (Ins.imm20 w)).state ≠ 1 ∧ (x.handle (Ins.imm20 w)).state ≠ 4),
    refuse := fun _ x w => if (x.handle (Ins.imm20 w)).state = 0 then some (1, none) else none,
    body := fun _ x w =>
      let h := Ins.imm20 w
      let y := x.handle h
      if y.state = 3 then .all [dropHandle e c h, putStatus e c (Ins.d w) y.status]
      else .all [
        modHandle e c h fun y => { y with state := 4, sd := Ins.d w },
        .when y.adds.isEmpty (sendClose e c h)] })

/-- TRGABORT: nothing on a handle that is not open. -/
def execTrgabort (e : Fin 24) (c : Fin 4) (s : State) : Host.Outcome State Fault Refusal :=
  s.run (vecIssue e c {
    op := 0xC3, legal := fun _ _ w => trgOk w false false false false true,
    reads := fun _ => [], writes := fun _ => [],
    body := fun _ x w => .all [handleAbort e c (Ins.imm20 w) (x.handle (Ins.imm20 w)), dropHandle e c (Ins.imm20 w)] })

/-- TRGFIN. -/
def execTrgfin (e : Fin 24) (c : Fin 4) (s : State) : Host.Outcome State Fault Refusal :=
  s.run (vecIssue e c {
    op := 0xC4, legal := fun _ _ w => trgOk w true true false false false,
    reads := fun w => [.s (Ins.a w)], writes := fun w => [.s (Ins.d w)],
    ready := fun _ x _ => x.finish.isNone,
    body := fun b x w =>
      let n := trgName b (x.sc (Ins.a w)).toNat
      if n.good && decide (n.base = 0) then .all [
        modCtx (ctxKey e c) fun y => { y with finish := some (Ins.d w, x.meshTag c) },
        takeTag e c,
        sendPkt (b.trgPkt e c 0 0x76 n.pkg n.trough 0 (x.meshTag c) [])]
      else putStatus e c (Ins.d w) St.descInvalid })

/-! ### Answers at the engine (R240) -/

/-- The source context and handle of a trough packet. -/
def trgCtx (addr : Nat) : Nat := bits addr 9 2
def trgHandle (addr : Nat) : Nat := bits addr 11 2

/-- A TRG_ACK reaches its engine; the last one lets a close go out. -/
def engineTrgAck (e : Nat) (p : Pkt) : Prog := .read fun b =>
  let c := trgCtx p.addr
  let h := trgHandle p.addr
  let y := (b.vctx (ctxKey e c)).handle h
  .when (decide (y.tag = p.tag ∧ y.state ≠ 0)) (
    match y.adds with
    | [] => .skip
    | n :: rest =>
      let left := if n ≤ 1 then rest else (n - 1) :: rest
      .all [
        modHandle e c h fun y => { y with adds := left },
        .when (left.isEmpty && decide (y.state = 4)) (sendClose e c h)])

/-- A TRG_STAT reaches its engine: of an open, of a close, of a finish. -/
def engineTrgStat (e : Nat) (p : Pkt) : Prog := .read fun b =>
  let c := trgCtx p.addr
  let h := trgHandle p.addr
  let x := b.vctx (ctxKey e c)
  let y := x.handle h
  let st := p.addr % 256
  if x.finish.map Prod.snd = some p.tag then .all [
    putStatus e c ((x.finish.map Prod.fst).getD 0) st,
    modCtx (ctxKey e c) fun x => { x with finish := none }]
  else .when (decide (y.tag = p.tag)) (
    if y.state = 1 then .all [
      putStatus e c y.sd st,
      modHandle e c h fun y => { y with state := if st = 0 then 2 else 3, status := st }]
    else if y.state = 4 then .all [putStatus e c y.sd st, dropHandle e c h]
    else .skip)

/-! ### Fences (R229) -/

/-- The fields a fence leaves 0. -/
def fenceOk (w : Nat) (useA useImm : Bool) : Bool :=
  decide (bits w 52 4 = 0 ∧ bits w 40 6 = 0 ∧ bits w 32 8 = 0) && decide (Ins.ja w < if useA then 32 else 1) &&
    decide (Ins.imm32 w < if useImm then 2 else 1)

/-- A store error that a fence finds (R182). -/
def storeFault (e c : Nat) (b : Block) : Option (Nat × Option Status) :=
  if (b.vctx (ctxKey e c)).badSt then some (7, none) else none

/-- FENCE: every earlier access of the context has completed. -/
def execFence (e : Fin 24) (c : Fin 4) (s : State) : Host.Outcome State Fault Refusal :=
  s.run (vecIssue e c {
    op := 0xC8, legal := fun _ _ w => fenceOk w false false, reads := fun _ => [], writes := fun _ => [],
    ready := fun _ x _ => x.pend.isEmpty,
    refuse := fun b _ _ => storeFault e c b,
    body := fun _ _ _ => .skip })

/-- The slices an acquire goes to: the one that holds the package's session, or all in use. -/
def Block.acqSlices (b : Block) (pkg : Nat) (all : Bool) : List Nat :=
  if all then (List.range 8).filter fun e => !b.sys.offSpan.contains e else [b.spanEngOf pkg]

/-- SACQ: the instruction after it waits for the slices' answers. -/
def execSacq (e : Fin 24) (c : Fin 4) (s : State) : Host.Outcome State Fault Refusal :=
  s.run (vecIssue e c {
    op := 0xC9, legal := fun _ _ w => fenceOk w true true,
    reads := fun w => [.s (Ins.ja w)], writes := fun _ => [],
    ready := fun b _ _ => !b.held? (b.enginePart e),
    refuse := fun b _ _ => storeFault e c b,
    body := fun b x w =>
      let all := (Ins.imm32 w).testBit 0
      let pkg := bits (x.sc (Ins.ja w)).toNat 0 10
      let l := b.acqSlices pkg all
      let hat := b.ctxHat e c
      .all [
        takeTag e c,
        .when (decide (l ≠ [])) (modCtx (ctxKey e c) fun y => { y with acq := some (l.length, x.meshTag c) }),
        .each l fun k => sendPkt (Pkt.bare 0xA0 (pkg * 2 ^ 47 + b2n all) (x.meshTag c) hat (.engine e) (.spanEng k))] })

/-- A slice has answered an engine's acquire. -/
def engineAcqDone (e : Nat) (p : Pkt) : Prog := modCtx (ctxKey e (p.tag / 1024)) fun x => { x with
  acq := match x.acq with
    | some (n, t) => if t = p.tag then (if n ≤ 1 then none else some (n - 1, t)) else some (n, t)
    | none => none }

/-- SREL: every earlier write of the context to another package has been answered. -/
def execSrel (e : Fin 24) (c : Fin 4) (s : State) : Host.Outcome State Fault Refusal :=
  s.run (vecIssue e c {
    op := 0xCA, legal := fun _ _ w => fenceOk w false false, reads := fun _ => [], writes := fun _ => [],
    ready := fun b x _ => !(x.pend.any fun p => p.write && (p.walk.isSome || decide (p.pa / 2 ^ 47 % 1024 ≠ b.ownPkg))),
    refuse := fun b _ _ => storeFault e c b,
    body := fun _ _ _ => .skip })

/-! ### Memory responses at the engine -/

/-- MRSP or MACK at an engine. -/
def engineMemRsp (e : Nat) (p : Pkt) : Prog :=
  completeAccess e (p.tag / 1024) (p.tag % 1024) (p.addr % 256) (if p.units.isEmpty then none else some p.data) p.anyPois

end Sys2Proof.Machine
end

