-- ==== Sys2Proof/Machine/Trough.lean ====
section
/-! DEFINITION. Troughs (R231–R251): configuration, arming, contributions, release, export. -/

namespace Sys2Proof.Machine

/-! ### States (R235) -/

namespace TrgState
abbrev idle := 0
abbrev zeroising := 1
abbrev armed := 2
abbrev closing := 3
abbrev released := 4
abbrev abandoned := 5
end TrgState

/-- The trough a trough packet's ADDR names (R240). -/
def trgAddrTrough (a : Nat) : Nat := bits a 13 6

namespace Block

def trgState (b : Block) (t : Nat) : Nat := b.f (Reg.TRG_CTL t) Fl.TRG_CTL_STATE
def trgElems (b : Block) (t : Nat) : Nat := b.f (Reg.TRG_CFG t) Fl.TRG_CFG_ELEMS
def trgWell (b : Block) (t : Nat) : Nat := b.f (Reg.TRG_CFG t) Fl.TRG_CFG_WELL

/-- Fields of a member entry. -/
def memValid (b : Block) (t k : Nat) : Bool := b.on (Reg.TRG_MEMBER t k) Fl.TRG_MEMBER_VALID
def memDone (b : Block) (t k : Nat) : Bool := b.on (Reg.TRG_MEMBER t k) Fl.TRG_MEMBER_COMPLETE
def memOut (b : Block) (t k : Nat) : Bool := b.on (Reg.TRG_MEMBER t k) Fl.TRG_MEMBER_EJECTED

/-- The entry of a member, the lowest where two match (R236). -/
def memberOf (b : Block) (t pkg hat : Nat) : Option Nat := (List.range 64).find? fun k =>
  b.memValid t k && decide (b.f (Reg.TRG_MEMBER t k) Fl.TRG_MEMBER_PACKAGE = pkg ∧ b.f (Reg.TRG_MEMBER t k) Fl.TRG_MEMBER_HAT = hat)

/-- Hats that may administer a trough (R233). -/
def mayTrough (b : Block) (hat t : Nat) : Bool :=
  decide (hat = 0) || (b.holds hat Right.trgAdmin && b.inPart hat (b.troughPart t))

/-- Units of 2 MiB an accumulator takes (R232). -/
def accUnits (b : Block) (t : Nat) : Nat := (4 * b.trgElems t + 2 ^ 21 - 1) / 2 ^ 21

/-- Two accumulators overlap. -/
def accMeets (b : Block) (t u : Nat) : Bool :=
  let lo := fun t => b.f (Reg.TRG_CFG t) Fl.TRG_CFG_ACC_OFF
  decide (b.trgWell t = b.trgWell u ∧ lo t < lo u + b.accUnits u ∧ lo u < lo t + b.accUnits t)

end Block

/-- The quantum exponent of a trough's noise. -/
def Block.trgQexp (b : Block) (t : Nat) : Int := signed 8 (b.f (Reg.TRG_CFG t) Fl.TRG_CFG_QEXP)

/-- A finite value m × 2^e is at most 2^k. -/
def finAtMost (m : Nat) (e k : Int) : Bool :=
  if e ≤ k then decide (m ≤ 2 ^ (k - e).toNat) else decide (m = 0)

/-- Whether ARM or REARM fails for the configuration: every condition of R234 but the writer's right gives DESC_INVALID. -/
def Block.armBad (b : Block) (t : Nat) : Bool :=
  let w := b.trgWell t
  let elems := b.trgElems t
  let valid := (List.range 64).filter (b.memValid t)
  let k := b.f (Reg.TRG_CFG t) Fl.TRG_CFG_K
  let dl := b.f (Reg.TRG_DEADLINE t) Fl.TRG_DEADLINE_TIME
  !b.trgUnitOn (t / 8) || (b.troughPart t).isNone || !decide (w < 12) || !b.wellOn w || decide (w / 3 ≠ t / 16) ||
    decide (b.wellPart w ≠ b.troughPart t) ||
    decide (reservedOf b.recs w < (b.f (Reg.TRG_CFG t) Fl.TRG_CFG_ACC_OFF + b.accUnits t) * 2 ^ 21) ||
    ((List.range 64).any fun u => decide (u ≠ t ∧ b.trgState u ≠ TrgState.idle) && b.accMeets t u) ||
    decide (elems = 0 ∨ 2 ^ 28 < elems ∨ valid = [] ∨ b.f (Reg.TRG_QUOTA t) Fl.TRG_QUOTA_QUOTA = 0) ||
    (b.on (Reg.TRG_CFG t) Fl.TRG_CFG_RULE && decide (k = 0 ∨ valid.length < k ∨ dl = 0)) ||
    (match FFmt.fp32.decode (b.f (Reg.TRG_PARAM t) Fl.TRG_PARAM_CLIP) with
     | .fin n m _ => n || decide (m = 0)
     | _ => true) ||
    (match FFmt.fp32.decode (b.f (Reg.TRG_PARAM t) Fl.TRG_PARAM_SIGMA) with
     | .fin n m e => (n && decide (m ≠ 0)) || !finAtMost m (e - b.trgQexp t) 20
     | _ => true) ||
    decide (dl ≠ 0 ∧ dl ≤ b.now)

/-! ### Changes of state -/

/-- STATE of a trough. -/
def setTrg (t st : Nat) : Prog := .all [setF (Reg.TRG_CTL t) Fl.TRG_CTL_STATE st, measured]

/-- COMPLETE and ACTIVE of TRG_STATUS, from the member entries (R242). -/
def countMembers (t : Nat) : Prog := .read fun b =>
  let done := (List.range 64).filter (b.memDone t)
  let act := (List.range 64).filter fun k => b.memDone t k || (b.memValid t k && !b.memOut t k)
  .all [
    setF (Reg.TRG_STATUS t) Fl.TRG_STATUS_COMPLETE done.length,
    setF (Reg.TRG_STATUS t) Fl.TRG_STATUS_ACTIVE act.length]

/-- Contributions of a trough that are open, or wait to be, and that a test picks, are dropped; their buffers are zeroed and
free. -/
def dropContribs (u : Nat) (test : Contrib → Bool) : Prog :=
  modTrgU u fun x => { x with opens := x.opens.filter fun c => !test c }

/-- Enter ABANDONED: everything is zeroised (R235, R247). -/
def abandonTrg (t : Nat) : Prog := .all [
  setTrg t TrgState.abandoned,
  setF (Reg.TRG_CTL t) Fl.TRG_CTL_RNG_WAIT 0,
  modTrg t fun x => { x with acc := [], adding := [] },
  dropContribs (t / 8) fun c => decide (c.trough = t)]

/-- Enter CLOSING: open contributions are aborted (R242). -/
def closeTrg (t : Nat) : Prog := .read fun b => .all [
  setTrg t TrgState.closing,
  setF (Reg.TRG_CTL t) Fl.TRG_CTL_RNG_WAIT (b2n (!b.trough.healthy)),
  dropContribs (t / 8) fun c => decide (c.trough = t)]

/-- The release decision of an ARMED trough (R242); `late`: the deadline has passed. -/
def decideTrg (t : Nat) (late : Bool) : Prog := .read fun b =>
  let done := (List.range 64).filter (b.memDone t)
  let lost := (List.range 64).filter fun k => b.memOut t k && !b.memDone t k
  let open_ := (List.range 64).filter fun k => b.memValid t k && !b.memOut t k && !b.memDone t k
  let k := b.f (Reg.TRG_CFG t) Fl.TRG_CFG_K
  .when (decide (b.trgState t = TrgState.armed)) (
    if b.on (Reg.TRG_CFG t) Fl.TRG_CFG_RULE then
      if done.length + open_.length < k then abandonTrg t
      else if k ≤ done.length ∧ (open_ = [] ∨ late) then closeTrg t
      else .when late (abandonTrg t)
    else if lost ≠ [] ∨ late then abandonTrg t
    else .when (decide (open_ = [])) (closeTrg t))

/-- A member becomes complete (R239). -/
def completeMember (t k : Nat) : Prog := .all [
  setF (Reg.TRG_MEMBER t k) Fl.TRG_MEMBER_COMPLETE 1,
  countMembers t,
  decideTrg t false]

/-- A member is ejected while its trough runs (R249). -/
def ejectMember (t k : Nat) : Prog := .read fun b =>
  let a := Reg.TRG_MEMBER t k
  .when (b.memValid t k && !b.memOut t k && decide (b.trgState t = TrgState.armed ∨ b.trgState t = TrgState.zeroising)) (.all [
    setF a Fl.TRG_MEMBER_EJECTED 1,
    dropContribs (t / 8) fun c =>
      decide (c.trough = t ∧ c.pkg = b.f a Fl.TRG_MEMBER_PACKAGE ∧ c.hat = b.f a Fl.TRG_MEMBER_HAT),
    countMembers t,
    decideTrg t false])

/-- A hat of this package is removed: it is ejected everywhere (R249). -/
def ejectHat (h : Nat) : Prog := .read fun b =>
  .each (List.range 64) fun t => .each ((List.range 64).filter fun k =>
    decide (b.f (Reg.TRG_MEMBER t k) Fl.TRG_MEMBER_PACKAGE = b.ownPkg ∧ b.f (Reg.TRG_MEMBER t k) Fl.TRG_MEMBER_HAT = h))
    (ejectMember t)

/-- A peer is unreachable: its open contributions are aborted (R250). -/
def dropPeerContribs (pkg : Nat) : Prog := .each (List.range 8) fun u => .all [
  dropContribs u fun c => decide (c.pkg = pkg) && c.relay.isSome,
  modTrgU u fun x => { x with waiting := x.waiting.filter fun c => ¬ (c.pkg = pkg ∧ c.relay.isSome) }]

/-- The troughs of a partition that goes down or is reset (R251). -/
def stopTroughs (p : Nat) : Prog := .read fun b =>
  .each ((List.range 64).filter fun t => decide (b.troughPart t = some p)) fun t =>
    let st := b.trgState t
    if st = TrgState.zeroising then modTrg t fun x => { x with toArmed := false }
    else .when (decide (st = TrgState.armed ∨ st = TrgState.closing)) (abandonTrg t)

/-! ### The accumulator's well (R251) -/

/-- The well of a trough's accumulator is awake and in no window. -/
def Block.accReady (b : Block) (t : Nat) : Bool := !b.domAsleep (b.trgWell t) && !b.windowAt (b.trgWell t)

/-- What works on the accumulator waits for its well, which it wakes (R99, R52, R251). -/
def onAcc (t : Nat) (k : Prog) : Prog := .read fun b => if b.accReady t then k else packetWake (b.trgWell t)

/-- A packet reaches its trough: it waits while the traffic of the trough's partition is held (R75), and while the accumulator of a
trough in use is not ready. -/
def atTrough (p : Pkt) (k : Prog) : Prog := .read fun b =>
  let t := trgAddrTrough p.addr
  .when (!((b.troughPart t).any fun q => b.entryHeld p q true)) (if b.trgState t = TrgState.idle then k else onAcc t k)

/-! ### Commands (R233–R235) -/

def trgDenied (t : Nat) : Prog := setF (Reg.TRG_CTL t) Fl.TRG_CTL_DENIED 1
def trgCode (t code : Nat) : Prog := setF (Reg.TRG_CTL t) Fl.TRG_CTL_CODE code

/-- Arming fails. -/
def armFail (t code : Nat) : Prog := .all [setF (Reg.TRG_CTL t) Fl.TRG_CTL_ARM_FAIL 1, trgCode t code]

/-- The configuration at ARM that reports show (R234, R438): TRG_CFG, TRG_PARAM, TRG_QUOTA, TRG_DEADLINE, the time. -/
def Block.armWords (b : Block) (t : Nat) : List Nat :=
  [(b.w (Reg.TRG_CFG t)).toNat, (b.w (Reg.TRG_PARAM t)).toNat, (b.w (Reg.TRG_QUOTA t)).toNat,
    (b.w (Reg.TRG_DEADLINE t)).toNat, b.now]

/-- ARM or REARM in a state that admits it: a new round. -/
def armTrg (t : Nat) : Prog := .read fun b =>
  if b.armBad t then armFail t St.descInvalid
  else .all [
    trgCode t 0,
    .each (List.range 64) fun k => .all [
      setF (Reg.TRG_MEMBER t k) Fl.TRG_MEMBER_COMPLETE 0,
      setF (Reg.TRG_MEMBER t k) Fl.TRG_MEMBER_EJECTED 0,
      setF (Reg.TRG_MEMBER t k) Fl.TRG_MEMBER_CLOSED 0],
    setF (Reg.TRG_STATUS t) Fl.TRG_STATUS_ACCEPTED 0,
    setF (Reg.TRG_STATUS t) Fl.TRG_STATUS_CLIPPED 0,
    countMembers t,
    modTrg t fun x => { x with toArmed := true },
    modSec fun s => { s with armCfg := Tbl.set (dflt []) t (b.armWords t) s.armCfg },
    setTrg t TrgState.zeroising]

/-- A trough command of an administering hat, in the states that allow it. -/
def trgCommand (t cmd : Nat) : Prog := .read fun b =>
  let st := b.trgState t
  let past := decide (st = TrgState.released ∨ st = TrgState.abandoned)
  if cmd = 1 then .when (decide (st = TrgState.idle)) (armTrg t)
  else if cmd = 2 then .when (decide (st = TrgState.armed)) (.all [trgCode t 0, abandonTrg t])
  else if cmd = 3 then .when past (armTrg t)
  else .when (decide (cmd = 4) && past) (.all [
    trgCode t 0, modTrg t fun x => { x with toArmed := false }, setTrg t TrgState.zeroising])

/-- A command written to TRG_CTL: the hat's right, then the state; REARM and DISARM wait for an export. -/
def trgAdmin (hat t cmd : Nat) : Prog := underHat hat (.read fun b =>
  if !b.mayTrough hat t then .all [
    trgDenied t,
    .when (decide (cmd = 1 ∨ cmd = 3)) (armFail t St.accessDenied)]
  else if (cmd = 3 ∨ cmd = 4) ∧ b.on (Reg.TRG_EXPORT t) Fl.TRG_EXPORT_BUSY then
    modTrg t fun x => { x with waitCmd := some (cmd, hat) }
  else trgCommand t cmd)

def execArm (hat : Nat) (t : Fin 64) (s : State) : Host.Outcome State Fault Refusal := s.run (trgAdmin hat t 1)
def execAbandon (hat : Nat) (t : Fin 64) (s : State) : Host.Outcome State Fault Refusal := s.run (trgAdmin hat t 2)
def execRearm (hat : Nat) (t : Fin 64) (s : State) : Host.Outcome State Fault Refusal := s.run (trgAdmin hat t 3)
def execDisarm (hat : Nat) (t : Fin 64) (s : State) : Host.Outcome State Fault Refusal := s.run (trgAdmin hat t 4)

/-- FINISH by a member's hat on the trough's own package (R239). -/
def trgFinishWrite (hat t : Nat) : Prog := underHat hat (.read fun b =>
  match b.memberOf t b.ownPkg hat with
  | none => trgDenied t
  | some k => .when (decide (b.trgState t = TrgState.armed) && !b.memDone t k && !b.memOut t k) (.all [
      trgCode t 0, completeMember t k]))

def execFinish (hat : Nat) (t : Fin 64) (s : State) : Host.Outcome State Fault Refusal := s.run (trgFinishWrite hat t)

/-- Zeroisation ends. -/
def zeroised (t : Nat) : Prog := .read fun b =>
  .when (decide (b.trgState t = TrgState.zeroising)) (onAcc t (.all [
    modTrg t fun x => { x with acc := [], adding := [] },
    if (b.trgSt t).toArmed then .all [setTrg t TrgState.armed, decideTrg t false] else setTrg t TrgState.idle]))

def execZeroisationDone (t : Fin 64) (s : State) : Host.Outcome State Fault Refusal := s.run (zeroised t)

/-- A write of 0 to VALID of a member entry: an ordinary write while IDLE, an ejection while ARMED (R233, R249). -/
def memberEject (hat t k : Nat) : Prog := underHat hat (.read fun b =>
  let st := b.trgState t
  if !b.mayTrough hat t then trgDenied t
  else if st = TrgState.idle then setF (Reg.TRG_MEMBER t k) Fl.TRG_MEMBER_VALID 0
  else if st = TrgState.armed then .all [ejectMember t k, setF (Reg.TRG_MEMBER t k) Fl.TRG_MEMBER_VALID 0]
  else trgDenied t)

def execMemberEject (hat : Nat) (t : Fin 64) (k : Fin 64) (s : State) : Host.Outcome State Fault Refusal :=
  s.run (memberEject hat t k)

/-! ### Contributions at the trough unit (R236–R240) -/

def trgAddrElem (a : Nat) : Nat := bits a 19 28
def trgAddrPkg (a : Nat) : Nat := bits a 47 10

/-- The hat of the span peer that relays a packet. -/
def Block.relayOf (b : Block) (p : Pkt) : Option Nat :=
  match p.src with
  | .spanEng _ => some ((b.boundHat (0x400 + trgAddrPkg p.addr)).getD 1024)
  | _ => none

/-- The contribution class of the origin hat; of a relayed packet, that of the relaying peer's hat, the origin package having
admitted the origin hat (R236, R250). -/
def Block.contribRight (b : Block) (hat : Nat) (relay : Option Nat) : Bool :=
  match relay with
  | none => b.holds hat Right.trgContrib
  | some r => b.holds r Right.trgContrib

/-- Why a contribution of an origin to a trough is refused, apart from its data (R238). -/
def Block.contribCode (b : Block) (t pkg hat : Nat) (relay : Option Nat) : Status :=
  let m := b.memberOf t pkg hat
  let shut := match m with
    | some k => b.memDone t k || b.memOut t k
    | none => false
  worst [
    if !decide (b.trgState t = TrgState.armed) || shut then St.troughClosed else 0,
    if m.isNone then St.notContributor else 0,
    if b.contribRight hat relay then 0 else St.accessDenied]

/-- An answer of a trough unit: the echo of bits 56 to 8, and a status. -/
def trgAnswer (p : Pkt) (cmd st : Nat) : Prog := sendPkt (p.reply cmd (p.addr / 256 * 256 + st) false [])

/-- The contribution a packet names. -/
def Contrib.is (c : Contrib) (p : Pkt) : Bool :=
  decide (c.src = p.src ∧ c.ctx = trgCtx p.addr ∧ c.handle = trgHandle p.addr) &&
    (decide (c.relay = none) || decide (c.pkg = trgAddrPkg p.addr ∧ c.tag = p.tag))

/-- Staging buffers of a unit in use: 16 in all (R232). -/
def Block.buffers (b : Block) (u : Nat) : Nat :=
  (b.trgUnit u).opens.length + ((List.range 8).map fun i => (b.trgSt (8 * u + i)).adding.length).sum

/-- The answer to an open: a refusal, or OK with a zeroed buffer (R237). -/
def grantOpen (u : Nat) (c : Contrib) (p : Pkt) : Prog := .read fun b =>
  let code := worst [b.contribCode c.trough c.pkg c.hat c.relay,
    if c.count = 0 ∨ 65536 < c.count ∨ b.trgElems c.trough < c.base + c.count then St.descInvalid else 0]
  .all [
    .when (decide (code = 0)) (modTrgU u fun x => { x with opens := x.opens ++ [c] }),
    trgAnswer p 0x75 code]

/-- The packet that a waiting open came as, for its answer. -/
def Contrib.openPkt (c : Contrib) (u : Nat) : Pkt :=
  Pkt.bare 0x70 (c.pkg * 2 ^ 47 + c.base * 2 ^ 19 + c.trough * 2 ^ 13 + c.handle * 2 ^ 11 + c.ctx * 2 ^ 9) c.tag c.hat c.src (.trough u)

/-- TRG_OPEN: tested, then given a buffer; with none free it waits in order of arrival. -/
def trgOpen (p : Pkt) : Prog := .read fun b =>
  match p.dst with
  | .trough u =>
    let t := trgAddrTrough p.addr
    let relay := b.relayOf p
    let count := match p.units with
      | un :: _ => numAt un.data 0 4
      | [] => 0
    let c : Contrib := ⟨p.src, trgCtx p.addr, trgHandle p.addr, t, trgAddrPkg p.addr, p.hat, relay, p.tag, trgAddrElem p.addr,
      count, [], [], 0, false, false⟩
    let refused := decide (b.contribCode t c.pkg c.hat relay ≠ 0 ∨ count = 0 ∨ 65536 < count ∨ b.trgElems t < c.base + count)
    .all [takePkt p,
      if !refused && (decide (16 ≤ b.buffers u) || decide ((b.trgUnit u).waiting ≠ [])) then
        modTrgU u fun x => { x with waiting := x.waiting ++ [c] }
      else grantOpen u c p]
  | _ => .skip

/-- A free buffer goes to the oldest waiting open. -/
def trgOpenGrant (u : Nat) : Prog := .read fun b =>
  match (b.trgUnit u).waiting with
  | c :: rest => .when (decide (b.buffers u < 16)) (.all [
      modTrgU u fun x => { x with waiting := rest },
      grantOpen u c (c.openPkt u)])
  | [] => .skip

def execTrgOpenGrant (u : Fin 8) (s : State) : Host.Outcome State Fault Refusal := s.run (trgOpenGrant u)

/-- Binary64, the format of the running sum of squares. -/
def fp64 : FFmt := ⟨11, 52, 1023, true, true, 2046, 2 ^ 52 - 1, 0x7FF8000000000000⟩

/-- One element reaches its staging buffer (R237). -/
def Contrib.stage (c : Contrib) (idx val : Nat) : Contrib :=
  match FFmt.fp32.decode val with
  | .fin _ m e =>
    if c.count ≤ idx ∨ c.seen.contains idx then { c with bad := true }
    else { c with
      staged := Tbl.set (dflt 0) idx (BitVec.ofNat 32 val) c.staged,
      seen := insertNat idx c.seen,
      sumsq := (fp64.add 0 0 (fp64.decode c.sumsq) (.fin false (m * m) (2 * e))).val }
  | _ => { c with bad := true }

/-- The elements of a TRG_ADD: contribution index and value of each whose four bytes are marked (R240). -/
def addElems (p : Pkt) : List (Nat × Nat) :=
  (p.units.zipIdx).flatMap fun ui =>
    ((List.range 16).filter fun j => decide (bits ui.1.be (4 * j) 4 = 15)).map fun j =>
      (trgAddrElem p.addr + 16 * ui.2 + j, numAt ui.1.data (4 * j) 4)

/-- A contribution with a TRG_ADD taken into it. -/
def Contrib.take (c : Contrib) (p : Pkt) : Contrib :=
  (addElems p).foldl (fun x e => x.stage e.1 e.2) { c with pois := c.pois || p.anyPois }

/-- A packet's open waits for a buffer: the packet waits behind it. -/
def Block.opensLater (b : Block) (u : Nat) (p : Pkt) : Bool := (b.trgUnit u).waiting.any fun c => c.is p

/-- TRG_ADD: written, squared and summed, acknowledged. -/
def trgAdd (p : Pkt) : Prog := .read fun b =>
  match p.dst with
  | .trough u => .when (!b.opensLater u p) (.all [
      takePkt p,
      modTrgU u fun x => { x with opens := x.opens.map fun c => if c.is p then c.take p else c },
      trgAnswer p 0x74 0])
  | _ => .skip

/-- √S ≤ CLIP, exactly. -/
def withinClip (sumsq clip : Nat) : Bool :=
  match fp64.decode sumsq, FFmt.fp32.decode clip with
  | .fin _ m e, .fin _ mc ec => if e ≤ 2 * ec then decide (m ≤ mc * mc * 2 ^ (2 * ec - e).toNat)
      else decide (m * 2 ^ (e - 2 * ec).toNat ≤ mc * mc)
  | _, _ => false

/-- An element times CLIP ÷ √S, rounded once to nearest-even (R238). -/
def clipElem (sumsq clip x : Nat) : Nat :=
  match fp64.decode sumsq, FFmt.fp32.decode clip, FFmt.fp32.decode x with
  | .fin _ m e, .fin _ mc ec, .fin neg mx ex =>
    if mx = 0 ∨ m = 0 then FFmt.fp32.zero neg
    else
      let (m', e') := if e % 2 = 0 then (m, e) else (2 * m, e - 1)
      let n := mx * mc
      let q := n * n * 2 ^ (2 * extraBits)
      let r := isqrtFrom (q / m') (extraBits + 60) 0
      let sticky := if q % m' = 0 ∧ r * r = q / m' then 0 else 1
      (FFmt.fp32.round 0 0 false neg (2 * r + sticky) (ex + ec - e' / 2 - extraBits - 1)).val
  | _, _, _ => x

/-- The vector a close accumulates. -/
def Contrib.clipped (c : Contrib) (clip : Nat) : Contrib :=
  { c with staged := c.staged.map fun e => (e.1, BitVec.ofNat 32 (clipElem c.sumsq clip e.2.toNat)) }

/-- A close that is accepted: counted, and queued for accumulation (R238, R239). -/
def acceptClose (u t : Nat) (c : Contrib) (clip : Bool) : Prog := .read fun b => .all [
  dropContribs u fun x => decide (x = c),
  modTrg t fun x => { x with adding := x.adding ++
    [if clip then c.clipped (b.f (Reg.TRG_PARAM t) Fl.TRG_PARAM_CLIP) else c] },
  incSat (Reg.TRG_STATUS t) Fl.TRG_STATUS_ACCEPTED,
  .when clip (incSat (Reg.TRG_STATUS t) Fl.TRG_STATUS_CLIPPED),
  .for? (b.memberOf t c.pkg c.hat) fun k => .all [
    addWrap (Reg.TRG_MEMBER t k) Fl.TRG_MEMBER_CLOSED 1,
    .when (decide (b.f (Reg.TRG_MEMBER t k) Fl.TRG_MEMBER_CLOSED + 1 = b.f (Reg.TRG_QUOTA t) Fl.TRG_QUOTA_QUOTA))
      (completeMember t k)]]

/-- TRG_CLOSE: the outcome of R238. -/
def trgClose (p : Pkt) : Prog := .read fun b =>
  match p.dst with
  | .trough u => .when (!b.opensLater u p) (
      match (b.trgUnit u).opens.find? fun c => c.is p with
      | none => .all [takePkt p, trgAnswer p 0x75 St.troughClosed]
      | some c =>
        let t := c.trough
        let code := worst [b.contribCode t c.pkg c.hat c.relay, if c.pois then St.poisoned else 0,
          if c.bad then St.descInvalid else 0]
        let fits := withinClip c.sumsq (b.f (Reg.TRG_PARAM t) Fl.TRG_PARAM_CLIP)
        .all [takePkt p,
          if code ≠ 0 then .all [dropContribs u fun x => decide (x = c), trgAnswer p 0x75 code]
          else .all [trgAnswer p 0x75 (if fits then St.ok else St.clipped), acceptClose u t c (!fits)]])
  | _ => .skip

/-- TRG_ABORT: the contribution is discarded. -/
def trgAbort (p : Pkt) : Prog := .read fun _ =>
  match p.dst with
  | .trough u => .all [takePkt p,
      modTrgU u fun x => { x with opens := x.opens.filter (fun c => !c.is p), waiting := x.waiting.filter fun c => !c.is p }]
  | _ => .skip

/-- TRG_FINISH at the trough unit (R239). -/
def trgFinish (p : Pkt) : Prog := .read fun b =>
  match p.dst with
  | .trough _ =>
    let t := trgAddrTrough p.addr
    let pkg := trgAddrPkg p.addr
    let code := b.contribCode t pkg p.hat (b.relayOf p)
    .all [takePkt p, trgAnswer p 0x75 code,
      .when (decide (code = 0)) (.for? (b.memberOf t pkg p.hat) (completeMember t))]
  | _ => .skip

/-- 1 ms with no packet on an open handle (R237). -/
def execTrgIdleAbort (u : Fin 8) (i : Nat) (s : State) : Host.Outcome State Fault Refusal :=
  s.run (modTrgU u fun x => { x with opens := x.opens.eraseIdx i })

/-! ### Accumulation and release (R238, R242–R244) -/

/-- FP32 sum, to nearest-even. -/
def fp32Sum (x y : Nat) : Nat := (FFmt.fp32.add 0 0 (FFmt.fp32.decode x) (FFmt.fp32.decode y)).val

/-- The oldest closed contribution has been added. -/
def accumulateDone (t : Nat) : Prog := .read fun b =>
  match (b.trgSt t).adding with
  | c :: rest => onAcc t (.all [activity c.hat Act.trough c.count, modTrg t fun x => { x with
      adding := rest,
      acc := c.staged.foldl (fun a e =>
        Tbl.set (dflt 0) (c.base + e.1) (BitVec.ofNat 32 (fp32Sum (Tbl.get (dflt 0) (c.base + e.1) a).toNat e.2.toNat)) a) x.acc }])
  | [] => .skip

def execTrgAccumulateDone (t : Fin 64) (s : State) : Host.Outcome State Fault Refusal := s.run (accumulateDone t)

def execTrgDeadlineExpiry (t : Fin 64) (s : State) : Host.Outcome State Fault Refusal :=
  s.run (.read fun b =>
    let dl := b.f (Reg.TRG_DEADLINE t) Fl.TRG_DEADLINE_TIME
    .when (decide (dl ≠ 0 ∧ dl ≤ b.now)) (decideTrg t true))

/-- The integer a free number stands for: every integer is one. -/
def anyInt (n : Nat) : Int := if n % 2 = 0 then (n / 2 : Nat) else -((n + 1) / 2 : Nat)

/-- An accumulator element with its noise: q times an integer the DRBG draws (R243). -/
def noised (qexp : Int) (x : Nat) (z : Int) : Nat :=
  (FFmt.fp32.add 0 0 (FFmt.fp32.decode x) (.fin (decide (z < 0)) z.natAbs qexp)).val

/-- The whole accumulator with its noise. -/
def noisedAcc (seed elems : Nat) (qexp : Int) (acc : Tbl Lane) : Tbl Lane :=
  ((List.range elems).map fun i =>
    (i, BitVec.ofNat 32 (noised qexp (Tbl.get (dflt 0) i acc).toNat (anyInt (Config.freeElem seed i))))).filter
    fun e => decide (e.2 ≠ 0)

/-- The noise has been added: once everything closed is accumulated and while the entropy source is healthy. -/
def releaseDone (t : Nat) : Prog := .read fun b =>
  let quiet := decide (b.f (Reg.TRG_PARAM t) Fl.TRG_PARAM_SIGMA % 2 ^ 31 = 0)
  .when (decide (b.trgState t = TrgState.closing ∧ (b.trgSt t).adding = []) && b.trough.healthy) (onAcc t (.all [
    setF (Reg.TRG_CTL t) Fl.TRG_CTL_RNG_WAIT 0,
    .when (!quiet) (modTrg t fun x => { x with acc := noisedAcc b.free (b.trgElems t) (b.trgQexp t) x.acc }),
    .when (!quiet) (withFree fun n => addSat Reg.TRG_RNG Fl.TRG_RNG_RESEEDS n),
    addSat Reg.TRG_RNG Fl.TRG_RNG_RESEEDS 1,
    setTrg t TrgState.released]))

def execTrgReleaseDone (t : Fin 64) (s : State) : Host.Outcome State Fault Refusal := s.run (releaseDone t)

/-- The entropy source begins to fail its tests, or passes again (R244). -/
def entropyChange (healthy : Bool) : Prog := .read fun b => .all [
  modTrough fun x => { x with healthy := healthy },
  setF Reg.TRG_RNG Fl.TRG_RNG_READY (b2n healthy),
  .when (!healthy) (setF Reg.TRG_RNG Fl.TRG_RNG_FAIL 1),
  .each ((List.range 64).filter fun t => decide (b.trgState t = TrgState.closing)) fun t =>
    setF (Reg.TRG_CTL t) Fl.TRG_CTL_RNG_WAIT (b2n (!healthy))]

def execEntropyHealthChange (healthy : Bool) (s : State) : Host.Outcome State Fault Refusal := s.run (entropyChange healthy)

/-! ### Export (R246) -/

/-- Why an export fails. -/
def Block.exportCode (b : Block) (hat t first count : Nat) : Status :=
  worst [
    if hat ≠ 0 ∧ b.holds hat Right.trgRead ∧ b.inPart hat (b.troughPart t) then 0 else St.accessDenied,
    if b.trgState t = TrgState.released then 0 else St.troughClosed,
    if count = 0 ∨ b.trgElems t < first + count then St.descInvalid else 0]

/-- The export ends with a status; a command that waited for it runs. -/
def exportEnd (t : Nat) (code : Status) : Prog := .read fun b => .all [
  setF (Reg.TRG_EXPORT t) Fl.TRG_EXPORT_BUSY 0,
  setF (Reg.TRG_EXPORT t) Fl.TRG_EXPORT_DONE 1,
  setF (Reg.TRG_EXPORT t) Fl.TRG_EXPORT_CODE code,
  modTrg t fun x => { x with exportOut := 0, exportSt := 0, waitCmd := none },
  .for? (b.trgSt t).waitCmd fun w => trgCommand t w.1]

/-- One write of an export leaves under the hat that started it, with the rights it had at GO (R77), or fails at the unit. -/
def exportPiece (rights hat t n dst : Nat) (data : List Byte) : Prog := .read fun b =>
  match b.routeBy rights hat dst with
  | .inr d => .all [
      modTrg t fun x => { x with exportOut := x.exportOut + 1 },
      sendPkt (writePkt dst (t + 64 * (n % 64)) hat (b.hatLabel hat) data false (.trough (t / 8)) d)]
  | .inl st => modTrg t fun x => { x with exportSt := max x.exportSt st }

/-- The writes of an export leave, once the accumulator can be read. -/
def exportRun (t : Nat) : Prog := .read fun b =>
  .for? (b.trgSt t).exporting fun x => onAcc t (.all [
    modTrg t fun y => { y with exporting := none },
    .each (unitPieces (x.count + 1) x.dst 0 (4 * x.count)).zipIdx fun pc =>
      exportPiece x.rights x.hat t pc.2 (x.dst + pc.1.1)
        (slice (((List.range (pc.1.2 / 4 + 2)).flatMap fun i =>
          toBytesLE 4 (Tbl.get (dflt 0) (x.first + pc.1.1 / 4 + i) (b.trgSt t).acc).toNat)) (pc.1.1 % 4) pc.1.2)])

/-- A write of TRG_EXPORT with GO. -/
def exportGo (hat t : Nat) (val : W64) : Prog := underHat hat (.read fun b =>
  let first := getFld val Fl.TRG_EXPORT_FIRST
  let count := getFld val Fl.TRG_EXPORT_COUNT
  let code := b.exportCode hat t first count
  let dst := b.f (Reg.TRG_EXPORT_DST t) Fl.TRG_EXPORT_DST_ADDR * 8
  .all [
    .when (decide (hat = 0) || (b.holds hat Right.trgRead && b.inPart hat (b.troughPart t))) (.all [
      setF (Reg.TRG_EXPORT t) Fl.TRG_EXPORT_FIRST first,
      setF (Reg.TRG_EXPORT t) Fl.TRG_EXPORT_COUNT count]),
    .when (!b.on (Reg.TRG_EXPORT t) Fl.TRG_EXPORT_BUSY) (
      if code ≠ 0 then exportEnd t code
      else .all [
        setF (Reg.TRG_EXPORT t) Fl.TRG_EXPORT_BUSY 1,
        modTrg t fun x => { x with exporting := some ⟨hat, b.rightsOf hat, dst, first, count⟩ },
        exportRun t])])

def execTrgExport (hat : Nat) (t : Fin 64) (val : W64) (s : State) : Host.Outcome State Fault Refusal :=
  s.run (exportGo hat t (putFld val Fl.TRG_EXPORT_GO 1))

/-- The last write of an export has been answered; one that waits for its accumulator's well goes on. -/
def trgExportDone (t : Nat) : Prog := .read fun b =>
  .when (b.on (Reg.TRG_EXPORT t) Fl.TRG_EXPORT_BUSY && decide ((b.trgSt t).exportOut = 0)) (
    if (b.trgSt t).exporting.isSome then exportRun t else exportEnd t (b.trgSt t).exportSt)

def execTrgExportDone (t : Fin 64) (s : State) : Host.Outcome State Fault Refusal := s.run (trgExportDone t)

/-- A MACK at a trough unit. -/
def troughMemRsp (p : Pkt) : Prog := modTrg (p.tag % 64) fun x => { x with
  exportOut := x.exportOut - 1,
  exportSt := if completed (p.addr % 256) then x.exportSt else max x.exportSt (p.addr % 256) }

end Sys2Proof.Machine
end

