-- ==== Sys2Proof/Machine/Fence.lean ====
section
/-! DEFINITION. A site fenced (R142), and a partition that goes down (R291, R292). -/

namespace Sys2Proof.Machine

/-! ### What the directory records for a site -/

/-- A line is recorded for the site in E, M or O (R133, R138). -/
def Block.ownsLine (b : Block) (g : Nat) : Bool :=
  b.dir.any fun e => (decide (e.2.ds = .em) || decide (e.2.ds = .o)) && decide (e.2.owner = g)

/-- The site is listed for some line. -/
def Block.listed (b : Block) (g : Nat) : Bool :=
  b.ownsLine g || b.dir.any fun e => (decide (e.2.ds = .s) || decide (e.2.ds = .o)) && e.2.sharers.testBit g

/-- ENTRIES of a well (R280). -/
def showDir (w : Nat) : Prog := .read fun b =>
  setF (Reg.WEL_DIR w) Fl.WEL_DIR_ENTRIES (b.dir.filter fun e => decide (keyWell e.1 = w) && decide (e.2.ds ≠ .i)).length

/-- An entry with nothing left to record is I. -/
def DirEnt.settle (d : DirEnt) : DirEnt := if d.ds = .s ∧ d.sharers = 0 then { d with ds := .i } else d

/-- A site is dropped from every sharer list. -/
def dropSharer (g : Nat) : Prog := .read fun b => .all [
  .each ((b.dir.filter fun e => e.2.sharers.testBit g).map Prod.fst) fun k =>
    modDir k fun d => DirEnt.settle { d with sharers := clearBit d.sharers g },
  .each (List.range 12) showDir]

/-! ### Fencing a site (R142) -/

/-- A response for a fenced site is absorbed. -/
def absorbSite (g : Nat) : Prog := .all [incSat (Reg.GLV_STATUS g) Fl.GLV_STATUS_ABSORBED, logEv St.drainAbsorbed g]

/-- A snoop is answered by the glove as invalid. -/
def snoopInvalid (p : Pkt) : Prog := sendPkt (p.reply 0x38 (p.addr / 128 * 128) false [])

/-- A request forwarded to the site completes poisoned. -/
def poisonWindow (p : Pkt) : Prog :=
  if p.cmd = 0x80 then sendPkt (p.reply 0x82 (statusAddr p St.poisoned) true [poisonUnit])
  else if p.cmd = 0x81 then sendPkt (p.reply 0x83 (statusAddr p St.poisoned) true [])
  else refuseReq p St.poisoned

/-- The chunks a tile partly sent still lacks, poisoned (R142, R200). -/
def finishTile (g lane : Nat) (t : List Nat) : Prog :=
  match t with
  | [e, next, chunks, addr, tag, hat] =>
    .each (List.range (chunks - next)) fun i =>
      let n := next + i
      sendPkt { Pkt.bare 0x60 (addr + n * 2 ^ 31 + b2n (decide (n + 1 = chunks)) * 2 ^ 30) tag hat (.glove g lane) (.engine e)
        with ordered := true, units := [poisonUnit] }
  | _ => .skip

/-! ### The fitting record (R128) -/

/-- Bytes 0x000–0x13F of a site's fitting record. -/
def Block.fitBytes (b : Block) (g : Nat) : List Byte :=
  (List.range 40).flatMap fun k => toBytesLE 8 (b.w (Reg.GLV_FIT g k)).toNat

/-- The record as it stands from now on: its digest follows. -/
def putFit (g : Nat) (bytes : List Byte) : Prog :=
  let all := slice bytes 0 0x140 ++ toBytesLE 48 (Config.sha384 (slice bytes 0 0x140)) ++ List.replicate 16 0
  .all [
    .each (List.range 48) fun k => setR (Reg.GLV_FIT g k) (BitVec.ofNat 64 (numAt all (8 * k) 8)),
    measured]

/-- Some bytes of the record change. -/
def editFit (g o : Nat) (bytes : List Byte) : Prog := .read fun b =>
  let old := b.fitBytes g
  putFit g (old.take o ++ bytes ++ old.drop (o + bytes.length))

/-- A message that answers a request of the site. -/
def Msp.answers (m : Msp) : Bool := decide (m.chan = 0 ∨ m.op = 0x82 ∨ m.op = 0x83 ∨ m.op = 0x87 ∨ m.op = 0xA1)

/-- A site is fenced; a flush under way ends there, and a reset that waits for one. -/
def fenceSite (g : Nat) : Prog := .read fun b =>
  let s := b.site g
  .all [
    endMission 0 g 4,
    setF (Reg.GLV_STATUS g) Fl.GLV_STATUS_STATE 6,
    .when (s.fitted && decide (b.f (Reg.GLV_FIT g 0) ⟨40, 8⟩ = 0)) (editFit g 5 [2]),
    .each (s.txq.filter Msp.answers) fun _ => absorbSite g,
    .each (s.snoops ++ s.heldSnoop) snoopInvalid,
    .each s.window fun w => poisonWindow w.2,
    .each s.tcredit fun c => sendPkt (Pkt.bare 0x62 (c.2.1 * 2 ^ 26 + c.1 * 2) 0 c.2.2 (.glove g 0) (.engine c.1)),
    .each s.tile fun t => finishTile g t.1 t.2,
    modGlv g fun s => { s with
      fenced := true, txq := [], snoops := [], heldSnoop := [], window := [], tcredit := [], tile := [], half := [],
      flush := .none, rst := .none },
    dropSharer g]

/-! ### A partition goes down (R291, R292) -/

/-- Where a cause was found. -/
structure Cause where
  cause : Nat
  site  : Nat := 0
  well  : Nat := 0
  x     : Nat := 0
  y     : Nat := 0

/-- HUB_PART_CAUSEp. -/
def recordCause (p : Nat) (c : Cause) : Prog := .read fun b =>
  let a := Reg.HUB_PART_CAUSE p
  .all [
    setF a Fl.HUB_PART_CAUSE_CAUSE c.cause, setF a Fl.HUB_PART_CAUSE_SITE c.site, setF a Fl.HUB_PART_CAUSE_WELL c.well,
    setF a Fl.HUB_PART_CAUSE_X c.x, setF a Fl.HUB_PART_CAUSE_Y c.y, setF a Fl.HUB_PART_CAUSE_TIME b.now]

/-- The units of a partition are reset: engines, pumps, walks of its contexts, troughs (R292 step 3). -/
def stopUnits (p : Nat) : Prog := .read fun b => .all [
  .each ((List.range 24).filter fun e => decide (b.enginePart e = some p) && b.engineOn e) resetEngine,
  .each ((List.range 48).filter fun u => decide (b.pumpPart u = some p) && b.pumpOn u) resetPump,
  xltPartStop p,
  stopTroughs p]

/-- Every entry of the wells of a partition: an owned line is poisoned at its home (R292 step 4, R481 step 3). -/
def poisonOwned (p : Nat) (pick : DirEnt → Bool) : Prog := .read fun b =>
  .each (b.dir.filter fun e => decide (b.wellPart (keyWell e.1) = some p) && pick e.2 &&
    (decide (e.2.ds = .em) || decide (e.2.ds = .o))) fun e => poisonLine e.1

/-- A cause under R291 arises in a partition: it goes down; one that is down or resetting keeps its state (R293, R482). -/
def partitionDown (p : Nat) (c : Cause) : Prog := .read fun b =>
  if b.partResetting p then .all [
    incSat Reg.HUB_PART_RESET Fl.HUB_PART_RESET_CAUSE_DURING,
    poisonOwned p fun d => decide (c.cause ≤ 4) && decide (d.owner = c.site)]
  else if b.partDown p then .when (decide (b.f (Reg.HUB_PART_CAUSE p) Fl.HUB_PART_CAUSE_CAUSE = 0)) (recordCause p c)
  else .all [
    orF Reg.HUB_PART_DOWN Fl.HUB_PART_DOWN_DOWN (2 ^ p),
    orF Reg.HUB_PART_DOWN Fl.HUB_PART_DOWN_EVENT (2 ^ p),
    recordCause p c,
    logEv St.partitionDown p,
    measured,
    .each ((List.range 16).filter fun g => decide (b.sitePart g = some p) && b.siteThere g &&
      decide (b.gState g ≠ 0 ∧ b.gState g ≠ 7)) fenceSite,
    absorbHeld p,
    stopUnits p,
    releaseCap (1 + p)]

/-- A site loses its link or clock, or breaks the protocol (R141): with an owned line its partition goes down, else it is
fenced until a reset.  A flush or a reset under way ends there (`fenceSite`). -/
def loseSite (g cause : Nat) : Prog := .read fun b => .all [
  (match b.sitePart g with
  | some p => if b.ownsLine g then .all [partitionDown p { cause := cause, site := g }, fenceSite g] else fenceSite g
  | none => fenceSite g),
  unblockCommit]

end Sys2Proof.Machine
end

