-- ==== Sys2Proof/Machine/Home.lean ====
section
/-! DEFINITION. The home bank: memory commands, the directory's transactions, atomics (R262–R267, R278–R290, R293). -/

namespace Sys2Proof.Machine

/-! ### Requests -/

/-- The site a packet comes from. -/
def Pkt.site (p : Pkt) : Option Nat :=
  match p.src with
  | .glove g _ => some g
  | _ => none

/-- The partition a packet's source works in. -/
def Block.srcPart (b : Block) (p : Pkt) : Option Nat :=
  match p.src with
  | .engine e => b.enginePart e
  | .reducer w => b.wellPart w
  | .pump u => b.pumpPart u
  | .glove g _ => b.sitePart g
  | .spanEng _ => none
  | _ => if b.hatPart p.hat = 0xFF then none else some (b.hatPart p.hat)

/-- Bytes of a memory command's line or unit, to which its address is aligned. -/
def memAlign (cmd : Nat) : Nat := if cmd % 8 = 1 then 128 else if cmd % 8 = 2 then 32 else 64

/-- Size of an atomic's operand, from its byte enables; 0 for none that R290 allows. -/
def atomicSize (p : Pkt) : Nat :=
  let o := p.addr % 64
  let be := (p.units.head?.map fun u => u.be).getD 0
  let op := p.cmd % 16
  ((if op = 0xA then [4] else if op = 0xB then [2] else [4, 8]).find? fun n =>
    decide (o % n = 0 ∧ be = (2 ^ n - 1) * 2 ^ o)).getD 0

/-- The status with which the home refuses a request for a line of partition `part` (R130, R262, R278, R282, R290). -/
def Block.badReq (b : Block) (p : Pkt) (part : Nat) : Status :=
  if isRead p then if p.addr % memAlign p.cmd ≠ 0 then St.descInvalid else 0
  else if isWrite p then
    let be := (p.units.head?.map fun u => u.be).getD 0
    let o := p.addr % 64
    if p.addr % memAlign p.cmd ≠ 0 ∨ (p.cmd = 0xA ∧ be - (be &&& (2 ^ 32 - 1) * 2 ^ o) ≠ 0) then St.descInvalid else 0
  else if isCoh p then
    worst [if p.addr % 128 ≠ 0 then St.descInvalid else 0,
      if (p.site.bind b.sitePart) = some part then 0 else St.accessDenied]
  else if isAtomic p then
    worst [if atomicSize p = 0 then St.descInvalid else 0,
      if 0xA ≤ p.cmd % 16 ∧ (p.site.map fun g => b.agreedFeature g 1) = some false then St.unsupported else 0]
  else St.descInvalid

/-! ### Data at the home -/

/-- One sector is read for a normal access. -/
def readSector (key s : Nat) : Prog := .all [drainLine key, cacheSector key s false]

/-- What follows has both sectors of a line at hand. -/
def withLine (key : Nat) (k : List DUnit → Prog) : Prog := .all [
  readSector key 0, readSector key 1, .read fun b => k (b.lineUnits key)]

/-- The sector, and the half, an address names. -/
def addrSector (a : Nat) : Nat := a / 64 % 2
def addrHalf (a : Nat) : Nat := a / 32 % 4

/-- The status of data. -/
def unitsSt (l : List DUnit) : Status := if l.any fun u => u.pu then St.poisoned else St.ok

/-- A read answered from the home, of a line that a cache `owned` or not (R265, R266). -/
def homeRead (p : Pkt) (key : Nat) (owned : Bool) : Prog :=
  if p.cmd = 1 then withLine key fun l => memAnswer p (unitsSt l) l
  else if p.cmd = 2 then .all [
    drainLine key,
    .read fun b => .when (b.asNormal key owned) (cacheSector key (addrSector p.addr) false),
    .read fun b => let u := b.narrowUnit key (addrHalf p.addr); memAnswer p (unitsSt [u]) [u]]
  else .all [
    readSector key (addrSector p.addr),
    .read fun b => let u := b.sectorUnit key (addrSector p.addr); memAnswer p (unitsSt [u]) [u]]

/-- A read answered from an owner's data (R287). -/
def ownerRead (p : Pkt) (data : List DUnit) : Prog :=
  let u := data.getD (addrSector p.addr) poisonUnit
  let z := List.replicate 32 0
  let n : DUnit := { u with data := if addrHalf p.addr % 2 = 0 then slice u.data 0 32 ++ z else z ++ slice u.data 32 32 }
  let l := if p.cmd = 1 then data else if p.cmd = 2 then [n] else [u]
  memAnswer p (unitsSt l) l

/-- A write done at the home; one to a failed channel is discarded (R265, R266, R271). -/
def homeWrite (p : Pkt) (key : Nat) (owned : Bool) : Prog := .read fun b =>
  if b.lineFailed key then memAnswer p St.poisoned []
  else .all [
    (match p.units with
    | [] => .skip
    | u :: rest =>
      if p.cmd = 0x9 then .all [writeSector key 0 u, .for? rest.head? (writeSector key 1)]
      else if p.cmd = 0xA then writeNarrow key (addrHalf p.addr) u owned
      else writeSector key (addrSector p.addr) u),
    memAnswer p St.ok []]

/-- The value an atomic leaves (R290). -/
def atomicNew (op size old arg cmp : Nat) : Nat :=
  let s := signed (8 * size)
  match op with
  | 0x0 => (old + arg) % 2 ^ (8 * size)
  | 0x1 => arg
  | 0x2 => if old = cmp then arg else old
  | 0x3 => old &&& arg
  | 0x4 => old ||| arg
  | 0x5 => old ^^^ arg
  | 0x6 => if s arg < s old then arg else old
  | 0x7 => if s old < s arg then arg else old
  | 0x8 => min old arg
  | 0x9 => max old arg
  | 0xA => (FFmt.fp32.add 0 0 (FFmt.fp32.decode old) (FFmt.fp32.decode arg)).val
  | _ => (FFmt.bf16.add 0 0 (FFmt.bf16.decode old) (FFmt.bf16.decode arg)).val

/-- An atomic done at the home bank, or at the memory atomic unit through the buffer (R264, R266, R290). -/
def homeAtomic (p : Pkt) (key : Nat) (owned : Bool) : Prog := .all [
  drainLine key,
  .read fun b =>
    let s := addrSector p.addr
    let o := p.addr % 64
    let n := atomicSize p
    let u := (p.units.head?).getD poisonUnit
    let home := decide (p.cmd < 0x50) || b.asNormal key owned
    let old := numAt (b.sectorUnit key s).data o n
    let arg := numAt u.data o n
    let new := atomicNew (p.cmd % 16) n old arg (numAt u.data (o ^^^ 32) n)
    let put : DUnit := ⟨slice (List.replicate o 0 ++ toBytesLE n new) 0 64, (2 ^ n - 1) * 2 ^ o, false⟩
    if b.sectorPois key 0 || b.sectorPois key 1 || u.pu then sendPkt (p.reply 0x5F (statusAddr p St.poisoned) false [])
    else .all [
      (if home then .all [mergeSector key s put, cacheSector key s true] else combineSector key s put),
      sendPkt (p.reply 0x5E (statusAddr p 0) false [⟨slice (List.replicate o 0 ++ toBytesLE n old) 0 64, 2 ^ 64 - 1, false⟩])]]

/-! ### Directory entries -/

/-- An entry changed, and the count with it. -/
def setDir (key : Nat) (g : DirEnt → DirEnt) : Prog := .all [modDir key g, showDir (keyWell key)]

/-- A line granted in M to a site. -/
def ownDir (key g : Nat) (m : Bool) (pa : Nat) : Prog :=
  setDir key fun d => { d with ds := .em, owner := g, grantM := m, sharers := 0, pa := pa }

/-- The holders an entry lists. -/
def DirEnt.holders (d : DirEnt) : List Nat :=
  match d.ds with
  | .i => []
  | .s => setBits d.sharers 16
  | .em => [d.owner]
  | .o => d.owner :: (setBits d.sharers 16).filter fun g => decide (g ≠ d.owner)

/-- The owner's part of an entry ends: S if sharers remain. -/
def DirEnt.disown (d : DirEnt) : DirEnt := DirEnt.settle { d with ds := .s, grantM := false }

/-- The transaction of a line ends. -/
def closeTxn (key : Nat) : Prog := modDir key fun d => { d with txn := none }

/-! ### Snoops (R282, R286) -/

/-- Snoops of a bank that a site has not answered. -/
def Block.snoopsOut (b : Block) (bank : Ep) (g : Nat) : Nat :=
  (b.dir.filter fun e => match e.2.txn with
    | some t => decide (t.req.dst = bank) && t.await.contains g && !(t.unsent.any fun u => decide (u.1 = g))
    | none => false).length

/-- A snoop leaves when its site has fewer than four of the bank's. -/
def trySnoop (key g cmd : Nat) : Prog := .read fun b =>
  let d := b.dirEnt key
  .for? d.txn fun t => .when (t.unsent.contains (g, cmd) && decide (b.snoopsOut t.req.dst g < 4)) (.all [
    modDir key fun d => { d with txn := some { t with unsent := t.unsent.erase (g, cmd) } },
    incSat (Reg.WEL_DIR (keyWell key)) Fl.WEL_DIR_SNOOPS,
    sendPkt (Pkt.bare cmd (d.pa + (t.req.site.getD 0)) t.req.tag t.req.hat t.req.dst (.glove g (d.pa / 128 % 4)))])

/-- A transaction opens with its snoops. -/
def openTxn (key : Nat) (p : Pkt) (kind : TxnKind) (snoops : List (Nat × Nat)) : Prog := .all [
  modDir key fun d => { d with txn := some ⟨p, snoops.map Prod.fst, snoops, kind, none, 0, false, false⟩ },
  .each snoops fun s => trySnoop key s.1 s.2]

/-- Snoops that wait for a site's answers to the bank go out. -/
def kickSnoops (bank : Ep) (g : Nat) : Prog := .read fun b =>
  .each b.dir fun e => .for? e.2.txn fun t =>
    .when (decide (t.req.dst = bank)) (.each (t.unsent.filter fun u => u.1 = g) fun u => trySnoop e.1 u.1 u.2)

/-! ### Serving a request on a line that is not busy (R281, R285, R287, R290) -/

/-- A request that needs an entry its full set cannot give waits for the recall of the set's entry of least recent use. -/
def needEntry (p : Pkt) (key : Nat) (k : Prog) : Prog := .read fun b =>
  let same := b.dir.filter fun e => decide (e.2.ds ≠ .i) && decide (b.dirSetOf e.1 = b.dirSetOf key)
  if same.length < 8 then k
  else .all [
    modDir key fun d => { d with txn := some ⟨p, [], [], .entry, none, 0, false, false⟩ },
    .for? ((same.filter fun e => e.2.txn.isNone).foldl (fun best e => match best with
      | none => some e
      | some x => if e.2.used < x.2.used then some e else some x) none) fun v =>
        openTxn v.1 p .recall (v.2.holders.map fun g => (g, 0x32))]

/-- A request of a site (R285).  DEDUCED (notes/assumptions/64.md): a site that asks for a line it is recorded with in E has dropped
it; its glove would hold a snoop until the answer that waits for that snoop has passed (R289). -/
def startCoh (p : Pkt) (key g : Nat) : Prog := .read fun b =>
  let d := b.dirEnt key
  let others := (setBits d.sharers 16).filter fun x => decide (x ≠ g ∧ ¬ (d.ds = .o ∧ x = d.owner))
  let upgrade := p.cmd = 0x22 ∧ ((d.ds = .s ∧ d.sharers.testBit g) ∨ (d.ds = .o ∧ (d.sharers.testBit g ∨ d.owner = g)))
  let inval := others.map fun x => (x, 0x32)
  let dropped := d.ds = .em ∧ d.owner = g ∧ d.grantM = false
  if p.cmd = 0x24 then
    if (d.ds = .em ∨ d.ds = .o) ∧ d.owner = g then .all [
      .when (!b.lineFailed key) (writeBack key p.units), setDir key DirEnt.disown, sendPkt (p.reply 0x2C p.addr false [])]
    else sendPkt (p.reply 0x2C p.addr false [])
  else if p.cmd = 0x25 then .all [
    setDir key fun d => if d.ds = .em ∧ d.owner = g ∧ d.grantM = false then d.disown
      else if d.ds = .s ∨ d.ds = .o then DirEnt.settle { d with sharers := clearBit d.sharers g } else d,
    sendPkt (p.reply 0x2C p.addr false [])]
  else if p.cmd = 0x20 then
    match d.ds with
    | .i => needEntry p key (withLine key fun l => .all [
        ownDir key g false (p.addr / 128 * 128), sendPkt (p.reply 0x29 p.addr false l)])
    | .s => withLine key fun l => .all [
        setDir key fun d => { d with sharers := setBit d.sharers g }, sendPkt (p.reply 0x28 p.addr false l)]
    | _ => if dropped then withLine key fun l => .all [
          setDir key fun d => { d with ds := .s, grantM := false, sharers := setBit 0 g }, sendPkt (p.reply 0x28 p.addr false l)]
        else openTxn key p .serve [(d.owner, 0x30)]
  else if p.cmd = 0x23 then
    if d.ds = .i then needEntry p key (.all [
      ownDir key g true (p.addr / 128 * 128), sendPkt (p.reply 0x2B p.addr false [])])
    else
      let l := d.holders.filter fun x => decide (x ≠ g)
      if l = [] then .all [ownDir key g true (p.addr / 128 * 128), sendPkt (p.reply 0x2B p.addr false [])]
      else openTxn key p .serve (l.map fun x => (x, 0x32))
  else if upgrade then
    let all := if d.ds = .o ∧ d.owner ≠ g then inval ++ [(d.owner, 0x32)] else inval
    if all = [] then .all [ownDir key g true (p.addr / 128 * 128), sendPkt (p.reply 0x2B p.addr false [])]
    else openTxn key p .serve all
  else
    match d.ds with
    | .i => needEntry p key (withLine key fun l => .all [
        ownDir key g true (p.addr / 128 * 128), sendPkt (p.reply 0x2A p.addr false l)])
    | .s => if inval = [] then withLine key fun l => .all [
          ownDir key g true (p.addr / 128 * 128), sendPkt (p.reply 0x2A p.addr false l)]
        else openTxn key p .serve inval
    | .em => if dropped then withLine key fun l => .all [
          ownDir key g true (p.addr / 128 * 128), sendPkt (p.reply 0x2A p.addr false l)]
        else openTxn key p .serve [(d.owner, 0x31)]
    | .o => if inval = [] then openTxn key p .serve [(d.owner, 0x31)] else openTxn key p .snpo inval

/-- A memory command or an atomic (R287, R290). -/
def startMem (p : Pkt) (key : Nat) : Prog := .read fun b =>
  let d := b.dirEnt key
  if isRead p then
    if d.ds = .em ∨ d.ds = .o then openTxn key p .serve [(d.owner, 0x33)] else homeRead p key false
  else if d.ds = .i then (if isWrite p then homeWrite p key false else homeAtomic p key false)
  else openTxn key p .serve (d.holders.map fun x => (x, 0x32))

/-- A request starts on its line: the block is cleared first if it is marked, the entry's use is noted. -/
def startReq (p : Pkt) (key : Nat) : Prog := .all [
  clearFirst key,
  modMem fun m => { m with clock := m.clock + 1 },
  .read fun b => .when (decide ((b.dirEnt key).ds ≠ .i)) (modDir key fun d => { d with used := b.mem.clock }),
  if isCoh p then .for? p.site (startCoh p key) else startMem p key]

/-- Partitions that take no requests: down, or resetting and asked from outside (R293, R481). -/
def Block.shut (b : Block) (p : Pkt) (part : Nat) : Bool :=
  b.partDown part || (b.partResetting part && decide (b.srcPart p ≠ some part))

/-- The partition of a line. -/
def Block.linePart (b : Block) (key : Nat) : Nat := (b.wellPart (keyWell key)).getD 16

/-- The next request that waits for a line starts, if the line is free. -/
def stepLine (key : Nat) : Prog := .read fun b =>
  let d := b.dirEnt key
  match d.txn, d.queue with
  | none, p :: rest => .all [
      modDir key fun d => { d with queue := rest },
      if b.shut p (b.linePart key) then refuseReq p St.poisoned else startReq p key]
  | _, _ => .skip

/-- Everything that waits for a line starts, until one opens a transaction. -/
def runLine (key : Nat) : Prog := .read fun b => .all (List.replicate (b.dirEnt key).queue.length (stepLine key))

/-- A line that waits for an entry of a set and has no recall under way tries again. -/
def retrySet (key : Nat) : Prog := .read fun b =>
  let recalled := fun q : Pkt => b.dir.any fun e => match e.2.txn with
    | some t => decide (t.kind = .recall ∧ t.req = q)
    | none => false
  .for? (b.dir.find? fun e => match e.2.txn with
    | some t => decide (t.kind = .entry) && !recalled t.req && decide (b.dirSetOf e.1 = b.dirSetOf key)
    | none => false) fun e => .for? e.2.txn fun t => .all [closeTxn e.1, startReq t.req e.1, runLine e.1]

/-- A transaction has ended: its line goes on, and a line that waits for an entry may. -/
def afterTxn (key : Nat) : Prog := .all [runLine key, retrySet key]

/-! ### The answers to snoops (R283–R289) -/

/-- The owner answered without the line it must have (R289). -/
def lostLine (p : Pkt) (key owner : Nat) : Prog := .read fun b => .all [
  partitionDown (b.linePart key) { cause := 8, site := owner, well := keyWell key },
  refuseReq p St.poisoned]

/-- All answers are in: the requester is served (R285, R287). -/
def serveTxn (key : Nat) (d : DirEnt) (t : Txn) : Prog :=
  let p := t.req
  let g := p.site.getD 0
  let pa := p.addr / 128 * 128
  let silent := d.ds = .em ∧ d.grantM = false
  let back := .for? t.data (writeBack key)
  if p.cmd = 0x20 then
    match t.data with
    | some l => .all [back, setDir key fun d => { d with ds := .s, grantM := false, sharers := setBit d.sharers g },
        sendPkt (p.reply 0x28 p.addr false l)]
    | none =>
      if t.fwd then
        (if t.prior = 3 ∨ t.prior = 4 then setDir key fun d => { d with ds := .o, sharers := setBit d.sharers g }
        else setDir key fun d => { d with ds := .s, grantM := false, sharers := setBit (setBit d.sharers d.owner) g })
      else if silent then withLine key fun l => .all [
        setDir key fun d => { d with ds := .s, grantM := false, sharers := setBit 0 g }, sendPkt (p.reply 0x28 p.addr false l)]
      else lostLine p key d.owner
  else if p.cmd = 0x23 then .all [back, ownDir key g true pa, sendPkt (p.reply 0x2B p.addr false [])]
  else if p.cmd = 0x22 ∧ (d.ds = .s ∧ d.sharers.testBit g ∨ d.ds = .o ∧ (d.sharers.testBit g ∨ d.owner = g)) then
    .all [back, ownDir key g true pa, sendPkt (p.reply 0x2B p.addr false [])]
  else if isCoh p then
    match t.data with
    | some l => .all [back, ownDir key g true pa, sendPkt (p.reply 0x2A p.addr false l)]
    | none =>
      if t.fwd then ownDir key g true pa
      else if d.ds = .s ∨ silent then withLine key fun l => .all [ownDir key g true pa, sendPkt (p.reply 0x2A p.addr false l)]
      else lostLine p key d.owner
  else if isRead p then
    match t.data with
    | some l => .all [.when t.wbk (.all [back, setDir key DirEnt.disown]), ownerRead p l]
    | none => if silent then homeRead p key true else lostLine p key d.owner
  else .all [
    back,
    setDir key fun d => { d with ds := .i, sharers := 0, grantM := false },
    let owned := decide (d.ds = .em ∨ d.ds = .o)
    if isWrite p then homeWrite p key owned else homeAtomic p key owned]

/-- The last answer of a transaction is in. -/
def finishTxn (key : Nat) : Prog := .read fun b =>
  let d := b.dirEnt key
  .for? d.txn fun t => .when (t.await.isEmpty && decide (t.kind ≠ .entry)) (
    match t.kind with
    | .recall => .all [
        .for? t.data (writeBack key),
        closeTxn key,
        setDir key fun d => { d with ds := .i, sharers := 0, grantM := false },
        incSat (Reg.WEL_DIR (keyWell key)) Fl.WEL_DIR_RECALLS,
        afterTxn key]
    | .snpo =>
      if t.data.isSome then .all [closeTxn key, serveTxn key { d with sharers := 0 } t, afterTxn key]
      else .all [modDir key fun d => { d with sharers := 0 }, openTxn key t.req .serve [(d.owner, 0x31)]]
    | _ => .all [closeTxn key, serveTxn key d t, afterTxn key])

/-- A site's answer is in. -/
def answerTxn (key g : Nat) (t : Txn) : Prog := .all [
  modDir key fun d => { d with txn := some { t with await := t.await.erase g } },
  finishTxn key,
  kickSnoops t.req.dst g]

/-- The line key of an address at a bank. -/
def Block.bankKey (b : Block) (dst : Ep) (a : Nat) : Option (Nat × Nat) :=
  match dst, b.place a with
  | .bank w _, .mem part w' wl => if w = w' then some (part, lineKey w wl) else none
  | _, _ => none

/-- SACK or SDAT at the home. -/
def homeSnoopRsp (p : Pkt) : Prog := .read fun b => .all [
  takePkt p,
  .for? (b.bankKey p.dst p.addr) fun pk =>
    let key := pk.2
    let d := b.dirEnt key
    .for? p.site fun g => .for? d.txn fun t => .when (t.await.contains g && !(t.unsent.any fun u => decide (u.1 = g))) (
      let prior := bits p.addr 4 3
      let owner := decide ((d.ds = .em ∨ d.ds = .o) ∧ d.owner = g)
      if !owner then answerTxn key g t
      else if t.data.isSome then answerTxn key g { t with prior := 5, wbk := true }
      else if prior = 5 then modDir key fun d => { d with txn := some { t with wbk := true } }
      else answerTxn key g { t with
        prior := prior, fwd := p.addr.testBit 3, data := if p.units.isEmpty then none else some p.units })]

/-- A write-back that meets a transaction on its line: the owner's is the data its snoop asks for (R289). -/
def wbkMeets (p : Pkt) (key g : Nat) (d : DirEnt) (t : Txn) : Prog := .all [
  sendPkt (p.reply 0x2C p.addr false []),
  .when (decide ((d.ds = .em ∨ d.ds = .o) ∧ d.owner = g ∧ t.kind ≠ .entry)) (
    let t' := { t with data := some p.units, prior := 5, wbk := true }
    if t.wbk && t.await.contains g then answerTxn key g t'
    else .all [modDir key fun d => { d with txn := some t' }, finishTxn key])]

/-- What an access costs the energy model: the bank's access, and a burst for each of its sectors that the home cache does not
hold (R463). -/
def countAccess (p : Pkt) (key : Nat) : Prog := .read fun b => .all [
  activity p.hat Act.homeBank 1,
  activity p.hat Act.stack ((if p.units.length = 2 ∨ p.cmd % 8 = 1 ∨ isCoh p then [0, 1] else [addrSector p.addr]).filter fun s =>
    !(b.hcLine key).valid.testBit s).length]

/-- A request reaches its home bank (R262, R263, R285). -/
def homeArrive (p : Pkt) : Prog := .read fun b =>
  match b.bankKey p.dst p.addr with
  | none => .all [takePkt p, refuseReq p St.addrUnmapped]
  | some (part, key) => .when (!b.entryHeld p part false) (.all [takePkt p, countAccess p key,
    let d := b.dirEnt key
    let bad := b.badReq p part
    if b.shut p part then refuseReq p St.poisoned
    else if bad ≠ 0 then refuseReq p bad
    else match d.txn with
      | some t => if p.cmd = 0x24 then .for? p.site fun g => wbkMeets p key g d t
          else modDir key fun d => { d with queue := d.queue ++ [p] }
      | none => if d.queue = [] then startReq p key else .all [modDir key fun d => { d with queue := d.queue ++ [p] }, runLine key]])

/-! ### Errors and timeouts -/

/-- What the check words and tags of a home of partition `part` show on an access to a line (R271): errors in data stand where the
data does, in the cache or beneath it. -/
def homeErrorAt (part key : Nat) (err : HomeErr) : Prog := .read fun b =>
  let w := keyWell key
  match err with
  | .clean => .skip
  | .corrected way => .when (way.isSome == decide ((b.hcLine key).valid ≠ 0)) (corrected key way)
  | .uncorr half source =>
    .when (decide (source = 1) == (b.hcLine key).valid.testBit (half % 4 / 2) &&
      (decide (source < 2) || (decide (source = 4) && (b.wcOf w).any fun e => decide (e.key = key)))) (uncorrectable key (half % 4) source)
  | .tagCorr => incSat (Reg.WEL_ERR w) Fl.WEL_ERR_TAG_CORR
  | .tagUncorr => .all [errAddr key 2, partitionDown part { cause := 5, well := w }]

/-- What a request finds at its home. -/
def homeError (p : Pkt) (err : HomeErr) : Prog := .read fun b => .for? (b.bankKey p.dst p.addr) fun pk => homeErrorAt pk.1 pk.2 err

/-- A snoop is not answered in time: the holder's partition goes down (R288, R291). -/
def snoopTimeout (g line : Nat) : Prog := .read fun b =>
  .for? (b.dir.find? fun e => decide (e.2.pa = line / 128 * 128) && (match e.2.txn with
    | some t => t.await.contains g && !(t.unsent.any fun u => decide (u.1 = g))
    | none => false)) fun e =>
      partitionDown (b.linePart e.1) { cause := 4, site := g, well := keyWell e.1 }

def execSnoopTimeout (g : Fin 16) (line : Nat) (s : State) : Host.Outcome State Fault Refusal := s.run (snoopTimeout g line)

/-- Step 4 of R292: owned lines are poisoned, every entry is I, transactions are closed and what waits completes poisoned. -/
def partClearDone (p : Nat) : Prog := .read fun b =>
  let mine := b.dir.filter fun e => decide (b.wellPart (keyWell e.1) = some p)
  .when (b.partDown p) (.all [
    poisonOwned p fun _ => true,
    .each mine fun e => .all [
      .for? e.2.txn fun t => .when (decide (t.kind ≠ .recall)) (refuseReq t.req St.poisoned),
      .each e.2.queue fun q => refuseReq q St.poisoned],
    .edit (.dirKeep fun k => decide (b.wellPart (keyWell k) ≠ some p)),
    .each (List.range 12) showDir])

def execPartitionDownClearDone (p : Fin 16) (s : State) : Host.Outcome State Fault Refusal := s.run (partClearDone p)

end Sys2Proof.Machine
end

