-- ==== Sys2Proof/Machine/Timing.lean ====
section
/-! DEFINITION. Slack monitors, pacing, recalibration windows and idle calibration (R41–R53): the commands of
spec/02_clockless_timing.md. -/

namespace Sys2Proof.Machine

/-- The load guard band in force and RISE_MAX (R44, R47). -/
def Block.guard (b : Block) : Nat := b.f Reg.MON_TMG_CTL Fl.MON_TMG_CTL_GUARD
def Block.riseMax (b : Block) : Nat := b.f Reg.MON_TMG_CTL Fl.MON_TMG_CTL_RISE_MAX

/-- A region is in use: a fabric region always is (R42). -/
def Block.regionOn (b : Block) (r : Nat) : Bool := decide (12 ≤ r) || b.wellOn r

/-- Raise the delay code by one step (R46 step 1).  A region that a new ceiling lifts from its ceiling is below it again. -/
def raiseCode (r : Nat) : Prog := .read fun b => .all [
  setF (Reg.MON_TMG_REGION r) Fl.MON_TMG_REGION_CODE (b.regionCode r + 1),
  .when (decide (b.regionState r = 2)) (setF (Reg.MON_TMG_REGION r) Fl.MON_TMG_REGION_STATE 1),
  incSat (Reg.MON_TMG_REGION r) Fl.MON_TMG_REGION_RAISES,
  modRegion r fun s => { s with lastRaise := some b.now },
  logEv St.ok r]

/-- Pace the intakes and bucket credits of every partition that uses the region (R46 step 4, R49); the trip that begins it does not
count in its first interval. -/
def paceRegion (r : Nat) : Prog := .read fun b => .all [
  setF (Reg.MON_TMG_REGION r) Fl.MON_TMG_REGION_STATE 3,
  setF (Reg.MON_TMG_REGION r) Fl.MON_TMG_REGION_MARGIN 1,
  logEv St.timingMargin r,
  .when (decide ((b.region r).pace = 0)) (modRegion r fun s => { s with pace := 1, quiet := 0, tripped := false }),
  .each (List.range 16) refreshThrottle]

/-- Step 3 of R46 may raise the voltage of a region's domain (R274, R450, R460). -/
def Block.mayRaise (b : Block) (r : Nat) : Bool :=
  let d := regionDom r
  b.capAllows d && decide (b.domOp d < b.f (Reg.PWR_DOM_CTL d) Fl.PWR_DOM_CTL_HIGHEST) &&
    !(decide (r < 12) && b.on (Reg.WEL_STATUS r) Fl.WEL_STATUS_HEAT)

/-- A raise happened in the last 100 ns. -/
def Block.inHoldoff (b : Block) (r : Nat) : Bool :=
  match (b.region r).lastRaise with
  | some t => decide (b.now < t + 100)
  | none => false

/-- A slack monitor trips (R46).  DESIGN CHOICE: STATE 0b010 stands until pacing, a raise or a window, also once the voltage step has
come, and a trip in a window is neither counted nor acted on (notes/assumptions/59.md). -/
def monitorTrip (r : Nat) : Prog := .read fun b =>
  let st := b.regionState r
  .when (b.regionOn r && decide (1 ≤ st ∧ st ≤ 3)) (.all [
    incSat (Reg.MON_TMG_REGION r) Fl.MON_TMG_REGION_TRIPS,
    modRegion r fun s => { s with tripped := true },
    if b.inHoldoff r then .skip
    else if b.regionCode r < b.f (Reg.MON_TMG_REGION r) Fl.MON_TMG_REGION_CEILING then raiseCode r
    else if b.mayRaise r then .all [
      setF (Reg.MON_TMG_REGION r) Fl.MON_TMG_REGION_STATE 2,
      setF (Reg.PWR_DOM_STATUS (regionDom r)) Fl.PWR_DOM_STATUS_TIMING_OP (b.domOp (regionDom r) + 1),
      kickDomain (regionDom r)]
    else paceRegion r])

def execMonitorTrip (r : Fin 16) (s : State) : Host.Outcome State Fault Refusal := s.run (monitorTrip r)

/-- A 100 µs pacing interval of a paced region (R49): halved again while trips go on, down to one sixteenth; after 1 ms
without a trip, ten intervals, doubled at each until it is restored. -/
def pacingInterval (r : Nat) : Prog := .read fun b =>
  let s := b.region r
  .when (decide (s.pace ≠ 0)) (
    if s.tripped then modRegion r fun s => { s with pace := min 4 (s.pace + 1), tripped := false, quiet := 0 }
    else if s.quiet + 1 < 10 then modRegion r fun s => { s with quiet := s.quiet + 1 }
    else .all [
      modRegion r fun s => { s with pace := s.pace - 1, quiet := 10 },
      .when (decide (s.pace = 1)) (.all [
        .when (decide (b.regionState r = 3)) (setF (Reg.MON_TMG_REGION r) Fl.MON_TMG_REGION_STATE 1),
        modRegion r fun s => { s with quiet := 0 },
        .each (List.range 16) refreshThrottle])])

def execPacingInterval (r : Fin 16) (s : State) : Host.Outcome State Fault Refusal := s.run (pacingInterval r)

/-- Open a window on a region (R51, R53). -/
def openWindow (r : Nat) : Prog := .read fun b =>
  let st := b.regionState r
  if !b.regionOn r || decide (st = 0) then .skip
  else if decide (st = 4) || decide ((b.region r).phase ≠ .closed) then .skip
  else if st = 5 then setF (Reg.MON_TMG_REGION r) Fl.MON_TMG_REGION_RECAL_SKIPPED 1
  else if b.regionQuiescing r then modRegion r fun s => { s with waiting := true }
  else .all [
    setF (Reg.MON_TMG_REGION r) Fl.MON_TMG_REGION_STATE 4,
    modRegion r fun s => { s with
      phase := .draining, inside := b.noc.net.filter fun p => (b.pathRegions p).contains r }]

/-- A write of MON_RECAL (R51; R379: POWER). -/
def monRecal (hat mask : Nat) : Prog := underHat hat (.read fun b =>
  .when (b.holds hat Right.power) (.each (setBits mask 16) openWindow))

def execMonRecal (hat mask : Nat) (s : State) : Host.Outcome State Fault Refusal := s.run (monRecal hat mask)

/-- The windows that waited for a commit open when it has completed (R53). -/
def openWaiting : Prog := .read fun b => .each ((List.range 16).filter fun r => (b.region r).waiting) fun r => .all [
  modRegion r fun s => { s with waiting := false }, openWindow r]

/-- No packet that was inside a region when its window opened is still under way, none in a router of its quadrant (R51). -/
def Block.regionDrained (b : Block) (r : Nat) : Bool :=
  ((b.region r).inside.all fun p => !b.noc.net.contains p) && b.noc.flights.all fun f => decide (12 + quadAt f.x f.y ≠ r)

/-- The packets inside the region have drained (R51 step 2). -/
def execRecalDrainDone (r : Fin 16) (s : State) : Host.Outcome State Fault Refusal :=
  s.run (.read fun b => .when (decide ((b.region r).phase = .draining) && b.regionDrained r) (modRegion r fun s => { s with phase := .searching }))

/-- Put a region on a new idle baseline: operating code, ceiling, counts since the last window (R44, R47).  DESIGN CHOICE: an
operating code that the guard band would take above 31 is 31 (notes/assumptions/59.md). -/
def setBaseline (r baseline : Nat) : Prog := .read fun b =>
  let code := min 31 (baseline + b.guard)
  let a := Reg.MON_TMG_REGION r
  .all [
    setF a Fl.MON_TMG_REGION_BASELINE baseline,
    setF a Fl.MON_TMG_REGION_CODE code,
    setF a Fl.MON_TMG_REGION_CEILING (min 31 (code + b.riseMax)),
    setF a Fl.MON_TMG_REGION_TRIPS 0,
    setF a Fl.MON_TMG_REGION_RAISES 0,
    modRegion r fun s => { s with opCode := code, lastRaise := none, tripped := false },
    .when (!(b.region r).firstKnown && decide (b.domOp (regionDom r) = 7)) (.all [
      modRegion r fun s => { s with firstKnown := true },
      setF (Reg.MON_WEAR_REGION r) Fl.MON_WEAR_REGION_FIRST baseline])]

/-- A commit has changed the guard band or RISE_MAX (R44, R47, R48): each calibrated region's operating code and ceiling move with
them; its code follows upward, and never falls. -/
def regionPolicy (guard : Nat) : Prog := .read fun b =>
  .each ((List.range 16).filter fun r => decide (b.regionState r ≠ 0)) fun r =>
    let code := min 31 ((b.region r).opCode + b.guard - guard)
    let a := Reg.MON_TMG_REGION r
    .all [
      modRegion r fun s => { s with opCode := code },
      setF a Fl.MON_TMG_REGION_CEILING (min 31 (code + b.riseMax)),
      .when (decide (b.regionCode r < code)) (setF a Fl.MON_TMG_REGION_CODE code)]

/-- Packets held at a region's boundary go on, in arrival order (R51 step 4, R52). -/
def releaseRegion (r : Nat) : Prog := modNoc fun n => { n with
  flights := Tbl.get (dflt []) r n.held ++ n.flights, held := Tbl.set (dflt []) r [] n.held }

/-- The PHY or the transport engines have relocked, and the held traffic goes on (R452). -/
def execBandHoldDone (d : Fin 20) (s : State) : Host.Outcome State Fault Refusal :=
  s.run (.read fun b => .when (decide (b.domState d = 4)) (.all [
    setF (Reg.PWR_DOM_STATUS d) Fl.PWR_DOM_STATUS_STATE 0, kickDomain d, releaseRegion (if d < 12 then d else 16 + d)]))

/-- The idle search of a window has ended: the window closes (R51 step 4, R451), and what waited for it goes on (R53, R468). -/
def recalSearchDone (r baseline : Nat) : Prog := .read fun b =>
  .when (decide ((b.region r).phase = .searching)) (.all [
    setBaseline r baseline,
    setF (Reg.MON_TMG_REGION r) Fl.MON_TMG_REGION_STATE 1,
    setF (Reg.MON_TMG_REGION r) Fl.MON_TMG_REGION_RECAL_DONE 1,
    modRegion r fun s => { s with phase := .closed, inside := [] },
    modDom (regionDom r) fun s => { s with codeFloor := none },
    refreshFloor (regionDom r),
    releaseRegion r,
    kickDomain (regionDom r),
    unblockCommit])

def execRecalSearchDone (r : Fin 16) (baseline : Fin 32) (s : State) : Host.Outcome State Fault Refusal :=
  s.run (recalSearchDone r baseline)

/-- A region's domain is off and wakes, and its idle calibration has not ended (R45). -/
def Block.calibrates (b : Block) (r : Nat) : Bool :=
  decide (b.regionState r = 5) && decide (b.domState (regionDom r) = 2) && (b.domSt (regionDom r)).waking && !(b.region r).calibrated

/-- Idle calibration has ended, at bring-up (R43) or in a wake from off (R45): with a baseline, or failed at code 31, which
SELF_TEST_DONE then treats as R471 says; a wake in which it fails does not end (notes/assumptions/59.md). -/
def idleCalibrationDone (r : Nat) (baseline : Option (Fin 32)) : Prog := .read fun b =>
  let st := b.regionState r
  .when (b.regionOn r && (decide (st = 0) || b.calibrates r)) (
    match baseline with
    | some n => .all [
        setBaseline r n,
        if st = 0 then setF (Reg.MON_TMG_REGION r) Fl.MON_TMG_REGION_STATE 1
        else modRegion r fun s => { s with calibrated := true }]
    | none => modSys fun s => { s with calFail := insertNat r s.calFail })

def execIdleCalibrationDone (r : Fin 16) (baseline : Option (Fin 32)) (s : State) : Host.Outcome State Fault Refusal :=
  s.run (idleCalibrationDone r baseline)

end Sys2Proof.Machine
end

