-- ==== Sys2Proof/Machine/Noc.lean ====
section
/-! DEFINITION. The mesh (R83–R104): a packet's hop from router to router, packets held for a wake or at a region in a window,
headers that fail their check, the link pattern test. -/

namespace Sys2Proof.Machine

/-! ### Waking a domain (R99) -/

/-- A packet for an endpoint that sleeps, or is entering sleep (R101), is held with WAKE set: in the port's wake buffer of four
packets per plane, or behind it in its router input. -/
def holdForWake (d : Nat) (f : Flight) : Prog := .read fun b =>
  let buf := Tbl.get (dflt []) d b.noc.wakeBuf
  let mine := buf.filter fun x => decide (x.dst = f.dst ∧ x.dport = f.dport ∧ x.plane = f.plane)
  if mine.length < 4 then .all [
    modNoc fun n => { n with wakeBuf := Tbl.upd [] d (fun l => l ++ [f.withWake]) n.wakeBuf },
    packetWake d]
  else .all [incSat Reg.NOC_WAKE_STAT Fl.NOC_WAKE_STAT_FULL_STALLS,
    modNoc fun n => { n with stalled := Tbl.upd [] d (fun l => l ++ [f.withWake]) n.stalled }]

/-- A packet leaves the mesh at its endpoint: its receiver may take it from now on. -/
def deliver (e : Ep) (f : Flight) : Prog := .read fun b => .all [
  modNoc fun n => { n with arrived := n.arrived ++ [(e, f)] },
  .when (!b.noc.net.any (b.carries f)) (.for? (b.flightPkt f) sendPkt)]

/-- The held packets of a domain that has woken are delivered in arrival order, and those behind them go on. -/
def deliverHeld (d : Nat) : Prog := .read fun b => .all [
  modNoc fun n => { n with
    flights := Tbl.get (dflt []) d n.stalled ++ n.flights,
    wakeBuf := Tbl.set (dflt []) d [] n.wakeBuf, stalled := Tbl.set (dflt []) d [] n.stalled },
  .each (Tbl.get (dflt []) d b.noc.wakeBuf) fun f => .for? (b.flightEp f) fun e => deliver e f]

/-! ### A hop (R86, R94) -/

/-- The next router on the way, row first (R86). -/
def nextRouter (x y : Nat) (dst : Nat × Nat) : Nat × Nat :=
  if x < dst.1 then (x + 1, y) else if dst.1 < x then (x - 1, y)
  else if y < dst.2 then (x, y + 1) else (x, y - 1)

/-- The output a packet takes at its router: to the neighbour in direction 0 to 3, to an endpoint port 4 to 7. -/
def Flight.output (f : Flight) : Nat :=
  if f.dst = (f.x, f.y) then 4 + f.dport % 4
  else if f.x < f.dst.1 then 1 else if f.dst.1 < f.x then 3 else if f.y < f.dst.2 then 2 else 0

/-- The arbiter a packet meets: router, output, plane. -/
def Flight.outKey (f : Flight) : Nat := ((f.x * 12 + f.y) * 8 + f.output) * 6 + f.plane

/-- An error enters the log of a host function (R408, R410): its bit in the uncorrectable error status register, and the advisory
non-fatal bit of the correctable one, here 32 + 13, where it is advisory.  The bits are those of PCIe's AER (PRESUMED,
notes/assumptions/68.md). -/
def aerLog (q fn err : Nat) : Prog := modPort q fun s => { s with
  fn := Tbl.upd {} fn (fun x => { x with aer := (if err = 12 ∨ err = 15 then insertNat 45 else id) (insertNat err x.aer) }) s.fn }

/-- A header that cannot be trusted: the packet is discarded and logged, and every enabled partition whose rectangle holds the
router goes down. -/
def badHeader (f : Flight) : Prog := .read fun b => .all [
  setF Reg.NOC_HDR_ERR Fl.NOC_HDR_ERR_UNCORR 1,
  setF Reg.NOC_HDR_ERR Fl.NOC_HDR_ERR_PLANE f.plane,
  setF Reg.NOC_HDR_ERR Fl.NOC_HDR_ERR_X f.x,
  setF Reg.NOC_HDR_ERR Fl.NOC_HDR_ERR_Y f.y,
  setR (Reg.NOC_HDR_RAW 0) (BitVec.ofNat 64 (f.n 0 64)),
  setR (Reg.NOC_HDR_RAW 1) (BitVec.ofNat 64 (f.n 64 64)),
  .each (List.range 4) fun q => .when ((List.range 8).any fun k => decide (b.portEp f.x f.y k = some (.host q))) (aerLog q 0 22),
  .each ((partitionsOf b.recs).map Prod.fst) fun p =>
    .when (b.inRectangle p f.x f.y) (partitionDown p { cause := 6, x := f.x, y := f.y })]

/-- A packet at the router where its destination lies does not leave it yet: the endpoint's region is in a window — a well's at
either step, a fabric's, whose router holds the packet, once it has drained (R51, R52) — or its domain crosses a band (R452). -/
def Block.endHolds (b : Block) (e : Ep) : Bool :=
  (match b.epRegion e with
    | some r => b.windowAt r && !(decide (12 ≤ r) && decide ((b.region r).phase = .draining))
    | none => false) ||
  (match b.epDom e with
    | some d => decide (b.domState d = 4)
    | none => false)

/-- The key under which a packet held at a boundary waits: its endpoint's region, or 16 and up for a domain without one. -/
def Block.heldKey (b : Block) (e : Ep) : Nat :=
  match b.epRegion e with
  | some r => r
  | none => 16 + (b.epDom e).getD 0

/-- A packet accepted by the router at which its destination lies. -/
def eject (f : Flight) : Prog := .read fun b =>
  .for? (b.flightEp f) fun e =>
    match (b.epDom e).filter fun d => b.domAsleep d || ((b.domSt d).goingOff && !(decide (f.cmd = 0x38 ∨ f.cmd = 0x39 ∨ f.cmd = 0x24 ∨ f.cmd = 0x25))) with
    | some d => holdForWake d f
    | none =>
      if b.endHolds e then modNoc fun n => { n with held := Tbl.upd [] (b.heldKey e) (fun l => l ++ [f]) n.held }
      else deliver e f

/-- A packet goes on to the next router: at the edge of a fabric region in a window it waits there. -/
def forward (f : Flight) : Prog := .read fun b =>
  let (x, y) := nextRouter f.x f.y f.dst
  let r := 12 + quadAt x y
  let g : Flight := { f with x := x, y := y }
  if quadAt x y ≠ quadAt f.x f.y ∧ b.windowAt r then modNoc fun n => { n with held := Tbl.upd [] r (fun l => l ++ [g]) n.held }
  else modNoc fun n => { n with flights := n.flights ++ [g] }

/-! ### Buffers and arbitration (R55, R87, R88, R102) -/

namespace Block

/-- The input a packet came in by at its router: from the neighbour in direction 0 to 3, from an endpoint port 4 to 7; a rehomed
endpoint shares the port of the neighbour's own (R103), and a pass-through has one buffer for all (R102). -/
def inputOf (b : Block) (f : Flight) : Nat :=
  if b.bypassed f.x f.y then 0
  else if f.src = (f.x, f.y) then 4 + f.sport % 4
  else if f.src.2 < f.y then 0 else if f.y < f.src.2 then 2
  else if f.src.1 < f.x then 3 else 1

/-- Packets in router input buffers: on their way, held at a region's boundary, or waiting behind a full wake buffer. -/
def buffered (b : Block) : List Flight :=
  (b.noc.held.flatMap Prod.snd) ++ ((b.noc.stalled.flatMap Prod.snd).filter fun g => decide (g.dst = (g.x, g.y))) ++ b.noc.flights

/-- Two packets that share a buffer: one router input, one plane, one class. -/
def sameBuffer (b : Block) (f g : Flight) : Bool :=
  decide (g.x = f.x ∧ g.y = f.y ∧ g.plane = f.plane ∧ g.cls = f.cls ∧ b.inputOf g = b.inputOf f)

/-- A packet with none ahead of it in its buffer: nothing is reordered within a buffer (R87, R96). -/
def atHead (b : Block) (f : Flight) : Bool :=
  match b.buffered.find? (b.sameBuffer f) with
  | some g => decide (g = f)
  | none => true

/-- The next buffer can hold the whole packet: four header units, and on a DAT plane four data units (R87); at its last router
there is none. -/
def hasRoom (b : Block) (f : Flight) : Bool :=
  let nx := nextRouter f.x f.y f.dst
  let g : Flight := { f with x := nx.1, y := nx.2 }
  let l := b.buffered.filter (b.sameBuffer g)
  decide (f.dst = (f.x, f.y)) || (decide (l.length < 4) && (decide (f.plane < 2) || decide ((l.map Flight.count).sum + f.count ≤ 4)))

/-- In the upper group of service labels (NOC_CTL LABEL_HI). -/
def labelUpper (b : Block) (f : Flight) : Bool := bit (b.f Reg.NOC_CTL Fl.NOC_CTL_LABEL_HI) (f.n 46 3)

/-- The packets that compete with this one for its output: heads of their buffers at its router, on its plane, that can advance. -/
def rivals (b : Block) (f : Flight) : List Flight :=
  (if b.noc.flights.contains f then b.noc.flights else b.noc.flights ++ [f]).filter fun g =>
    decide (g.x = f.x ∧ g.y = f.y ∧ g.plane = f.plane ∧ g.output = f.output) && b.atHead g && b.hasRoom g

def arbOf (b : Block) (f : Flight) : Arb := Tbl.get (dflt {}) f.outKey b.noc.arb

/-- The rivals of a packet in its class and group. -/
def groupRivals (b : Block) (f : Flight) : List Flight :=
  (b.rivals f).filter fun g => g.isResp == f.isResp && (b.labelUpper g == b.labelUpper f)

def arbGroup (b : Block) (f : Flight) : Nat := 2 * f.isResp.toNat + (b.labelUpper f).toNat

/-- How far an input is behind the one next in turn (R55). -/
def turn (b : Block) (f g : Flight) : Nat := (b.inputOf g + 7 - Tbl.get (dflt 0) (b.arbGroup f) (b.arbOf f).last) % 8

/-- The arbiter grants this packet its output: responses before requests unless eight in a row have passed a waiting one, within
the class the upper group before the lower in the same way, within the group round robin. -/
def granted (b : Block) (f : Flight) : Bool :=
  let l := b.rivals f
  let a := b.arbOf f
  let otherClass := l.any fun g => g.isResp != f.isResp
  let otherGroup := l.any fun g => g.isResp == f.isResp && b.labelUpper g != b.labelUpper f
  let full := decide (8 ≤ Tbl.get (dflt 0) f.isResp.toNat a.upper)
  l.contains f &&
  (!otherClass || (f.isResp != decide (8 ≤ a.resp))) &&
  (!otherGroup || (b.labelUpper f != full)) &&
  (b.groupRivals f).all fun g => decide (b.turn f f ≤ b.turn f g)

/-- A packet whose destination is waking: its source holds it (R99).  DESIGN CHOICE: so does every source of a packet for any
endpoint of the domain, whatever started the wake (notes/assumptions/57.md). -/
def bindsWaking (b : Block) (f : Flight) : Option Nat :=
  ((b.flightEp f).bind b.epDom).filter fun d => (b.domSt d).waking

/-- A packet a source may put on the mesh: at its own router, from a port that an endpoint of its own holds, on its plane, for an
endpoint that is there, while no window is open where it enters (R51, R52, R95, R98, R102). -/
def mayInject (b : Block) (f : Flight) : Bool :=
  decide (f.src = (f.x, f.y)) && f.placed && ((b.flightEp f).any b.epThere) &&
    !b.windowAt (12 + quadAt f.x f.y) &&
    (match b.portEp f.src.1 f.src.2 f.sport with
      | some e => b.epThere e && !(match b.epRegion e with
        | some r => b.windowAt r
        | none => false)
      | none => false)

/-- The head of a buffer at this router and plane that a header received damaged was: with the same data units, the header itself if
it is there, else the first (notes/assumptions/57.md). -/
def struck (b : Block) (f : Flight) : Option Flight :=
  let l := b.buffered.filter fun g => decide (g.x = f.x ∧ g.y = f.y ∧ g.plane = f.plane ∧ g.units = f.units) && b.atHead g
  if l.contains f then some f else l.head?

end Block

/-- The packet leaves its buffer. -/
def leaveBuffer (f : Flight) : Prog := modNoc fun n => { n with flights := n.flights.erase f }

/-- A packet is lost: it leaves the buffer it stands in, and reaches no receiver (R94). -/
def losePacket (f : Flight) : Prog := .read fun b =>
  let drop := fun t : Tbl (List Flight) => t.foldl (fun t e => Tbl.set (dflt []) e.1 (e.2.erase f) t) t
  modNoc fun n => { n with
    flights := n.flights.erase f, held := drop n.held, stalled := drop n.stalled, net := n.net.eraseP (b.carries f) }

/-- The arbiter notes a grant. -/
def noteGrant (f : Flight) : Prog := .read fun b =>
  let l := b.rivals f
  let a := b.arbOf f
  let c := f.isResp.toNat
  let reqWaits := l.any fun g => !g.isResp
  let lowWaits := l.any fun g => g.isResp == f.isResp && !b.labelUpper g
  modNoc fun n => { n with arb := Tbl.set (dflt {}) f.outKey {
    resp := if f.isResp && reqWaits then a.resp + 1 else 0,
    upper := Tbl.set (dflt 0) c (if b.labelUpper f && lowWaits then Tbl.get (dflt 0) c a.upper + 1 else 0) a.upper,
    last := Tbl.set (dflt 0) (b.arbGroup f) (b.inputOf f) a.last } n.arb }

/-- A router accepts a header: from a buffer of its own, or from the source at its port.  Routers of a region whose window searches
stand still (R51). -/
def packetHop (f : Flight) (ecc : Ecc) : Prog := .read fun b =>
  let inject := !b.noc.flights.contains f
  if ecc = .bad ∨ f.malformed then .all [losePacket ((b.struck f).getD f), badHeader f]
  else .when (b.atHead f && decide ((b.region (12 + quadAt f.x f.y)).phase ≠ .searching)) (
    .when (!inject || b.mayInject f) (
      match (if inject then b.bindsWaking f else none) with
      | some d => modNoc fun n => { n with stalled := Tbl.upd [] d (fun l => l ++ [f]) n.stalled }
      | none => .when (b.granted f) (.all [noteGrant f, leaveBuffer f,
          .when (decide (ecc = .corrected)) (incSat Reg.NOC_HDR_ERR Fl.NOC_HDR_ERR_CORRECTED),
          if f.dst = (f.x, f.y) then eject f else .all [activity f.hat Act.meshHop f.units.length, forward f]])))

def execPacketHop (x : Fin 16) (y : Fin 12) (plane : Fin 6) (hdr : BitVec 128) (units : List DUnit) (ecc : Ecc) (s : State) :
    Host.Outcome State Fault Refusal :=
  s.run (packetHop ⟨x, y, plane, hdr, units⟩ ecc)

/-! ### Link pattern test (R104) -/

/-- A write of NOC_LTEST_CTL with GO (R379: TEST).  DESIGN CHOICE: GO while a test runs is ignored, without REFUSED, and PLANE 6 or 7,
which are reserved, is refused (notes/assumptions/58.md). -/
def nocLtestGo (hat : Nat) (val : W64) : Prog := underHat hat (.read fun b =>
  let a := Reg.NOC_LTEST_CTL
  let f := getFld val
  let len := f Fl.NOC_LTEST_CTL_LEN
  let refused := decide (partitionsOf b.recs ≠ []) || decide (40 < len ∧ len ≠ 63) ||
    decide (4 < f Fl.NOC_LTEST_CTL_PATTERN) || decide (5 < f Fl.NOC_LTEST_CTL_PLANE) || decide (11 < f Fl.NOC_LTEST_CTL_Y) ||
    (neighbour (f Fl.NOC_LTEST_CTL_X) (f Fl.NOC_LTEST_CTL_Y) (f Fl.NOC_LTEST_CTL_DIR)).isNone
  .when (b.holds hat Right.test) (.all [
    .each [Fl.NOC_LTEST_CTL_LEN, Fl.NOC_LTEST_CTL_PATTERN, Fl.NOC_LTEST_CTL_PLANE, Fl.NOC_LTEST_CTL_DIR, Fl.NOC_LTEST_CTL_X,
      Fl.NOC_LTEST_CTL_Y] fun x => setF a x (f x),
    .when (!b.noc.ltest.running) (
      if refused then setF a Fl.NOC_LTEST_CTL_REFUSED 1
      else .all [
        setR Reg.NOC_LTEST_STAT 0,
        setF a Fl.NOC_LTEST_CTL_BUSY 1,
        modNoc fun n => { n with ltest := ⟨true, decide (len = 63)⟩ }])]))

def execNocLtestGo (hat : Nat) (val : W64) (s : State) : Host.Outcome State Fault Refusal := s.run (nocLtestGo hat val)

/-- The test has ended, with what its checker counted. -/
def nocLtestOff (errBits errWords : Nat) : Prog := .all [
  addSat Reg.NOC_LTEST_STAT Fl.NOC_LTEST_STAT_ERR_BITS errBits,
  addSat Reg.NOC_LTEST_STAT Fl.NOC_LTEST_STAT_ERR_WORDS errWords,
  setF Reg.NOC_LTEST_CTL Fl.NOC_LTEST_CTL_BUSY 0, modNoc fun n => { n with ltest := {} }]

/-- STOP ends a running test. -/
def nocLtestStop (hat errBits errWords : Nat) : Prog := underHat hat (.read fun b =>
  .when (b.holds hat Right.test && b.noc.ltest.running) (nocLtestOff errBits errWords))

def execNocLtestStop (hat : Nat) (errBits errWords : Nat) (s : State) : Host.Outcome State Fault Refusal :=
  s.run (nocLtestStop hat errBits errWords)

/-- A test reaches its length; one that runs until STOP does not end so. -/
def nocLtestEnd (errBits errWords : Nat) : Prog := .read fun b =>
  .when (b.noc.ltest.running && !b.noc.ltest.forever) (nocLtestOff errBits errWords)

def execNocLtestEnd (errBits errWords : Nat) (s : State) : Host.Outcome State Fault Refusal :=
  s.run (nocLtestEnd errBits errWords)

end Sys2Proof.Machine
end

