-- ==== Sys2Proof/Machine/GloveFit.lean ====
section
/-! DEFINITION. Gloves (R105–R112, R124–R143): training, fitting, modules, link loss, flush and reset of a site, heat and power at
the site. -/

namespace Sys2Proof.Machine

/-! ### States of a site (GLV_STATUS) -/
namespace SiteState
abbrev off := 0
abbrev training := 1
abbrev fitting := 2
abbrev fitted := 3
abbrev flushing := 4
abbrev resetting := 5
abbrev fenced := 6
abbrev refused := 7
end SiteState

def siteState (g st : Nat) : Prog := setF (Reg.GLV_STATUS g) Fl.GLV_STATUS_STATE st
def siteFlag (g : Nat) (fl : Fld) : Prog := setF (Reg.GLV_STATUS g) fl 1

/-- The CTL silence count starts again (R140). -/
def ctlSeen (g : Nat) : Prog := .read fun b => modGlv g fun s => { s with lastCtl := b.now }

/-! ### The hub's own record (R124, R131) -/

namespace Block
def hubMinor (b : Block) : Nat := if b.f Reg.HUB_ID Fl.HUB_ID_HUB_REV = 0xA1 then 0 else 2
def hubFeatures (b : Block) : Nat := if b.hubMinor = 0 then 0 else 0x7F
/-- Logical modules in service, by physical module. -/
def inService (b : Block) (g : Nat) : Nat := b.f (Reg.GLV_MODULES g) Fl.GLV_MODULES_IN_SERVICE
end Block

/-- The credits the hub advertises, by pool: the minima of R120. -/
def hubCredits : Tbl Credit :=
  [(0, ⟨128, 128⟩), (3, ⟨32, 32⟩), (4, ⟨16, 32⟩), (5, ⟨16, 32⟩), (6, ⟨16, 32⟩), (7, ⟨16, 32⟩), (8, ⟨8, 4⟩), (9, ⟨2, 2⟩)]

/-- The hub's capability record (R124); R188 gives its TILE_FMT, and what the rule does not name is 0. -/
def Block.hubRecord (b : Block) : List Byte :=
  let rev := if b.hubMinor = 0 then 0x4101 else 0x4200
  toBytesLE 4 0x4350534D ++ toBytesLE 1 b.hubMinor ++ toBytesLE 1 1 ++ toBytesLE 2 (Config.jep106 % 2 ^ 16) ++ toBytesLE 4 0x1632 ++
    toBytesLE 2 rev ++ toBytesLE 2 0x1F ++ toBytesLE 8 b.hubFeatures ++ List.replicate 10 0 ++ toBytesLE 2 7 ++ toBytesLE 2 0 ++
    toBytesLE 1 7 ++ List.replicate 5 0 ++
    ((List.range 10).flatMap fun p => [BitVec.ofNat 8 (Tbl.get credit0 p hubCredits).hdr,
      BitVec.ofNat 8 (Tbl.get credit0 p hubCredits).data]) ++ List.replicate 192 0

/-- The hub's record goes to a site: chunks 0 to 3, then CAP_END (R124, R127).  Until credits open (R127 step 6) the messages of a
fit take none. -/
def sendHubRecord (g : Nat) : Prog := .read fun b => .all [
  .each (List.range 4) fun k => send (.msp g { Msp.ctl 0xC0 k with dlen := 4, data := slice b.hubRecord (64 * k) 64 }),
  send (.msp g (Msp.ctl 0xC1 0))]

/-! ### A capability record (R124) -/

/-- A record as CAP messages brought it. -/
abbrev Cap := List Byte

namespace Cap
def n (c : Cap) (o k : Nat) : Nat := numAt c o k
/-- The credits advertised for a pool: header, data. -/
def credit (c : Cap) (p : Nat) : Credit := ⟨c.n (0x2C + 2 * p) 1, c.n (0x2D + 2 * p) 1⟩
/-- Features of a minor version no higher than `m` (R130). -/
def featureMask (m : Nat) : Nat := if m = 0 then 0 else if m = 1 then 0x0F else 0x7F
/-- Magic wrong, or malformed. -/
def bad (c : Cap) : Bool :=
  decide (c.n 0 4 ≠ 0x4350534D ∨ 4 < c.n 0x29 1 ∨ 16 < c.n 0x27 1 ∨ c.n 0x26 1 % 8 = 0) ||
    (List.range 4).any fun i => decide (c.n 0x29 1 ≤ i) && decide (numAt c (0x40 + 48 * i) 48 ≠ 0)
end Cap

/-- The agreed set with a site's record, at a trained rate (R125). -/
def Block.agree (b : Block) (c : Cap) (rate : Nat) : Agreed :=
  let minor := min b.hubMinor (c.n 4 1)
  let ch := c.n 0x0E 2 % 32
  let lanes := if ch.testBit 2 then maskOf ((List.range 4).filter fun k => decide ((c.credit (4 + k)).hdr ≠ 0)) else 0
  { verMaj := c.n 5 1, verMin := minor,
    features := b.hubFeatures &&& c.n 0x10 8 &&& Cap.featureMask minor,
    channels := if lanes = 0 then clearBit ch 2 else ch,
    rate := rate, cacheKib := min (c.n 0x18 4) 32768, maxRd := min (c.n 0x1C 2) 2048, maxWr := min (c.n 0x1E 2) 2048,
    maxSnp := c.n 0x20 2, tileFmt := c.n 0x22 2 &&& 7, powerW := min (c.n 0x24 2) 125, lanes := lanes }

/-- Credits a pool needs, where its channel is agreed (R120). -/
def creditFloor (a : Agreed) : List (Nat × Credit) :=
  [(1, ⟨16, 16⟩), (8, ⟨8, 4⟩)] ++ (if a.channels.testBit 1 then [(2, ⟨8, 0⟩)] else []) ++
    ((setBits a.lanes 4).map fun k => (4 + k, ⟨4, 0⟩)) ++ (if a.channels.testBit 4 then [(9, ⟨2, 2⟩)] else [])

/-- Why a fit is refused, 0 where it is not: the lowest reason that applies (R126). -/
def Block.fitReason (b : Block) (g : Nat) (c : Cap) (whole : Bool) (rate : Nat) : Nat :=
  let a := b.agree c rate
  let id := Reg.GLV_IDENT g
  let reasons : List (Nat × Bool) := [
    (2, !whole || c.bad),
    (3, decide (c.n 5 1 ≠ 1)),
    (4, decide (c.n 6 2 ≠ b.f id Fl.GLV_IDENT_VENDOR ∨ c.n 8 4 ≠ b.f id Fl.GLV_IDENT_PART)),
    (5, !a.channels.testBit 0 || !a.channels.testBit 3 || (decide (c.n 0x18 4 ≠ 0) && !a.channels.testBit 1) ||
      (decide (b.siteKind g = 1) && !a.channels.testBit 2)),
    (6, (creditFloor a).any fun e => !(c.credit e.1).covers e.2),
    (7, !(c.n 0x26 1).testBit rate)]
  ((reasons.find? fun r => r.2).map Prod.fst).getD 0

/-- Rate in GT/s of a rate code. -/
def rateGt (r : Nat) : Nat := if r = 0 then 16 else if r = 1 then 24 else 32

/-- Bytes 0x000–0x13F of a fitting record (R128). -/
def Block.fitRecord (b : Block) (g result count : Nat) : List Byte :=
  let a := (b.site g).agreed
  toBytesLE 4 0x5446534D ++ toBytesLE 1 g ++ toBytesLE 1 result ++ toBytesLE 1 a.verMin ++ toBytesLE 1 a.verMaj ++
    toBytesLE 8 a.features ++ toBytesLE 2 a.channels ++ toBytesLE 1 (rateGt a.rate) ++ toBytesLE 1 (b.inService g) ++
    toBytesLE 2 a.tileFmt ++ toBytesLE 2 a.powerW ++ toBytesLE 4 a.cacheKib ++ toBytesLE 2 a.maxRd ++ toBytesLE 2 a.maxWr ++
    toBytesLE 2 a.maxSnp ++ toBytesLE 1 b.hubMinor ++ toBytesLE 1 1 ++ toBytesLE 4 count ++ toBytesLE 8 b.now ++
    toBytesLE 8 b.hubFeatures ++ toBytesLE 1 a.lanes ++ List.replicate 7 0 ++ slice (b.site g).cap 0 256

/-- The site's fit is refused: handled as a fenced site; a reset that was refitting ends here (R126, R139). -/
def refuseFit (g reason : Nat) : Prog := .read fun b => .all [
  siteState g SiteState.refused,
  setF (Reg.GLV_STATUS g) Fl.GLV_STATUS_REASON reason,
  modGlv g fun s => { s with fitted := false, fenced := true, fitSent := false, agreed := {} },
  .read fun b' => putFit g (b'.fitRecord g 1 (b.site g).fitCount),
  .when (decide ((b.site g).rst = .refitting)) (.all [
    modGlv g fun s => { s with rst := .none },
    siteFlag g Fl.GLV_STATUS_RESET_DONE,
    unblockCommit])]

/-! ### Modules (R107–R109) -/

/-- Where a failed module's logical module goes. -/
def Block.logicalOf (b : Block) (g m : Nat) : Option Nat :=
  (List.range 4).find? fun k => decide (bits (b.f (Reg.GLV_MODULES g) Fl.GLV_MODULES_MAP) (3 * k) 3 = m)

/-- MODULES of the fitting record follows, where the site has a record. -/
def showModules (g : Nat) : Prog := .read fun b =>
  .when (decide (b.f (Reg.GLV_FIT g 0) ⟨0, 32⟩ ≠ 0)) (editFit g 0x13 (toBytesLE 1 (b.inService g)))

/-- Link loss is declared at a site (R140, R141); one that is fenced already and was training or fitting again ends there, fenced
(R143). -/
def linkLoss (g cause : Nat) : Prog := .read fun b =>
  if (b.site g).fenced then .all [
    siteFlag g Fl.GLV_STATUS_LINK_LOST,
    .when (decide (b.gState g = SiteState.training ∨ b.gState g = SiteState.fitting)) (.all [
      modGlv g fun s => { s with linkUp := false, fitSent := false, rst := .none },
      siteState g SiteState.fenced,
      unblockCommit])]
  else .all [
    siteFlag g Fl.GLV_STATUS_LINK_LOST,
    modGlv g fun s => { s with linkUp := if cause = 3 then s.linkUp else false },
    loseSite g cause,
    refreshFloor (12 + g / 4)]

/-- A physical module fails: the spare takes its logical module, or the next one in order carries it; `live`: with traffic to
hold while it retrains. -/
def moduleFail (g m : Nat) (live : Bool) : Prog := .read fun b =>
  let a := Reg.GLV_MODULES g
  let spare := b.f a Fl.GLV_MODULES_SPARE
  let map := b.f a Fl.GLV_MODULES_MAP
  let rest := clearBit (b.inService g) m
  .when (decide (m < 5) && !(b.f a Fl.GLV_MODULES_FAILED).testBit m) (.all [
    orF a Fl.GLV_MODULES_FAILED (2 ^ m),
    match b.logicalOf g m with
    | none => andNotF a Fl.GLV_MODULES_SPARE (2 ^ m)
    | some k =>
      let put := fun p => setF a Fl.GLV_MODULES_MAP (map - bits map (3 * k) 3 * 2 ^ (3 * k) + p * 2 ^ (3 * k))
      match if b.modSuspect g then none else (setBits spare 5).head? with
      | some n => .all [
          endMission 0 g 3,
          put n,
          setF a Fl.GLV_MODULES_SPARE 0,
          setF a Fl.GLV_MODULES_IN_SERVICE (setBit rest n),
          logEv St.spareConsumed g,
          .when live (modGlv g fun s => { s with hold := if s.agreed.features.testBit 4 then 2 ^ k else 0xF })]
      | none => .all [
          put 7,
          setF a Fl.GLV_MODULES_IN_SERVICE rest,
          siteFlag g Fl.GLV_STATUS_DEGRADED,
          .when (decide (popCount rest 5 < 2)) (linkLoss g 1)],
    showModules g])

def execModuleFail (g : Fin 16) (m : Fin 5) (s : State) : Host.Outcome State Fault Refusal :=
  s.run (.read fun b => .when (b.siteThere g) (moduleFail g m (b.siteRuns g)))

/-- A protocol violation (R123, R140). -/
def violation (g : Nat) : Prog := .all [
  siteFlag g Fl.GLV_STATUS_PROTO_ERR, incSat (Reg.GLV_ERR g) Fl.GLV_ERR_VIOLATIONS, linkLoss g 3]

/-- Lanes that training or recalibration repaired are counted: as many as the die says, which no rule bounds (R105, GLV_MODULES
LANE_REPAIRS). -/
def laneRepairs (g : Nat) : Prog := withFree fun n => addSat (Reg.GLV_MODULES g) Fl.GLV_MODULES_LANE_REPAIRS n

/-- The flits the adapter retried since the last message are counted (R105, GLV_ERR RETRIES); no rule bounds how many. -/
def flitRetries (g : Nat) : Prog := withFree fun n => addSat (Reg.GLV_ERR g) Fl.GLV_ERR_RETRIES n

/-- A link-local message of a fitted site, with or without data, arrives on logical module 0: it takes a credit of pool 8, which goes
back when it is done with; without one it is a violation (R109, R117, R120, R123). -/
def siteCtl (g data : Nat) (act : Prog) : Prog := .read fun b =>
  let have_ := Tbl.get credit0 8 (b.site g).fromSite
  let c : Credit := ⟨1, data⟩
  .when (b.siteRuns g && !b.moduleHeld g 0) (
    if !have_.covers c then violation g
    else .all [
      modGlv g fun s => { s with fromSite := Tbl.set credit0 8 (have_.sub c) s.fromSite },
      ctlSeen g,
      act,
      .read fun b => .when (b.siteRuns g) (returnCredit g 8 c false)])

/-- The substituted module has retrained: credits reopen. -/
def execSpareRetrainDone (g : Fin 16) (s : State) : Host.Outcome State Fault Refusal :=
  s.run (.read fun b => .when (decide ((b.site g).hold ≠ 0)) (.all [
    modGlv g fun s => { s with hold := 0 },
    returnOwed g fun k => !(b.site g).withheld || decide (k ≠ 0),
    ctlSeen g, pumpTx g]))

def execModuleRecalStart (g : Fin 16) (m : Fin 5) (s : State) : Host.Outcome State Fault Refusal :=
  s.run (.read fun b => .when ((b.inService g).testBit m && (b.site g).linkUp) (.all [
    modGlv g fun s => { s with recal := setBit s.recal m },
    incSat (Reg.GLV_ERR g) Fl.GLV_ERR_RECALS]))

def execModuleRecalEnd (g : Fin 16) (m : Fin 5) (s : State) : Host.Outcome State Fault Refusal :=
  s.run (.read fun b => .when ((b.site g).recal.testBit m) (.all [
    modGlv g fun s => { s with recal := clearBit s.recal m },
    laneRepairs g, ctlSeen g, pumpTx g]))

/-! ### Training and fitting (R126, R127) -/

/-- UCIe training ends, with the modules that failed; a rate both dies offer at or below MAX_RATE, or none (R106). -/
def linkTrained (g : Nat) (rate : Option Nat) (failed : Nat) : Prog := .read fun b =>
  let most := min 2 (b.f (Reg.GLV_CTL g) Fl.GLV_CTL_MAX_RATE)
  .when (b.siteThere g && decide (b.gState g = SiteState.training) && decide (rate.getD 0 ≤ most)) (.all [
    laneRepairs g,
    .each (setBits failed 5) fun m => moduleFail g m false,
    .read fun b => .when (decide (b.gState g = SiteState.training)) (
      match rate with
      | none => refuseFit g 7
      | some r => .all [
          siteState g SiteState.fitting,
          setF (Reg.GLV_STATUS g) Fl.GLV_STATUS_RATE r,
          modGlv g fun s => { s with linkUp := true, chunks := [], cap := [], fitSent := false },
          sendHubRecord g,
          refreshFloor (12 + g / 4),
          kickDomain (12 + g / 4)])])

def execLinkTrainingDone (g : Fin 16) (rate : Option (Fin 3)) (failedModules : Nat) (s : State) :
    Host.Outcome State Fault Refusal :=
  s.run (linkTrained g (rate.map Fin.val) failedModules)

/-! ### A Prour tile's record (R144) -/

namespace Block
def prtSt (b : Block) (g : Nat) : PrtSt := Tbl.get (dflt {}) g b.prt
def prtA2 (b : Block) (g : Nat) : Bool := decide (b.f (Reg.PRT_ID g) Fl.PRT_ID_REV = 0x4102)

/-- The first 64 bytes of a Prour tile's capability record, by its revision.  Its VENDOR is Karuri's code, which the site's fuses
expect (R126). -/
def prourRecord (b : Block) (g : Nat) : List Byte :=
  let a2 := b.prtA2 g
  let pick := fun (x y : Nat) => if a2 then x else y
  toBytesLE 4 0x4350534D ++ toBytesLE 2 (pick 0x0101 0x0102) ++ toBytesLE 2 (b.f (Reg.GLV_IDENT g) Fl.GLV_IDENT_VENDOR) ++
    toBytesLE 4 0x7001 ++ toBytesLE 2 (pick 0x4102 0x4201) ++ toBytesLE 2 0x1F ++ toBytesLE 8 (pick 0x0F 0x7F) ++
    toBytesLE 4 (pick 4096 8192) ++ toBytesLE 2 2048 ++ toBytesLE 2 1024 ++ toBytesLE 2 64 ++ toBytesLE 2 7 ++ toBytesLE 2 105 ++
    toBytesLE 1 7 ++ toBytesLE 1 8 ++ toBytesLE 1 105 ++ toBytesLE 1 (pick 2 3) ++ toBytesLE 2 (pick 300 200) ++
    [(0, 0), (64, 64), (64, 0), (0, 0), (16, 0), (16, 0), (16, 0), (16, 0), (16, 8), (4, 4)].flatMap
      fun c => toBytesLE 1 c.1 ++ toBytesLE 1 c.2

/-- A chunk of the record a die at the site sends: a Prour tile's own, its digests as `bytes` has them; another maker's as it
stands. -/
def capBytes (b : Block) (g chunk : Nat) (bytes : List Byte) : List Byte :=
  if b.siteKind g ≠ 1 then slice bytes 0 64
  else if chunk = 0 then b.prourRecord g
  else slice (bytes.take (48 * (if b.prtA2 g then 2 else 3) - 64 * (chunk - 1))) 0 64
end Block

/-- A fit's messages from the site arrive: it is fitting and logical module 0 carries traffic. -/
def Block.fitOpen (b : Block) (g : Nat) : Bool := decide (b.gState g = SiteState.fitting) && !b.moduleHeld g 0

/-- CAP: a chunk of the record; from a chiplet that lost its state while the link was down, the first starts a new fit, as after a
site reset: what was on its way ends as at a fence (R110). -/
def capChunk (g chunk : Nat) (bytes : List Byte) : Prog := .read fun b =>
  let s := b.site g
  let add := modGlv g fun s => { s with chunks := s.chunks ++ [(chunk, b.capBytes g chunk bytes)] }
  .when (!b.moduleHeld g 0) (
    if b.gState g = SiteState.fitting then add
    else .when (s.woke && b.siteRuns g) (.all [
      fenceSite g,
      modGlv g fun s => { s with fitted := false, woke := false, chunks := [], cap := [], fitSent := false },
      siteState g SiteState.fitting,
      sendHubRecord g,
      add]))

def execCap (g : Fin 16) (chunk : Fin 4) (bytes : List Byte) (s : State) : Host.Outcome State Fault Refusal :=
  s.run (capChunk g chunk bytes)

/-- CAP_END: the record is complete; the agreed set is formed and FIT sent, or the fit is refused. -/
def capEnd (g : Nat) : Prog := .read fun b =>
  let s := b.site g
  let whole := decide (s.chunks.length = 4) && (List.range 4).all fun k => s.chunks.any fun c => decide (c.1 = k)
  let cap := (List.range 4).flatMap fun k => ((s.chunks.find? fun c => c.1 = k).map Prod.snd).getD (List.replicate 64 0)
  let rate := b.f (Reg.GLV_STATUS g) Fl.GLV_STATUS_RATE
  .when (b.fitOpen g && !s.fitSent) (.all [
    modGlv g fun s => { s with cap := cap, chunks := [] },
    match b.fitReason g cap whole rate with
    | 0 => .all [
        modGlv g fun s => { s with agreed := b.agree cap rate, fitSent := true },
        .read fun b => send (.msp g { Msp.ctl 0xC2 0 with dlen := 4, data := slice (b.fitRecord g 0 (s.fitCount + 1)) 0 64 })]
    | r => refuseFit g r])

def execCapEnd (g : Fin 16) (s : State) : Host.Outcome State Fault Refusal := s.run (capEnd g)

/-- Step 6: the record stored with its digest, credits opened, the fence lifted. -/
def fitDone (g : Nat) : Prog := .read fun b =>
  let s := b.site g
  let a := s.agreed
  .all [
    modGlv g fun s => { s with
      fitted := true, fenced := false, fitSent := false, woke := false, fitCount := s.fitCount + 1, withheld := false, owed := [],
      txq := [], reads := [], lastSent := 0, lastCtl := b.now, flush := .none, rst := .none,
      toSite := ([1, 2, 4, 5, 6, 7, 8, 9].foldl (fun t p => Tbl.set credit0 p (Cap.credit s.cap p) t) []),
      fromSite := hubCredits },
    siteState g SiteState.fitted,
    setF (Reg.GLV_STATUS g) Fl.GLV_STATUS_REASON 0,
    setF (Reg.GLV_STATUS g) Fl.GLV_STATUS_VER_MAJ a.verMaj,
    setF (Reg.GLV_STATUS g) Fl.GLV_STATUS_VER_MIN a.verMin,
    setF (Reg.GLV_STATUS g) Fl.GLV_STATUS_ABSORBED 0,
    setF (Reg.GLV_STATUS g) Fl.GLV_STATUS_THROTTLE 0,
    setF (Reg.GLV_FEATURES g) Fl.GLV_FEATURES_LANES a.lanes,
    setF (Reg.GLV_FEATURES g) Fl.GLV_FEATURES_TILE_FMT a.tileFmt,
    setF (Reg.GLV_FEATURES g) Fl.GLV_FEATURES_CHANNELS a.channels,
    setF (Reg.GLV_FEATURES g) Fl.GLV_FEATURES_FEATURES a.features,
    .read fun b => putFit g (b.fitRecord g 0 (b.site g).fitCount),
    .when (decide (s.rst = .refitting)) (siteFlag g Fl.GLV_STATUS_RESET_DONE),
    refreshThrottle g,
    armAll,
    unblockCommit]

/-- FIT_ACK. -/
def fitAck (g : Nat) (reject : Bool) : Prog := .read fun b =>
  .when (b.fitOpen g && (b.site g).fitSent) (if reject then refuseFit g 8 else fitDone g)

def execFitAck (g : Fin 16) (reject : Bool) (s : State) : Host.Outcome State Fault Refusal := s.run (fitAck g reject)

def execCapabilityTimeout (g : Fin 16) (s : State) : Host.Outcome State Fault Refusal :=
  s.run (.read fun b => .when (decide (b.gState g = SiteState.fitting) && !(b.site g).fitSent) (refuseFit g 1))

def execFitAckTimeout (g : Fin 16) (s : State) : Host.Outcome State Fault Refusal :=
  s.run (.read fun b => .when (decide (b.gState g = SiteState.fitting) && (b.site g).fitSent) (refuseFit g 8))

/-! ### Link and clock loss (R140) -/

/-- Loss of lock and a link-down report are expected while the site sleeps or retrains. -/
def Block.lossExpected (b : Block) (g : Nat) : Bool :=
  b.domAsleep (12 + g / 4) || decide ((b.site g).hold ≠ 0) || !b.siteThere g ||
    decide (b.gState g = SiteState.off ∨ b.gState g = SiteState.training) || (b.site g).rstN

def lockLoss (g : Nat) : Prog := .read fun b => .when (!b.lossExpected g) (linkLoss g 1)

def execRxClockLockLoss (g : Fin 16) (s : State) : Host.Outcome State Fault Refusal := s.run (lockLoss g)
def execAdapterLinkDown (g : Fin 16) (s : State) : Host.Outcome State Fault Refusal := s.run (lockLoss g)

/-- The count runs for a fitted site whose logical module 0 can carry traffic. -/
def execCtlSilenceTimeout (g : Fin 16) (s : State) : Host.Outcome State Fault Refusal :=
  s.run (.read fun b => .when (b.siteRuns g && !b.lossExpected g && !b.moduleHeld g 0) (linkLoss g 1))

/-- A wake or a substitution has not brought the link up within its bound. -/
def execLinkRetrainTimeout (g : Fin 16) (s : State) : Host.Outcome State Fault Refusal :=
  s.run (.read fun b => .when (decide ((b.site g).hold ≠ 0) || (b.domSt (12 + g / 4)).waking) (linkLoss g 1))

def execKeepalive (g : Fin 16) (s : State) : Host.Outcome State Fault Refusal := s.run (siteCtl g 0 .skip)

/-- The hub's die keeps its own CTL pool from falling silent. -/
def execKeepaliveIdleSend (g : Fin 16) (s : State) : Host.Outcome State Fault Refusal :=
  s.run (.read fun b => .when (b.siteRuns g) (toSite g (Msp.ctl 0xC9 0)))

/-! ### Flush and reset (R138, R139, R143) -/

/-- A flush starts: FLUSH_REQ; the glove keeps MEM and COH credits back. -/
def startFlush (g : Nat) (why : FlushFor) : Prog := .all [
  modGlv g fun s => { s with flush := .awaitDone, flushFor := why, withheld := true },
  modPrt g fun s => { s with noRead := true },
  siteState g SiteState.flushing,
  toSite g (Msp.ctl 0xC4 0)]

/-- Step 3 and step 4 of a reset: the fence, RESET_NOTICE, with a credit of pool 8 where credits are open.  A forced reset that finds
an owned line takes the partition down instead; the site is refitted after the partition reset (R139, R141, R142). -/
def resetFence (g : Nat) (force : Bool) : Prog := .read fun b =>
  let down := if force && b.ownsLine g then b.sitePart g else none
  match down with
  | some p => .all [partitionDown p { cause := 2, site := g }, fenceSite g, unblockCommit]
  | none => .all [
      fenceSite g,
      siteState g SiteState.resetting,
      modGlv g fun s => { s with rst := .noticed },
      if (b.site g).fitted then toSite g (Msp.ctl 0xCA 0) else send (.msp g (Msp.ctl 0xCA 0))]

/-- A flush has ended: what asked for it goes on. -/
def flushEnd (g : Nat) (ok : Bool) : Prog := .read fun b =>
  let s := b.site g
  let resume : Prog := .all [
    siteState g SiteState.fitted,
    .when (s.flushFor ≠ .commit) (.all [reopenCredits g, modPrt g fun s => { s with noRead := false }])]
  .all [
    siteFlag g Fl.GLV_STATUS_FLUSH_DONE,
    setF (Reg.GLV_STATUS g) Fl.GLV_STATUS_FLUSHED (b2n ok),
    modGlv g fun s => { s with flush := .none },
    if s.flushFor = .reset then
      if ok then resetFence g false
      else .all [
        resume,
        modGlv g fun s => { s with rst := .none },
        siteFlag g Fl.GLV_STATUS_RESET_FAILED,
        unblockCommit]
    else .all [
      resume,
      .when (!ok && decide (s.flushFor = .partition)) (.for? (b.sitePart g) fun p =>
        modSys fun x => { x with part := Tbl.upd none p (fun o => o.map fun r => { r with failed := insertNat g r.failed }) x.part })]]

/-- FLUSH_DONE. -/
def flushDone (g : Nat) : Prog := siteCtl g 0 (modGlv g fun s =>
  if s.flush = .awaitDone then { s with flush := .query } else s)

def execFlushDone (g : Fin 16) (s : State) : Host.Outcome State Fault Refusal := s.run (flushDone g)

def execFlushTimeout (g : Fin 16) (s : State) : Host.Outcome State Fault Refusal :=
  s.run (.read fun b => .when (decide ((b.site g).flush = .awaitDone)) (flushEnd g false))

/-- The homes have cleared the entries that still list the site as owner in EM, each once its own transaction has ended; one in O
is still owned. -/
def flushQueried (g : Nat) : Prog := .read fun b =>
  let lines := b.dir.filter fun e => decide (e.2.ds = .em ∧ e.2.owner = g)
  .when (decide ((b.site g).flush = .query) && lines.all fun e => e.2.txn.isNone) (.all [
    .each lines fun e => setDir e.1 DirEnt.disown,
    .read fun b => flushEnd g (!b.ownsLine g)])

def execFlushDirectoryQueryDone (g : Fin 16) (s : State) : Host.Outcome State Fault Refusal := s.run (flushQueried g)

/-- Hats that may write a glove's registers (R379). -/
def Block.mayGlove (b : Block) (hat g : Nat) : Bool :=
  decide (hat = 0) || (b.holds hat Right.partAdmin && b.inPart hat (b.sitePart g))

/-- A GLV_CTL command is taken: the site is there, no flush or reset runs, it is not training or fitting, no partition reset
covers it. -/
def Block.gloveFree (b : Block) (g : Nat) : Bool :=
  let st := b.gState g
  let s := b.site g
  b.siteThere g && decide (s.flush = .none ∧ s.rst = .none) &&
    decide (st = SiteState.fitted ∨ st = SiteState.fenced ∨ st = SiteState.refused) &&
    !(match b.sitePart g with
      | some p => b.partResetting p
      | none => false)

/-- Steps 1 and 2 of a reset. -/
def startReset (g : Nat) (force : Bool) : Prog := .read fun b =>
  if b.domAsleep (12 + g / 4) then .all [
    modGlv g fun s => { s with rst := .waking, rstForce := force }, siteState g SiteState.resetting, startWake (12 + g / 4)]
  else if force || !b.siteRuns g then resetFence g force
  else .all [modGlv g fun s => { s with rst := .flushing, rstForce := force }, startFlush g .reset]

def gloveReset (hat g : Nat) (force : Bool) : Prog := underHat hat (.read fun b =>
  .when (b.mayGlove hat g && b.gloveFree g) (startReset g force))

def execGlvReset (hat : Nat) (g : Fin 16) (s : State) : Host.Outcome State Fault Refusal := s.run (gloveReset hat g false)
def execGlvResetForce (hat : Nat) (g : Fin 16) (s : State) : Host.Outcome State Fault Refusal := s.run (gloveReset hat g true)

def gloveFlush (hat g : Nat) : Prog := underHat hat (.read fun b =>
  .when (b.mayGlove hat g && b.gloveFree g && b.siteRuns g) (startFlush g .software))

def execGlvFlush (hat : Nat) (g : Fin 16) (s : State) : Host.Outcome State Fault Refusal := s.run (gloveFlush hat g)

/-- A Prour tile under reset: contexts, buffers, programs and registers at their reset values (R166). -/
def resetPrt (g : Nat) : Prog := .all [
  modPrt g fun _ => {},
  .edit (.wipe fun a => decide (a < 0x100000000 + g * 0x1000000 ∨ 0x100000000 + (g + 1) * 0x1000000 ≤ a))]

def execSiteRstAssert (g : Fin 16) (s : State) : Host.Outcome State Fault Refusal :=
  s.run (.read fun b => .when (decide ((b.site g).rst = .noticed)) (.all [
    modGlv g fun s => { s with rst := .asserted, rstN := true, linkUp := false },
    resetPrt g]))

/-- SITE_RST_N is released and training starts, logical module k on Mk and M4 the spare (R107): what failed before is found again
or not. -/
def startTraining (g : Nat) : Prog := .all [
  modGlv g fun s => { s with
    rstN := false, linkUp := false, fitted := false, fitSent := false, woke := false, chunks := [], cap := [], hold := 0, recal := 0,
    txq := [], withheld := false, owed := [] },
  setF (Reg.GLV_MODULES g) Fl.GLV_MODULES_MAP 0x688,
  setF (Reg.GLV_MODULES g) Fl.GLV_MODULES_SPARE 0x10,
  setF (Reg.GLV_MODULES g) Fl.GLV_MODULES_IN_SERVICE 0x0F,
  setF (Reg.GLV_MODULES g) Fl.GLV_MODULES_FAILED 0,
  setF (Reg.GLV_STATUS g) Fl.GLV_STATUS_DEGRADED 0,
  showModules g,
  siteState g SiteState.training,
  setF (Reg.GLV_STATUS g) Fl.GLV_STATUS_REASON 0]

def execSiteRstRelease (g : Fin 16) (s : State) : Host.Outcome State Fault Refusal :=
  s.run (.read fun b => .when (decide ((b.site g).rst = .asserted)) (.all [
    modGlv g fun s => { s with rst := .refitting }, startTraining g]))

/-! ### Heat, digests, throttle (R134–R137) -/

/-- TEMP: the hottest of the sensors the chiplet's record names; a Prour tile sends what it sampled last (R168). -/
def tempReport (g : Nat) (bytes : List Byte) : Prog := .read fun b =>
  let n := numAt (b.site g).cap 0x27 1
  let temps := (b.prtSt g).temps
  let bytes := if b.siteKind g = 1 ∧ temps ≠ [] then temps.flatMap (toBytesLE 2) else bytes
  let hot := (List.range n).foldl (fun (m : Int) i => max m (signed 16 (numAt bytes (2 * i) 2))) (-32768)
  siteCtl g 1 (.all [
    modGlv g fun s => { s with lastTemp := b.now },
    .when (decide (n ≠ 0)) (setF (Reg.GLV_TEMP g) Fl.GLV_TEMP_HOTTEST (wrapInt 16 hot))])

def execTemp (g : Fin 16) (bytes : List Byte) (s : State) : Host.Outcome State Fault Refusal := s.run (tempReport g bytes)

def execTempPollTimer (g : Fin 16) (s : State) : Host.Outcome State Fault Refusal :=
  s.run (.read fun b => .when (b.siteRuns g && !b.agreedFeature g 2) (toSite g (Msp.ctl 0xC7 0)))

/-- DIGEST: with DIGEST_UPDATE agreed, it replaces a digest the record has. -/
def digestReport (g : Nat) (bytes : List Byte) : Prog := .read fun b =>
  let i := numAt bytes 48 1
  let s := b.site g
  siteCtl g 1 (.when (b.agreedFeature g 6 && decide (i < numAt s.cap 0x29 1)) (.all [
    modGlv g fun s => { s with cap := s.cap.take (0x40 + 48 * i) ++ slice bytes 0 48 ++ s.cap.drop (0x70 + 48 * i) },
    editFit g (0x80 + 48 * i) (slice bytes 0 48)]))

def execDigest (g : Fin 16) (bytes : List Byte) (s : State) : Host.Outcome State Fault Refusal := s.run (digestReport g bytes)

def execThrottleCauseChange (g : Fin 16) (s : State) : Host.Outcome State Fault Refusal := s.run (refreshThrottle g)

/-- CREDIT_SLOT: what waits for credit goes out; one with a reserved bit set is malformed (R116, R123). -/
def creditSlot (g word : Nat) : Prog := .read fun b =>
  .when (b.siteRuns g) (
    if bits word 120 5 ≠ 0 then violation g
    else .all [
      modGlv g fun s => { s with
        toSite := [1, 2, 4, 5, 6, 7, 8, 9].foldl (fun t p =>
          Tbl.set credit0 p ((Tbl.get credit0 p t).add ⟨bits word (12 * p) 6, bits word (12 * p + 6) 6⟩) t) s.toSite },
      pumpTx g])

/-- A link-local message, by its operation (R117). -/
def siteLocal (g : Nat) (m : Msp) : Prog :=
  if m.op = 0xC0 then capChunk g (m.arg % 4) m.data
  else if m.op = 0xC1 then capEnd g
  else if m.op = 0xC3 then fitAck g (m.arg.testBit 0)
  else if m.op = 0xC5 then flushDone g
  else if m.op = 0xC7 then tempReport g m.data
  else if m.op = 0xC8 then digestReport g m.data
  else if m.op = 0xC9 then siteCtl g 0 .skip
  else .skip

def execCreditSlot (g : Fin 16) (word : BitVec 128) (s : State) : Host.Outcome State Fault Refusal :=
  s.run (creditSlot g word.toNat)

end Sys2Proof.Machine
end

