-- ==== Sys2Proof/Machine/GloveMsg.lean ====
section
/-! DEFINITION. Messages between a site and the mesh (R113–R123, R186–R190, R284, R289, R302): what a glove checks, forwards,
answers and holds. -/

namespace Sys2Proof.Machine

/-! ### Toward the site -/

/-- The channel an operation travels on (R117, R282); 7 for none. -/
def opChan (op : Nat) : Nat :=
  if op < 0x30 then 0 else if op < 0x40 then 1 else if op < 0x60 then 0 else if op < 0x70 then 2
  else if 0x80 ≤ op ∧ op < 0xA2 then 3 else 7

/-- The messages a packet becomes: one for each data unit, bit 6 of a coherence response's address selecting the sector (R281,
R282). -/
def pktMsgs (p : Pkt) : List Msp :=
  let base : Msp := ⟨opChan p.cmd, p.cmd, 0, p.poison, p.ordered, 0, p.tag, p.hat, p.label, p.addr, 0, 0, []⟩
  let coh := decide (0x28 ≤ p.cmd ∧ p.cmd ≤ 0x2A)
  if p.units = [] then [base]
  else p.units.zipIdx.map fun u => { base with
    dlen := if p.cmd = 0x81 then 5 else 4, poison := p.poison || u.1.pu, data := u.1.data, be := u.1.be,
    addr := if coh then p.addr / 128 * 128 + 64 * u.2 else p.addr }

def toSitePkt (g : Nat) (p : Pkt) : Prog := .each (pktMsgs p) (toSite g)

/-! ### Snoops (R284, R286, R289) -/

/-- The site awaits the answer to a coherent request for a line. -/
def Block.awaitsLine (b : Block) (g a : Nat) : Bool :=
  (b.site g).reads.any fun r => decide (0x20 ≤ r.cmd ∧ r.cmd ≤ 0x23 ∧ r.addr / 128 = a / 128)

/-- A held snoop goes to the site when its line's own answer has passed and the site has room for it. -/
def trySnoopOut (g : Nat) (p : Pkt) : Prog := .read fun b =>
  let s := b.site g
  .when (s.heldSnoop.contains p && !b.awaitsLine g p.addr && decide (s.snoops.length < s.agreed.maxSnp)) (.all [
    modGlv g fun s => { s with heldSnoop := s.heldSnoop.erase p, snoops := s.snoops ++ [p] },
    toSitePkt g p])

def releaseSnoops (g : Nat) : Prog := .read fun b => .each (b.site g).heldSnoop (trySnoopOut g)

/-- A snoop reaches a glove: a site that passes no traffic, or has no coherent channel, answers as invalid (R142). -/
def gloveSnoop (g : Nat) (p : Pkt) : Prog := .read fun b => .all [
  takePkt p,
  if b.siteRuns g && (b.site g).agreed.channels.testBit 1 then .all [
    modGlv g fun s => { s with heldSnoop := s.heldSnoop ++ [p] }, trySnoopOut g p]
  else snoopInvalid p]

/-- What the glove makes of its site's answer (R284): data for SNPS or SNPO goes to the requesting site's glove, and the home
hears SACK with FWD; everything else goes to the home. -/
def forwardSnoop (g : Nat) (q : Pkt) (op code : Nat) (units : List DUnit) : Prog :=
  let line := q.addr / 128 * 128
  let site := q.addr % 16
  let k := q.addr / 128 % 4
  if op = 0x39 ∧ (q.cmd = 0x30 ∨ q.cmd = 0x31) then .all [
    sendPkt { Pkt.bare (if q.cmd = 0x30 then 0x28 else 0x2A) line q.tag q.hat (.glove g k) (.glove site k) with units := units },
    sendPkt (q.reply 0x38 (line + (code ||| 8)) false [])]
  else sendPkt (q.reply op (line + code) false units)

/-! ### Answers to the site's requests -/

/-- A line enters the coherent cache of a Prour tile, or leaves it (R150, R151). -/
def prtLine (g a : Nat) (holds : Bool) : Prog := .read fun b => .when (decide (b.siteKind g = 1)) (modPrt g fun s =>
  { s with lines := if holds then insertNat (a / 128) s.lines else s.lines.erase (a / 128) })

/-- A response reaches the glove: on to the site, or absorbed (R142). -/
def gloveRsp (g k : Nat) (p : Pkt) : Prog := .read fun b =>
  let mine := (b.site g).reads.find? fun r => decide (r.tag = p.tag) && decide (k = if r.cmd < 0x60 then r.addr / 128 % 4 else 0)
  .all [
    takePkt p,
    if !b.siteRuns g then absorbSite g
    else .for? mine fun r => .all [
      modGlv g fun s => { s with reads := s.reads.erase r },
      .when (decide (p.cmd ≠ 0xA1) || !((b.site g).reads.erase r).any fun x => decide (x.tag = p.tag ∧ x.cmd = 0xA0)) (toSitePkt g p),
      .when (decide (p.cmd = 0x28 ∨ p.cmd = 0x29 ∨ p.cmd = 0x2A)) (prtLine g r.addr true),
      releaseSnoops g,
      releaseSegReads]]

/-- A register request for the site's window: forwarded to the site, or completed poisoned (R142). -/
def gloveWindow (g : Nat) (p : Pkt) : Prog := .read fun b =>
  let used := (b.site g).window.map Prod.fst
  let tag := ((List.range 4096).find? fun t => !used.contains t).getD 0
  .all [
    takePkt p,
    if b.siteRuns g then .all [
      modGlv g fun s => { s with window := s.window ++ [(tag, p)] }, toSitePkt g { p with tag := tag }]
    else poisonWindow p]

/-! ### From the site -/

/-- The place of a hat in the site's hat set (R122). -/
def Block.hatPos (b : Block) (g hat : Nat) : Option Nat := (List.range 16).find? fun e =>
  let x := bits (b.w (Reg.GLV_HATSET g (e / 4))).toNat (16 * (e % 4)) 16
  x.testBit 15 && decide (x % 1024 = hat)


/-- Data lengths an operation may have. -/
def opDlens (op : Nat) : List Nat :=
  if op ≤ 2 ∨ (0x20 ≤ op ∧ op ≤ 0x23) ∨ op = 0x25 ∨ op = 0x38 ∨ op = 0x80 ∨ op = 0x83 ∨ op = 0x84 ∨ op = 0x86 ∨ op = 0xA0 then [0]
  else if op = 8 ∨ op = 9 then [4, 5]
  else if op = 0xA then [2]
  else if op = 0x24 ∨ op = 0x39 ∨ op = 0x60 ∨ op = 0x82 then [4]
  else if op = 0x81 then [5]
  else if 0x40 ≤ op ∧ op < 0x60 then [4, 5]
  else [0, 2, 4, 5]

/-- Operations that only travel toward a site, or only between units of the hub (R123). -/
def opBarred (op : Nat) : Bool :=
  decide (op = 0x18 ∨ op = 0x19 ∨ (0x28 ≤ op ∧ op ≤ 0x2D) ∨ (0x30 ≤ op ∧ op ≤ 0x33) ∨ op = 0x5E ∨ op = 0x5F ∨ op = 0x61 ∨
    op = 0x62 ∨ op = 0x87 ∨ op = 0x88 ∨ op = 0x89 ∨ op = 0xA1)

/-- Data lengths of a link-local operation that a site may send (R117); none for one it may not send. -/
def localDlens (op : Nat) : List Nat :=
  if op = 0xC0 ∨ op = 0xC8 then [4] else if op = 0xC1 ∨ op = 0xC3 ∨ op = 0xC5 ∨ op = 0xC9 then [0] else if op = 0xC7 then [2] else []

/-- The message breaks the protocol whatever the state of what it names (R115, R117, R123). -/
def Block.badMsg (b : Block) (g : Nat) (m : Msp) : Bool :=
  let a := (b.site g).agreed
  if 0xC0 ≤ m.op then decide (m.chan ≠ 3) || !(localDlens m.op).contains m.dlen
  else decide (4 < m.chan) || (dlenBytes m.dlen).isNone || !a.channels.testBit m.chan || (decide (m.chan = 2) && !a.lanes.testBit m.lane) ||
    (decide (m.chan ≠ 4) && (decide (opChan m.op ≠ m.chan) || opBarred m.op)) || !(opDlens m.op).contains m.dlen

/-- Write-backs, eviction notices and answers to snoops are always let in (R122). -/
def opExempt (op : Nat) : Bool := decide (op = 0x24 ∨ op = 0x25 ∨ op = 0x38 ∨ op = 0x39)

/-- The data unit a message carries. -/
def Msp.unit (m : Msp) : DUnit :=
  if m.dlen = 2 then
    let o := m.addr % 64 / 32 * 32
    ⟨slice (List.replicate o 0 ++ slice m.data 0 32) 0 64, (2 ^ 32 - 1) * 2 ^ o, m.poison⟩
  else ⟨slice m.data 0 64, if m.dlen = 5 then m.be % 2 ^ 64 else 2 ^ 64 - 1, m.poison⟩

/-- Operations whose line comes as two messages. -/
def opLine (op : Nat) : Bool := decide (op = 0x9 ∨ op = 0x24 ∨ op = 0x39)

/-- The packet a message, or the two messages of a line, become. -/
def msgPkt (g : Nat) (m : Msp) (units : List DUnit) (dst : Ep) : Pkt :=
  { cmd := m.op, addr := m.addr, tag := m.tag, hat := m.hat, label := m.label, poison := m.poison && units.isEmpty,
    ordered := m.ordered, src := .glove g m.module, dst := dst, units := units }

/-- A request ends at the glove with a status (R29, R122). -/
def siteRefuse (g : Nat) (q : Pkt) (st : Status) : Prog :=
  let a := statusAddr q st
  if isRead q then toSitePkt g (q.reply 0x18 a false (List.replicate (readCount q.cmd) poisonUnit))
  else if isCoh q then toSitePkt g (q.reply 0x2D a false [])
  else if isAtomic q then toSitePkt g (q.reply 0x5F a false [])
  else if isWrite q then toSitePkt g (q.reply 0x19 a false [])
  else if q.cmd = 0x80 then toSitePkt g (q.reply 0x82 a true [poisonUnit])
  else if q.cmd = 0x81 then toSitePkt g (q.reply 0x83 a false [])
  else if q.cmd = 0x86 then toSitePkt g (q.reply 0x87 a false [])
  else if q.cmd = 0xA0 then toSitePkt g (q.reply 0xA1 a false [])
  else .skip

/-- Rights an access needs: read 1, write 2, atomic 4 (R300). -/
def opNeed (op : Nat) : Nat :=
  if op ≤ 2 ∨ op = 0x20 then 1 else if op = 0x21 ∨ op = 0x22 then 3 else if 0x40 ≤ op ∧ op < 0x60 then 7 else 2

/-- Bytes an access touches. -/
def opSize (q : Pkt) : Nat :=
  if isCoh q ∨ q.cmd % 8 = 1 ∧ q.cmd < 0x10 then 128 else if isAtomic q then max 1 (atomicSize q)
  else if q.cmd % 8 = 2 then 32 else 64

/-- The segments of a site context let an access through (R302). -/
def Block.siteSegs (b : Block) (g pos : Nat) (q : Pkt) : Bool :=
  (List.range 8).any fun k => b.segReaches (b.segAt (Reg.XLT_GSEG_CTL g pos k) false) (opNeed q.cmd) q.addr (opSize q)

/-- A coherent request names a line of its site's own partition (R278). -/
def Block.ownLine (b : Block) (g a : Nat) : Bool :=
  match b.place a with
  | .mem p _ _ => decide (b.sitePart g = some p)
  | _ => false

/-- What a request of a site is refused with, 0 for nothing. -/
def Block.siteStatus (b : Block) (g : Nat) (q : Pkt) : Status :=
  let exempt := opExempt q.cmd
  let pos := b.hatPos g q.hat
  let checked := (isRead q || isWrite q || isAtomic q || isCoh q) && !exempt
  worst [
    if exempt || (pos.isSome && b.unitAdmits q.hat) then 0 else St.accessDenied,
    if checked && !(match pos with
      | some e => b.siteSegs g e q
      | none => false) then St.accessDenied else 0,
    if isCoh q && !b.ownLine g q.addr then St.accessDenied else 0,
    if (isAtomic q && decide (0xA ≤ q.cmd % 16) && !b.agreedFeature g 1) || (decide (q.cmd = 0xA) && !b.agreedFeature g 3) ||
        (decide (q.cmd = 0x25) && !b.agreedFeature g 5) || (isCoh q && !(b.site g).agreed.channels.testBit 1)
      then St.unsupported else 0]

/-- Where a register request goes: to the glove of a site's window, else to a register interface (R387). -/
def Block.regEp (b : Block) (a : Nat) : Ep :=
  match b.place a with
  | .site g _ => .glove g 0
  | _ => .quadReg 0

/-- Where a request of a site goes. -/
def Block.siteRoute (b : Block) (q : Pkt) : Status ⊕ Ep :=
  if q.cmd = 0x80 ∨ q.cmd = 0x81 then .inr (b.regEp q.addr)
  else if q.cmd = 0x84 then .inr (match b.hatPort q.hat with
    | some k => if k < 0x100 then .host (k / 64) else .wellhead
    | none => .wellhead)
  else if opExempt q.cmd then (match b.place q.addr with
    | .mem _ w _ => .inr (.bank w (homeBank q.addr))
    | _ => .inl St.accessDenied)
  else b.route q.hat q.addr

/-- A message of a hat outside the hat set is charged to the queue-level regulator of the site's partition (R122, R384). -/
def chargeSite (g : Nat) (q : Pkt) : Prog := .read fun b =>
  let e : Ep := .glove g 0
  let n := if q.units.length = 2 ∨ q.cmd = 1 ∨ isCoh q ∧ q.cmd < 0x22 then 128 else 64
  if (b.hatPos g q.hat).isSome then charge e q.hat q.label n
  else
    let k := 1024 + (b.sitePart g).getD 0xFF
    let cur := (b.hats.reguls.find? fun x => x.entry = e ∧ x.hat = k ∧ x.label = q.label).getD ⟨e, k, q.label, 0, 0, true⟩
    modHats fun s => { s with
      reguls := s.reguls.filter (fun x => ¬ (x.entry = e ∧ x.hat = k ∧ x.label = q.label)) ++
        [{ cur with spent := cur.spent + n, idle := false }] }

/-- An acquire of a site goes to the slice of its package, or to every slice; the site hears of it when the last has answered
(R362, R370). -/
def siteAcquire (g : Nat) (q : Pkt) : Prog := .read fun b =>
  .each (b.acqSlices (q.addr / 2 ^ 47 % 1024) (q.addr.testBit 0)) fun e => .all [
    modGlv g fun s => { s with reads := s.reads ++ [⟨q.tag, q.cmd, q.addr, (b.hatPos g q.hat).getD 16, false⟩] },
    sendPkt { q with dst := .spanEng e }]

/-- A request of a site enters the mesh, or ends at the glove. -/
def siteRequest (g : Nat) (q : Pkt) : Prog := .read fun b =>
  let st := b.siteStatus g q
  let to_ := if q.cmd = 0xA0 then .inr .commitLogic else b.siteRoute q
  match to_ with
  | .inl st' => siteRefuse g q (if isCoh q then st else max st st')
  | .inr d =>
    if st ≠ 0 then siteRefuse g q st
    else if q.cmd = 0xA0 then siteAcquire g q
    else .all [
        chargeSite g q,
        .when (decide (q.cmd = 0x24 ∨ q.cmd = 0x25)) (prtLine g q.addr false),
        .when (decide (q.cmd ≠ 0x84)) (modGlv g fun s => { s with
          reads := s.reads ++ [⟨q.tag, q.cmd, q.addr, (b.hatPos g q.hat).getD 16, false⟩] }),
        sendPkt { q with dst := d }]

/-- An answer to a snoop. -/
def siteSnoopRsp (g : Nat) (m : Msp) (units : List DUnit) : Prog := .read fun b =>
  match (b.site g).snoops.find? fun p => decide (p.tag = m.tag ∧ p.addr / 128 = m.addr / 128) with
  | some p => .all [
      modGlv g fun s => { s with snoops := s.snoops.erase p },
      .when (decide (p.cmd = 0x31 ∨ p.cmd = 0x32)) (prtLine g p.addr false),
      chargeSite g (msgPkt g m units p.src),
      forwardSnoop g p m.op (m.addr % 128) units,
      releaseSnoops g]
  | none => violation g

/-- The answer to a register request forwarded to the site; under a hat outside the hat set it has no effect and the request ends
with ACCESS_DENIED, its data poisoned (R29, R122). -/
def siteRegRsp (g : Nat) (m : Msp) : Prog := .read fun b =>
  let known := (b.hatPos g m.hat).isSome
  match (b.site g).window.find? fun w => decide (w.1 = m.tag) with
  | some w => .all [
      modGlv g fun s => { s with window := s.window.erase w },
      sendPkt (w.2.reply m.op (statusAddr w.2 (if known then m.addr % 256 else St.accessDenied)) (m.poison || !known)
        (if m.op = 0x82 then [if known then m.unit else poisonUnit] else []))]
  | none => violation g

/-- The site holds the credit of a tile register (R190). -/
def Block.holdsCredit (b : Block) (g e t : Nat) : Bool := (b.site g).tcredit.any fun c => decide (c.1 = e ∧ c.2.1 = t)

/-- A chunk of a bucket tile: chunk 0 takes the credit of its tile register, the rest follow in order on their lane, each with the
header of its tile (R189, R190). -/
def siteTile (g : Nat) (m : Msp) : Prog := .read fun b =>
  let s := b.site g
  let h := bktHdr m.addr
  let size := if h.fmt = 1 then 2 else 4
  let chunks := ((h.rows + 1) * (h.cols + 1) * size + 63) / 64
  let open_ := Tbl.get (dflt []) m.lane s.tile
  let own := m.addr - h.chunk * 2 ^ 31 - b2n h.last * 2 ^ 30
  let bad := decide (h.fmt = 3) || !(s.agreed.tileFmt).testBit h.fmt || decide (h.eng / 6 ≠ g / 4) ||
    (b.hatPos g m.hat).isNone || decide (h.last ≠ decide (h.chunk + 1 = chunks)) ||
    (if h.chunk = 0 then !b.holdsCredit g h.eng h.treg || decide (open_ ≠ [])
      else decide (open_ ≠ [h.eng, h.chunk, chunks, own, m.tag, m.hat]))
  if bad then violation g
  else .all [
    modGlv g fun s => { s with
      tcredit := if h.chunk = 0 then s.tcredit.filter fun c => ¬ (c.1 = h.eng ∧ c.2.1 = h.treg) else s.tcredit,
      tile := Tbl.set (dflt []) m.lane
        (if h.last then [] else [h.eng, h.chunk + 1, chunks, own, m.tag, m.hat]) s.tile },
    sendPkt { Pkt.bare 0x60 m.addr m.tag m.hat (.glove g m.lane) (.engine h.eng) with
      label := m.label, ordered := true, units := [m.unit] }]

/-- A message is taken. -/
def siteMessage (g : Nat) (m : Msp) : Prog := .read fun b =>
  let s := b.site g
  if m.chan = 4 then
    let q := msgPkt g m [] .commitLogic
    .when ((b.hatPos g m.hat).isNone && !opExempt m.op) (siteRefuse g q St.accessDenied)
  else if opLine m.op then
    match s.half.find? fun x => decide (x.op = m.op ∧ x.tag = m.tag) with
    | none => modGlv g fun s => { s with half := s.half ++ [m] }
    | some x => .all [
        modGlv g fun s => { s with half := s.half.erase x },
        if m.op = 0x39 then siteSnoopRsp g x [x.unit, m.unit] else siteRequest g (msgPkt g x [x.unit, m.unit] .commitLogic)]
  else if m.op = 0x38 then siteSnoopRsp g m []
  else if m.op = 0x60 then siteTile g m
  else if 0x63 ≤ m.op ∧ m.op ≤ 0x6F then sendPkt { msgPkt g m (if m.dlen = 0 then [] else [m.unit]) (.engine (bktHdr m.addr).eng) with ordered := true }
  else if m.op = 0x82 ∨ m.op = 0x83 then siteRegRsp g m
  else siteRequest g (msgPkt g m (if m.dlen = 0 then [] else [m.unit]) .commitLogic)

/-- Operations that a hold of the site's partition lets pass: write-backs, eviction notices, answers and tiles. -/
def opPasses (op : Nat) : Bool := opExempt op || decide (op = 0x60 ∨ op = 0x82 ∨ op = 0x83)

/-- A mesh-bound message of a fitted site is taken with a credit of its pool. -/
def takeMessage (g : Nat) (m : Msp) : Prog := .read fun b =>
  let k := poolFromSite m
  let have_ := Tbl.get credit0 k (b.site g).fromSite
  if b.badMsg g m || !have_.covers (creditOf m) then violation g
  else .all [
    flitRetries g, countMsp g m,
    .when (decide (m.chan = 3)) (ctlSeen g),
    modGlv g fun s => { s with fromSite := Tbl.set credit0 k (have_.sub (creditOf m)) s.fromSite },
    siteMessage g m,
    .read fun b => .when (b.siteRuns g) (returnCredit g k (creditOf m) (!opExempt m.op))]

/-- A message from a site (R117).  One that its partition's hold keeps out, or whose module carries nothing, has not arrived yet;
a site that is fitting has no channel agreed (R123), and what one that passes no traffic sends is discarded (R142). -/
def siteMeshMessage (g : Nat) (m : Msp) : Prog := .read fun b =>
  let local_ := decide (0xC0 ≤ m.op) && !b.badMsg g m
  if b.domAsleep (12 + g / 4) then startWake (12 + g / 4)
  else if b.moduleHeld g m.module || decide (m.chan = 5 ∨ m.chan = 6) then .skip
  else if local_ then siteLocal g m
  else if b.gState g = SiteState.fitting then violation g
  else .when (b.siteRuns g && (!b.held? (b.sitePart g) || opPasses m.op)) (takeMessage g m)

def execSiteMeshMessage (g : Fin 16) (m : Msp) (s : State) : Host.Outcome State Fault Refusal := s.run (siteMeshMessage g m.carried)

end Sys2Proof.Machine
end

