-- ==== Sys2Proof/Machine/PrtArith.lean ====
section
/-! DEFINITION. Task records of a Prour tile and what a task computes: formats, operands, products (R146–R150, R158–R161). -/

namespace Sys2Proof.Machine

/-! ### Formats (R147, R148) -/

def prtFloat (f : Nat) : Bool := decide (1 ≤ f ∧ f ≤ 8)
def prtMx (f : Nat) : Bool := decide (4 ≤ f ∧ f ≤ 8)
def prtBits (f : Nat) : Nat := if f = 1 then 16 else if f = 6 ∨ f = 7 then 6 else if f = 8 then 4 else 8
def prtFmt (f : Nat) : FFmt :=
  match f with
  | 1 => .bf16
  | 2 => .e4m3
  | 3 => .e5m2
  | 4 => .e4m3
  | 5 => .e5m2
  | 6 => .e3m2
  | 7 => .e2m3
  | _ => .e2m1

/-- Formats that may meet (R146). -/
def prtPair (f g : Nat) : Bool :=
  decide ((f = 1 ∧ g = 1) ∨ (f = 9 ∧ g = 9) ∨ (2 ≤ f ∧ f ≤ 8 ∧ 2 ≤ g ∧ g ≤ 8))

/-! ### A task record (R158–R160) -/

/-- A reference to an operand. -/
structure OpRef where
  offset : Nat
  top    : Nat      -- OFFSET[63:57]
  stride : Nat
  source : Nat
  rsvd   : Nat

def opRefAt (l : List Byte) (o : Nat) : OpRef :=
  let w := numAt l o 8
  ⟨w % 2 ^ 57, w / 2 ^ 57, numAt l (o + 8) 4, numAt l (o + 12) 1, numAt l (o + 13) 3⟩

namespace OpRef
def res (r : OpRef) : Bool := r.source.testBit 7
def buf (r : OpRef) : Nat := r.source % 64
def seg (r : OpRef) : Nat := r.source % 8
/-- Reserved bits are 0; a resident buffer's OFFSET and STRIDE are ignored (R161). -/
def plain (r : OpRef) : Bool :=
  decide (r.rsvd = 0) && (if r.res then !r.source.testBit 6 else decide (r.top = 0 ∧ r.source < 8 ∧ r.offset % 64 = 0))
end OpRef

namespace Task
def n (t : Task) (o k : Nat) : Nat := numAt t.bytes o k
def kind (t : Task) : Nat := t.n 0 1
def aTrans (t : Task) : Bool := (t.n 1 1).testBit 0
def bTrans (t : Task) : Bool := (t.n 1 1).testBit 1
def order (t : Task) : Bool := (t.n 1 1).testBit 2
def irq (t : Task) : Bool := (t.n 1 1).testBit 3
def roleB (t : Task) : Bool := (t.n 1 1).testBit 4
def label (t : Task) : Nat := t.n 2 2
def m (t : Task) : Nat := t.n 4 4
def nn (t : Task) : Nat := t.n 8 4
def k (t : Task) : Nat := t.n 0xC 4
def fmtA (t : Task) : Nat := t.n 0x10 1
def fmtB (t : Task) : Nat := t.n 0x11 1
def fmtOut (t : Task) : Nat := t.n 0x12 1
def round (t : Task) : Nat := t.n 0x13 1
def tileRows (t : Task) : Nat := 16 * t.n 0x14 1
def tileCols (t : Task) : Nat := 16 * t.n 0x15 1
def refA (t : Task) : OpRef := opRefAt t.bytes 0x18
def refB (t : Task) : OpRef := opRefAt t.bytes 0x28
def scaleA (t : Task) : OpRef := opRefAt t.bytes 0x38
def scaleB (t : Task) : OpRef := opRefAt t.bytes 0x48
def route (t : Task) : Nat := t.n 0x58 8
def tspan (t : Task) : Nat := bits t.route 20 5
def tbase (t : Task) : Nat := bits t.route 16 4
def engine (t : Task) : Nat := bits t.route 8 5
def lane (t : Task) : Nat := bits t.route 0 2
def done (t : Task) : Nat := t.n 0x60 8
def doneSeg (t : Task) : Nat := t.done / 2 ^ 61
def doneOff (t : Task) : Nat := t.done % 2 ^ 57
/-- Tiles across, and tiles of the whole task. -/
def gridCols (t : Task) : Nat := (t.nn + t.tileCols - 1) / t.tileCols
def gridTiles (t : Task) : Nat := (t.m + t.tileRows - 1) / t.tileRows * t.gridCols
/-- The tile register of tile `k`. -/
def treg (t : Task) (i : Nat) : Nat := t.tbase + i % t.tspan
/-- What a LOAD loads (R161): which role, how many lanes, its format, whether it is stored lane by lane, where its scales are.
The memory it reads is A_REF's in either role, as B_REF names the buffer. -/
def loadLanes (t : Task) : Nat := if t.roleB then t.nn else t.m
def loadFmt (t : Task) : Nat := if t.roleB then t.fmtB else t.fmtA
def loadByLane (t : Task) : Bool := if t.roleB then t.bTrans else !t.aTrans
def loadScale (t : Task) : OpRef := if t.roleB then t.scaleB else t.scaleA
/-- KiB a LOAD takes, in granules of 64 KiB: elements and scales. -/
def loadKib (t : Task) : Nat :=
  let e := (t.loadLanes * t.k * prtBits t.loadFmt + 7) / 8
  let s := if prtMx t.loadFmt then t.loadLanes * (t.k / 32) else 0
  (e + s + 65535) / 65536 * 64
end Task

/-- Bytes of a stored row of an operand, and how many rows it has. -/
def rowBytes (lanes k fmt : Nat) (byLane : Bool) : Nat := ((if byLane then k else lanes) * prtBits fmt + 7) / 8
def rowCount (lanes k : Nat) (byLane : Bool) : Nat := if byLane then lanes else k
/-- The bytes an operand reaches over. -/
def extent (stride rows row : Nat) : Nat := if rows = 0 then 0 else (rows - 1) * stride + row

/-! ### Operands -/

/-- An operand as a task uses it: the code of element k of a lane, its block's scale, lanes that poisoned data fed. -/
structure Opnd where
  code  : Nat → Nat → Nat
  scale : Nat → Nat → Nat
  pois  : Nat → Bool

/-- A field of `w` bits at a bit position of a string of bytes. -/
def codeAt (l : List Byte) (pos w : Nat) : Nat := bits (numAt l (pos / 8) 3) (pos % 8) w

/-- A unit of a read's poisoned ones meets a range of its bytes; one that brought no unit apart poisons all. -/
def ReadIn.hits (r : ReadIn) (lo hi : Nat) : Bool :=
  if !completed r.status && r.pois.isEmpty then true else r.pois.any fun u => decide (u * 64 < hi ∧ lo < (u + 1) * 64)

/-- An operand read from memory: lanes run along its stored rows, or across them. -/
def memOpnd (lanes k fmt : Nat) (byLane : Bool) (stride sstride : Nat) (d s : ReadIn) : Opnd :=
  let w := prtBits fmt
  { code := fun i j => if byLane then codeAt d.data (8 * stride * i + w * j) w else codeAt d.data (8 * stride * j + w * i) w
    scale := fun i j => if prtMx fmt then numAt s.data (sstride * i + j / 32) 1 else 127
    pois := fun i => decide (i < lanes) &&
      ((prtMx fmt && s.hits (sstride * i) (sstride * i + k / 32)) ||
        (if byLane then d.hits (stride * i) (stride * i + (w * k + 7) / 8)
        else (List.range k).any fun j => d.hits (stride * j + w * i / 8) (stride * j + (w * i + w + 7) / 8))) }

/-- A resident buffer as an operand. -/
def Buffer.opnd (u : Buffer) (k : Nat) : Opnd :=
  { code := fun i j => u.codes.getD (i * k + j) 0
    scale := fun i j => if prtMx u.fmt then u.scales.getD (i * (k / 32) + j / 32) 0 else 127
    pois := fun i => u.pois.contains i }

/-! ### Products (R149) -/

/-- The exact product of two values. -/
def FVal.times (a b : FVal) : FVal :=
  match a, b with
  | .nan s, _ => .nan s
  | _, .nan s => .nan s
  | .inf n1, .inf n2 => .inf (n1 != n2)
  | .inf n1, .fin n2 m _ => if m = 0 then .nan false else .inf (n1 != n2)
  | .fin n1 m _, .inf n2 => if m = 0 then .nan false else .inf (n1 != n2)
  | .fin n1 m1 e1, .fin n2 m2 e2 => .fin (n1 != n2) (m1 * m2) (e1 + e2)

/-- An element under its block's scale; a scale of 0xFF makes it NaN (R148). -/
def scaled (fmt code scale : Nat) : FVal :=
  if scale = 0xFF then .nan false
  else match (prtFmt fmt).decode code with
    | .fin n m e => .fin n m (e + scale - 127)
    | v => v

/-- The FP32 accumulator of a row and a column: exact products added in an order left open, each sum rounded to nearest
even. -/
def floatDot (seed fa fb k : Nat) (a b : Opnd) (i j : Nat) : Nat :=
  let terms := (List.range k).map fun x => (scaled fa (a.code i x) (a.scale i x)).times (scaled fb (b.code j x) (b.scale j x))
  let sum := reduceAny seed (fun _ x y => FFmt.fp32.decode (FFmt.fp32.add 0 0 x y).val) k terms
  (FFmt.fp32.add 0 0 (sum.getD (.fin false 0 0)) (.fin true 0 0)).val

/-- The INT32 accumulator of a row and a column, with SAT when it saturated. -/
def intDot (seed k : Nat) (a b : Opnd) (i j : Nat) : FRes :=
  let terms := (List.range k).map fun x => satI32 (signed 8 (a.code i x) * signed 8 (b.code j x))
  (reduceAny seed (fun _ => FRes.join fun x y => satI32 (signed 32 x + signed 32 y)) k terms).getD ⟨0, 0⟩

/-- One element of the output: its word, whether it saturated, whether it is NaN. -/
def outElem (seed draw : Nat) (t : Task) (a b : Opnd) (i j : Nat) : Nat × Bool × Bool :=
  if t.fmtOut = 0x12 then let r := intDot seed t.k a b i j; (r.val, decide (r.flags ≠ 0), false)
  else
    let w := floatDot seed t.fmtA t.fmtB t.k a b i j
    let nan := (FFmt.fp32.decode w).isNan
    if t.fmtOut = 0x11 then
      ((FFmt.fp32.convert .bf16 (if t.round = 2 then 4 else t.round) (draw % 2 ^ 24) false w).val, false, nan)
    else (w, false, nan)

/-- A finished tile: its bytes, whether it saturated, holds a NaN, was fed by poisoned data. -/
structure TileOut where
  rows : Nat
  cols : Nat
  data : List Byte
  sat  : Bool
  nan  : Bool
  pois : Bool

/-- Tile `n` of a task. -/
def Task.tileOut (t : Task) (seed : Nat) (a b : Opnd) (n : Nat) : TileOut :=
  let r0 := n / t.gridCols * t.tileRows
  let c0 := n % t.gridCols * t.tileCols
  let rows := min t.tileRows (t.m - r0)
  let cols := min t.tileCols (t.nn - c0)
  let els := (List.range rows).flatMap fun r => (List.range cols).map fun c =>
    outElem (Config.freeElem seed (2 * (r * cols + c))) (Config.freeElem seed (2 * (r * cols + c) + 1)) t a b (r0 + r) (c0 + c)
  { rows := rows, cols := cols, data := els.flatMap fun e => toBytesLE (if t.fmtOut = 0x11 then 2 else 4) e.1,
    sat := els.any fun e => e.2.1, nan := els.any fun e => e.2.2,
    pois := ((List.range rows).any fun r => a.pois (r0 + r)) || (List.range cols).any fun c => b.pois (c0 + c) }

/-- The messages of a tile (R188, R189). -/
def Task.tileMsgs (t : Task) (c hat lbl n : Nat) (o : TileOut) : List Msp :=
  let chunks := (o.data.length + 63) / 64
  let fmt := if t.fmtOut = 0x11 then 1 else if t.fmtOut = 0x12 then 2 else 0
  (List.range chunks).map fun i =>
    { chan := 2, op := 0x60, dlen := 4, poison := o.pois, ordered := false, lane := t.lane, tag := n % 4096,
      hat := hat, label := lbl,
      addr := t.label * 2 ^ 41 + i * 2 ^ 31 + b2n (decide (i + 1 = chunks)) * 2 ^ 30 + t.treg n * 2 ^ 26 + fmt * 2 ^ 24 +
        (o.rows - 1) * 2 ^ 17 + (o.cols - 1) * 2 ^ 10 + c * 2 ^ 6 + t.engine * 2,
      arg := 0, be := 0, data := slice o.data (64 * i) 64 }

end Sys2Proof.Machine
end

