-- ==== Sys2Proof/Machine/Prour.lean ====
section
/-! DEFINITION. The Prour tile (R144–R168): contexts, submission, task programs, tasks, completion, heat. -/

namespace Sys2Proof.Machine

/-! ### Contexts -/

namespace PrtState
abbrev off := 0
abbrev idle := 1
abbrev running := 2
abbrev loading := 3
abbrev program := 4
abbrev stopping := 5
end PrtState

namespace Block
def prtCtx (b : Block) (g c : Nat) : PrtCtx := Tbl.get (dflt {}) c (b.prtSt g).ctx
def prtF (b : Block) (g c : Nat) (fl : Fld) : Nat := b.f (Reg.PRT_CTX_STATUS g c) fl
def prtState (b : Block) (g c : Nat) : Nat := b.prtF g c Fl.PRT_CTX_STATUS_STATE
def prtHat (b : Block) (g c : Nat) : Nat := b.f (Reg.PRT_CTX_CTL g c) Fl.PRT_CTX_CTL_HAT
/-- The hat a task acts under, and the vector it raises: its context's, or what they were when the context was disabled. -/
def taskHat (b : Block) (g c : Nat) (t : Task) : Nat := (t.under.map Prod.fst).getD (b.prtHat g c)
def taskVec (b : Block) (g c : Nat) (t : Task) : Nat :=
  (t.under.map Prod.snd).getD (b.f (Reg.PRT_CTX_CTL g c) Fl.PRT_CTX_CTL_IRQ_VEC)
def prtBuf (b : Block) (g u : Nat) : Option Buffer := Tbl.get (dflt none) u (b.prtSt g).bufs
/-- A Prour tile stands at the site, and it has the context. -/
def prtHas (b : Block) (g c : Nat) : Bool :=
  b.siteThere g && decide (b.siteKind g = 1) && decide (c < b.f (Reg.PRT_ID g) Fl.PRT_ID_CONTEXTS)
/-- The tile works: it is there and passes traffic. -/
def prtRuns (b : Block) (g c : Nat) : Bool := b.prtHas g c && b.siteRuns g
/-- A write reaches the tile's window: hats of the site's partition, and hat 0 (R379). -/
def prtReach (b : Block) (hat g : Nat) : Bool := decide (hat = 0) || b.inPart hat (b.sitePart g)
/-- The tile takes a write of a context: its hat's, where it holds COMPUTE, and hat 0's (R153, R376). -/
def prtTakes (b : Block) (hat g c : Nat) : Bool := decide (hat = 0) || (decide (hat = b.prtHat g c) && b.holds hat Right.compute)
/-- The message may leave the tile now: what `siteMeshMessage` would carry at once. -/
def siteSends (b : Block) (g : Nat) (m : Msp) : Bool :=
  b.siteRuns g && !b.moduleHeld g m.module && !(b.site g).withheld && decide ((b.site g).hold = 0) &&
    (Tbl.get credit0 (poolFromSite m) (b.site g).fromSite).covers (creditOf m) &&
    !(b.held? (b.sitePart g) && decide (m.op ≠ 0x60))
end Block

def modPctx (g c : Nat) (k : PrtCtx → PrtCtx) : Prog := modPrt g fun s => { s with ctx := Tbl.upd {} c k s.ctx }
def prtStat (g c st : Nat) : Prog := setF (Reg.PRT_CTX_STATUS g c) Fl.PRT_CTX_STATUS_STATE st
def prtDenied (g c : Nat) : Prog := setF (Reg.PRT_CTX_STATUS g c) Fl.PRT_CTX_STATUS_DENIED 1

/-- INFLIGHT, and STATE where it follows the tasks in hand. -/
def showCtx (g c : Nat) : Prog := .read fun b =>
  let x := b.prtCtx g c
  let st := b.prtState g c
  .all [
    setF (Reg.PRT_CTX_STATUS g c) Fl.PRT_CTX_STATUS_INFLIGHT x.tasks.length,
    .when (decide (st = PrtState.stopping) && x.stopping && x.tasks.isEmpty) (.all [
      prtStat g c PrtState.off, modPctx g c fun x => { x with stopping := false }]),
    .when (decide (st = PrtState.idle ∨ st = PrtState.running) ||
        (decide (st = PrtState.stopping) && !x.stopping && !(x.tasks.any fun t => t.prog)))
      (prtStat g c (if x.tasks.isEmpty then PrtState.idle else PrtState.running))]

/-- PRT_SRAM follows the buffers. -/
def showSram (g : Nat) : Prog := .read fun b =>
  let l := (b.prtSt g).bufs.filterMap Prod.snd
  .all [
    setF (Reg.PRT_SRAM g) Fl.PRT_SRAM_BUFFERS l.length,
    setF (Reg.PRT_SRAM g) Fl.PRT_SRAM_FREE_KIB (l.foldl (fun n u => n - u.kib) 65536)]

def setBuf (g u : Nat) (o : Option Buffer) : Prog := .all [
  modPrt g fun s => { s with bufs := Tbl.set (dflt none) u o s.bufs }, showSram g]

/-- A program's digest is cleared. -/
def clearDigest (g c : Nat) : Prog := .all [
  .each (List.range 6) fun k => setR (Reg.PRT_CTX_PROG_DIGEST g c k) 0, measured]

/-! ### Task programs (R157) -/

/-- The next record of a running program becomes a task; the last pass, or a record with VALID clear, ends the program. -/
def progFeed (g c : Nat) : Prog := .read fun b =>
  let x := b.prtCtx g c
  let run := Reg.PRT_CTX_PROG_RUN g c
  let rec_ := b.f run Fl.PRT_CTX_PROG_RUN_RECORD
  let pass := b.f run Fl.PRT_CTX_PROG_RUN_PASS
  let wrap := decide (x.prog.length ≤ rec_)
  let idx := if wrap then 0 else rec_
  let r := x.prog.getD idx []
  let last := wrap && decide (x.again ≤ pass)
  .when (decide (b.prtState g c = PrtState.program) && !(x.tasks.any fun t => t.prog)) (.all [
    .when wrap (setF run Fl.PRT_CTX_PROG_RUN_PASS (pass + 1)),
    if last || !(numAt r 0x7F 1).testBit 7 then .all [prtStat g c PrtState.idle, measured]
    else .all [
      setF run Fl.PRT_CTX_PROG_RUN_RECORD (idx + 1),
      modPctx g c fun x => { x with tasks := x.tasks ++ [{ seq := idx, bytes := r, prog := true }] }]])

/-- COUNT and REPEAT take what an accepted write brings, whatever becomes of its GO or STOP (R11). -/
def progFields (g c : Nat) (val : W64) : Prog := .all [
  setF (Reg.PRT_CTX_PROG g c) Fl.PRT_CTX_PROG_COUNT (getFld val Fl.PRT_CTX_PROG_COUNT),
  setF (Reg.PRT_CTX_PROG g c) Fl.PRT_CTX_PROG_REPEAT (getFld val Fl.PRT_CTX_PROG_REPEAT)]

/-- GO: the copy begins; a count the tile does not hold, or a program outside its segment, is refused.  DESIGN CHOICE
(notes/assumptions/62.md): GO is taken while tasks of the window still run, and the program's records follow them. -/
def progGo (g c hat : Nat) (val : W64) : Prog := underHat hat (.read fun b =>
  let count := getFld val Fl.PRT_CTX_PROG_COUNT
  let addr := Reg.PRT_CTX_PROG_ADDR g c
  let off := b.f addr Fl.PRT_CTX_PROG_ADDR_OFFSET
  let st := b.prtState g c
  let ok := match b.hatPos g (b.prtHat g c) with
    | some p => b.segAllows (b.segAt (Reg.XLT_GSEG_CTL g p (b.f addr Fl.PRT_CTX_PROG_ADDR_SEG)) false) 1 off (128 * count)
    | none => false
  .when (b.prtRuns g c && b.prtReach hat g) (
    if !b.prtTakes hat g c then prtDenied g c
    else .all [
      progFields g c val,
      if decide (st ≠ PrtState.idle ∧ st ≠ PrtState.running) || !ok || decide (off % 128 ≠ 0) ||
          decide (count = 0 ∨ (if b.prtA2 g then 1024 else 4096) < count) then prtDenied g c
      else .all [
        modPctx g c fun x => { x with count := count, again := getFld val Fl.PRT_CTX_PROG_REPEAT },
        setR (Reg.PRT_CTX_PROG_RUN g c) 0,
        prtStat g c PrtState.loading,
        measured]]))

def execPrtProgGo (g : Fin 16) (c : Fin 16) (hat : Nat) (val : W64) (s : State) : Host.Outcome State Fault Refusal :=
  s.run (progGo g c hat val)

/-- What a read of `len` bytes at an offset of a segment of a site context brings (R159): package memory as it stands, and what
`told` says of the rest. -/
def Block.prtSource (b : Block) (g hat k o len : Nat) (told : ReadIn) : ReadIn :=
  match b.hatPos g hat with
  | some p => b.sourced (b.rightsOf hat) hat ((b.segAt (Reg.XLT_GSEG_CTL g p k) false).pa o) len told
  | none => told

/-- The copy is complete and measured, and runs; a copy that could not be read is refused. -/
def progLoaded (g c : Nat) (told : ReadIn) : Prog := .read fun b =>
  let addr := Reg.PRT_CTX_PROG_ADDR g c
  let count := (b.prtCtx g c).count
  let read := b.prtSource g (b.prtHat g c) (b.f addr Fl.PRT_CTX_PROG_ADDR_SEG) (b.f addr Fl.PRT_CTX_PROG_ADDR_OFFSET) (128 * count) told
  let bytes := slice read.data 0 (128 * count)
  let digest := Config.sha384 bytes
  .when (b.prtRuns g c && decide (b.prtState g c = PrtState.loading)) (
    if !completed read.status || read.pois ≠ [] then .all [prtDenied g c, prtStat g c PrtState.idle, showCtx g c]
    else .all [
      modPctx g c fun x => { x with prog := (List.range count).map fun i => slice bytes (128 * i) 128 },
      .each (List.range 6) fun k => setR (Reg.PRT_CTX_PROG_DIGEST g c k) (BitVec.ofNat 64 (bits digest (64 * k) 64)),
      measured,
      prtStat g c PrtState.program,
      progFeed g c, showCtx g c])

def execPrtProgLoaded (g : Fin 16) (c : Fin 16) (read : ReadIn) (s : State) : Host.Outcome State Fault Refusal :=
  s.run (progLoaded g c read)

/-- The program ends after its running task, and its digest is cleared. -/
def progEnd (g c : Nat) : Prog := .read fun b =>
  let st := b.prtState g c
  .when (decide (st = PrtState.loading ∨ st = PrtState.program) || decide ((b.prtCtx g c).prog ≠ [])) (.all [
    .when (decide (st = PrtState.loading ∨ st = PrtState.program)) (prtStat g c PrtState.stopping),
    modPctx g c fun x => { x with prog := [], count := 0, tasks := x.tasks.filter fun t => !t.prog || t.begun || t.ran },
    clearDigest g c,
    showCtx g c])

/-- STOP.  DESIGN CHOICE (notes/assumptions/62.md): a write with GO and STOP both set is a STOP. -/
def progStop (g c hat : Nat) : Prog := underHat hat (.read fun b =>
  .when (b.prtRuns g c && b.prtReach hat g) (if b.prtTakes hat g c then progEnd g c else prtDenied g c))

def execPrtProgStop (g : Fin 16) (c : Fin 16) (hat : Nat) (s : State) : Host.Outcome State Fault Refusal :=
  s.run (progStop g c hat)

/-! ### Enable and disable (R152, R153, R166) -/

/-- ENABLE: NEXT_SEQ 0 where the context was disabled. -/
def prtEnable (g c : Nat) : Prog := .read fun b =>
  .when (decide (b.prtState g c = PrtState.off) || (b.prtCtx g c).stopping) (.all [
    setF (Reg.PRT_CTX_CTL g c) Fl.PRT_CTX_CTL_ENABLE 1,
    setF (Reg.PRT_CTX_STATUS g c) Fl.PRT_CTX_STATUS_NEXT_SEQ 0,
    modPctx g c fun x => { x with stopping := false },
    prtStat g c PrtState.idle, showCtx g c])

def ctxEnable (g c hat : Nat) (val : W64) : Prog := underHat hat (.read fun b =>
  .when (b.prtRuns g c && b.prtReach hat g) (
    if !b.prtTakes hat g c then prtDenied g c
    else .all [
      setF (Reg.PRT_CTX_CTL g c) Fl.PRT_CTX_CTL_HAT (getFld val Fl.PRT_CTX_CTL_HAT),
      setF (Reg.PRT_CTX_CTL g c) Fl.PRT_CTX_CTL_IRQ_VEC (getFld val Fl.PRT_CTX_CTL_IRQ_VEC),
      prtEnable g c]))

def execPrtCtxEnable (g : Fin 16) (c : Fin 16) (hat : Nat) (val : W64) (s : State) : Host.Outcome State Fault Refusal :=
  s.run (ctxEnable g c hat val)

/-- A task that had started when its context was disabled: it keeps its hat, its vector and its resident operands; a program's runs
to its end (R157), another sends the tiles it has finished and starts no further one (R166), and one with nothing to send ends. -/
def Block.taskStops (b : Block) (g c : Nat) (t : Task) : Task :=
  let buf := fun (r : OpRef) => if r.res then b.prtBuf g r.buf else none
  let t := { t with
    under := some (b.taskHat g c t, b.taskVec g c t), bufA := t.bufA <|> buf t.refA, bufB := t.bufB <|> buf t.refB }
  if t.ran || t.prog then t
  else if t.held ≠ [] then { t with halt := true } else { t with ran := true, flags := t.flags ||| 1 }

/-- A context stops: tasks not started drop without records, and NEXT_SEQ goes back to the first of them (DEDUCED,
notes/assumptions/62.md: it shows where the context stopped); its buffers and its program go. -/
def prtDisable (g c : Nat) : Prog := .read fun b =>
  .when (decide (b.prtState g c ≠ PrtState.off)) (.all [
    progEnd g c,
    setF (Reg.PRT_CTX_CTL g c) Fl.PRT_CTX_CTL_ENABLE 0,
    .for? ((b.prtCtx g c).tasks.find? fun t => !t.prog && !t.begun && !t.ran) fun t =>
      setF (Reg.PRT_CTX_STATUS g c) Fl.PRT_CTX_STATUS_NEXT_SEQ t.seq,
    modPctx g c fun x => { x with
      slots := [], stopping := true, tasks := (x.tasks.filter fun t => t.begun || t.ran).map (b.taskStops g c) },
    modPrt g fun s => { s with
      bufs := Tbl.keep (fun u => match Tbl.get (dflt none) u s.bufs with
        | some x => decide (x.ctx ≠ c)
        | none => true) s.bufs },
    showSram g,
    prtStat g c PrtState.stopping, showCtx g c])

def ctxDisable (g c hat : Nat) : Prog := underHat hat (.read fun b =>
  .when (b.prtRuns g c && b.prtReach hat g) (if b.prtTakes hat g c then prtDisable g c else prtDenied g c))

def execPrtCtxDisable (g : Fin 16) (c : Fin 16) (hat : Nat) (s : State) : Host.Outcome State Fault Refusal :=
  s.run (ctxDisable g c hat)

/-- A reset of a hat stops its contexts and enables them again (R166); a removal only stops them. -/
def prtHatStop (g hat : Nat) (remove : Bool) : Prog := .read fun b =>
  .each ((List.range 16).filter fun c => b.prtRuns g c && decide (b.prtHat g c = hat ∧ b.prtState g c ≠ PrtState.off)) fun c =>
    .all [prtDisable g c, .when (!remove) (prtEnable g c)]

/-! ### Submission (R153, R155, R156) -/

/-- The slot holds a task that has not completed. -/
def PrtCtx.busy (x : PrtCtx) (slot : Nat) : Bool := x.tasks.any fun t => !t.prog && decide (t.seq % 128 = slot)

/-- A write into a task window. -/
def taskSubmit (g c hat slot off : Nat) (bytes : List Byte) : Prog := underHat hat (.read fun b =>
  let x := b.prtCtx g c
  let st := b.prtState g c
  let sr := Reg.PRT_CTX_STATUS g c
  let old := slice (Tbl.get (dflt []) slot x.slots) 0 128
  let new := slice (old.take off ++ bytes ++ old.drop (off + bytes.length)) 0 128
  let submit := decide (0x7F < off + bytes.length) && (numAt new 0x7F 1).testBit 7
  let seq := numAt new 0x78 2
  let want := b.prtF g c Fl.PRT_CTX_STATUS_NEXT_SEQ
  .when (b.prtRuns g c && b.prtReach hat g) (
    if !b.prtTakes hat g c || decide (st = PrtState.off) || x.stopping then prtDenied g c
    else if x.busy slot then .all [incSat sr Fl.PRT_CTX_STATUS_OVERRUN, logEv St.creditOverrun g]
    else .all [
      modPctx g c fun x => { x with slots := Tbl.set (dflt []) slot new x.slots },
      .when submit (
        if decide (st = PrtState.program ∨ st = PrtState.loading ∨ st = PrtState.stopping) then
          incSat sr Fl.PRT_CTX_STATUS_OVERRUN
        else if seq ≠ want ∨ slot ≠ want % 128 then incSat sr Fl.PRT_CTX_STATUS_SEQ_ERR
        else .all [
          setF sr Fl.PRT_CTX_STATUS_NEXT_SEQ (want + 1),
          modPctx g c fun x => { x with tasks := x.tasks ++ [{ seq := seq, bytes := new, prog := false }] },
          showCtx g c])]))

def execPrtTaskSubmit (g : Fin 16) (c : Fin 16) (hat : Nat) (slot : Fin 128) (off : Nat) (bytes : List Byte) (s : State) :
    Host.Outcome State Fault Refusal :=
  s.run (taskSubmit g c hat slot off bytes)

/-! ### What a task is refused with (R165) -/

/-- The segment of a hat at the site lets a range through. -/
def Block.prtSeg (b : Block) (g hat k need o size : Nat) : Bool :=
  match b.hatPos g hat with
  | some p => b.segAllows (b.segAt (Reg.XLT_GSEG_CTL g p k) false) need o size
  | none => false

/-- Faults of an operand: its reference, its stride, its extent; a resident one must match. -/
def Block.operandFault (b : Block) (g c : Nat) (roleB : Bool) (lanes k fmt : Nat) (byLane : Bool) (r s : OpRef) : Status :=
  let row := rowBytes lanes k fmt byLane
  let rows := rowCount lanes k byLane
  if !r.plain then St.descInvalid
  else if r.res then
    match b.prtBuf g r.buf with
    | none => St.descInvalid
    | some u =>
      if u.ctx ≠ c then St.accessDenied
      else if u.roleB = roleB ∧ u.fmt = fmt ∧ (if roleB then u.cols else u.rows) = lanes ∧ (if roleB then u.rows else u.cols) = k
        then 0 else St.descInvalid
  else worst [
    if r.stride % 64 = 0 ∧ row ≤ r.stride then 0 else St.descInvalid,
    if b.prtSeg g (b.prtHat g c) r.seg 1 r.offset (extent r.stride rows row) then 0 else St.accessDenied,
    if !prtMx fmt then 0
    else if !s.plain || s.res || decide (s.stride % 64 ≠ 0 ∨ s.stride < k / 32) then St.descInvalid
    else if b.prtSeg g (b.prtHat g c) s.seg 1 s.offset (extent s.stride lanes (k / 32)) then 0 else St.accessDenied]

def sizeOk (n : Nat) : Bool := decide (1 ≤ n ∧ n ≤ 1048576)

/-- What any record is refused with: kind, reserved bytes, its completion record's place. -/
def Block.recordFault (b : Block) (g c : Nat) (t : Task) : Status := worst [
  if 1 ≤ t.kind ∧ t.kind ≤ 4 ∧ t.n 1 1 < 32 ∧ t.n 0x16 2 = 0 ∧ t.n 0x68 16 = 0 ∧ bits (t.n 0x78 8) 16 47 = 0 ∧
    bits t.done 57 4 = 0 ∧ t.doneOff % 16 = 0 then 0 else St.descInvalid,
  if b.prtSeg g (b.taskHat g c t) t.doneSeg 2 t.doneOff 16 then 0 else St.accessDenied]

def Block.matmulFault (b : Block) (g c : Nat) (t : Task) : Status := worst [
  if sizeOk t.m && sizeOk t.nn && sizeOk t.k && prtPair t.fmtA t.fmtB &&
      (if t.fmtA = 9 then decide (t.fmtOut = 0x12) else decide (t.fmtOut = 0x10 ∨ t.fmtOut = 0x11)) &&
      decide (t.round ≤ 2 ∧ 1 ≤ t.n 0x14 1 ∧ t.n 0x14 1 ≤ 8 ∧ 1 ≤ t.n 0x15 1 ∧ t.n 0x15 1 ≤ 8) &&
      !((prtMx t.fmtA || prtMx t.fmtB) && decide (t.k % 32 ≠ 0)) &&
      decide (t.route / 2 ^ 25 = 0 ∧ bits t.route 13 3 = 0 ∧ bits t.route 2 6 = 0 ∧ 1 ≤ t.tspan ∧ t.tbase + t.tspan ≤ 16 ∧
        t.engine / 6 = g / 4)
    then 0 else St.descInvalid,
  if t.round = 2 ∧ b.prtA2 g then St.unsupported else 0,
  b.operandFault g c false t.m t.k t.fmtA (!t.aTrans) t.refA t.scaleA,
  b.operandFault g c true t.nn t.k t.fmtB t.bTrans t.refB t.scaleB,
  if b.inPart (b.prtHat g c) (b.enginePart t.engine) && (b.site g).agreed.lanes.testBit t.lane then 0 else St.accessDenied]

/-- KiB free for a LOAD into a buffer, whose own room comes free. -/
def Block.roomFor (b : Block) (g u : Nat) : Nat :=
  b.f (Reg.PRT_SRAM g) Fl.PRT_SRAM_FREE_KIB + ((b.prtBuf g u).map Buffer.kib).getD 0

/-- A buffer of another context. -/
def Block.notMine (b : Block) (g c u : Nat) : Bool :=
  match b.prtBuf g u with
  | some x => decide (x.ctx ≠ c)
  | none => false

def Block.loadFault (b : Block) (g c : Nat) (t : Task) : Status := worst [
  if sizeOk t.loadLanes && sizeOk t.k && decide (1 ≤ t.loadFmt ∧ t.loadFmt ≤ 9) && !(prtMx t.loadFmt && decide (t.k % 32 ≠ 0)) &&
      t.refB.plain && t.refB.res && !t.refA.res && decide (t.loadKib ≤ b.roomFor g t.refB.buf)
    then 0 else St.descInvalid,
  if b.notMine g c t.refB.buf then St.accessDenied else 0,
  if t.refA.res then 0
    else b.operandFault g c t.roleB t.loadLanes t.k t.loadFmt t.loadByLane t.refA t.loadScale]

def Block.evictFault (b : Block) (g c : Nat) (t : Task) : Status := worst [
  if t.refB.plain && t.refB.res && (b.prtBuf g t.refB.buf).isSome then 0 else St.descInvalid,
  if b.notMine g c t.refB.buf then St.accessDenied else 0]

/-! ### Running tasks (R161–R165) -/

/-- The task of a context that runs next: the first not done; with ORDER, and for a BARRIER, only once every earlier one has
completed (R162). -/
def PrtCtx.next (x : PrtCtx) : Option (Nat × Task) :=
  match x.tasks.zipIdx.find? fun t => !t.1.ran with
  | some (t, i) => if (t.order || decide (t.kind = 4)) && decide (i ≠ 0) then none else some (i, t)
  | none => none

def modTask (g c i : Nat) (k : Task → Task) : Prog :=
  modPctx g c fun x => { x with tasks := x.tasks.modify i k }

/-- A task of a kind is served: it begins; one that is refused is done without effect. -/
def serveTask (g c kind : Nat) (fault : Block → Task → Status) (go : Nat → Task → Prog) : Prog := .read fun b =>
  .when (b.prtRuns g c) (.for? (b.prtCtx g c).next fun it =>
    let i := it.1
    let t := it.2
    .when (decide (t.kind = kind)) (
      if t.begun then go i t
      else
        let st := worst [b.recordFault g c t, fault b t]
        .all [
          modTask g c i fun t => { t with
            begun := true, start := b.now, status := st, ran := decide (st ≠ 0),
            flags := if (b.prtSt g).level ≠ 0 ∨ (b.prtSt g).slow then 16 else 0 },
          .when (decide (st = 0 ∧ kind = 1)) (setF (Reg.PRT_CLK g) Fl.PRT_CLK_NOW_MHZ
            (min 1907 (b.f (Reg.PRT_CLK g) Fl.PRT_CLK_NOW_MHZ))),
          .when (decide (st = 0)) (go i t)]))

/-- Finished tiles that wait in the cores of a tile. -/
def Block.tilesHeld (b : Block) (g : Nat) : Nat :=
  (b.prtSt g).ctx.foldl (fun n e => e.2.tasks.foldl (fun n t => n + t.held.length) n) 0

/-- The array finishes a task's next tile, which waits in its core for credit: at most two in each of twelve cores, then issue stops
(R163). -/
def makeTile (g c i : Nat) (a b' : Block → Task → Opnd) : Prog := .read fun b =>
  .for? (b.prtCtx g c).tasks[i]? fun t =>
    let o := t.tileOut b.free (a b t) (b' b t) t.made
    let hat := b.taskHat g c t
    .when (!t.ran && !t.halt && decide (t.made < t.gridTiles ∧ b.tilesHeld g < 24)) (.all [
      .edit .free,
      modTask g c i fun t => { t with
        made := t.made + 1, held := t.held ++ [t.tileMsgs c hat (b.hatLabel hat) t.made o],
        flags := t.flags ||| (2 * b2n o.sat + 4 * b2n o.nan) }])

/-- A task's oldest finished tile goes out, if its tile register's credit is in hand and the lane carries it now (R163); after a
refused read, poisoned (R165). -/
def sendTile (g c i : Nat) : Prog := .read fun b =>
  .for? (b.prtCtx g c).tasks[i]? fun t =>
    let stopped := t.flags.testBit 0
    let msgs := (t.held.headD []).map fun m => { m with poison := m.poison || stopped }
    let ready := match msgs with
      | m :: _ => b.siteSends g m
      | [] => false
    let n := t.tiles + 1
    let over_ := decide (n = t.gridTiles) || (t.halt && t.held.tail.isEmpty)
    .when (!t.ran && b.holdsCredit g t.engine (t.treg t.tiles) && ready) (.all [
      .each msgs (siteMeshMessage g),
      modTask g c i fun t => { t with
        tiles := n, held := t.held.tail, ran := over_, flags := t.flags ||| b2n (over_ && decide (n ≠ t.gridTiles)) }])

/-- What reads of operands showed: poisoned data, and a read that was refused ends the reading (R165).  DEDUCED
(notes/assumptions/62.md): a resident operand is no operand read, so a MATMUL fed by a buffer whose LOAD read poison sends poisoned
tiles and keeps its own STATUS and POISON_IN as they are. -/
def readsSeen (g c i : Nat) (l : List ReadIn) : Prog :=
  let bad := l.any fun r => rejected r.status
  let pois := l.any fun r => !completed r.status || r.pois ≠ []
  .when pois (modTask g c i fun t => { t with
    status := max t.status St.poisoned, flags := t.flags ||| (8 ||| b2n bad) })

/-- What a read of an operand's elements, or of its scales, brings (R151, R159). -/
def Block.elemSource (b : Block) (g hat lanes k fmt : Nat) (byLane : Bool) (r : OpRef) (told : ReadIn) : ReadIn :=
  b.prtSource g hat r.seg r.offset (extent r.stride (rowCount lanes k byLane) (rowBytes lanes k fmt byLane)) told
def Block.scaleSource (b : Block) (g hat lanes k : Nat) (r : OpRef) (told : ReadIn) : ReadIn :=
  b.prtSource g hat r.seg r.offset (extent r.stride lanes (k / 32)) told

/-- MATMUL: what its operand reads brought, the tiles the array finishes and as many out as there is credit for. -/
def matmul (g c : Nat) (a b sa sb : ReadIn) : Prog :=
  serveTask g c 1 (fun blk t => blk.matmulFault g c t) fun i t => .read fun blk =>
    let hat := blk.taskHat g c t
    let a := blk.elemSource g hat t.m t.k t.fmtA (!t.aTrans) t.refA a
    let b := blk.elemSource g hat t.nn t.k t.fmtB t.bTrans t.refB b
    let sa := blk.scaleSource g hat t.m t.k t.scaleA sa
    let sb := blk.scaleSource g hat t.nn t.k t.scaleB sb
    let used := (if t.refA.res then [] else a :: if prtMx t.fmtA then [sa] else []) ++
      (if t.refB.res then [] else b :: if prtMx t.fmtB then [sb] else [])
    let opA := fun (k : Block) (t : Task) => match t.refA.res, t.bufA <|> k.prtBuf g t.refA.buf with
      | true, some u => u.opnd t.k
      | _, _ => memOpnd t.m t.k t.fmtA (!t.aTrans) t.refA.stride t.scaleA.stride a sa
    let opB := fun (k : Block) (t : Task) => match t.refB.res, t.bufB <|> k.prtBuf g t.refB.buf with
      | true, some u => u.opnd t.k
      | _, _ => memOpnd t.nn t.k t.fmtB t.bTrans t.refB.stride t.scaleB.stride b sb
    .when (!(blk.prtSt g).hotNow && (used.isEmpty || t.halt || !(blk.prtSt g).noRead)) (.all [
      .when (!t.halt && decide (t.made < t.gridTiles)) (readsSeen g c i used),
      .each (List.range 24) fun _ => .all [makeTile g c i opA opB, sendTile g c i]])

def execMatmul (g : Fin 16) (c : Fin 16) (a b sa sb : ReadIn) (s : State) : Host.Outcome State Fault Refusal :=
  s.run (matmul g c a b sa sb)

/-- LOAD: the operand becomes a resident buffer, poisoned where what it read was. -/
def loadTask (g c : Nat) (src scale : ReadIn) : Prog :=
  serveTask g c 2 (fun b t => b.loadFault g c t) fun i t => .read fun b =>
    let hat := b.taskHat g c t
    let src := b.elemSource g hat t.loadLanes t.k t.loadFmt t.loadByLane t.refA src
    let scale := b.scaleSource g hat t.loadLanes t.k t.loadScale scale
    let used := src :: if prtMx t.loadFmt then [scale] else []
    let stop := used.any fun r => rejected r.status
    let o := memOpnd t.loadLanes t.k t.loadFmt t.loadByLane t.refA.stride t.loadScale.stride src scale
    let lanes := List.range t.loadLanes
    .when (!(b.prtSt g).noRead) (.all [
      readsSeen g c i used,
      setBuf g t.refB.buf (some {
        ctx := c, roleB := t.roleB, rows := if t.roleB then t.k else t.m, cols := if t.roleB then t.nn else t.k,
        fmt := t.loadFmt, kib := t.loadKib,
        codes := lanes.flatMap fun l => (List.range t.k).map (o.code l),
        scales := if prtMx t.loadFmt then lanes.flatMap fun l => (List.range (t.k / 32)).map fun j => o.scale l (32 * j) else [],
        pois := lanes.filter fun l => stop || o.pois l }),
      modTask g c i fun t => { t with ran := true }])

def execLoad (g : Fin 16) (c : Fin 16) (src scale : ReadIn) (s : State) : Host.Outcome State Fault Refusal :=
  s.run (loadTask g c src scale)

/-- EVICT: the buffer is free. -/
def evictTask (g c : Nat) : Prog :=
  serveTask g c 3 (fun b t => b.evictFault g c t) fun i t => .all [
    setBuf g t.refB.buf none, modTask g c i fun t => { t with ran := true }]

def execEvict (g : Fin 16) (c : Fin 16) (s : State) : Host.Outcome State Fault Refusal := s.run (evictTask g c)

/-- BARRIER: done once it is the oldest task. -/
def barrierTask (g c : Nat) : Prog :=
  serveTask g c 4 (fun _ _ => 0) fun i _ => modTask g c i fun t => { t with ran := true }

def execTaskBarrier (g : Fin 16) (c : Fin 16) (s : State) : Host.Outcome State Fault Refusal := s.run (barrierTask g c)

/-! ### Completion (R164, R165) -/

/-- The message that writes a completion record. -/
def Block.doneMsg (b : Block) (g c : Nat) (t : Task) : Msp :=
  let hat := b.taskHat g c t
  let pa := match b.hatPos g hat with
    | some p => (b.segAt (Reg.XLT_GSEG_CTL g p t.doneSeg) false).pa t.doneOff
    | none => 0
  let rec_ := toBytesLE 2 t.seq ++ toBytesLE 1 t.status ++ toBytesLE 1 t.flags ++ toBytesLE 4 t.tiles ++ toBytesLE 2 t.label ++
    [0, 0] ++ toBytesLE 4 (min (b.now - t.start) 0xFFFFFFFF)
  let o := pa % 64
  { chan := 0, op := 0x08, dlen := 5, poison := false, ordered := true, lane := 0, tag := 2048 + t.seq % 128 * 16 + c, hat := hat,
    label := b.hatLabel hat, addr := pa - o, arg := 0, be := 0xFFFF * 2 ^ o,
    data := slice (List.replicate o 0 ++ rec_) 0 64 }

/-- The record cannot be written: the place it was checked for is refused. -/
def Block.doneRefused (b : Block) (g c : Nat) (t : Task) (m : Msp) : Bool :=
  let q := msgPkt g m [m.unit] .commitLogic
  !b.prtSeg g (b.taskHat g c t) t.doneSeg 2 t.doneOff 16 || decide (b.siteStatus g q ≠ 0) || (match b.siteRoute q with
    | .inl _ => true
    | .inr _ => false)

/-- The oldest task of a context completes: its record, its interrupt, the next record of a program. -/
def taskComplete (g c : Nat) : Prog := .read fun b =>
  match (b.prtCtx g c).tasks with
  | [] => .skip
  | t0 :: rest =>
    let invalid := !t0.ran && decide (t0.kind < 1 ∨ 4 < t0.kind)
    let t := if invalid then { t0 with status := worst [b.recordFault g c t0, St.descInvalid], start := b.now } else t0
    let m := b.doneMsg g c t
    let irq : Msp := { Msp.ctl 0x84 0 with
      hat := b.taskHat g c t0, label := b.hatLabel (b.taskHat g c t0), addr := b.taskVec g c t0 }
    .when (b.prtRuns g c && (t0.ran || invalid) && b.siteSends g m && (!t.irq || b.siteSends g irq)) (.all [
      modPctx g c fun x => { x with tasks := rest },
      if b.doneRefused g c t m then prtDenied g c else siteMeshMessage g m,
      .when t.irq (siteMeshMessage g irq),
      progFeed g c,
      showCtx g c])

def execPrtTaskComplete (g : Fin 16) (c : Fin 16) (s : State) : Host.Outcome State Fault Refusal := s.run (taskComplete g c)

/-- The tile hears that a completion record's write failed on its way. -/
def prtWriteFailed (g : Nat) (p : Pkt) : Prog := .read fun b =>
  .when (b.prtHas g (p.tag % 16) && decide (p.cmd = 0x19 ∧ 2048 ≤ p.tag) && !completed (p.addr % 256)) (prtDenied g (p.tag % 16))

/-! ### Power and heat (R167, R168) -/

/-- Tasks that run now are marked THROTTLED. -/
def markThrottled (g : Nat) : Prog := modPrt g fun s => { s with
  ctx := s.ctx.map fun e => (e.1, { e.2 with
    tasks := e.2.tasks.map fun t => if t.begun && !t.ran then { t with flags := t.flags ||| 16 } else t }) }

/-- THROTTLE reaches a Prour tile. -/
def throttle (g level : Nat) : Prog := .read fun b =>
  .when (b.prtRuns g 0) (.all [
    modPrt g fun s => { s with level := level },
    setF (Reg.PRT_POWER g) Fl.PRT_POWER_LEVEL level,
    .when (decide (level ≠ 0)) (markThrottled g)])

def execThrottle (g : Fin 16) (level : Fin 8) (s : State) : Host.Outcome State Fault Refusal := s.run (throttle g level)

/-- Power limit at a throttle level, in units of 0.1 W (R167). -/
def prtLimit (level : Nat) : Nat := [1050, 919, 788, 656, 525, 394, 263, 131].getD level 131

/-- The tile samples its sensors, in units of 0.125 °C: above 105 °C it lowers its clock until it is below, at 115 °C it pauses,
below 110 °C it resumes.  Its power stays within the level in force; its clock within 0.8 to 2.1 GHz, the software cap and, while a
core issues, the rated clock (R145). -/
def prtSample (g : Nat) (temps : List Int) (power clock : Nat) : Prog := .read fun b =>
  let hot := (temps.take 8).foldl max (-32768)
  let was := signed 16 (b.f (Reg.PRT_POWER g) Fl.PRT_POWER_HOTTEST)
  let slow := decide (840 < hot) || ((b.prtSt g).slow && decide (840 ≤ hot))
  let cap := min (if (b.prtSt g).ctx.any (fun e => e.2.tasks.any fun t => t.begun && !t.ran && decide (t.kind = 1)) then 1907 else 2100)
    (max 800 (min 2100 (b.f (Reg.PRT_CLK g) Fl.PRT_CLK_CAP_MHZ)))
  let now := b.f (Reg.PRT_CLK g) Fl.PRT_CLK_NOW_MHZ
  let lower := if slow ∧ now ≠ 0 then min cap (now - 1) else cap
  let pause := decide (920 ≤ hot)
  .when (b.prtHas g 0) (.all [
    setF (Reg.PRT_POWER g) Fl.PRT_POWER_HOTTEST (wrapInt 16 hot),
    setF (Reg.PRT_POWER g) Fl.PRT_POWER_POWER (min power (prtLimit (b.prtSt g).level)),
    setF (Reg.PRT_CLK g) Fl.PRT_CLK_NOW_MHZ (max 800 (min clock lower)),
    .when pause (setF (Reg.PRT_POWER g) Fl.PRT_POWER_HOT 1),
    modPrt g fun s => { s with
      hotNow := pause || (s.hotNow && decide (880 ≤ hot)), slow := slow, temps := (temps.take 8).map (wrapInt 16) },
    .when slow (markThrottled g),
    .when (slow && decide (was ≤ 840)) (logEv St.thermalThrottle g)])

def execPrtSensorSample (g : Fin 16) (temps : List Int) (power clock : Nat) (s : State) : Host.Outcome State Fault Refusal :=
  s.run (prtSample g temps power clock)

end Sys2Proof.Machine
end

