-- ==== Sys2Proof/Machine/Check.lean ====
section
/-! DEFINITION. The consistency rules C01–C25 (R68–R70) and what a change touches (R71, R72). -/

namespace Sys2Proof.Machine

/-- OFFSET of a rule about the whole state, or of a record the content does not carry (R68). -/
abbrev wholeState : Nat := 0xFFFFF

/-! ### What a slot's content says (R61) -/

/-- The image of a content is a full one. -/
def Content.full (c : Content) : Bool := decide (c.img ≠ [] ∧ numAt c.img 6 2 = 1)

/-- One record of an image, as a change. -/
def rawOp (r : RawRec) : Option RecOp :=
  if r.del then some (.del r.type (ofBytesLE r.payload)) else (Rec.ofPayload r.type r.payload).map .set

/-- A section of a type the hub does not implement, marked OPTIONAL: it is skipped (R59). -/
def RawSec.skipped (s : RawSec) : Bool := decide (s.flags % 2 = 1) && decide (s.type < 1 ∨ 8 < s.type)

/-- Where a record staged by an STG write stands in the order of records: after those of the image, before those the content does not
carry (R68); it has no offset and shows `wholeState`. -/
abbrev stgPlace : Nat := 0xFFFFE

/-- A content's changes in image order, each with its offset; records staged by STG writes follow, and stand in no image. -/
def Content.ops (c : Content) : List (Nat × RecOp) :=
  (((imageSecs c.img).1.filter fun s => !s.skipped).flatMap fun s => s.recs.filterMap fun r => (rawOp r).map fun o => (r.off, o)) ++
    c.stg.map fun o => (stgPlace, o)

/-- The committed records with a content merged in. -/
def Content.merged (c : Content) (old : List Rec) : List Rec :=
  (c.ops.map Prod.snd).foldl applyOp (if c.full then [] else old)

/-- Where a content carries a record. -/
def Content.at (c : Content) (r : Rec) : Nat :=
  c.ops.foldl (fun n o => match o.2 with
    | .set x => if x.type = r.type ∧ x.key = r.key then o.1 else n
    | .del .. => n) wholeState

/-! ### The image itself: C01–C06 -/

def allZero (l : List Byte) : Bool := l.all fun x => decide (x = 0)

/-- Rules the header breaks; they stand at offset 0. -/
def Block.headerFaults (b : Block) (img : List Byte) : List Nat :=
  let n := numAt img
  let grade := b.f Reg.HUB_ID Fl.HUB_ID_GRADE
  let (secs, whole) := imageSecs img
  (if n 0 4 = 0x5453424D ∧ n 5 1 = 2 ∧ (n 6 2 = 1 ∨ n 6 2 = 2) ∧ n 8 2 = 0x1632 ∧ n 0xA 1 = b.f Reg.HUB_ID Fl.HUB_ID_HUB_REV ∧
    (n 0xB 1 = 0 ∨ n 0xB 1 = grade) then [] else [1]) ++
  (if Config.sha384 (img.take 0x20 ++ List.replicate 48 0 ++ img.drop 0x50) % 2 ^ 384 = n 0x20 48 then [] else [2]) ++
  (if 128 ≤ img.length ∧ n 0xC 4 = img.length ∧ whole ∧ n 0x50 2 = secs.length ∧ n 0x52 2 < 2 ∧ allZero (slice img 0x58 40)
    then [] else [3])

/-- Rules the sections and records of an image break by their form. -/
def formFaults (old : List Rec) (img : List Byte) : List (Nat × Nat) :=
  let full := decide (numAt img 6 2 = 1)
  let secs := (imageSecs img).1
  let secFaults := secs.zipIdx.flatMap fun e =>
    let s := e.1
    (if s.whole ∧ s.count = s.recs.length ∧ s.resv = 0 ∧ s.flags < 2 then [] else [(s.off, 3)]) ++
    (if (1 ≤ s.type ∧ s.type ≤ 8) ∨ (s.flags % 2 = 1 ∧ 1 ≤ s.type ∧ s.type < 0x80) then [] else [(s.off, 4)]) ++
    (match secs[e.2 + 1]? with
      | some t => if s.type < t.type then [] else [(t.off, 5)]
      | none => [])
  let recFaults := secs.flatMap fun s =>
    if s.skipped then []
    else s.recs.zipIdx.flatMap fun e =>
      let r := e.1
      let key := fun (x : RawRec) => if x.del then ofBytesLE x.payload else (let (o, k) := keySpan x.type; numAt x.payload o k)
      let (_, klen) := keySpan r.type
      (if allZero r.pad && (r.del || (match Rec.ofPayload r.type r.payload with
          | some x => decide (x.payload = r.payload)
          | none => true)) then [] else [(r.off, 3)]) ++
      (if decide (r.type / 256 = s.type) && (if r.del then knownType r.type && decide (r.payload.length = klen)
          else match Rec.ofPayload r.type r.payload with
            | some x => x.inRange
            | none => decide (s.flags % 2 = 1) && !knownType r.type) then [] else [(r.off, 4)]) ++
      (if r.del ∧ (full ∨ (findRec r.type (key r) old).isNone) then [(r.off, 5)] else []) ++
      (match s.recs[e.2 + 1]? with
        | some t => if r.type < t.type ∨ (r.type = t.type ∧ key r < key t) then [] else [(t.off, 5)]
        | none => [])
  secFaults ++ recFaults

/-- C06: the generations. -/
def Block.genFault (b : Block) (c : Content) : Bool :=
  let gen := b.f Reg.CFG_GEN Fl.CFG_GEN_GEN
  let g := numAt c.img 0x10 8
  let base := numAt c.img 0x18 8
  if c.img = [] then decide (c.base ≠ gen)
  else (decide (c.stg ≠ [] ∧ c.base ≠ gen)) ||
    (if c.full then !(decide (g = gen + 1 ∧ base = 0) && c.ops.any fun o => match o.2 with
      | .set r => decide (r.type = 0x0101)
      | .del .. => false)
    else !decide (base = gen ∧ g = base + 1))

/-! ### Objects -/

namespace Block
/-- Objects that may be named: not fused off, not blank (C08). -/
def siteNamed (b : Block) (g : Nat) : Bool := b.siteOn g && decide (b.siteKind g ≠ 0)
def maskBad (m n : Nat) (ok : Nat → Bool) : Bool := (setBits m n).any fun k => !ok k

/-- Channels of a well that are mapped out by fuses and by records. -/
def outOf (b : Block) (l : List Rec) (w : Nat) : Nat := b.f (Reg.WEL_CHAN w) Fl.WEL_CHAN_FUSED ||| mapoutsOf l w
/-- The capacity of a well under a set of records, in bytes (R256). -/
def capOf (b : Block) (l : List Rec) (w : Nat) : Nat :=
  if b.wellOn w then (16 - popCount (b.outOf l w) 16) * 1610612736 else 0

/-- Rules that speak of objects and their places (C07–C15), for one record of the merged state. -/
def recPlaces (b : Block) (new : List Rec) (r : Rec) : List Nat :=
  match r with
  | .target _ _ _ kind sites wells =>
    if kind = b.f Reg.HUB_POPULATION Fl.HUB_POPULATION_SITE_KIND ∧ !maskBad sites 16 b.siteOn ∧ !maskBad wells 12 b.wellOn then []
    else [7]
  | .mapout w _ =>
    (if b.wellOn w then [] else [8]) ++ (if popCount (b.outOf new w) 16 ≤ 4 then [] else [14])
  | .bypass x y dir =>
    let q := quadAt x y
    let fused := b.on (Reg.NOC_BYPASS q) Fl.NOC_BYPASS_VALID && b.on (Reg.NOC_BYPASS q) Fl.NOC_BYPASS_FUSED
    let others := (bypassesOf new).filter fun e => decide (quadAt e.1 e.2.1 = q)
    match neighbour x y dir with
    | some n => if !fused ∧ others.length ≤ 1 ∧ quadAt n.1 n.2 = q then [] else [15]
    | none => [15]
  | .partition p fl sites wells trs =>
    (if maskBad sites 16 b.siteNamed ∨ maskBad wells 12 b.wellOn ∨ maskBad trs 64 (fun t => b.trgUnitOn (t / 8)) then [8] else []) ++
    (if bit fl 0 = true ∧ ((partitionsOf new).any fun e =>
        decide (e.1 ≠ p ∧ (e.2.1 &&& sites ≠ 0 ∨ e.2.2.1 &&& wells ≠ 0 ∨ e.2.2.2 &&& trs ≠ 0))) = true then [9] else []) ++
    (if bit fl 0 = true ∧ (wells = 0 ∨ (setBits sites 16).any (fun g =>
        !((List.range 6).any fun k => b.engineOn (6 * (g / 4) + k) && decide (partOfEngine new (6 * (g / 4) + k) = some p))) = true)
      then [10] else [])
  | .lend kind unit p =>
    let q := if kind = 1 then unit / 12 else unit / 6
    (if (if kind = 1 then b.pumpOn unit else b.engineOn unit) then [] else [8]) ++
    (if partEnabled new p = true ∧ (wellsOfPart new p).any (fun w => decide (w / 3 = q)) = true then [] else [11])
  | .region p gran mask base size =>
    let x : Region := ⟨p, gran, mask, base, size⟩
    let unit := 2 ^ gran * x.wells.length
    (if maskBad mask 12 b.wellOn then [8] else []) ++
    (if 12 ≤ gran ∧ gran ≤ 21 ∧ mask ≠ 0 ∧ base % unit = 0 ∧ size % unit = 0 ∧ base + size ≤ 2 ^ 39 ∧
        x.wells.all (fun w => decide (partOfWell new w = some p)) = true ∧
        (regionsOf new).all (fun y => decide (y.base = base ∨ y.base + y.size ≤ base ∨ base + size ≤ y.base)) = true ∧
        ((regionsOf new).filter fun y => decide (y.part = p)).length ≤ 8 then [] else [12])
  | .reserve w _ _ => if b.wellOn w then [] else [8]
  | .domainOp d .. => if d < 12 ∧ !b.wellOn d then [8] else []
  | _ => []

/-- No calibrated region's operating code would pass 31 (R44). -/
def guardFits (b : Block) (guard : Nat) : Bool := (List.range 16).all fun k =>
  b.regionState k = 0 || decide (b.f (Reg.MON_TMG_REGION k) Fl.MON_TMG_REGION_BASELINE + guard ≤ 31)

/-- Rules that speak of hats, ports, labels, the span and power (C16–C23), for one record of the merged state. -/
def recNames (b : Block) (new : List Rec) (r : Rec) : List Nat :=
  let fused := b.f Reg.PWR_CAP Fl.PWR_CAP_FUSED_W
  match r with
  | .hat h p rights fk kc _ _ ten =>
    (if h < 1024 ∧ (h = 0 → p = 0xFF ∧ rights % 2 ^ 18 = 2 ^ 18 - 1) then [] else [16]) ++
    (if p = 0xFF ∨ partEnabled new p = true then [] else [17]) ++
    (if fk + kc ≤ 256 ∧ (hatsOf new).all (fun x => decide (x.tenant = ten ∨ x.keyCount = 0 ∨ kc = 0 ∨
        x.firstKey + x.keyCount ≤ fk ∨ fk + kc ≤ x.firstKey)) = true then [] else [18])
  | .portBind kind q fn h =>
    (if kind = 2 ∧ b.sys.offPort.contains q then [8] else []) ++
    (if (hatRec new h).isSome = true ∧ (kind = 0 ↔ h = 0) then [] else [19]) ++
    (if kind = 3 ∧ (match hatRec new h with
        | some x => x.rights.testBit Right.config
        | none => false) = true ∧ (peersOf new).any (fun e => decide (e.1 = fn ∧ e.2 % 2 = 1)) = false then [20] else []) ++
    (if kind = 3 ∧ 1023 < fn then [22] else [])
  | .labelBudget h lbl .. =>
    let part := fun (n : Nat) => (hatRec new n).map HatRec.part
    let sum := (budgetsOf new).foldl (fun (n : Nat) e => if part e.1 = part h ∧ e.2.1 = lbl then n + e.2.2.1 else n) 0
    if (hatRec new h).isSome && decide (lbl ≤ 7 ∧ sum ≤ 1000) then [] else [21]
  | .spanIdentity pkg et .. => if pkg < 1024 ∧ 0x0600 ≤ et then [] else [22]
  | .spanPeer n _ => if n < 1024 ∧ n ≠ (identityOf new).1 then [] else [22]
  | .policy guard rise cap =>
    if cap ≤ fused ∧ guard ≤ 4 ∧ rise ≤ 12 ∧ b.guardFits guard = true then [] else [23]
  | .domainOp d lo hi .. => if d < 20 ∧ lo ≤ hi ∧ hi ≤ 15 then [] else [23]
  | _ => []

/-- Rules about live state (C24, C25), for one record of the merged state: a trough that is not IDLE keeps its partition, a hat
that is not REMOVED keeps its own. -/
def recLive (b : Block) (old new : List Rec) (r : Rec) : List Nat :=
  match r with
  | .partition p .. =>
    if (List.range 64).all (fun t => b.f (Reg.TRG_CTL t) Fl.TRG_CTL_STATE = 0 ||
        decide ((partOfTrough old t = some p) ↔ (partOfTrough new t = some p))) = true then [] else [24]
  | .hat h p .. =>
    if (match hatRec old h with
      | some x => decide (x.part = p) || b.hatRemoved h
      | none => true) then [] else [25]
  | _ => []

/-- Rules a deletion breaks: a record a content deletes, or a full image leaves out. -/
def delFaults (b : Block) (type key : Nat) : List Nat :=
  (if type = 0x0501 ∧ key = 0 then [16] else []) ++
  (if type = 0x0201 ∧ bit (b.f (Reg.WEL_CHAN (key % 256)) Fl.WEL_CHAN_FUSED) (key / 256) then [14] else [])

def delLive (b : Block) (old new : List Rec) (type key : Nat) : List Nat :=
  (if type = 0x0301 ∧ !(List.range 64).all (fun t => b.f (Reg.TRG_CTL t) Fl.TRG_CTL_STATE = 0 ||
      decide (partOfTrough old t ≠ some key ∨ partOfTrough new t = some key)) then [24] else []) ++
  (if type = 0x0501 ∧ (hatRec old key).isSome ∧ !b.hatRemoved key then [25] else [])

/-- Rules of the merged state as a whole: capacity sums, cap sums, the guard band where no POLICY record gives one, the wellhead's own
binding (C13, C19, C23). -/
def wholeFaults (b : Block) (new : List Rec) : List Nat :=
  let shares := fun w => (regionsOf new).foldl (fun n r => if r.mask.testBit w then n + r.share else n) 0
  (if (List.range 12).all fun w => decide (shares w + reservedOf new w ≤ b.capOf new w) then [] else [13]) ++
  (if (bindsOf new).any fun e => decide (e = (0x100, 0)) then [] else [19]) ++
  let policy := policyOf (b.f Reg.PWR_CAP Fl.PWR_CAP_FUSED_W) new
  (if (List.range 16).foldl (fun n p => n + (partCapOf new p).getD 0) 0 ≤ policy.2.2 ∧ b.guardFits policy.1 = true
    then [] else [23])

/-- Records that a content takes away: those it deletes, and those of the committed state a full image leaves out. -/
def goneRecs (old : List Rec) (c : Content) : List (Nat × Nat × Nat) :=
  (c.ops.filterMap fun o => match o.2 with
    | .del t k => some (o.1, t, k)
    | .set _ => none) ++
  (if c.full then (old.filter fun r => decide (stgPlace ≤ c.at r) && !(c.merged old).contains r).map fun r =>
    (wholeState, r.type, r.key) else [])

/-- Every fault of a content that depends on live state (R70). -/
def liveFaults (b : Block) (c : Content) : List (Nat × Nat) :=
  let new := c.merged b.recs
  (new.flatMap fun r => (b.recLive b.recs new r).map fun n => (c.at r, n)) ++
    (goneRecs b.recs c).flatMap fun g => (b.delLive b.recs new g.2.1 g.2.2).map fun n => (g.1, n)

/-- Every fault of a content, as (offset, rule). -/
def faults (b : Block) (c : Content) : List (Nat × Nat) :=
  let new := c.merged b.recs
  (if c.img = [] then [] else (b.headerFaults c.img).map (fun n => (0, n)) ++ formFaults b.recs c.img) ++
  (if b.genFault c then [(0, 6)] else []) ++
  (new.flatMap fun r =>
    ((if r.inRange then [] else [4]) ++ b.recPlaces new r ++ b.recNames new r).map fun n => (c.at r, n)) ++
  ((goneRecs b.recs c).flatMap fun g => (b.delFaults g.2.1 g.2.2).map fun n => (g.1, n)) ++
  (b.wholeFaults new).map (fun n => (wholeState, n)) ++
  b.liveFaults c

end Block

/-- The first failing record and its lowest rule (R68): a record of the content before any the content does not carry. -/
def firstFault : List (Nat × Nat) → Option (Nat × Nat)
  | [] => none
  | x :: l =>
    let m := l.foldl (fun m y => if y.1 < m.1 ∨ (y.1 = m.1 ∧ y.2 < m.2) then y else m) x
    some (if m.1 = stgPlace then wholeState else m.1, m.2)

/-! ### What a change touches (R71, R72) -/

/-- What a commit touches: partitions as a mask, whether a package-wide and whether a live-class record changes. -/
structure Touch where
  parts   : Nat
  package : Bool
  live    : Bool
  deriving DecidableEq, Repr

def partBit (o : Option Nat) : Nat :=
  match o with
  | some p => 2 ^ p
  | none => 0

/-- The records that differ, old and new: none where there is none. -/
def changedRecs (old new : List Rec) : List (Option Rec × Option Rec) :=
  (old.filterMap fun r =>
    let n := findRec r.type r.key new
    if n = some r then none else some (some r, n)) ++
  (new.filterMap fun r => if (findRec r.type r.key old).isNone then some (none, some r) else none)

/-- What one changed record touches. -/
def recTouch (old new : List Rec) (r : Rec) (both : Bool) : Touch :=
  match r with
  | .partition p .. => ⟨2 ^ p, false, false⟩
  | .lend _ _ p => ⟨2 ^ p, false, false⟩
  | .region p .. => ⟨2 ^ p, false, false⟩
  | .mapout w _ => ⟨partBit (partOfWell old w) ||| partBit (partOfWell new w), false, false⟩
  | .reserve w _ _ => ⟨partBit (partOfWell old w) ||| partBit (partOfWell new w), false, false⟩
  | .bypass .. => ⟨0xFFFF, true, false⟩
  | .spanIdentity .. => ⟨0xFFFF, true, false⟩
  | .hat h p .. =>
    let moved := decide ((hatRec old h).map HatRec.part ≠ (hatRec new h).map HatRec.part)
    if both && moved then ⟨if p < 16 then 2 ^ p else 0, false, false⟩ else ⟨0, false, true⟩
  | _ => ⟨0, false, true⟩

/-- Partitions that gain or lose an object. -/
def movedParts (old new : List Rec) : Nat :=
  let one := fun (n : Nat) (part : List Rec → Nat → Option Nat) => (List.range n).foldl (fun m k =>
    if part old k = part new k then m else m ||| partBit (part old k) ||| partBit (part new k)) 0
  one 16 partOfSite ||| one 12 partOfWell ||| one 64 partOfTrough ||| one 48 partOfPump ||| one 24 partOfEngine

/-- What a commit touches; while no partition exists yet, none is touched (R82). -/
def touchOf (old new : List Rec) : Touch :=
  let t := (changedRecs old new).foldl (fun t c =>
    [c.1, c.2].foldl (fun t o => match o with
      | some r =>
        let u := recTouch old new r (c.1.isSome && c.2.isSome)
        ⟨t.parts ||| u.parts, t.package || u.package, t.live || u.live⟩
      | none => t) t) ⟨movedParts old new, false, false⟩
  if partitionsOf old = [] then { t with parts := 0 } else t

/-- The partitions a commit holds and drains: all that exist where a package-wide record changes (R71, R72). -/
def heldParts (old new : List Rec) : Nat :=
  let t := touchOf old new
  if t.package then (partitionsOf old).foldl (fun m e => setBit m e.1) 0 ||| t.parts else t.parts

end Sys2Proof.Machine
end

