-- ==== Sys2Proof/Machine/Cistern.lean ====
section
/-! DEFINITION. The slots of the staging cistern (R63–R68), STG fields (R13, R65, R66), the export of the canonical image (R57). -/

namespace Sys2Proof.Machine

namespace SlotState
abbrev empty := 0
abbrev claimed := 1
abbrev staging := 2
abbrev checked := 3
abbrev committing := 4
abbrev loading := 5
end SlotState

namespace Block
def slotF (b : Block) (n : Nat) (fl : Fld) : Nat := b.f (Reg.CFG_SLOT_STATUS n) fl
def slotState (b : Block) (n : Nat) : Nat := b.slotF n Fl.CFG_SLOT_STATUS_STATE
/-- The slot is held by a hat. -/
def slotHeld (b : Block) (n hat : Nat) : Bool :=
  decide (b.slotState n ≠ SlotState.empty) && decide (b.slotF n Fl.CFG_SLOT_STATUS_OWNER = hat)
def gen (b : Block) : Nat := b.f Reg.CFG_GEN Fl.CFG_GEN_GEN
end Block

def setSlot (n st : Nat) : Prog := setF (Reg.CFG_SLOT_STATUS n) Fl.CFG_SLOT_STATUS_STATE st

/-- A command of a slot has finished. -/
def slotDone (n : Nat) (code : Status) (rule off : Nat) : Prog :=
  let a := Reg.CFG_SLOT_STATUS n
  .all [setF a Fl.CFG_SLOT_STATUS_DONE 1, setF a Fl.CFG_SLOT_STATUS_CODE code, setF a Fl.CFG_SLOT_STATUS_RULE rule,
    setF a Fl.CFG_SLOT_STATUS_OFFSET off]

def showCarry (n : Nat) : Prog := .read fun b =>
  setF (Reg.CFG_SLOT_STATUS n) Fl.CFG_SLOT_STATUS_CARRY (b.slotSt n).carry.length

/-- A slot is released: at once, or after the commit it is in (R67, R82). -/
def releaseSlot (n : Nat) : Prog := .read fun b =>
  if b.slotState n = SlotState.committing then modSlot n fun s => { s with relOwed := true }
  else .all [
    modSlot n fun _ => {},
    setSlot n SlotState.empty,
    setF (Reg.CFG_SLOT_STATUS n) Fl.CFG_SLOT_STATUS_OWNER 0,
    setR (Reg.CFG_SLOT_TOUCH n) 0,
    showCarry n]

/-- Every slot of a hat is released: it is removed or orphaned (R67). -/
def releaseSlotsOf (hat : Nat) : Prog := .read fun b =>
  .each ((List.range 4).filter fun n => b.slotHeld n hat) releaseSlot

/-- A command of the claiming hat. -/
def slotCmd (hat n : Nat) (p : Block → Prog) : Prog := underHat hat (.read fun b => .when (b.slotHeld n hat) (p b))

def slotClaim (hat n : Nat) : Prog := underHat hat (.read fun b =>
  .when (b.holds hat Right.config && decide (b.slotState n = SlotState.empty)) (.all [
    setF (Reg.CFG_SLOT_STATUS n) Fl.CFG_SLOT_STATUS_OWNER hat, setSlot n SlotState.claimed]))

def execClaim (hat : Nat) (n : Fin 4) (s : State) : Host.Outcome State Fault Refusal := s.run (slotClaim hat n)

def slotRelease (hat n : Nat) : Prog := slotCmd hat n fun _ => releaseSlot n

def execRelease (hat : Nat) (n : Fin 4) (s : State) : Host.Outcome State Fault Refusal := s.run (slotRelease hat n)

def slotForce (hat n : Nat) : Prog := underHat hat (.when (decide (hat = 0)) (releaseSlot n))

def execForceRelease (hat : Nat) (n : Fin 4) (s : State) : Host.Outcome State Fault Refusal := s.run (slotForce hat n)

/-- DISCARD: the claim stays.  Not while a copy, a check or a commit uses the content. -/
def slotDiscard (hat n : Nat) : Prog := slotCmd hat n fun b =>
  let st := b.slotState n
  .when (decide (st ≠ SlotState.committing ∧ st ≠ SlotState.loading) && !(b.slotSt n).checking) (.all [
    modSlot n fun _ => {}, setSlot n SlotState.claimed, showCarry n])

def execDiscard (hat : Nat) (n : Fin 4) (s : State) : Host.Outcome State Fault Refusal := s.run (slotDiscard hat n)

/-! ### STG fields (R11, R65, R66) -/

/-- The STG fields of a register and what a set of records gives them. -/
def Block.stgVals (b : Block) (l : List Rec) (a : Nat) : List (Fld × Nat) :=
  let pol := policyOf (b.f Reg.PWR_CAP Fl.PWR_CAP_FUSED_W) l
  if a = Reg.MON_TMG_CTL then [(Fl.MON_TMG_CTL_RISE_MAX, pol.2.1), (Fl.MON_TMG_CTL_GUARD, pol.1)]
  else if a = Reg.NOC_CTL then [(Fl.NOC_CTL_LABEL_HI, nocArbOf l)]
  else if a = Reg.PWR_CAP then [(Fl.PWR_CAP_CAP_W, pol.2.2)]
  else if Reg.PWR_PART 0 ≤ a ∧ a < Reg.PWR_PART 16 ∧ a % 8 = 0 then
    [(Fl.PWR_PART_CAP_W, (partCapOf l ((a - Reg.PWR_PART 0) / 8)).getD 0)]
  else if Reg.PWR_DOM_CTL 0 ≤ a ∧ a < Reg.PWR_DOM_CTL 20 ∧ a % 16 = 0 then
    let r := getFld (resetVal a)
    let (lo, hi, idle, us) := (domainOpOf l ((a - Reg.PWR_DOM_CTL 0) / 16)).getD
      (r Fl.PWR_DOM_CTL_LOWEST, r Fl.PWR_DOM_CTL_HIGHEST, r Fl.PWR_DOM_CTL_IDLE, r Fl.PWR_DOM_CTL_IDLE_US)
    [(Fl.PWR_DOM_CTL_LOWEST, lo), (Fl.PWR_DOM_CTL_HIGHEST, hi), (Fl.PWR_DOM_CTL_IDLE, idle), (Fl.PWR_DOM_CTL_IDLE_US, us)]
  else []

/-- A word with the STG fields of a register as a set of records gives them. -/
def Block.stgWord (b : Block) (l : List Rec) (a : Nat) (w : W64) : W64 := (b.stgVals l a).foldl (fun w e => putFld w e.1 e.2) w

/-- The record that a register's STG fields stand for, with the values of a word. -/
def Block.stgRec (b : Block) (l : List Rec) (a : Nat) (w : W64) : Option Rec :=
  let pol := policyOf (b.f Reg.PWR_CAP Fl.PWR_CAP_FUSED_W) l
  let g := getFld w
  if a = Reg.MON_TMG_CTL then some (.policy (g Fl.MON_TMG_CTL_GUARD) (g Fl.MON_TMG_CTL_RISE_MAX) pol.2.2)
  else if a = Reg.NOC_CTL then some (.nocArb (g Fl.NOC_CTL_LABEL_HI))
  else if a = Reg.PWR_CAP then some (.policy pol.1 pol.2.1 (g Fl.PWR_CAP_CAP_W))
  else if Reg.PWR_PART 0 ≤ a ∧ a < Reg.PWR_PART 16 ∧ a % 8 = 0 then
    some (.partitionCap ((a - Reg.PWR_PART 0) / 8) (g Fl.PWR_PART_CAP_W))
  else if Reg.PWR_DOM_CTL 0 ≤ a ∧ a < Reg.PWR_DOM_CTL 20 ∧ a % 16 = 0 then
    some (.domainOp ((a - Reg.PWR_DOM_CTL 0) / 16) (g Fl.PWR_DOM_CTL_LOWEST) (g Fl.PWR_DOM_CTL_HIGHEST) (g Fl.PWR_DOM_CTL_IDLE)
      (g Fl.PWR_DOM_CTL_IDLE_US))
  else none

/-- The bytes of a word that a mask of eight bits picks, from another word. -/
def mergeWord (be : Nat) (old new : W64) : W64 :=
  BitVec.ofNat 64 (ofBytesLE (mergeBE be (toBytesLE 8 old.toNat) (toBytesLE 8 new.toNat)))

/-- A content with one STG write staged into it. -/
def Content.stage (b : Block) (c : Content) (a : Nat) (val : W64) (be : Nat) : Content :=
  let l := c.merged b.recs
  match b.stgRec l a (mergeWord be (b.stgWord l a 0) val) with
  | some r => { c with stg := c.stg ++ [.set r] }
  | none => c

/-- A carry list becomes content: a delta against the present generation, or the end of what is there (R65). -/
def carryIn (b : Block) (s : Slot) (fresh : Bool) : Option Content :=
  let start := if fresh then none else s.content
  if s.carry = [] then start
  else some (s.carry.foldl (fun c e => Content.stage b c e.1 e.2.1 e.2.2) (start.getD ⟨[], [], b.gen⟩))

/-! ### Stage (R64) -/

/-- What a STAGE is refused with at once: its length, its source. -/
def Block.stageFault (b : Block) (hat addr len : Nat) : Status :=
  if len = 0 ∨ len % 8 ≠ 0 ∨ 0x80000 < len then St.descInvalid
  else match b.route hat addr with
    | .inl st => st
    | .inr (.bank ..) => 0
    | .inr (.host _) => 0
    | .inr _ => St.descInvalid

/-- A CHECKED slot goes back to STAGING: its carry list follows its content (R64, R65). -/
def uncheckSlot (n : Nat) : Prog := .read fun b => .all [
  modSlot n fun s => { s with content := carryIn b s false, carry := [] },
  setSlot n SlotState.staging,
  setR (Reg.CFG_SLOT_TOUCH n) 0,
  showCarry n]

def slotStage (hat n : Nat) : Prog := slotCmd hat n fun b =>
  let st := b.slotState n
  let len := b.f (Reg.CFG_SLOT_LEN n) Fl.CFG_SLOT_LEN_LEN
  let bad := b.stageFault hat (b.f (Reg.CFG_SLOT_SRC n) Fl.CFG_SLOT_SRC_ADDR * 8) len
  if st = SlotState.committing ∨ st = SlotState.loading ∨ (b.slotSt n).checking then slotDone n St.descInvalid 0 0
  else if bad ≠ 0 then .all [
    .when (decide (st = SlotState.checked)) (uncheckSlot n),
    slotDone n bad 0 0]
  else .all [
    modSlot n fun _ => {
      content := some ⟨[], [], b.gen⟩, copyLen := len, copySrc := b.f (Reg.CFG_SLOT_SRC n) Fl.CFG_SLOT_SRC_ADDR * 8,
      copyRights := b.rightsOf hat },
    setSlot n SlotState.loading, showCarry n]

def execStage (hat : Nat) (n : Fin 4) (s : State) : Host.Outcome State Fault Refusal := s.run (slotStage hat n)

/-- The copy ends: with the bytes of its source, package memory as its home holds it, or with the code of a bad read, which leaves no
content. -/
def stageCopyDone (n : Nat) (told : ReadIn) : Prog := .read fun b =>
  let s := b.slotSt n
  let read := b.sourced s.copyRights (b.slotF n Fl.CFG_SLOT_STATUS_OWNER) s.copySrc s.copyLen told
  .when (decide (b.slotState n = SlotState.loading)) (
    if read.end_ ≠ St.ok then .all [
      modSlot n fun _ => {},
      setSlot n SlotState.claimed,
      slotDone n read.end_ 0 0]
    else .all [
      modSlot n fun x => { x with content := x.content.map fun c => { c with img := slice read.data 0 s.copyLen } },
      setSlot n SlotState.staging,
      slotDone n St.ok 0 0])

def execStageCopyDone (n : Fin 4) (read : ReadIn) (s : State) : Host.Outcome State Fault Refusal := s.run (stageCopyDone n read)

/-! ### STG writes (R11, R65, R66) -/

/-- Rights over a block's fields that are staged (R379). -/
def Block.mayStg (b : Block) (hat a : Nat) : Bool :=
  decide (hat = 0) || b.holds hat (if a = Reg.NOC_CTL then Right.test else Right.power)

/-- The slot a hat's STG write goes to: the lowest it holds (R65). -/
def Block.stgSlot (b : Block) (hat : Nat) : Option Nat := (List.range 4).find? fun n => b.slotHeld n hat

/-- How an STG write completes: refused without a slot, or with the carry list full. -/
def Block.stgStatus (b : Block) (hat a : Nat) : Status :=
  if !b.mayStg hat a then St.accessDenied
  else match b.stgSlot hat with
    | none => St.accessDenied
    | some n =>
      let st := b.slotState n
      if (st = SlotState.checked ∨ st = SlotState.committing) ∧ 256 ≤ (b.slotSt n).carry.length then St.descInvalid else 0

def stgWrite (hat a be : Nat) (val : W64) : Prog := underHat hat (.read fun b =>
  .when (decide (b.stgStatus hat a = 0 ∧ b.stgVals [] a ≠ [])) (.for? (b.stgSlot hat) fun n =>
    let st := b.slotState n
    if st = SlotState.checked ∨ st = SlotState.committing then .all [
      modSlot n fun s => { s with carry := s.carry ++ [(a, val, be)] }, showCarry n]
    else .all [
      modSlot n fun s => { s with content := some (Content.stage b (s.content.getD ⟨[], [], b.gen⟩) a val be) },
      .when (decide (st = SlotState.claimed)) (setSlot n SlotState.staging)]))

def execStgWrite (hat : Nat) (off : Nat) (be : Nat) (val : W64) (s : State) : Host.Outcome State Fault Refusal :=
  s.run (stgWrite hat off be val)

/-- VIEW_DATA: the register as the slot would commit it now, its carry list left out (R66). -/
def Block.viewData (b : Block) (n : Nat) : W64 :=
  let a := b.f (Reg.CFG_SLOT_VIEW_ADDR n) Fl.CFG_SLOT_VIEW_ADDR_OFFSET * 8
  b.stgWord (match (b.slotSt n).content with
    | some c => c.merged b.recs
    | none => b.recs) a (b.w a)

/-! ### Check (R68) -/

def slotCheck (hat n : Nat) : Prog := slotCmd hat n fun b =>
  let st := b.slotState n
  if (st = SlotState.staging ∨ st = SlotState.checked) ∧ !(b.slotSt n).checking then modSlot n fun s => { s with checking := true }
  else slotDone n St.descInvalid 0 0

def execCheck (hat : Nat) (n : Fin 4) (s : State) : Host.Outcome State Fault Refusal := s.run (slotCheck hat n)

/-- TOUCH of a slot. -/
def showTouch (n : Nat) (t : Touch) : Prog :=
  let a := Reg.CFG_SLOT_TOUCH n
  .all [setF a Fl.CFG_SLOT_TOUCH_PARTS t.parts, setF a Fl.CFG_SLOT_TOUCH_PACKAGE (b2n t.package),
    setF a Fl.CFG_SLOT_TOUCH_LIVE (b2n t.live)]

def checkDone (n : Nat) : Prog := .read fun b =>
  let s := b.slotSt n
  .when s.checking (.for? s.content fun c => .all [
    modSlot n fun s => { s with checking := false },
    match firstFault (b.faults c) with
    | none => .all [
        setSlot n SlotState.checked, showTouch n (touchOf b.recs (c.merged b.recs)), slotDone n St.ok 0 0]
    | some (off, rule) => .all [
        uncheckSlot n,
        slotDone n (if rule = 2 then St.digestMismatch else St.checkFailed) rule off]])

def execCheckDone (n : Fin 4) (s : State) : Host.Outcome State Fault Refusal := s.run (checkDone n)

/-! ### Export (R57) -/

/-- The canonical image of the committed state. -/
def Block.canonical (b : Block) : List Byte :=
  canonicalImage (b.f Reg.HUB_ID Fl.HUB_ID_HUB_REV) (b.f Reg.HUB_ID Fl.HUB_ID_GRADE) b.gen b.recs

def cfgExport (hat : Nat) (val : W64) : Prog := underHat hat (.read fun b =>
  .when (b.holds hat Right.config) (.all [
    setF Reg.CFG_EXPORT Fl.CFG_EXPORT_DST (getFld val Fl.CFG_EXPORT_DST),
    .when (decide (getFld val Fl.CFG_EXPORT_GO ≠ 0) && !b.on Reg.CFG_EXPORT Fl.CFG_EXPORT_EXP_BUSY) (.all [
      setF Reg.CFG_EXPORT Fl.CFG_EXPORT_EXP_BUSY 1,
      modCis fun s => { s with
        exporter := hat, expRights := b.rightsOf hat, expDst := getFld val Fl.CFG_EXPORT_DST * 8 }])]))

def execCfgExport (hat : Nat) (val : W64) (s : State) : Host.Outcome State Fault Refusal := s.run (cfgExport hat val)

/-- Bytes in the data units of 64 that they fall into from an address on. -/
def unitRuns (a : Nat) : Nat → List Byte → List (Nat × List Byte)
  | 0, _ => []
  | _, [] => []
  | fuel + 1, l =>
    let n := 64 - a % 64
    (a, l.take n) :: unitRuns (a + n) fuel (l.drop n)

/-- The image is written under the exporting hat, with the rights it held at GO (R77). -/
def exportDone : Prog := .read fun b =>
  let img := b.canonical
  .when (b.on Reg.CFG_EXPORT Fl.CFG_EXPORT_EXP_BUSY) (.all [
    .each (unitRuns b.cis.expDst (img.length / 64 + 2) img) fun r =>
      sendRecordBy b.cis.expRights .commitLogic b.cis.exporter r.1 r.2,
    setF Reg.CFG_EXPORT Fl.CFG_EXPORT_EXP_BUSY 0])

def execCfgExportDone (s : State) : Host.Outcome State Fault Refusal := s.run exportDone

end Sys2Proof.Machine
end

