-- ==== Sys2Proof/Machine/Clear.lean ====
section
/-! DEFINITION. Memory that changes hands: cached copies discarded without write-back, bytes pending clear (R259–R261, R396). -/

namespace Sys2Proof.Machine

/-- A run of well-local bytes: well, first byte, end. -/
structure WlRun where
  well : Nat
  lo   : Nat
  hi   : Nat

def WlRun.hasKey (r : WlRun) (key : Nat) : Bool :=
  decide (keyWell key = r.well ∧ keyAddr key < r.hi ∧ r.lo < keyAddr key + 128)

/-- The shares of a region among the regions of a state. -/
def Region.runs (r : Region) (l : List Region) : List WlRun :=
  r.wells.map fun w => ⟨w, shareStart l w r, shareStart l w r + r.share⟩

/-- Every cached copy of the lines a test picks is discarded: the home sends SNPI to each holder, frees the entry, keeps no copy
(R260). -/
def discardLines (test : Nat → Bool) : Prog := .read fun b => .all [
  .each (b.dir.filter fun e => test e.1) fun e => .each e.2.holders fun g => .all [
    incSat (Reg.WEL_DIR (keyWell e.1)) Fl.WEL_DIR_SNOOPS,
    sendPkt (Pkt.bare 0x32 e.2.pa 0 0 (.bank (keyWell e.1) (homeBank e.2.pa)) (.glove g (e.2.pa / 128 % 4)))],
  .edit (.dirKeep fun k => !test k),
  modMem fun m => { m with
    hc := m.hc.filter fun e => !test e.1,
    stackPois := m.stackPois.filter fun k => !test (k / 4),
    wc := m.wc.foldl (fun t e => Tbl.set (dflt []) e.1 (e.2.filter fun x => !test x.key) t) m.wc },
  .each (List.range 12) fun w => .read fun b => .all [
    showDir w,
    setF (Reg.WEL_WC w) Fl.WEL_WC_OCCUPANCY (b.wcOf w).length]]

/-- The bytes of a run are pending clear: they read 0, and their blocks of 2 MiB are marked. -/
def markClear (r : WlRun) : Prog := .when (decide (r.lo < r.hi)) (
  let lo := byteKey r.well r.lo
  let hi := byteKey r.well r.hi
  .all [
    .edit (.bytesDrop lo hi),
    .edit (.poisDrop (lo / 32) ((hi + 31) / 32)),
    modMem fun m => { m with
      clear := (List.range ((hi - 1) / 2 ^ 21 + 1 - lo / 2 ^ 21)).foldl (fun l i => insertNat (lo / 2 ^ 21 + i) l) m.clear },
    showClear r.well])

end Sys2Proof.Machine
end

