-- ==== Sys2Proof/Machine/Pump.lean ====
section
/-! DEFINITION. The commands of pumps and intakes (R322–R342): submission, admission, the pieces of a transfer, key slots,
weight sets, removal. -/

namespace Sys2Proof.Machine

/-! ### Intakes (R322–R325) -/

/-- An overrun: counted, an error record written, the vector raised (R325, R332, R334). -/
def overrun (i seq : Nat) : Prog := .read fun b =>
  let a := Reg.PMP_INTAKE_STATUS i
  let n := (b.f a Fl.PMP_INTAKE_STATUS_OVERRUN + 1) % 256
  .all [
    setF a Fl.PMP_INTAKE_STATUS_OVERRUN n,
    putRecord (b.rightsOf (b.intakeHat i)) i 0x800 (toBytesLE 2 seq ++ toBytesLE 1 St.creditOverrun ++ List.replicate 17 0 ++
      toBytesLE 1 (b.intakePump i) ++ List.replicate 10 0 ++ toBytesLE 1 n),
    raiseIntake i]

/-- A pump with work in a well that sleeps wakes it (R99, R342). -/
def wakePump (p : Nat) : Prog := .read fun b => .when (b.pumpAsleep p) (packetWake (p / 4))

/-- A write of some bytes of one slot: `data` is the slot's 64 bytes, `be` marks those written (R323–R325). -/
def slotWrite (hat i slot be : Nat) (data : List Byte) : Prog := .read fun b =>
  let a := Reg.PMP_INTAKE_STATUS i
  let st := b.intakeSt i
  let next := b.nextSeq i
  let new := mergeBE be (slice (Tbl.get (dflt []) slot st.slots) 0 64) data
  let word := numAt new 0x38 8
  let submit := be.testBit 63 && word.testBit 63
  let seq := word % 65536
  let busy := st.held.any fun x => decide (x % 64 = slot)
  let store : Prog := modIntake i fun s => { s with slots := Tbl.set (dflt []) slot new s.slots }
  if !(b.intakeOn i && !b.intakeClosing i && decide (hat = b.intakeHat i)) then setF a Fl.PMP_INTAKE_STATUS_DENIED 1
  else if submit then
    if seq ≠ next ∨ slot ≠ next % 64 then incSat a Fl.PMP_INTAKE_STATUS_SEQ_ERR
    else if busy then overrun i seq
    else .all [
      store,
      setF a Fl.PMP_INTAKE_STATUS_NEXT_SEQ (next + 1),
      modIntake i fun s => { s with busy := s.busy ++ [seq], held := s.held ++ [seq] },
      showIntake i,
      wakePump (b.intakePump i)]
  else if busy then overrun i next
  else store

/-- Bytes at an offset of an intake, slot by slot, in address order. -/
def intakeBytes (hat i off : Nat) (bytes : List Byte) : Prog :=
  .each (List.range 64) fun slot =>
    let lo := slot * 64
    if off < lo + 64 ∧ lo < off + bytes.length then
      let idx := List.range 64
      slotWrite hat i slot (maskOf (idx.filter fun j => off ≤ lo + j ∧ lo + j < off + bytes.length))
        (idx.map fun j => if off ≤ lo + j then bytes.getD (lo + j - off) 0 else 0)
    else .skip

def execIntakeWrite (hat : Nat) (i : Fin 4096) (off : Nat) (bytes : List Byte) (s : State) : Host.Outcome State Fault Refusal :=
  s.run (underHat hat (intakeBytes hat i off bytes))

/-! ### Admission (R327) -/

/-- Key slot `k` lies in a hat's range. -/
def Block.inKeyRange (b : Block) (hat k : Nat) : Bool :=
  let a := Reg.HAT_KEYS hat
  decide (hat < 1024 ∧ b.f a Fl.HAT_KEYS_FIRST_KEY ≤ k ∧ k < b.f a Fl.HAT_KEYS_FIRST_KEY + b.f a Fl.HAT_KEYS_KEY_COUNT)

/-- The operation moves bytes. -/
def Desc.moves (d : Desc) : Bool := decide (d.op = 1 ∨ d.op = 2)

/-- The source, or the destination, is a VA range that is walked. -/
def Desc.walksSrc (d : Desc) : Bool := d.srcVa && decide (d.op = 1)
def Desc.walksDst (d : Desc) : Bool := d.dstVa && d.moves

/-- What the form of a descriptor breaks (R326, R327). -/
def Desc.malformed (d : Desc) : Bool :=
  let c := d.crypto ≠ 0
  decide (d.op = 0 ∨ 3 < d.op ∨ 2 < d.crypto ∨ 32 ≤ d.dflags ∨ bits (d.n 2 1) 3 4 ≠ 0 ∨ d.n 7 1 ≠ 0 ∨
    bits (d.n 0x38 8) 16 47 ≠ 0) ||
  (d.moves && decide (d.length = 0)) ||
  (decide (d.op = 3) && decide (d.length ≠ 0 ∨ d.dst ≠ 0)) ||
  (decide (d.op ≠ 1) && decide (d.src ≠ 0 ∨ c ∨ d.weights = true)) ||
  (decide (d.op ≠ 2) && decide (d.fillval ≠ 0)) ||
  (if c then decide (d.length % 4096 ≠ 0 ∨ d.tags % 16 ≠ 0) else decide (d.nonce ≠ 0 ∨ d.tags ≠ 0))

/-- Every check of R327 that a descriptor fails. -/
def Block.admitCodes (b : Block) (d : Desc) : List Status :=
  let ks := b.keyState d.key
  let x := Reg.XLT_CTX_CTL d.xctx
  (if d.malformed then [St.descInvalid] else []) ++
  (if d.crypto = 0 then [] else
    (if ks = 0 ∨ ks = 1 then [St.descInvalid] else if ks = 3 then [St.keyRevoked] else []) ++
    (if b.inKeyRange d.hat d.key then [] else [St.accessDenied])) ++
  (if (d.walksSrc || d.walksDst) && !(b.on x Fl.XLT_CTX_CTL_ENABLE && decide (b.f x Fl.XLT_CTX_CTL_HAT = d.hat))
    then [St.accessDenied] else []) ++
  (if d.weights && !b.wsetHeld d.wset d.hat then [St.accessDenied] else [])

/-- The service label of a descriptor (R381). -/
def Block.descLabel (b : Block) (d : Desc) : Nat :=
  if (d.n 2 1).testBit 7 then b.hatLabel d.hat else d.n 2 1 % 8

/-- A descriptor enters a free place of the working set; a check that fails completes it (R327), its ranges are walked (R311). -/
def admitFirst (p i : Nat) : Prog := .read fun b =>
  let st := b.intakeSt i
  let hat := b.intakeHat i
  .for? st.busy.head? fun seq => .for? ((List.range 64).find? fun s => (b.workAt (workKey p s)).isNone) fun s =>
    let d0 : Desc := { intake := i, seq := seq, bytes := slice (Tbl.get (dflt []) (seq % 64) st.slots) 0 64, hat := hat }
    let d : Desc := { d0 with
      admitted := b.now, rights := b.rightsOf hat, part := b.hatPart hat, epoch := b.xepoch d0.xctx,
      srcRun := if d0.walksSrc then [] else [⟨0, d0.src, d0.length, 0⟩],
      dstRun := if d0.walksDst then [] else [⟨0, d0.dst, d0.length, 0⟩],
      xlat := if d0.walksSrc then 1 else if d0.walksDst then 2 else 0 }
    .all [
      modIntake i fun s => { s with busy := s.busy.tail },
      setWork (workKey p s) (some d),
      charge (.pump p) hat (b.descLabel d) (max 64 ((d.length + 63) / 64 * 64)),
      showPump p,
      match b.admitCodes d with
      | [] => .when (decide (d.xlat ≠ 0)) (walkRange p s 0)
      | l => finishDesc p s (worst l) 0]

/-- A pump may take on work: no commit holds its partition, no window its region (R52), and it is in no unit reset (R342). -/
def Block.pumpFree (b : Block) (p : Nat) : Bool :=
  b.pumpOn p && !b.held? (b.pumpPart p) && !b.windowAt (b.pumpRegion p) && decide (b.sys.unit ≠ some (1, p))

/-- And its well is awake. -/
def Block.pumpRuns (b : Block) (p : Nat) : Bool := b.pumpFree p && !b.pumpAsleep p

/-- What a pump does, once its well is awake. -/
def onPump (p : Nat) (body : Prog) : Prog := .read fun b =>
  if b.pumpRuns p then body else .when (b.pumpFree p) (wakePump p)

/-- The runs a descriptor of the working set holds in the run store: those of its VA ranges, and 1,024, the most there may be, for
one that is still to be translated (R311; DEDUCED, notes/assumptions/65.md). -/
def Desc.runsHeld (d : Desc) : Nat :=
  (if !d.walksSrc then 0 else if d.xlat = 1 then 1024 else d.srcRun.length) +
    (if !d.walksDst then 0 else if d.xlat ≠ 0 then 1024 else d.dstRun.length)

/-- The run store of a pump has room for the ranges of a descriptor, of its 8,192 runs (R311). -/
def Block.runRoom (b : Block) (p : Nat) (d : Desc) : Bool :=
  decide (1024 * (b2n d.walksSrc + b2n d.walksDst) +
    (b.workSlots p).foldl (fun n s => n + ((b.workAt (workKey p s)).map Desc.runsHeld).getD 0) 0 ≤ 8192)

/-- The descriptor an intake would have admitted next: the oldest one accepted (R327). -/
def Block.nextDesc (b : Block) (i : Nat) : Desc :=
  let st := b.intakeSt i
  { intake := i, hat := b.intakeHat i, bytes := slice (Tbl.get (dflt []) (st.busy.headD 0 % 64) st.slots) 0 64 }

/-- The intakes of a pump with a descriptor that waits to be admitted; one that finds the run store full waits on (R311). -/
def Block.waitingIntakes (b : Block) (p : Nat) : List Nat :=
  (Tbl.keys b.intake).filter fun i =>
    decide ((b.intakeSt i).busy ≠ []) && b.intakeOn i && decide (b.intakePump i = p) && b.unitAdmits (b.intakeHat i) &&
      b.runRoom p (b.nextDesc i)

/-- The pair of hat and label an intake's next descriptor goes under, as 8 × hat + label. -/
def Block.nextPair (b : Block) (i : Nat) : Nat := 8 * b.intakeHat i + b.descLabel (b.nextDesc i)

def Block.nextInBudget (b : Block) (p i : Nat) : Bool := b.inBudget (.pump p) (b.intakeHat i) (b.descLabel (b.nextDesc i))

def Block.admOf (b : Block) (p : Nat) : Adm := Tbl.get (dflt {}) p b.pmp.adm

/-- How far `k` of `n` is behind the one after `last`. -/
def turnAfter (n last k : Nat) : Nat := (k + n - 1 - last) % n

/-- It is an intake's turn at its pump: in-budget descriptors go first unless 32 of them have gone in a row and another waits
(R385), their pairs in turn, and the intakes of one pair in turn (R327). -/
def Block.admitTurn (b : Block) (p i : Nat) : Bool :=
  let l := b.waitingIntakes p
  let a := b.admOf p
  let mine := b.nextPair i
  let last := Tbl.get (dflt 0) mine a.turn
  let rest := l.filter fun j => b.nextInBudget p j != b.nextInBudget p i
  l.contains i &&
  (if b.nextInBudget p i then
    (rest.isEmpty || decide (a.runs < 32)) &&
      l.all fun j => !b.nextInBudget p j || decide (turnAfter 8192 a.pair mine ≤ turnAfter 8192 a.pair (b.nextPair j))
  else rest.isEmpty || decide (32 ≤ a.runs)) &&
  l.all fun j => decide (b.nextPair j ≠ mine) || decide (turnAfter 4096 last i ≤ turnAfter 4096 last j)

/-- The pump notes an admission. -/
def noteAdmit (p i : Nat) : Prog := .read fun b =>
  let a := b.admOf p
  let mine := b.nextPair i
  let inB := b.nextInBudget p i
  modPmp fun s => { s with adm := Tbl.set (dflt {}) p {
    runs := if inB then min 32 (a.runs + 1) else 0,
    pair := if inB then mine else a.pair,
    turn := Tbl.set (dflt 0) mine i a.turn } s.adm }

/-- An intake's oldest descriptor is admitted in its turn. -/
def descAdmit (p i : Nat) : Prog := .read fun b =>
  .when (((List.range 64).any fun s => (b.workAt (workKey p s)).isNone) && b.admitTurn p i)
    (onPump p (.all [noteAdmit p i, admitFirst p i]))

def execDescAdmit (p : Fin 48) (i : Fin 4096) (s : State) : Host.Outcome State Fault Refusal := s.run (descAdmit p i)

/-! ### Pieces (R314, R328, R335–R337) -/

/-- A part of a range that lies in one run and one 64-byte data unit: offset in the transfer, physical address, bytes. -/
structure Unit64 where
  off : Nat
  pa  : Nat
  n   : Nat
  deriving DecidableEq, Repr

/-- The data units of bytes `[off, stop)` of a range, given by its runs. -/
def unitsOf (runs : List Run) (stop : Nat) : Nat → Nat → List Unit64
  | 0, _ => []
  | fuel + 1, off =>
    if stop ≤ off then []
    else match runs.find? fun r => r.off ≤ off ∧ off < r.off + r.len with
      | some r =>
        let pa := r.pa + (off - r.off)
        let n := min (64 - pa % 64) (min (r.off + r.len - off) (stop - off))
        ⟨off, pa, n⟩ :: unitsOf runs stop fuel (off + n)
      | none => []

namespace Desc
def pieceLo (_ : Desc) (k : Nat) : Nat := 4096 * k
def pieceHi (d : Desc) (k : Nat) : Nat := min d.length (4096 * (k + 1))
def pieceUnits (d : Desc) (runs : List Run) (k : Nat) : List Unit64 := unitsOf runs (d.pieceHi k) 130 (d.pieceLo k)
/-- The tag of page `k` (R336). -/
def tagAt (d : Desc) (k : Nat) : Nat := d.tags + 16 * k
/-- The initialisation vector of page `k` (R336). -/
def iv (d : Desc) (k : Nat) : List Byte := toBytesLE 8 d.nonce ++ (toBytesLE 4 k).reverse
end Desc

/-- Where an access of a transfer goes, under the rights of its admission (R377, R378). -/
def Block.pumpRoute (b : Block) (d : Desc) (pa : Nat) : Status ⊕ Ep :=
  match b.place pa with
  | .mem p w _ =>
    if d.rights.testBit Right.xmem || (d.rights.testBit Right.mem && decide (d.part = p ∧ p ≠ 0xFF)) then .inr (.bank w (homeBank pa))
    else .inl St.accessDenied
  | _ => b.routeBy d.rights d.hat pa

/-- A tag no outstanding access of the pump has: the piece's place and a number of the access. -/
def pieceTag (slot n : Nat) : Nat := slot * 256 + n

/-- Change a piece. -/
def modPiece (p s k : Nat) (g : Piece → Piece) : Prog :=
  modDesc (workKey p s) fun d => { d with pcs := d.pcs.map fun x => if x.idx = k then g x else x }

/-- A status that ends an access: nothing, or the transfer stops after its pieces, or runs on with the status (R335). -/
def descStatus (p s : Nat) (st : Status) : Prog :=
  if completed st then .skip
  else if rejected st then modDesc (workKey p s) fun d => { d with stop := true, final := max d.final St.poisoned, flags := d.flags ||| 1 }
  else modDesc (workKey p s) fun d => { d with status := max d.status st }

/-- The answer to a read of a piece: the bytes it brought, its poison, its status. -/
def pieceRead (p s k n off len : Nat) (data : List Byte) (pois : Bool) (st : Status) : Prog := .read fun b =>
  .for? (b.workAt (workKey p s)) fun d =>
    let stop := d.pieceHi k
    let tagged := decide (n = 254)
    let range := if tagged then (d.pieceLo k, stop) else if rejected st then (off, stop) else (off, off + len)
    let bad := pois || !completed st
    .all [
      descStatus p s st,
      modPiece p s k fun x => { x with
        reads := removeNat n x.reads,
        got := if tagged then x.got else x.got ++ [(off, slice data 0 len)],
        tag := if tagged then slice data 0 16 else x.tag,
        pois := if bad then x.pois ++ [range] else x.pois,
        poisIn := x.poisIn || pois && !rejected st && decide (st ≠ St.spanTimeout) }]

/-- One access of a piece is sent, or ends at once with its status. -/
def pieceAsk (p s k n : Nat) (u : Unit64) : Prog := .read fun b =>
  .for? (b.workAt (workKey p s)) fun d => .for? (d.pcs.find? fun x => decide (x.idx = k)) fun x =>
    match b.pumpRoute d u.pa with
    | .inr e => .all [
        modPiece p s k fun x => { x with reads := insertNat n x.reads },
        sendPkt { Pkt.bare 0x00 (u.pa / 64 * 64) (pieceTag x.slot n) d.hat (.pump p) e with label := b.descLabel d }]
    | .inl st => pieceRead p s k n u.off u.n [] false st

/-- A write of a piece is sent, or ends at once with its status: then the rest of the piece is written poisoned (R335). -/
def pieceWrite (p s k n off : Nat) (pa : Nat) (data : List Byte) (pois : Bool) : Prog := .read fun b =>
  .for? (b.workAt (workKey p s)) fun d => .for? (d.pcs.find? fun x => decide (x.idx = k)) fun x =>
    match b.pumpRoute d pa with
    | .inr e => .all [
        modPiece p s k fun x => { x with writes := insertNat n x.writes },
        sendPkt (writePkt pa (pieceTag x.slot n) d.hat (b.descLabel d) data
          (pois || x.pois.any fun r => decide (r.1 < off + data.length ∧ off < r.2)) (.pump p) e)]
    | .inl st => .all [
        descStatus p s st,
        modPiece p s k fun x => { x with pois := if rejected st then x.pois ++ [(off, d.pieceHi k)] else x.pois }]

/-- The bytes of a piece as they came, in transfer order; FILL gives its pattern (R326). -/
def Desc.pieceIn (d : Desc) (x : Piece) : List Byte :=
  if d.op = 2 then
    let pat := toBytesLE 4 d.fillval
    (List.range (d.pieceHi x.idx - d.pieceLo x.idx)).map fun j => pat.getD ((d.dst + d.pieceLo x.idx + j) % 4) 0
  else (List.range (d.pieceHi x.idx - d.pieceLo x.idx)).map fun j =>
    match x.got.find? fun g => g.1 ≤ d.pieceLo x.idx + j ∧ d.pieceLo x.idx + j < g.1 + g.2.length with
    | some g => g.2.getD (d.pieceLo x.idx + j - g.1) 0
    | none => 0

/-- Everything a piece reads is there: it is deciphered or enciphered, and written (R336, R337). -/
def pieceOut (p s k : Nat) : Prog := .read fun b =>
  .for? (b.workAt (workKey p s)) fun d => .for? (d.pcs.find? fun x => decide (x.idx = k)) fun x =>
    let inp := d.pieceIn x
    let key := Tbl.get (dflt 0) d.key b.pmp.keymat
    let out := if d.crypto = 0 then inp else Config.gcmText key (d.iv k) inp
    let failed := decide (d.crypto = 1) && decide (Config.gcmTag key (d.iv k) [] inp ≠ x.tag) &&
      !(x.pois.contains (d.pieceLo k, d.pieceHi k))
    let whole := failed || d.poisPage
    .all [
      .when failed (modDesc (workKey p s) fun d => { d with stop := true, final := max d.final St.poisoned, flags := d.flags ||| 5 }),
      .when x.poisIn (modDesc (workKey p s) fun d => { d with status := max d.status St.poisoned, flags := d.flags ||| 2 }),
      .when d.weights (modDesc (workKey p s) fun d => { d with
        plain := Tbl.set (dflt []) k (if d.crypto = 1 then out else inp) d.plain }),
      modPiece p s k fun x => { x with wrote := true, allPois := whole },
      .each (d.pieceUnits d.dstRun k).zipIdx fun u =>
        pieceWrite p s k (128 + u.2) u.1.off u.1.pa (slice out (u.1.off - d.pieceLo k) u.1.n) whole]

/-- The tag of an enciphered page, after its ciphertext: 16 bytes of 0 where the plaintext was poisoned (R336, R337). -/
def pieceTagOut (p s k : Nat) : Prog := .read fun b =>
  .for? (b.workAt (workKey p s)) fun d => .for? (d.pcs.find? fun x => decide (x.idx = k)) fun x =>
    let key := Tbl.get (dflt 0) d.key b.pmp.keymat
    let tag := if x.pois ≠ [] then List.replicate 16 0
      else slice (Config.gcmTag key (d.iv k) [] (Config.gcmText key (d.iv k) (d.pieceIn x))) 0 16
    .all [
      modPiece p s k fun x => { x with tagSent := true, pois := [] },
      pieceWrite p s k 255 (d.pieceLo k) (d.tagAt k) tag false]

/-- Carry a piece on: its writes once its reads are in, all of it again poisoned when its key is being revoked, its tag. -/
def pieceStep (p s k : Nat) : Prog := .read fun b =>
  .for? (b.workAt (workKey p s)) fun d => .for? (d.pcs.find? fun x => decide (x.idx = k)) fun x =>
    if x.reads ≠ [] ∨ x.writes ≠ [] then .skip
    else if !x.wrote || (d.poisPage && !x.allPois) then pieceOut p s k
    else .when (decide (d.crypto = 2) && !x.tagSent) (pieceTagOut p s k)

/-- As far as it goes without an answer. -/
def pieceRun (p s k : Nat) : Prog := .all [pieceStep p s k, pieceStep p s k, pieceStep p s k]

/-- A piece has done all it has to do. -/
def Desc.pieceEnded (d : Desc) (x : Piece) : Bool :=
  x.wrote && decide (x.reads = [] ∧ x.writes = []) && (x.allPois || !d.poisPage) && (x.tagSent || decide (d.crypto ≠ 2))

/-- `x` comes before `y` among the 64 sequence numbers an intake can hold. -/
def seqBefore (x y : Nat) : Bool :=
  let n := (y + 65536 - x) % 65536
  decide (0 < n ∧ n < 32768)

/-- Every earlier descriptor of the intake has completed. -/
def Block.firstOfIntake (b : Block) (d : Desc) : Bool := !(b.intakeSt d.intake).held.any fun x => seqBefore x d.seq

/-- Descriptors of one intake start in admission order. -/
def Block.earlierStarted (b : Block) (p : Nat) (d : Desc) : Bool :=
  (b.workSlots p).all fun s => match b.workAt (workKey p s) with
    | some x => !(decide (x.intake = d.intake) && seqBefore x.seq d.seq && x.moves && decide (x.started = 0))
    | none => true

/-- A place among the pump's pieces in flight. -/
def Block.piecePlace (b : Block) (p : Nat) : Option Nat :=
  let used := (b.workSlots p).flatMap fun s => match b.workAt (workKey p s) with
    | some d => d.pcs.map Piece.slot
    | none => []
  (List.range 16).find? fun n => !used.contains n

/-- A transfer ends: with the status that stopped it, or with the highest of its pieces. -/
def endDesc (p s : Nat) : Prog := .read fun b =>
  .for? (b.workAt (workKey p s)) fun d =>
    .when (decide (d.started = d.done) && (d.stop || decide (d.done = d.pieces))) (
      if d.done = d.pieces ∧ d.flags % 2 = 0 ∧ ¬ d.poisPage then finishDesc p s d.status d.flags
      else finishDesc p s (max d.status d.final) (d.flags ||| 1))

/-- The next piece of a transfer starts: the epoch of its runs is checked first (R314), then it reads. -/
def startPiece (op p s : Nat) : Prog := .read fun b =>
  .for? (b.workAt (workKey p s)) fun d =>
    let k := d.started
    let ready := decide (d.op = op ∧ d.xlat = 0 ∧ d.stop = false ∧ k < d.pieces) && d.fault.isNone &&
      (decide (0 < k) || (b.earlierStarted p d && (!d.order || b.firstOfIntake d)))
    .when ready (onPump p (
      if (d.walksSrc || d.walksDst) && decide (d.epoch ≠ b.xepoch d.xctx) then stopDesc p s St.staleEpoch
      else .for? (b.piecePlace p) fun n => .all [
        modDesc (workKey p s) fun x => { x with
          started := k + 1, pcs := x.pcs ++ [⟨k, n, [], [], [], false, [], false, false, false, []⟩] },
        .when (decide (op = 1)) (.all [
          .each (d.pieceUnits d.srcRun k).zipIdx fun u => pieceAsk p s k u.2 u.1,
          .when (decide (d.crypto = 1)) (pieceAsk p s k 254 ⟨0, d.tagAt k, 16⟩)]),
        pieceRun p s k,
        showPump p]))

def execCopy (p : Fin 48) (slot : Fin 64) (s : State) : Host.Outcome State Fault Refusal := s.run (startPiece 1 p slot)
def execFill (p : Fin 48) (slot : Fin 64) (s : State) : Host.Outcome State Fault Refusal := s.run (startPiece 2 p slot)

/-- A BARRIER completes once every earlier descriptor of its intake has. -/
def pumpBarrier (p s : Nat) : Prog := .read fun b =>
  .for? (b.workAt (workKey p s)) fun d =>
    .when (decide (d.op = 3) && b.firstOfIntake d) (onPump p (finishDesc p s 0 0))

def execPumpBarrier (p : Fin 48) (slot : Fin 64) (s : State) : Host.Outcome State Fault Refusal := s.run (pumpBarrier p slot)

/-- A piece completes (R328): it is counted, its key slot counts the page, and the transfer ends with its last. -/
def pieceDone (p s k : Nat) : Prog := .read fun b =>
  .for? (b.workAt (workKey p s)) fun d => .for? (d.pcs.find? fun x => decide (x.idx = k)) fun x =>
    let len := d.pieceHi k - d.pieceLo k
    .when (d.pieceEnded x && !b.windowAt (b.pumpRegion p)) (.all [
      modDesc (workKey p s) fun y => { y with
        done := y.done + 1, moved := y.moved + len, pcs := y.pcs.filter fun z => decide (z.idx ≠ k) },
      addWrap (Reg.PMP_BYTES p) Fl.PMP_BYTES_BYTES len,
      activity d.hat Act.pumpBytes len,
      .when (decide (d.crypto ≠ 0)) (incSat (Reg.PMP_KEY d.key) Fl.PMP_KEY_PAGES),
      showPump p,
      endDesc p s])

def execPieceDone (p : Fin 48) (slot : Fin 64) (k : Nat) (s : State) : Host.Outcome State Fault Refusal :=
  s.run (pieceDone p slot k)

/-- The descriptor and piece that occupy a place among a pump's pieces. -/
def Block.pieceAt (b : Block) (p n : Nat) : Option (Nat × Desc × Piece) :=
  (b.workSlots p).findSome? fun s => match b.workAt (workKey p s) with
    | some d => (d.pcs.find? fun x => decide (x.slot = n)).map fun x => (s, d, x)
    | none => none

/-- An answer at a pump: data of a read, or the end of a write. -/
def pumpMemRsp (p : Nat) (q : Pkt) : Prog := .read fun b =>
  let n := q.tag % 256
  let st := q.addr % 256
  .for? (b.pieceAt p (q.tag / 256)) fun t =>
    let (s, d, x) := t
    let k := x.idx
    let data := q.units.flatMap DUnit.data
    let pois := q.poison || q.units.any DUnit.pu
    if x.reads.contains n then
      if n = 254 then .all [pieceRead p s k n 0 16 (data.drop (d.tagAt k % 64)) pois st, pieceRun p s k]
      else .for? ((d.pieceUnits d.srcRun k)[n]?) fun u =>
        .all [pieceRead p s k n u.off u.n (data.drop (u.pa % 64)) pois st, pieceRun p s k]
    else .when (x.writes.contains n) (.all [
      descStatus p s st,
      modPiece p s k fun y => { y with writes := removeNat n y.writes },
      pieceRun p s k])

/-! ### Interrupts and intake control (R334, R342, R397) -/

def execPmpIrqHoldoff (i : Fin 4096) (s : State) : Host.Outcome State Fault Refusal :=
  s.run (.read fun b => .all [
    modIntake i fun s => { s with irqOff := false, irqOwed := false },
    .when (b.intakeSt i).irqOwed (raiseIntake i)])

/-- Hats that may write an intake's registers for a pump. -/
def Block.mayIntake (b : Block) (hat p : Nat) : Bool :=
  decide (hat = 0) || (b.holds hat Right.pumpAdmin && b.inPart hat (b.pumpPart p))

/-- A write of an intake's control word, ENABLE among its bits or not: HAT and PUMP only while it is disabled; a removed hat, or a
pump that is fused off or outside the hat's partition, is refused. -/
def intakeCtl (hat i : Nat) (val : W64) : Prog := underHat hat (.read fun b =>
  let a := Reg.PMP_INTAKE_CTL i
  let was := b.intakeOn i
  let want := decide (getFld val Fl.PMP_INTAKE_CTL_ENABLE = 1)
  let h := if was then b.intakeHat i else getFld val Fl.PMP_INTAKE_CTL_HAT
  let p := if was then b.intakePump i else getFld val Fl.PMP_INTAKE_CTL_PUMP
  let bad := b.hatRemoved h || (want && !was && !(decide (p < 48) && b.pumpOn p && b.inPart h (b.pumpPart p)))
  .when (b.mayIntake hat p) (
    if bad then setF (Reg.PMP_INTAKE_STATUS i) Fl.PMP_INTAKE_STATUS_DENIED 1
    else .all [
      setF a Fl.PMP_INTAKE_CTL_HAT h,
      setF a Fl.PMP_INTAKE_CTL_PUMP p,
      setF a Fl.PMP_INTAKE_CTL_IRQ_VEC (getFld val Fl.PMP_INTAKE_CTL_IRQ_VEC),
      setF a Fl.PMP_INTAKE_CTL_IRQ_HOLDOFF (getFld val Fl.PMP_INTAKE_CTL_IRQ_HOLDOFF),
      if want && !was then .all [
        setF a Fl.PMP_INTAKE_CTL_ENABLE 1,
        setF (Reg.PMP_INTAKE_STATUS i) Fl.PMP_INTAKE_STATUS_NEXT_SEQ 0]
      else .when (was && !want && !b.intakeClosing i) (closeIntake i false)]))

def execIntakeEnable (hat : Nat) (i : Fin 4096) (val : W64) (s : State) : Host.Outcome State Fault Refusal :=
  s.run (intakeCtl hat i (putFld val Fl.PMP_INTAKE_CTL_ENABLE 1))

def execIntakeDisable (hat : Nat) (i : Fin 4096) (s : State) : Host.Outcome State Fault Refusal :=
  s.run (.read fun b => intakeCtl hat i (putFld (b.w (Reg.PMP_INTAKE_CTL i)) Fl.PMP_INTAKE_CTL_ENABLE 0))

/-! ### Key slots (R338–R340) -/

/-- Hats whose range holds a key slot. -/
def Block.keyHats (b : Block) (k : Nat) : List Nat := (List.range 1024).filter fun h => b.inKeyRange h k

/-- REVOKE of one slot: hat 0, or a KEY hat whose range holds it; ignored in EMPTY and REVOKING (R339). -/
def keyRevoke (hat k : Nat) : Prog := underHat hat (.read fun b =>
  .when (decide (hat = 0) || (b.holds hat Right.key && b.inKeyRange hat k))
    (.when (decide (b.keyState k = 1 ∨ b.keyState k = 2)) (revokeKeys [k] none (b.keyHats k))))

def execKeyRevoke (hat : Nat) (k : Fin 256) (s : State) : Host.Outcome State Fault Refusal := s.run (keyRevoke hat k)

/-- Steps 1 to 6 of R340 for a hat. -/
def pumpRemove (h : Nat) : Prog := .read fun b =>
  let slots := (List.range 256).filter fun k => b.inKeyRange h k
  .all [
    setF Reg.PMP_REMOVE Fl.PMP_REMOVE_HAT h,
    setF Reg.PMP_REMOVE Fl.PMP_REMOVE_BUSY 1,
    setF Reg.PMP_REMOVE Fl.PMP_REMOVE_STEP 3,
    .read fun b => .each (b.intakesOf h) fun i => shutIntake i true,
    revokeKeys slots (some h) [h],
    stopWhere (fun d => decide (d.hat = h) && !(decide (d.crypto ≠ 0) && slots.contains d.key)) St.drainAbsorbed,
    .each (b.intakesOf h) showIntake,
    progressRevokes]

/-- A write of PMP_REMOVE: hat 0 only; hat 0 is never removed. -/
def pmpRemove (hat : Nat) (val : W64) : Prog := underHat hat (.read fun b =>
  let h := getFld val Fl.PMP_REMOVE_HAT
  .when (decide (hat = 0)) (
    if getFld val Fl.PMP_REMOVE_GO = 0 then setF Reg.PMP_REMOVE Fl.PMP_REMOVE_HAT h
    else if h = 0 then setF Reg.PMP_REMOVE Fl.PMP_REMOVE_DENIED 1
    else if b.on Reg.PMP_REMOVE Fl.PMP_REMOVE_BUSY then setF Reg.PMP_REMOVE Fl.PMP_REMOVE_DENIED 1
    else pumpRemove h))

def execPmpRemove (hat : Nat) (val : W64) (s : State) : Host.Outcome State Fault Refusal := s.run (pmpRemove hat val)

/-! ### Weight sets (R341) -/

/-- The digest, counts and INCOMPLETE of an entry are cleared. -/
def clearWset (w : Nat) : Prog := .all [
  .each (List.range 6) fun j => setR (Reg.PMP_WSET_DIGEST w j) 0,
  setF (Reg.PMP_WSET w) Fl.PMP_WSET_COUNT 0,
  setR (Reg.PMP_WSET_BYTES w) 0,
  setF (Reg.PMP_WSET w) Fl.PMP_WSET_INCOMPLETE 0,
  measured]

/-- Hats that may write an entry that names hat `h`: hat 0, or a PUMP_ADMIN hat of that hat's partition. -/
def Block.mayWset (b : Block) (hat h : Nat) : Bool :=
  decide (hat = 0) || (b.holds hat Right.pumpAdmin && b.inPart hat (some (b.hatPart h)))

def wsetReset (hat w : Nat) : Prog := underHat hat (.read fun b =>
  let h := b.f (Reg.PMP_WSET w) Fl.PMP_WSET_HAT
  .when (b.mayWset hat h || decide (hat = h)) (clearWset w))

def execWsetReset (hat : Nat) (w : Fin 256) (s : State) : Host.Outcome State Fault Refusal := s.run (wsetReset hat w)

/-- VALID and HAT of an entry are written; a removed hat is refused (R397). -/
def wsetBind (hat w : Nat) (val : W64) : Prog := underHat hat (.read fun b =>
  let a := Reg.PMP_WSET w
  let h := getFld val Fl.PMP_WSET_HAT
  .when (b.mayWset hat h && b.mayWset hat (b.f a Fl.PMP_WSET_HAT)) (
    if b.hatRemoved h then setF a Fl.PMP_WSET_DENIED 1
    else .all [
      setF a Fl.PMP_WSET_VALID (getFld val Fl.PMP_WSET_VALID),
      setF a Fl.PMP_WSET_HAT h]))

def execWsetBind (hat : Nat) (w : Fin 256) (val : W64) (s : State) : Host.Outcome State Fault Refusal := s.run (wsetBind hat w val)

end Sys2Proof.Machine
end

