-- ==== Sys2Proof/Machine/Wire.lean ====
section
/-! DEFINITION. A span frame on the wire (R348–R351): its bytes in both encapsulations, from the destination MAC to the FCS. -/

namespace Sys2Proof.Machine

/-- `n` bytes of a number, in network order. -/
def toBytesBE (n v : Nat) : List Byte := (toBytesLE n v).reverse

/-! ### The transport header and what follows it (R350, R351) -/

/-- Each data unit of a message carries its BE, where one of them marks less than 64 bytes. -/
def SpanMsg.bePresent (m : SpanMsg) : Bool := m.units.any fun u => decide (u.be % 2 ^ 64 ≠ 2 ^ 64 - 1)

/-- The 128 bits of a message's header. -/
def SpanMsg.header (m : SpanMsg) : Nat :=
  let pu := m.units.zipIdx.foldl (fun n u => if u.1.pu then n + 2 ^ u.2 else n) 0
  m.addr % 2 ^ 57 * 2 ^ 71 + m.stag % 2 ^ 16 * 2 ^ 55 + m.hat % 1024 * 2 ^ 45 + m.label % 8 * 2 ^ 42 + m.cmd % 256 * 2 ^ 34 +
    m.units.length % 8 * 2 ^ 31 + b2n m.poison * 2 ^ 30 + b2n m.resp * 2 ^ 29 + pu % 16 * 2 ^ 25 + b2n m.bePresent * 2 ^ 24 +
    m.reqr % 2 ^ 11 * 2 ^ 13 + m.rctx % 4 * 2 ^ 11

/-- A message: its header, its data units, each with its BE where BE_PRESENT is set. -/
def SpanMsg.bytes (m : SpanMsg) : List Byte :=
  toBytesLE 16 m.header ++ m.units.flatMap fun u => u.data ++ (if m.bePresent then toBytesLE 8 u.be else [])

/-- The 40 bytes of the transport header. -/
def SpanFrame.header (f : SpanFrame) : List Byte :=
  toBytesLE 1 0x10 ++ toBytesLE 1 f.type ++ toBytesLE 2 (b2n f.retx) ++ toBytesLE 2 f.dstPkg ++ toBytesLE 2 f.srcPkg ++
    toBytesLE 8 f.domain ++ toBytesLE 4 f.incarn ++ toBytesLE 4 f.psn ++ toBytesLE 4 f.ackPsn ++ toBytesLE 4 f.credit ++
    toBytesLE 8 f.sack

/-- The transport header, and the messages of DATA or the body of HELLO, OPEN and OPEN_ACK. -/
def SpanFrame.payload (f : SpanFrame) : List Byte :=
  f.header ++
    (if f.type = 1 then f.msgs.flatMap SpanMsg.bytes
    else if 3 ≤ f.type ∧ f.type ≤ 5 then toBytesLE 4 f.serial ++ toBytesLE 1 f.paths ++ List.replicate 11 0
    else [])

/-! ### The headers before it (R348, R349) -/

/-- What the encapsulation of a frame takes from registers and records. -/
structure WireCtx where
  udp       : Bool          -- UDP over IPv6, or Ethernet II
  dstMac    : Nat
  srcMac    : Nat
  vid       : Option Nat    -- the 802.1Q tag, when VLAN_EN is set
  etherType : Nat
  label     : Nat           -- the frame's service label
  hops      : Nat
  srcIp     : List Byte
  dstIp     : List Byte
  pathIdx   : Nat
  udpPort   : Nat

/-- The one's-complement sum of bytes as 16-bit words in network order. -/
def onesSum : List Byte → Nat
  | [] => 0
  | [x] => x.toNat * 256
  | x :: y :: l => x.toNat * 256 + y.toNat + onesSum l

/-- An Internet checksum: never 0, which would say that there is none. -/
def inetSum (l : List Byte) : Nat :=
  let fold := fun (n : Nat) => n / 65536 + n % 65536
  let c := 65535 - fold (fold (fold (onesSum l)))
  if c = 0 then 65535 else c

/-- A UDP datagram, its checksum over the pseudo-header and all of it. -/
def WireCtx.datagram (x : WireCtx) (body : List Byte) : List Byte :=
  let len := 8 + body.length
  let ports := toBytesBE 2 (0xC000 + x.pathIdx) ++ toBytesBE 2 (if x.udpPort = 0 then 0xC2A6 else x.udpPort) ++ toBytesBE 2 len
  let pseudo := x.srcIp ++ x.dstIp ++ toBytesBE 4 len ++ toBytesBE 4 17
  ports ++ toBytesBE 2 (inetSum (pseudo ++ ports ++ [0, 0] ++ body)) ++ body

/-- The IPv6 header: traffic class from the service label, flow label 0. -/
def WireCtx.ipv6 (x : WireCtx) (len : Nat) : List Byte :=
  toBytesBE 4 (6 * 2 ^ 28 + x.label * 32 * 2 ^ 20) ++ toBytesBE 2 len ++ toBytesBE 1 17 ++ toBytesBE 1 x.hops ++ x.srcIp ++ x.dstIp

/-- The Ethernet payload of a frame: what MTU bounds. -/
def WireCtx.etherPayload (x : WireCtx) (f : SpanFrame) : List Byte :=
  if x.udp then let d := x.datagram f.payload; x.ipv6 d.length ++ d else f.payload

/-- One bit of the CRC of IEEE 802.3. -/
def crcBit (c : Nat) : Nat := if c % 2 = 1 then c / 2 ^^^ 0xEDB88320 else c / 2

/-- The FCS of IEEE 802.3. -/
def fcs (l : List Byte) : Nat :=
  (l.foldl (fun c x => (List.range 8).foldl (fun c _ => crcBit c) (c ^^^ x.toNat)) 0xFFFFFFFF) ^^^ 0xFFFFFFFF

/-- The frame's bytes: a payload of fewer than 46 bytes is padded, as IEEE 802.3 has it. -/
def SpanFrame.wire (f : SpanFrame) (x : WireCtx) : List Byte :=
  let tag := match x.vid with
    | some v => toBytesBE 2 0x8100 ++ toBytesBE 2 (x.label * 2 ^ 13 + v)
    | none => []
  let p := x.etherPayload f
  let l := toBytesBE 6 x.dstMac ++ toBytesBE 6 x.srcMac ++ tag ++ toBytesBE 2 (if x.udp then 0x86DD else x.etherType) ++ p ++
    List.replicate (46 - p.length) 0
  l ++ toBytesLE 4 (fcs l)

end Sys2Proof.Machine
end

