-- ==== Sys2Proof/Machine/SpanBase.lean ====
section
/-! DEFINITION. The span between the mesh and a session (R351–R366, R370): frames sent, credits, requests of this package and
their ends, the remote-line cache, requests of peers injected into the mesh. -/

namespace Sys2Proof.Machine

/-! ### States of a peer (R364) -/

namespace PeerState
abbrev unlisted := 0
abbrev unknown := 1
abbrev opening := 2
abbrev up := 3
abbrev suspect := 4
abbrev down := 5
abbrev self := 6
end PeerState

namespace Block

def peerState (b : Block) (n : Nat) : Nat := b.f (Reg.SPN_PEER n) Fl.SPN_PEER_STATE
def peerActive (b : Block) (n : Nat) : Nat := b.f (Reg.SPN_PEER n) Fl.SPN_PEER_ACTIVE

/-- A session is open with a peer. -/
def session (b : Block) (n : Nat) : Bool := decide (b.peerState n = PeerState.up ∨ b.peerState n = PeerState.suspect)

/-- A port is up (R344, SPN_QUAD UP). -/
def spanPortUp (b : Block) (c port : Nat) : Bool := bit (b.f (Reg.SPN_QUAD c (port / 4)) Fl.SPN_QUAD_UP) (port % 4)

/-- The listed peers (R364). -/
def listedPeers (b : Block) : List Nat := (peersOf b.recs).map Prod.fst

end Block

/-- The transport engine of a port (R347). -/
def portEngine (c port : Nat) : Nat := 4 * c + port / 12

def setPeer (n st : Nat) : Prog := setF (Reg.SPN_PEER n) Fl.SPN_PEER_STATE st

/-- SPN_DISC follows the states of the listed peers (R369). -/
def showDisc : Prog := .read fun b =>
  let l := b.listedPeers
  let n := fun st => (l.filter fun k => decide (b.peerState k = st)).length
  let a := Reg.SPN_DISC
  .all [
    setF a Fl.SPN_DISC_LISTED l.length,
    setF a Fl.SPN_DISC_UP (n PeerState.up),
    setF a Fl.SPN_DISC_DOWN (n PeerState.down),
    setF a Fl.SPN_DISC_CONVERGED (b2n (decide (l ≠ []) && l.all fun k =>
      decide (b.peerState k = PeerState.up ∨ b.peerState k = PeerState.self)))]

/-! ### Frames out (R350–R356) -/

/-- A path of a peer. -/
def Block.pathOf (b : Block) (n k : Nat) : Option Path := (b.peerSt n).paths[k]?

/-- The side of a peer's active path is held for a band change, and the session's timers pause (R452, R515). -/
def Block.sideHeld (b : Block) (n : Nat) : Bool :=
  match b.pathOf n (b.peerActive n) with
  | some p => decide (b.f (Reg.PWR_DOM_STATUS (17 + p.chiplet)) Fl.PWR_DOM_STATUS_STATE = 4)
  | none => false

/-- What a receiver's window shows in SACK. -/
def sackBits (recv : Nat) (w : List (Nat × SpanFrame)) : Nat :=
  w.foldl (fun m e => if recv < e.1 ∧ e.1 ≤ recv + 64 then m ||| 2 ^ (e.1 - recv - 1) else m) 0

/-- A frame to a package as it leaves now. -/
def Block.frameTo (b : Block) (type n psn : Nat) (msgs : List SpanMsg) : SpanFrame :=
  let s := b.peerSt n
  let (_, _, _, dom, _) := identityOf b.recs
  { type := type, retx := false, srcPort := 0, dstPkg := n, srcPkg := b.ownPkg, domain := dom,
    incarn := b.f Reg.SPN_ID Fl.SPN_ID_INCARN, psn := psn % 2 ^ 32, ackPsn := s.recvPsn % 2 ^ 32,
    credit := s.granted % 2 ^ 32, sack := sackBits s.recvPsn s.window,
    serial := b.f Reg.HUB_ID Fl.HUB_ID_SERIAL, paths := s.paths.length, msgs := msgs }

/-- The index under which a peer's paths list a local port: the active path's, if that is on the port; 0 for a port that no path of
the peer uses yet (DESIGN CHOICE, notes/assumptions/63.md). -/
def Block.pathIdxOf (b : Block) (n c port : Nat) : Nat :=
  let on := fun (p : Path) => decide (p.chiplet = c ∧ p.port = port)
  match b.pathOf n (b.peerActive n) with
  | some p => if on p then b.peerActive n else ((b.peerSt n).paths.findIdx? on).getD 0
  | none => ((b.peerSt n).paths.findIdx? on).getD 0

/-- The MAC of a port (R348). -/
def Block.portMac (b : Block) (c port : Nat) : Nat := b.f Reg.SPN_MAC Fl.SPN_MAC_BASE + 48 * c + port

/-- How a frame is encapsulated on a port (R348, R349, R367); one without messages has service label 0 (DESIGN CHOICE,
notes/assumptions/63.md). -/
def Block.wireCtx (b : Block) (c port : Nat) (f : SpanFrame) : WireCtx :=
  let (_, et, encap, _, udp) := identityOf b.recs
  let idx := b.pathIdxOf f.dstPkg c port
  let ip := fun (a0 a1 : Nat) => toBytesLE 8 (b.w a0).toNat ++ toBytesLE 8 (b.w a1).toNat
  { udp := decide (encap % 2 = 1)
    dstMac := if encap % 2 = 1 then b.f (Reg.SPN_GW c) Fl.SPN_GW_NEXT_MAC
      else if f.dstPkg = 0x3FF ∧ f.type = 3 then 0x035A00000001
      else ((b.pathOf f.dstPkg idx).map Path.mac).getD 0
    srcMac := b.portMac c port
    vid := if b.on Reg.SPN_CTL Fl.SPN_CTL_VLAN_EN then some (b.f Reg.SPN_CTL Fl.SPN_CTL_VID) else none
    etherType := et
    label := (f.msgs.head?.map SpanMsg.label).getD 0
    hops := b.f (Reg.SPN_GW c) Fl.SPN_GW_HOP_LIMIT
    srcIp := ip (Reg.SPN_OWN_IP 0) (Reg.SPN_OWN_IP 1)
    dstIp := ip (Reg.SPN_PEER_IP f.dstPkg 0) (Reg.SPN_PEER_IP f.dstPkg 1)
    pathIdx := idx
    udpPort := udp }

/-- Send a frame from a port.  One message to a DATA frame keeps the payload below the least MTU of 1,500 bytes. -/
def frameOut (c port : Nat) (f : SpanFrame) : Prog := .read fun b =>
  let f := { f with srcPort := 48 * c + port, srcMac := b.portMac c port }
  .all [
    .each f.msgs fun m => activity m.hat Act.spanBytes (m.bytes).length,
    send (.frame c port f (f.wire (b.wireCtx c port f)))]

/-- Send a frame of a session on its active path; with the path's port down it is lost. -/
def frameActive (n : Nat) (f : SpanFrame) : Prog := .read fun b =>
  .for? (b.pathOf n (b.peerActive n)) fun p => .when (b.spanPortUp p.chiplet p.port) (frameOut p.chiplet p.port f)

/-- A unit without BE in its message: every bit is 1 (R351). -/
def fullUnit (u : DUnit) : Bool := decide (u.be % 2 ^ 64 = 2 ^ 64 - 1)

/-- Credit a request message takes, in 64-byte units: its header, its data units, their BE (R351, R355). -/
def SpanMsg.credit (m : SpanMsg) : Nat :=
  (16 + 64 * m.units.length + (if m.units.all fullUnit then 0 else 8 * m.units.length) + 63) / 64

/-- Room granted beyond what has been delivered: an even share of the engine's 2 MiB, at most 256 KiB (R355). -/
def Block.creditRoom (b : Block) (n : Nat) : Nat :=
  let e := b.spanEngOf n
  let others := (b.listedPeers.filter fun k => decide (k ≠ n) && b.session k && decide (b.spanEngOf k = e)).length
  min 4096 (32768 / (others + 1))

/-- The grant to a peer, which never moves backward. -/
def grantCredit (n : Nat) : Prog := .read fun b =>
  modPeer n fun s => { s with granted := max s.granted (s.delivered + b.creditRoom n) }

/-- The message that may leave next: the oldest, or the oldest response where the oldest request lacks credit (R355). -/
def PeerSt.nextMsg (s : PeerSt) : Option SpanMsg :=
  if 64 ≤ s.unacked.length then none
  else match s.txq.find? fun m => !m.resp with
    | none => s.txq.head?
    | some r => if s.used + r.credit ≤ s.limit then s.txq.head? else s.txq.find? fun m => m.resp

/-- Send one DATA frame of one message, if one may leave. -/
def transmitOne (n : Nat) : Prog := .read fun b =>
  let s := b.peerSt n
  .when (b.session n && !s.moving) (.for? s.nextMsg fun m =>
    let f := b.frameTo 1 n s.nextPsn [m]
    .all [
      modPeer n fun s => { s with
        txq := s.txq.erase m, nextPsn := s.nextPsn + 1, unacked := s.unacked ++ [f],
        used := if m.resp then s.used else s.used + m.credit, ackOwed := false },
      frameActive n f])

/-- Send what may leave. -/
def transmit (n : Nat) : Prog := .read fun b => .all (List.replicate (b.peerSt n).txq.length (transmitOne n))

/-- A message for a peer. -/
def queueMsg (n : Nat) (m : SpanMsg) : Prog := .all [modPeer n fun s => { s with txq := s.txq ++ [m] }, transmit n]

/-! ### Drains (R370) -/

/-- A span write of a hat is unanswered. -/
def Block.spanWrites (b : Block) (hat : Nat) : Bool := b.span.reqs.any fun r => isWrite r.req && decide (r.req.hat = hat)

/-- Drains that wait are answered once no span write of their hat is left. -/
def answerDrains : Prog := .read fun b =>
  .each (b.span.waitDrain.filter fun d => !b.spanWrites d.2) fun d => .all [
    modSpan fun s => { s with waitDrain := s.waitDrain.erase d },
    sendPkt (Pkt.bare 0xA3 0 0 d.2 (.spanEng d.1) .commitLogic)]

/-- SPN_DRAIN reaches a transport engine. -/
def spanDrain (e h : Nat) : Prog := .read fun b =>
  let p := Pkt.bare 0xA2 0 0 h .commitLogic (.spanEng e)
  .when (b.noc.net.contains p) (.all [
    takePkt p,
    modSpan fun s => { s with waitDrain := s.waitDrain ++ [(e, h)] },
    answerDrains])

def execSpnDrain (e : Fin 8) (drainHat : Nat) (s : State) : Host.Outcome State Fault Refusal := s.run (spanDrain e drainHat)

/-! ### Requests of this package -/

/-- A request ends at the transport with a status, read data poisoned (R29, R365). -/
def spanRefuse (p : Pkt) (st : Status) : Prog :=
  if p.cmd = 0x70 ∨ p.cmd = 0x72 ∨ p.cmd = 0x76 then sendPkt (p.reply 0x75 (statusAddr p st) false [])
  else if p.cmd = 0x71 then sendPkt (p.reply 0x74 (statusAddr p st) false [])
  else if p.cmd = 0x73 then .skip
  else refuseReq p st

/-- A request to a peer ends with SPAN_TIMEOUT. -/
def spanTimedOut (n : Nat) (p : Pkt) : Prog := .all [
  incSat (Reg.SPN_PEER_STAT n) Fl.SPN_PEER_STAT_TIMEOUTS, spanRefuse p St.spanTimeout]

/-- A request without its answer is given up. -/
def dropReq (r : SpanReq) : Prog := .all [
  modSpan fun s => { s with reqs := s.reqs.erase r, fills := s.fills.filter fun x => decide (x.stag ≠ r.stag) },
  modPeer r.peer fun s => { s with txq := s.txq.filter fun m => m.resp || decide (m.stag ≠ r.stag) },
  spanTimedOut r.peer r.req,
  answerDrains]

/-- The place of an endpoint: router x and y, and port (R97, R98). -/
def epPlace (e : Ep) : Nat × Nat × Nat :=
  let k := ((List.range 1536).find? fun k => decide (epAt (k / 96) (k / 8 % 12) (k % 8) = some e)).getD 0
  (k / 96, k / 8 % 12, k % 8)

/-- REQR and RCTX of a request (R351). -/
def reqrOf (e : Ep) : Nat :=
  let (x, y, port) := epPlace e
  x * 128 + y * 8 + port

def rctxOf (p : Pkt) : Nat :=
  match p.src with
  | .engine _ => p.tag / 1024 % 4
  | _ => 0

/-- A span tag no outstanding request has. -/
def Block.freeStag (b : Block) : Nat :=
  let used := b.span.reqs.map fun r => r.stag
  (((List.range (used.length + 1)).map fun i => (b.span.nextTag + i) % 65536).find? fun t => !used.contains t).getD 0

/-- A request enters the transport: it goes out, or waits for its session or for credit.  `k` sees its span tag. -/
def spanEnqueue (n : Nat) (p : Pkt) (cmd addr : Nat) (k : Nat → Prog) : Prog := .read fun b =>
  let t := b.freeStag
  .all [
    modSpan fun s => { s with
      nextTag := (t + 1) % 65536, reqs := if p.cmd = 0x73 then s.reqs else s.reqs ++ [⟨t, n, p⟩] },
    k t,
    queueMsg n ⟨cmd, addr, t, p.hat, p.label, p.poison, false, reqrOf p.src, rctxOf p, p.units⟩]

/-! ### The remote-line cache (R360–R362) -/

def Block.pkgEpoch (b : Block) (e n : Nat) : Nat := Tbl.get (dflt 0) (e * 1024 + n) b.span.pkgEp
def Block.gblEpoch (b : Block) (e : Nat) : Nat := Tbl.get (dflt 0) e b.span.gblEp

/-- The package of a line. -/
def RlcLine.pkg (l : RlcLine) : Nat := l.key / 2 ^ 40 % 1024

/-- The line a slice holds: one with an older tag is absent. -/
def Block.rlcAt (b : Block) (e key : Nat) : Option RlcLine := b.span.rlc.find? fun l =>
  decide (l.key = key ∧ l.slice = e ∧ l.pkgEp = b.pkgEpoch e l.pkg ∧ l.gblEp = b.gblEpoch e)

/-- Lines of the cache, and fills on their way, that a test picks are dropped. -/
def dropLines (test : RlcLine → Bool) : Prog := modSpan fun s => { s with
  rlc := s.rlc.filter fun l => !test l,
  fills := s.fills.map fun x => if test x.line then { x with drop := true } else x }

/-- A line enters its slice of 65,536 lines; a full one gives up its oldest line. -/
def keepLine (l : RlcLine) : Prog := modSpan fun s =>
  let others := s.rlc.filter fun x => ¬ (x.key = l.key ∧ x.slice = l.slice)
  let mine := others.filter fun x => decide (x.slice = l.slice)
  let kept := if mine.length < 65536 then others else match mine.head? with
    | some x => others.erase x
    | none => others
  { s with rlc := kept ++ [l] }

/-- Written bytes enter a copy of a line. -/
def mergeUnits (l : List DUnit) (w : List (Nat × DUnit)) : List DUnit :=
  w.foldl (fun l e => l.zipIdx.map fun u =>
    if u.2 = e.1 then { u.1 with data := mergeBE (e.2.be % 2 ^ 64) u.1.data e.2.data, pu := u.1.pu || e.2.pu } else u.1) l

/-- The sectors a write touches. -/
def writtenSectors (p : Pkt) : List (Nat × DUnit) := p.units.zipIdx.map fun u => ((p.addr / 64 + u.2) % 2, u.1)

/-- What an access does to the slice on its way: a write is merged, an atomic invalidates (R361). -/
def rlcPass (p : Pkt) : Prog :=
  let key := p.addr / 128
  if isWrite p then modSpan fun s => { s with
    rlc := s.rlc.map fun l => if l.key = key then { l with units := mergeUnits l.units (writtenSectors p) } else l,
    fills := s.fills.map fun x => if x.line.key = key then { x with wrote := x.wrote ++ writtenSectors p } else x }
  else .when (isAtomic p) (dropLines fun l => decide (l.key = key))

/-- The data units of a read out of a line. -/
def lineRead (p : Pkt) (l : List DUnit) : List DUnit :=
  if p.cmd = 1 then l else [l.getD (addrSector p.addr) poisonUnit]

/-- A read that may look up the cache: MRD64 or MRD128 of an engine context or a site (R360). -/
def Block.cacheable (b : Block) (p : Pkt) : Bool :=
  b.on Reg.SPN_CTL Fl.SPN_CTL_RLC_ENABLE && decide (p.cmd ≤ 1) && (match p.src with
    | .engine _ | .glove _ _ => true
    | _ => false)

/-- A read that may look up the cache does. -/
def rlcRead (e n : Nat) (p : Pkt) : Prog := .read fun b =>
  match b.rlcAt e (p.addr / 128) with
  | some l => .all [
      incSat Reg.SPN_RLC Fl.SPN_RLC_HITS,
      memAnswer p (unitsSt (lineRead p l.units)) (lineRead p l.units)]
  | none => .all [
      incSat Reg.SPN_RLC Fl.SPN_RLC_MISSES,
      spanEnqueue n p 1 (p.addr / 128 * 128) fun t => modSpan fun s => { s with
        fills := s.fills ++ [⟨t, ⟨p.addr / 128, e, b.pkgEpoch e n, b.gblEpoch e, []⟩, [], false⟩] }]

/-- A trough packet of an engine whose hat lacks the contribution class: the origin package turns it away (R237–R239, R250). -/
def Block.originDenied (b : Block) (p : Pkt) : Bool :=
  decide (p.cmd = 0x70 ∨ p.cmd = 0x71 ∨ p.cmd = 0x72 ∨ p.cmd = 0x76) && !b.holds p.hat Right.trgContrib

/-- A request reaches a transport engine (R357, R360, R364). -/
def spanRequest (e : Nat) (p : Pkt) : Prog := .read fun b =>
  let n := p.addr / 2 ^ 47 % 1024
  let st := b.peerState n
  .all [
    takePkt p,
    if e ≠ b.spanEngOf n then sendPkt { p with dst := .spanEng (b.spanEngOf n) }
    else if b.originDenied p then spanRefuse p St.accessDenied
    else if st = PeerState.unlisted ∨ st = PeerState.self then spanRefuse p St.addrUnmapped
    else if st = PeerState.down then spanTimedOut n p
    else if b.cacheable p then rlcRead e n p
    else .all [rlcPass p, spanEnqueue n p p.cmd p.addr fun _ => .skip]]

/-- The answer to a request arrives: a read that missed fills its line (R360, R372); one that comes too late finds nothing
(R365). -/
def spanResponse (n : Nat) (m : SpanMsg) : Prog := .read fun b =>
  .for? (b.span.reqs.find? fun r => decide (r.stag = m.stag ∧ r.peer = n)) fun r =>
    let a := statusAddr r.req (m.addr % 256)
    .all [
      modSpan fun s => { s with reqs := s.reqs.erase r, fills := s.fills.filter fun x => decide (x.stag ≠ r.stag) },
      (match b.span.fills.find? fun x => decide (x.stag = r.stag) with
      | some x =>
        let l := mergeUnits m.units x.wrote
        .all [
          .when (!x.drop && decide (m.addr % 256 = 0 ∧ m.units.length = 2) && b.on Reg.SPN_CTL Fl.SPN_CTL_RLC_ENABLE)
            (keepLine { x.line with units := l }),
          sendPkt (r.req.reply m.cmd a m.poison (lineRead r.req m.units))]
      | none => sendPkt (r.req.reply m.cmd a m.poison m.units)),
      answerDrains]

/-- SPAN_READ_TIMEOUT and SPAN_WRITE_TIMEOUT: TIMEOUT_US has passed for a request (R359, R365). -/
def spanExpire (stag : Nat) (read : Bool) : Prog := .read fun b =>
  .for? (b.span.reqs.find? fun r => decide (r.stag = stag)) fun r =>
    .when ((isRead r.req == read) && !b.sideHeld r.peer) (dropReq r)

def execSpanReadTimeout (stag : Nat) (s : State) : Host.Outcome State Fault Refusal := s.run (spanExpire stag true)
def execSpanWriteTimeout (stag : Nat) (s : State) : Host.Outcome State Fault Refusal := s.run (spanExpire stag false)

/-! ### Acquires (R362) -/

/-- Raise the epoch an acquire concerns and answer it. -/
def acquire (e : Nat) (p : Pkt) : Prog := .read fun b =>
  let n := p.addr / 2 ^ 47 % 1024
  .all [
    modSpan fun s =>
      if p.addr.testBit 0 then { s with gblEp := Tbl.set (dflt 0) e ((b.gblEpoch e + 1) % 65536) s.gblEp }
      else { s with pkgEp := Tbl.set (dflt 0) (e * 1024 + n) ((b.pkgEpoch e n + 1) % 65536) s.pkgEp },
    sendPkt (p.reply 0xA1 (p.addr / 256 * 256) false [])]

/-- Lines that hold the value an epoch would return to. -/
def Block.epochHeld (b : Block) (e : Nat) (p : Pkt) (l : RlcLine) : Bool :=
  let n := p.addr / 2 ^ 47 % 1024
  decide (l.slice = e) && (if p.addr.testBit 0 then decide (l.gblEp = (b.gblEpoch e + 1) % 65536)
    else decide (l.pkg = n ∧ l.pkgEp = (b.pkgEpoch e n + 1) % 65536))

/-- SPN_ACQ reaches a slice. -/
def spanAcquire (e : Nat) (p : Pkt) : Prog := .read fun b =>
  let home := b.spanEngOf (p.addr / 2 ^ 47 % 1024)
  .all [
    takePkt p,
    if !p.addr.testBit 0 ∧ home ≠ e then sendPkt { p with dst := .spanEng home }
    else if b.span.rlc.any (b.epochHeld e p) || b.span.fills.any fun x => b.epochHeld e p x.line then
      modSpan fun s => { s with acqWrap := s.acqWrap ++ [(e, p)] }
    else acquire e p]

/-- The lines of a returning epoch are invalidated: the oldest acquire that waits for them completes. -/
def acquireInvalidated (e : Nat) : Prog := .read fun b =>
  .for? (b.span.acqWrap.find? fun a => decide (a.1 = e)) fun a => .all [
    dropLines (b.epochHeld e a.2),
    modSpan fun s => { s with acqWrap := s.acqWrap.erase a },
    acquire e a.2]

def execAcquireInvalidateDone (slice : Fin 8) (s : State) : Host.Outcome State Fault Refusal := s.run (acquireInvalidated slice)

/-- Clearing RLC_ENABLE empties the cache. -/
def rlcDisable (hat : Nat) : Prog := underHat hat (.read fun b =>
  .when (b.holds hat Right.span || decide (hat = 0)) (.all [
    setF Reg.SPN_CTL Fl.SPN_CTL_RLC_ENABLE 0, dropLines fun _ => true]))

def execRlcDisable (hat : Nat) (s : State) : Host.Outcome State Fault Refusal := s.run (rlcDisable hat)

/-! ### Requests of peers (R358, R371) -/

/-- A command a peer may ask for. -/
def spanCmd (cmd : Nat) : Bool :=
  decide (cmd ≤ 2 ∨ (8 ≤ cmd ∧ cmd ≤ 0xA) ∨ (0x40 ≤ cmd ∧ cmd ≤ 0x4B) ∨ (0x50 ≤ cmd ∧ cmd ≤ 0x5B) ∨ (0x70 ≤ cmd ∧ cmd ≤ 0x73) ∨
    cmd = 0x76)

def trgCmd (cmd : Nat) : Bool := decide (0x70 ≤ cmd ∧ cmd ≤ 0x76)

/-- A requester of the peer. -/
def SpanMsg.who (m : SpanMsg) : Nat := m.reqr * 4 + m.rctx

/-- The packet a message becomes but for its endpoints: under the peer's hat, a trough packet under its origin hat with its
origin package (R250, R371); writes are ordered (R358).  The packets of one requester to troughs share a tag. -/
def spanPkt (own n hat tag : Nat) (m : SpanMsg) (src dst : Ep) : Pkt :=
  { cmd := m.cmd, addr := if trgCmd m.cmd then n * 2 ^ 47 + m.addr % 2 ^ 47 else own * 2 ^ 47 + m.addr % 2 ^ 47, tag := tag,
    hat := if trgCmd m.cmd then m.hat else hat, label := m.label, poison := m.poison,
    ordered := decide (8 ≤ m.cmd ∧ m.cmd ≤ 0xA) || trgCmd m.cmd, src := src, dst := dst, units := m.units }

/-- Where a request of a peer goes, or the status it ends with; trough packets only of a peer whose hat holds the contribution class
(R250). -/
def Block.spanRoute (b : Block) (hat : Nat) (m : SpanMsg) : Status ⊕ Ep :=
  if !spanCmd m.cmd then .inl St.descInvalid
  else if !b.portAdmits hat then .inl St.accessDenied
  else if trgCmd m.cmd then
    let u := bits m.addr 13 6 / 8
    if !b.holds hat Right.trgContrib then .inl St.accessDenied
    else if b.trgUnitOn u then .inr (.trough u) else .inl St.fusedOff
  else match b.route hat (b.ownPkg * 2 ^ 47 + m.addr % 2 ^ 47) with
    | .inr (.spanEng _) => .inl St.addrUnmapped
    | x => x

/-- A commit or a clearing holds the partition a request goes to (R75, R396). -/
def Block.spanHeld (b : Block) (m : SpanMsg) : Bool :=
  let held := fun p => b.commitHolds p || b.clearHolds p
  if trgCmd m.cmd then match b.troughPart (bits m.addr 13 6) with
    | some p => held p
    | none => false
  else match b.place (b.ownPkg * 2 ^ 47 + m.addr % 2 ^ 47) with
    | .mem p _ _ => held p
    | _ => false

/-- A home bank as a number, plus 1; 0 for another endpoint. -/
def bankCode : Ep → Nat
  | .bank w k => w * 8 + k + 1
  | _ => 0

/-- A mesh tag of an engine that is not in use: trough packets take 2048 and the requester. -/
def Block.inTag (b : Block) (e : Nat) (m : SpanMsg) : Nat :=
  if trgCmd m.cmd then 2048 + m.reqr % 2048
  else
    let used := (b.span.ins.filter fun x => decide (x.eng = e)).map fun x => x.tag
    ((List.range (used.length + 1)).find? fun t => !used.contains t).getD 0

/-- The response message to a peer's request. -/
def answerMsg (cmd addr stag hat label : Nat) (poison : Bool) (units : List DUnit) : SpanMsg :=
  ⟨cmd, addr, stag, hat, label, poison, true, 0, 0, units⟩

/-- A peer's request ends at the transport with a status (R29, R371). -/
def refuseIn (n : Nat) (m : SpanMsg) (st : Status) : Prog :=
  let a := m.addr / 256 * 256 + st
  let ans := fun cmd units => queueMsg n (answerMsg cmd a m.stag m.hat m.label false units)
  if m.cmd ≤ 2 then ans 0x18 (List.replicate (readCount m.cmd) poisonUnit)
  else if (0x40 ≤ m.cmd ∧ m.cmd ≤ 0x4B) ∨ (0x50 ≤ m.cmd ∧ m.cmd ≤ 0x5B) then ans 0x5F []
  else if m.cmd = 0x71 then ans 0x74 []
  else if m.cmd = 0x73 then .skip
  else if trgCmd m.cmd then ans 0x75 []
  else ans 0x19 []

/-- Try to inject a request that waits: a write goes after the earlier writes of its requester, and to another bank only when
they all have their MACK (R358). -/
def tryInject (n : Nat) (m : SpanMsg) : Prog := .read fun b =>
  let s := b.peerSt n
  let e := b.spanEngOf n
  let hat := (b.boundHat (0x400 + n)).getD 1024
  let isW := fun cmd => decide (8 ≤ cmd ∧ cmd ≤ 0xA)
  let dst := b.spanRoute hat m
  let code := match dst with
    | .inr d => bankCode d
    | .inl _ => 0
  let earlier := (s.inject.takeWhile fun x => decide (x ≠ m)).any fun x => isW x.cmd && decide (x.who = m.who)
  let running := b.span.ins.any fun x => decide (x.peer = n ∧ x.who = m.who) && isW x.cmd
  let free := !isW m.cmd || (!earlier && (!running || decide (code ≠ 0 ∧ Tbl.get (dflt 0) m.who s.lastBank = code)))
  let firstTrg := !trgCmd m.cmd || !((s.inject.takeWhile fun x => decide (x ≠ m)).any fun x => trgCmd x.cmd && decide (x.who = m.who))
  .when (s.inject.contains m && free && firstTrg && !b.spanHeld m) (.all [
    modPeer n fun s => { s with inject := s.inject.erase m },
    match dst with
    | .inl st => refuseIn n m st
    | .inr d =>
      let p := spanPkt b.ownPkg n hat (b.inTag e m) m (.spanEng e) d
      .all [
        charge (.spanEng e) hat m.label (64 * max (readCount m.cmd) m.units.length),
        .when (isW m.cmd) (modPeer n fun s => { s with lastBank := Tbl.set (dflt 0) m.who code s.lastBank }),
        .when (decide (m.cmd ≠ 0x73)) (modSpan fun s => { s with
          ins := s.ins ++ [⟨n, e, p.tag, m.stag, m.who, m.cmd, m.label, p.addr / 256, false⟩] }),
        sendPkt p]])

/-- Inject what may be injected. -/
def injectAll (n : Nat) : Prog := .read fun b => .each (b.peerSt n).inject (tryInject n)

/-- What a hold has kept back of every peer's requests. -/
def injectHeld : Prog := .read fun b => .each b.peer.keys injectAll

/-- An answer of the mesh to a peer's request: sent, or discarded and counted when the session has ended (R366). -/
def spanAnswer (e : Nat) (p : Pkt) : Prog := .read fun b => .all [
  takePkt p,
  .for? (b.span.ins.find? fun x => decide (x.eng = e ∧ x.tag = p.tag) && (!trgCmd x.cmd || decide (x.echo = p.addr / 256))) fun x =>
    .all [
      modSpan fun s => { s with ins := s.ins.erase x },
      if x.dead then incSat (Reg.SPN_PEER_STAT x.peer) Fl.SPN_PEER_STAT_ABSORBED
      else .all [
        queueMsg x.peer (answerMsg p.cmd p.addr x.stag p.hat x.label p.poison p.units),
        injectAll x.peer]]]

end Sys2Proof.Machine
end

