-- ==== Sys2Proof/Machine/Span.lean ====
section
/-! DEFINITION. Sessions, paths, discovery and ports of the span (R344–R372). -/

namespace Sys2Proof.Machine

/-! ### A session ends and begins (R352, R364, R366) -/

/-- A peer goes DOWN. -/
def peerDown (n : Nat) : Prog := .read fun b => .all [
  setPeer n PeerState.down,
  modPeer n fun _ => {},
  setF (Reg.SPN_PEER n) Fl.SPN_PEER_PATHS 0,
  modSpan fun s => { s with
    reqs := s.reqs.filter fun r => decide (r.peer ≠ n),
    fills := s.fills.filter fun x => decide (x.line.pkg ≠ n),
    rlc := s.rlc.filter fun l => decide (l.pkg ≠ n),
    ins := s.ins.map fun x => if x.peer = n then { x with dead := true } else x },
  .each (b.span.reqs.filter fun r => decide (r.peer = n)) fun r => spanTimedOut n r.req,
  dropPeerContribs n,
  answerDrains,
  showDisc]

/-- A session opens: both directions start at PSN 0, the limit is the peer's initial grant. -/
def openSession (n : Nat) (f : SpanFrame) : Prog := .all [
  setPeer n PeerState.up,
  setF (Reg.SPN_PEER n) Fl.SPN_PEER_INCARN f.incarn,
  modPeer n fun s => { s with
    nextPsn := 0, unacked := [], sacked := [], recvPsn := 0, window := [], limit := f.credit, used := 0, delivered := 0,
    granted := 0, expiries := 0, backoff := 0, moving := false, ackOwed := false, inject := [], lastBank := [] },
  grantCredit n,
  showDisc,
  transmit n]

/-! ### Paths (R356, R357) -/

/-- Two paths are the same pair of a local port and a port of the peer (R356). -/
def Path.same (p q : Path) : Bool := decide (p.chiplet = q.chiplet ∧ p.port = q.port ∧ p.far = q.far)

/-- A path is kept or refreshed: at most four, in the order found. -/
def keepPath (n : Nat) (p : Path) : Prog := .read fun b =>
  let l := (b.peerSt n).paths
  if l.any p.same then modPeer n fun s => { s with paths := s.paths.map fun q => if p.same q then p else q }
  else .when (decide (l.length < 4)) (.all [
    modPeer n fun s => { s with paths := s.paths ++ [p] },
    setF (Reg.SPN_PEER n) Fl.SPN_PEER_PATHS (l.length + 1)])

/-- The active path of a peer is up. -/
def Block.activeUp (b : Block) (n : Nat) : Bool :=
  match b.pathOf n (b.peerActive n) with
  | some p => b.spanPortUp p.chiplet p.port
  | none => false

/-- The index of a path of a peer. -/
def Block.pathIdx (b : Block) (n : Nat) (p : Path) : Nat := (b.peerSt n).paths.idxOf p

/-- Take a path as the active one, outside a session. -/
def takePath (n : Nat) (p : Path) : Prog := .read fun b => .all [
  setF (Reg.SPN_PEER n) Fl.SPN_PEER_ACTIVE (b.pathIdx n p % 4),
  setF (Reg.SPN_PEER n) Fl.SPN_PEER_ENGINE (portEngine p.chiplet p.port)]

/-- Retransmit, in PSN order, what no SACK bit names (R354). -/
def retransmit (n : Nat) : Prog := .read fun b =>
  let s := b.peerSt n
  let l := s.unacked.filter fun f => !s.sacked.contains f.psn
  .when (!s.moving) (.all [
    addSat (Reg.SPN_PEER n) Fl.SPN_PEER_RETX l.length,
    .each l fun f =>
      let now := b.frameTo 1 n f.psn f.msgs
      frameActive n { now with retx := true }])

/-- The active path moves to the next path that is up; to another engine by a handover. -/
def movePath (n : Nat) : Prog := .read fun b =>
  let l := (b.peerSt n).paths
  let cur := b.peerActive n
  .for? (((List.range l.length).map fun i => (cur + 1 + i) % l.length).find? fun k => match l[k]? with
    | some p => decide (k ≠ cur) && b.spanPortUp p.chiplet p.port
    | none => false) fun k => .for? l[k]? fun p => .all [
      setF (Reg.SPN_PEER n) Fl.SPN_PEER_ACTIVE k,
      .when (decide (portEngine p.chiplet p.port ≠ b.spanEngOf n)) (modPeer n fun s => { s with moving := true })]

/-- SESSION_HANDOVER_DONE: the new engine has the session; the peer's lines leave the old slice (R357). -/
def handoverDone (n : Nat) : Prog := .read fun b =>
  .when ((b.peerSt n).moving) (.for? (b.pathOf n (b.peerActive n)) fun p =>
    let old := b.spanEngOf n
    .all [
      modPeer n fun s => { s with moving := false },
      setF (Reg.SPN_PEER n) Fl.SPN_PEER_ENGINE (portEngine p.chiplet p.port),
      dropLines fun l => decide (l.pkg = n ∧ l.slice = old),
      retransmit n,
      transmit n])

def execSessionHandoverDone (n : Fin 1024) (s : State) : Host.Outcome State Fault Refusal := s.run (handoverDone n)

/-! ### What a frame is before its session (R350, R352, R367, R371) -/

/-- The domain of network chiplet c. -/
def netDom (c : Nat) : Nat := 17 + c

/-- The FEC of quads that receive has corrected some codewords: how many, the spec leaves open (FEC_CORR). -/
def fecSeen (c : Nat) (quads : List Nat) : Prog := .each quads fun q => .read fun b =>
  .when (decide (b.f (Reg.SPN_QUAD c q) Fl.SPN_QUAD_UP ≠ 0)) (withFree fun n => addSat (Reg.SPN_QUAD c q) Fl.SPN_QUAD_FEC_CORR n)

/-- The quads a transport engine serves (R347). -/
def engineQuads (e : Nat) : List Nat := (List.range 3).map fun i => 3 * (e % 4) + i

/-- A frame's way in, on one of some quads: its FCS, its domain, its destination, whether its sender is listed and bound; a side that sleeps is woken
and the frame is lost. -/
def frameIn (c : Nat) (quads : List Nat) (f : SpanFrame) (fcsOk : Bool) (k : Prog) : Prog := .read fun b =>
  let (_, _, _, dom, _) := identityOf b.recs
  let own := b.ownPkg
  if b.domAsleep (netDom c) then startWake (netDom c)
  else .all [fecSeen c quads,
    if !fcsOk then incSat Reg.SPN_DROP Fl.SPN_DROP_FCS
    else if !b.on Reg.SPN_ID Fl.SPN_ID_VALID || decide (f.domain ≠ dom) then incSat Reg.SPN_DROP Fl.SPN_DROP_DOMAIN
    else if f.dstPkg ≠ own ∧ ¬ (f.type = 3 ∧ f.dstPkg = 0x3FF) then .skip
    else if f.srcPkg = own then
      .when (decide (f.type = 3 ∧ f.serial ≠ b.f Reg.HUB_ID Fl.HUB_ID_SERIAL)) (.all [
        setF Reg.SPN_ID Fl.SPN_ID_DUP_ID 1, modSpan fun s => { s with dup := true }])
    else if !b.listedPeers.contains f.srcPkg || (b.boundHat (0x400 + f.srcPkg)).isNone then
      incSat Reg.SPN_DROP Fl.SPN_DROP_UNLISTED
    else k]

/-- A frame of an open session, with the session's incarnation. -/
def inSession (f : SpanFrame) (k : Prog) : Prog := .read fun b =>
  .when (b.session f.srcPkg) (
    if b.f (Reg.SPN_PEER f.srcPkg) Fl.SPN_PEER_INCARN = f.incarn then k else incSat Reg.SPN_DROP Fl.SPN_DROP_BAD_INCARN)

/-! ### DATA and ACK (R353–R355) -/

/-- What ACK_PSN, SACK and CREDIT of a frame say; the peer is UP again when it answers what was sent. -/
def takeAck (n : Nat) (f : SpanFrame) : Prog := .read fun b =>
  let s := b.peerSt n
  let behind := (s.nextPsn + 2 ^ 32 - f.ackPsn % 2 ^ 32) % 2 ^ 32
  let good := decide (behind ≤ s.unacked.length)
  let ack := s.nextPsn - behind
  let gone := s.unacked.length - behind
  let more := (f.credit + 2 ^ 32 - s.limit % 2 ^ 32) % 2 ^ 32
  .all [
    modPeer n fun s => { s with
      limit := if more < 2 ^ 31 then s.limit + more else s.limit,
      unacked := if good then s.unacked.drop gone else s.unacked,
      sacked := if good then (setBits f.sack 64).map fun i => (ack + 1 + i) % 2 ^ 32 else s.sacked,
      expiries := if good && decide (0 < gone) then 0 else s.expiries },
    .read fun b => .when (decide (b.peerState n = PeerState.suspect) &&
        ((good && decide (0 < gone)) || decide ((b.peerSt n).unacked = []))) (.all [setPeer n PeerState.up, showDisc])]

/-- A message is delivered. -/
def takeMsg (n : Nat) (m : SpanMsg) : Prog :=
  if m.resp then spanResponse n m
  else .all [
    modPeer n fun s => { s with delivered := s.delivered + m.credit, inject := s.inject ++ [m] },
    grantCredit n]

/-- The next frame in PSN order is delivered, if it has come. -/
def deliverOne (n : Nat) : Prog := .read fun b =>
  let s := b.peerSt n
  .for? (s.window.find? fun e => decide (e.1 = s.recvPsn)) fun e => .all [
    modPeer n fun s => { s with window := s.window.erase e, recvPsn := s.recvPsn + 1 },
    .each e.2.msgs (takeMsg n)]

/-- DATA: kept in the window unless it is a duplicate or beyond it; what is in order is delivered. -/
def dataFrame (e : Nat) (f : SpanFrame) (fcsOk : Bool) : Prog := frameIn (e / 4) (engineQuads e) f fcsOk (inSession f (
  let n := f.srcPkg
  .all [
    takeAck n f,
    .read fun b =>
      let s := b.peerSt n
      let d := (f.psn + 2 ^ 32 - s.recvPsn % 2 ^ 32) % 2 ^ 32
      .when (decide (d ≤ 64) && !(s.window.any fun e => decide (e.1 = s.recvPsn + d)))
        (modPeer n fun s => { s with window := s.window ++ [(s.recvPsn + d, f)] }),
    .all (List.replicate 65 (deliverOne n)),
    modPeer n fun s => { s with ackOwed := true },
    injectAll n,
    transmit n]))

def execData (e : Fin 8) (f : SpanFrame) (fcsOk : Bool) (s : State) : Host.Outcome State Fault Refusal :=
  s.run (dataFrame e { f with type := 1 } fcsOk)

/-- ACK. -/
def ackFrame (e : Nat) (f : SpanFrame) (fcsOk : Bool) : Prog := frameIn (e / 4) (engineQuads e) f fcsOk (inSession f (.all [
  takeAck f.srcPkg f, transmit f.srcPkg]))

def execAck (e : Fin 8) (f : SpanFrame) (fcsOk : Bool) (s : State) : Host.Outcome State Fault Refusal :=
  s.run (ackFrame e { f with type := 2 } fcsOk)

/-- 200 ns after a receipt without a DATA frame to send: an ACK frame. -/
def ackDelay (n : Nat) : Prog := .read fun b =>
  .when (b.session n && (b.peerSt n).ackOwed) (.all [
    modPeer n fun s => { s with ackOwed := false }, frameActive n (b.frameTo 2 n 0 [])])

def execAckDelayTimer (n : Fin 1024) (s : State) : Host.Outcome State Fault Refusal := s.run (ackDelay n)

/-- RTO passes without progress (R354). -/
def retransmitTimeout (n : Nat) : Prog := .read fun b =>
  let s := b.peerSt n
  .when (b.session n && decide (s.unacked ≠ []) && !b.sideHeld n) (
    if max 2 (b.f Reg.SPN_CTL Fl.SPN_CTL_RETRY_MAX) ≤ s.expiries + 1 then peerDown n
    else .all [
      modPeer n fun s => { s with expiries := s.expiries + 1 },
      .when (decide (s.expiries + 1 = 2)) (.all [setPeer n PeerState.suspect, showDisc, movePath n]),
      retransmit n])

def execRetransmitTimeout (n : Fin 1024) (s : State) : Host.Outcome State Fault Refusal := s.run (retransmitTimeout n)

/-- No frame on any path for three HELLO intervals (R364). -/
def execPeerSilenceTimeout (n : Fin 1024) (s : State) : Host.Outcome State Fault Refusal :=
  s.run (.read fun b => .when (b.session n || decide (b.peerState n = PeerState.opening)) (peerDown n))

/-! ### Discovery (R367–R369) -/

/-- OPEN on the active path. -/
def sendOpen (n backoff : Nat) : Prog := .all [
  setPeer n PeerState.opening,
  modPeer n fun s => { s with backoff := backoff },
  .read fun b => frameActive n { b.frameTo 4 n 0 [] with ackPsn := 0, sack := 0, credit := b.creditRoom n }]

/-- OPEN is repeated after 1 ms, then after twice the last wait, up to 256 ms. -/
def execOpenRetryTimer (n : Fin 1024) (s : State) : Host.Outcome State Fault Refusal :=
  s.run (.read fun b => .when (decide (b.peerState n = PeerState.opening) && !b.span.dup)
    (sendOpen n (min 256 (2 * (b.peerSt n).backoff))))

/-- A port that is up sends its HELLO: to the group in Ethernet II mode, to each listed peer in UDP mode. -/
def helloTimer (c port : Nat) : Prog := .read fun b =>
  let (_, _, encap, _, _) := identityOf b.recs
  .when (b.spanPortUp c port && b.on Reg.SPN_ID Fl.SPN_ID_VALID) (
    if encap % 2 = 0 then frameOut c port { b.frameTo 3 0x3FF 0 [] with ackPsn := 0, sack := 0, credit := 0, paths := 0 }
    else .each (b.listedPeers.filter fun n => decide (n ≠ b.ownPkg)) fun n =>
      frameOut c port { b.frameTo 3 n 0 [] with ackPsn := 0, sack := 0, credit := 0 })

def execHelloTimer (c : Fin 2) (port : Fin 48) (s : State) : Host.Outcome State Fault Refusal := s.run (helloTimer c port)

/-- HELLO of a listed peer: a path is made or refreshed; a new incarnation ends the session; the first path starts OPEN. -/
def helloFrame (c port : Nat) (f : SpanFrame) (fcsOk : Bool) : Prog := .read fun b => .when (b.spanPortUp c port) (
  frameIn c [port / 4] f fcsOk (
    let n := f.srcPkg
    let p : Path := ⟨c, port, f.srcPort, f.srcMac⟩
    .all [
      .when (b.session n && decide (b.f (Reg.SPN_PEER n) Fl.SPN_PEER_INCARN ≠ f.incarn)) (peerDown n),
      keepPath n p,
      .read fun b =>
        let st := b.peerState n
        .when (!b.span.dup && decide (st = PeerState.unknown ∨ st = PeerState.down)) (.all [takePath n p, sendOpen n 1]),
      .read fun b => .when (!b.activeUp n) (
        if b.session n then movePath n else .when (decide (b.peerState n = PeerState.opening)) (takePath n p))]))

def execHello (c : Fin 2) (port : Fin 48) (f : SpanFrame) (fcsOk : Bool) (s : State) : Host.Outcome State Fault Refusal :=
  s.run (helloFrame c port { f with type := 3 } fcsOk)

/-- OPEN: answered, and a session opens unless this one repeats the OPEN of a session in which nothing has come yet. -/
def openFrame (c port : Nat) (f : SpanFrame) (fcsOk : Bool) : Prog := .read fun b => .when (b.spanPortUp c port) (
  frameIn c [port / 4] f fcsOk (.when (!b.span.dup) (
    let n := f.srcPkg
    let p : Path := ⟨c, port, f.srcPort, f.srcMac⟩
    let s := b.peerSt n
    let same := b.session n && decide (b.f (Reg.SPN_PEER n) Fl.SPN_PEER_INCARN = f.incarn ∧ s.recvPsn = 0 ∧ s.window = [])
    .all [
      .when (b.session n && !same) (peerDown n),
      keepPath n p,
      .when (!same) (.all [
        .when (decide (b.peerState n ≠ PeerState.opening)) (takePath n p),
        openSession n f]),
      .read fun b => frameOut c port { b.frameTo 5 n 0 [] with ackPsn := 0, sack := 0 }])))

def execOpen (c : Fin 2) (port : Fin 48) (f : SpanFrame) (fcsOk : Bool) (s : State) : Host.Outcome State Fault Refusal :=
  s.run (openFrame c port { f with type := 4 } fcsOk)

/-- OPEN_ACK: the session opens if OPEN waits for it. -/
def openAckFrame (c port : Nat) (f : SpanFrame) (fcsOk : Bool) : Prog := .read fun b => .when (b.spanPortUp c port) (
  frameIn c [port / 4] f fcsOk (
    let n := f.srcPkg
    if b.peerState n = PeerState.opening then .when (!b.span.dup) (openSession n f)
    else .when (b.session n && decide (b.f (Reg.SPN_PEER n) Fl.SPN_PEER_INCARN ≠ f.incarn))
      (incSat Reg.SPN_DROP Fl.SPN_DROP_BAD_INCARN)))

def execOpenAck (c : Fin 2) (port : Fin 48) (f : SpanFrame) (fcsOk : Bool) (s : State) : Host.Outcome State Fault Refusal :=
  s.run (openAckFrame c port { f with type := 5 } fcsOk)

/-- CLOSE ends the session. -/
def execClose (e : Fin 8) (f : SpanFrame) (fcsOk : Bool) (s : State) : Host.Outcome State Fault Refusal :=
  s.run (frameIn (e / 4) (engineQuads e) { f with type := 6 } fcsOk (inSession f (peerDown f.srcPkg)))

/-- This package ends a session with CLOSE. -/
def closeSession (n : Nat) : Prog := .read fun b =>
  .when (b.session n) (.all [frameActive n (b.frameTo 6 n 0 []), peerDown n])

/-! ### Ports, lanes and quads (R344–R346) -/

/-- Ports of a quad in its mode, and the logical lanes of each. -/
def quadPorts (mode : Nat) : List Nat := if mode = 0 then [0] else if mode = 1 then [0, 2] else if mode = 2 then [0, 1, 2, 3] else []

def portLanes (mode : Nat) : Nat := if mode = 0 then 4 else if mode = 1 then 2 else 1

namespace Block

def quadMode (b : Block) (c q : Nat) : Nat := b.f (Reg.SPN_QUAD c q) Fl.SPN_QUAD_MODE

/-- The port that carries a logical lane. -/
def portOfLane (b : Block) (c l : Nat) : Option Nat :=
  let mode := b.quadMode c (l / 4)
  if mode = 3 then none else some (l / portLanes mode * portLanes mode)

/-- Spare k of a chiplet carries logical lane l. -/
def spareFor (b : Block) (c k : Nat) : Option Nat :=
  let a := Reg.SPN_LANE c
  if b.on a (if k = 0 then Fl.SPN_LANE_SPARE0_USED else Fl.SPN_LANE_SPARE1_USED) then
    some (b.f a (if k = 0 then Fl.SPN_LANE_SPARE0_FOR else Fl.SPN_LANE_SPARE1_FOR))
  else none

/-- A physical lane has failed. -/
def laneFailed (b : Block) (c l : Nat) : Bool := bit (b.f (Reg.SPN_LANE c) Fl.SPN_LANE_FAILED) l

/-- The physical lane that carries a logical lane: a spare (48, 49) mapped onto it, else its own. -/
def physLane (b : Block) (c l : Nat) : Nat :=
  if b.spareFor c 1 = some l then 49 else if b.spareFor c 0 = some l then 48 else l

/-- The logical lanes of a port. -/
def lanesOf (b : Block) (c port : Nat) : List Nat :=
  (List.range (portLanes (b.quadMode c (port / 4)))).map fun i => port + i

end Block

/-- A port goes down: sessions on it move to their next path (R357, R364). -/
def spanPortDown (c port : Nat) : Prog := .read fun b =>
  .when (b.spanPortUp c port) (.all [
    andNotF (Reg.SPN_QUAD c (port / 4)) Fl.SPN_QUAD_UP (2 ^ (port % 4)),
    .each (b.listedPeers.filter fun n => b.session n && (match b.pathOf n (b.peerActive n) with
      | some p => decide (p.chiplet = c ∧ p.port = port)
      | none => false)) fun n => .all [
        setPeer n PeerState.suspect, movePath n, retransmit n],
    showDisc])

def execSpanPortDown (c : Fin 2) (port : Fin 48) (s : State) : Host.Outcome State Fault Refusal := s.run (spanPortDown c port)

/-- A free spare is mapped onto a logical lane whose physical lane has failed. -/
def mapSpare (c l : Nat) : Prog := .read fun b =>
  let a := Reg.SPN_LANE c
  .when (b.laneFailed c (b.physLane c l)) (
    if (b.spareFor c 0).isNone ∧ !b.laneFailed c 48 ∧ !b.laneSuspect c 0 then .all [
      endMission 4 c 3,
      setF a Fl.SPN_LANE_SPARE0_USED 1, setF a Fl.SPN_LANE_SPARE0_FOR l, logEv St.spareConsumed (50 * c + l)]
    else .when ((b.spareFor c 1).isNone && !b.laneFailed c 49 && !b.laneSuspect c 1) (.all [
      endMission 4 c 3,
      setF a Fl.SPN_LANE_SPARE1_USED 1, setF a Fl.SPN_LANE_SPARE1_FOR l, logEv St.spareConsumed (50 * c + l)]))

/-- A port of its quad's mode has trained, from step 8 of bring-up on (R469), spares taking the place of failed lanes; with a failed lane left it has not. -/
def spanPortTrained (c port : Nat) : Prog := .read fun b =>
  .when ((quadPorts (b.quadMode c (port / 4))).contains (port % 4) && !b.sys.offSpan.contains (portEngine c port) &&
      !b.sys.netLost.contains c && b.sys.cfgDone && !b.on Reg.HUB_BRINGUP Fl.HUB_BRINGUP_FAILED) (.all [
    .each (b.lanesOf c port) (mapSpare c),
    .read fun b => .when (!((b.lanesOf c port).any fun l => b.laneFailed c (b.physLane c l)))
      (orF (Reg.SPN_QUAD c (port / 4)) Fl.SPN_QUAD_UP (2 ^ (port % 4)))])

def execSpanPortUp (c : Fin 2) (port : Fin 48) (s : State) : Host.Outcome State Fault Refusal := s.run (spanPortTrained c port)

/-- A physical lane fails: its port goes down. -/
def spanLaneFail (c lane : Nat) : Prog := .read fun b => .all [
  orF (Reg.SPN_LANE c) Fl.SPN_LANE_FAILED (2 ^ lane),
  .for? ((List.range 48).find? fun l => decide (b.physLane c l = lane)) fun l => .for? (b.portOfLane c l) (spanPortDown c)]

def execSpanLaneFail (c : Fin 2) (lane : Fin 50) (s : State) : Host.Outcome State Fault Refusal := s.run (spanLaneFail c lane)

/-- A write of SPN_QUAD: MODE and MEDIA, whose media 3 is refused; the quad's ports retrain.  In TEST_MODE MODE stays 3 (R490). -/
def spnQuadWrite (hat c q : Nat) (v : W64) : Prog := underHat hat (.read fun b =>
  .when ((b.holds hat Right.span || decide (hat = 0)) && decide (getFld v Fl.SPN_QUAD_MEDIA ≠ 3)) (.all [
    endMission 4 c 4,
    .each (List.range 4) fun i => spanPortDown c (4 * q + i),
    setF (Reg.SPN_QUAD c q) Fl.SPN_QUAD_MODE (if b.on Reg.TST_CTL Fl.TST_CTL_TEST_MODE then 3 else getFld v Fl.SPN_QUAD_MODE),
    setF (Reg.SPN_QUAD c q) Fl.SPN_QUAD_MEDIA (getFld v Fl.SPN_QUAD_MEDIA)]))

def execSpnQuadWrite (hat : Nat) (c : Fin 2) (q : Fin 12) (val : W64) (s : State) : Host.Outcome State Fault Refusal :=
  s.run (spnQuadWrite hat c q val)

/-! ### Span commands at their receivers (R370) -/

/-- A transport engine's answer to a drain reaches the hub. -/
def spanDrainDone (e h : Nat) : Prog := .read fun b =>
  let p := Pkt.bare 0xA3 0 0 h (.spanEng e) .commitLogic
  .when (b.noc.net.contains p) (.all [
    takePkt p,
    modSpan fun s => { s with drains := s.drains.erase (e, h) },
    modPmp fun s => { s with revs := s.revs.map fun r => { r with await := r.await.erase (e, h) } },
    progressRevokes])

def execSpnDrainDone (e : Fin 8) (drainHat : Nat) (s : State) : Host.Outcome State Fault Refusal := s.run (spanDrainDone e drainHat)

/-! ### Commits (R372) -/

/-- SPAN_IDENTITY has changed, every session closed: the cache is emptied, INCARN rises, discovery starts again. -/
def newIdentity : Prog := .all [
  modSpan fun s => { s with rlc := [], fills := s.fills.map (fun x => { x with drop := true }), dup := false },
  addWrap Reg.SPN_ID Fl.SPN_ID_INCARN 1]

end Sys2Proof.Machine
end

