-- ==== Sys2Proof/Machine/Hat.lean ====
section
/-! DEFINITION. Hats (R373–R398): hat reset, hosts that disappear, tenant removal, regulation windows. -/

namespace Sys2Proof.Machine

/-! ### The units of a hat (R387, R389, R394) -/

namespace Block

/-- A unit has work of a hat that has not stopped. -/
def unitBusy (b : Block) (u : Ep) (h : Nat) : Bool :=
  match u with
  | .pump p => b.work.any fun e => decide (e.1 / 64 = p) && (match e.2 with
    | some d => decide (d.hat = h)
    | none => false)
  | .glove g _ => (List.range 16).any fun c => b.prtRuns g c && decide (b.prtHat g c = h) && decide ((b.prtCtx g c).tasks ≠ [])
  | _ => false

/-- The units that HAT_CMD goes to for a hat: engines with its contexts or kernels, pumps with its transfers, sites with its
Prour contexts. -/
def hatUnits (b : Block) (h : Nat) : List Ep :=
  (((List.range 24).filter fun e => b.engineOn e && ((List.range 4).any (fun c => decide (b.ctxHat e c = h)) ||
      (List.range 8).any fun k => b.on (Reg.VEC_KERNEL e k) Fl.VEC_KERNEL_VALID &&
        decide (b.f (Reg.VEC_KERNEL e k) Fl.VEC_KERNEL_HAT = h))).map Ep.engine) ++
    (((List.range 48).filter fun p => b.unitBusy (.pump p) h).map Ep.pump) ++
    (((List.range 16).filter fun g => (List.range 16).any fun c =>
      b.prtRuns g c && decide (b.prtHat g c = h ∧ b.prtState g c ≠ PrtState.off)).map fun g => Ep.glove g 0)

/-- Hats that are live: with a record, not removing and not removed. -/
def hatLive (b : Block) (h : Nat) : Bool :=
  decide (b.hatState h = HatState.active ∨ b.hatState h = HatState.resetting ∨ b.hatState h = HatState.orphaned)

end Block

def setHat (h st : Nat) : Prog := setF (Reg.HAT_CTL h) Fl.HAT_CTL_STATE st

/-- The command to a unit: ADDR 1 reset, 2 remove. -/
def hatCmdPkt (u : Ep) (h : Nat) (remove : Bool) : Pkt := Pkt.bare 0x88 (if remove then 2 else 1) 0 h .commitLogic u

def sendHatCmd (h : Nat) (remove : Bool) (l : List Ep) : Prog := .each l fun u => sendPkt (hatCmdPkt u h remove)

/-- HAT_CMD at a unit: its work of the hat stops (R166, R200, R389). -/
def hatCmd (u : Ep) (h : Nat) (remove : Bool) : Prog := .read fun b =>
  .when (b.noc.net.contains (hatCmdPkt u h remove)) (.all [
    takePkt (hatCmdPkt u h remove),
    match u with
    | .engine e => dropEngineHat e h
    | .pump _ => stopWhere (fun d => decide (d.hat = h)) St.drainAbsorbed
    | .glove g _ => prtHatStop g h remove
    | _ => .skip])

def execHatCmd (u : Ep) (h : Nat) (remove : Bool) (s : State) : Host.Outcome State Fault Refusal := s.run (hatCmd u h remove)

/-! ### Orphans (R391) -/

/-- ORPHANS of host port q. -/
def showOrphans (q : Nat) : Prog := .read fun b =>
  setF (Reg.HAT_GRACE q) Fl.HAT_GRACE_ORPHANS ((List.range 1024).filter fun h =>
    decide (b.hatState h = HatState.orphaned) && (match b.hatPort h with
      | some k => decide (k < 256 ∧ k / 64 = q)
      | none => false)).length

def showAllOrphans : Prog := .each (List.range 4) showOrphans

/-! ### Hat reset (R389, R390, R398) -/

/-- Step 3 of a hat reset. -/
def endHatReset (h : Nat) : Prog := .read fun b => .all [
  modHats fun s => { s with resets := s.resets.filter fun r => decide (r.1 ≠ h) },
  endIntakes h,
  .when (decide (b.hatState h = HatState.resetting)) (setHat h HatState.active),
  setF (Reg.HAT_CTL h) Fl.HAT_CTL_RESET_DONE 1]

/-- A hat reset starts: of an active hat, or of an orphaned one, which stays so. -/
def startHatReset (h : Nat) : Prog := .read fun b =>
  let st := b.hatState h
  .when (decide (h ≠ 0 ∧ h < 1024) && decide (st = HatState.active ∨ st = HatState.orphaned) && !(b.hats.resets.any fun r => r.1 = h)) (.all [
    .when (decide (st = HatState.active)) (setHat h HatState.resetting),
    .each (b.intakesOf h) fun i => closeIntake i true,
    .read fun b =>
      let l := b.hatUnits h
      if l = [] then endHatReset h
      else .all [
        modHats fun s => { s with resets := s.resets ++ [(h, l)] },
        sendHatCmd h false l]])

/-- A write of RESET: hat 0, the hat itself, a HAT_ADMIN hat of its partition; hat 0 itself cannot be reset. -/
def hatReset (hat h : Nat) : Prog := underHat hat (.read fun b =>
  .when (decide (hat = 0 ∨ hat = h) || (b.holds hat Right.hatAdmin && b.inPart hat (some (b.hatPart h)))) (
    if h = 0 then setF Reg.HAT_REMOVE Fl.HAT_REMOVE_DENIED 1 else startHatReset h))

/-! ### Tenant removal (R393–R397) -/

def removeStep (n : Nat) : Prog := setF Reg.HAT_REMOVE Fl.HAT_REMOVE_STEP n

def showQueue : Prog := .read fun b => setF Reg.HAT_REMOVE Fl.HAT_REMOVE_QUEUED (min 15 b.hats.queue.length)

def setRemoval (r : Removal) : Prog := modHats fun s => { s with running := some r }

/-- Entries of the hat sets of sites that name a hat are cleared. -/
def dropHatset (h : Nat) : Prog := .read fun b =>
  .each (List.range 16) fun g => .each (List.range 16) fun e =>
    let x := bits (b.w (Reg.GLV_HATSET g (e / 4))).toNat (16 * (e % 4)) 16
    .when (x.testBit 15 && decide (x % 1024 = h)) (setF (Reg.GLV_HATSET g (e / 4)) ⟨16 * (e % 4), 16⟩ 0)

/-- Steps 1 and 2 of a removal. -/
def beginRemoval (r : Removal) : Prog := .all [
  setF Reg.HAT_REMOVE Fl.HAT_REMOVE_BUSY 1,
  setF Reg.HAT_REMOVE Fl.HAT_REMOVE_CODE 0,
  removeStep 2,
  .each r.set fun h => .all [setHat h HatState.removing, releaseSlotsOf h, dropHatset h],
  showAllOrphans,
  .read fun b =>
    let l := r.set.flatMap fun h => (b.hatUnits h).map fun u => (u, h)
    .all [
      setRemoval { r with step := 2, await := l },
      .each l fun x => sendPkt (hatCmdPkt x.1 x.2 true)]]

/-- The oldest removal that waits starts, once none runs and no hat of its set is in a hat reset. -/
def startRemoval : Prog := .read fun b =>
  match b.hats.running, b.hats.queue with
  | none, r :: rest => .when (!(r.set.any fun h => b.hats.resets.any fun x => x.1 = h)) (.all [
      modHats fun s => { s with queue := rest }, showQueue, beginRemoval r])
  | _, _ => .skip

/-- The contexts that wear a hat of a set. -/
def Block.xctxOf (b : Block) (set : List Nat) : List Nat :=
  (List.range 256).filter fun x => set.contains (b.f (Reg.XLT_CTX_CTL x) Fl.XLT_CTX_CTL_HAT)

/-- Nothing that a partition had outstanding when the hold began is left (R73 step 4, R74, R101, R396, R481): no packet for its banks or
troughs, no line with a transaction, no piece of a pump, no request of an engine, walker or site without its answer, no packet held
for a wake. -/
def Block.partQuiet (b : Block) (p : Nat) (inside : List Pkt) : Bool :=
  !(b.noc.net.any fun k => inside.contains k && (match k.dst with
    | .bank w _ => decide (b.wellPart w = some p)
    | .trough _ => decide (b.troughPart (trgAddrTrough k.addr) = some p)
    | _ => false)) &&
  !(b.dir.any fun e => decide (b.wellPart (keyWell e.1) = some p) && (e.2.txn.isSome || decide (e.2.queue ≠ []))) &&
  ((List.range 48).all fun u => decide (b.pumpPart u ≠ some p ∨ b.piecesOut u = 0)) &&
  !(b.ctx.any fun t => decide (b.enginePart (t.1 / 4) = some p) &&
    t.2.pend.any fun a => a.walk.isNone && a.fid.isNone && !a.unsent) &&
  !(b.xlt.walks.any fun t => match t.2 with
    | some k => decide (b.hatPart k.hat = p)
    | none => false) &&
  ((List.range 16).all fun g => decide (b.sitePart g ≠ some p ∨ (b.site g).reads = []) || (b.site g).fenced) &&
  !((b.noc.wakeBuf ++ b.noc.stalled).any fun e => e.2.any (b.flightOf p))

/-- The partitions of a set that hold no live hat, and whether some other holds one. -/
def Block.clearable (b : Block) (set : List Nat) : List Nat × Bool :=
  let all := ((set.map b.hatPart).filter fun p => decide (p ≠ 0xFF)).eraseDups
  let (dead, live) := all.partition fun p => !((List.range 1024).any fun h => b.hatLive h && decide (b.hatPart h = p))
  (dead, decide (live ≠ []))

/-- The memory of a partition is cleared (R396). -/
def clearPart (p : Nat) : Prog := .read fun b =>
  let l := regionsOf b.recs
  let runs := (l.filter fun r => decide (r.part = p)).flatMap fun r => r.runs l
  .all [discardLines fun k => runs.any fun r => r.hasKey k, .each runs markClear]

/-- What a hold kept back goes on (R73 step 6): tile credits, span requests, walks, requests at the engines' network interfaces. -/
def releaseHeld : Prog := .all [armAll, injectHeld, .each (List.range 4) serveWalks, releaseAccesses]

/-- A hat is marked for rebind at port q (R418). -/
def markRebind (q h : Nat) : Prog := .all [
  modPort q fun s => { s with marks := insertNat h s.marks },
  .read fun b => setF (Reg.HST_STATUS q) Fl.HST_STATUS_REBIND_PEND (b.portSt q).marks.length]

/-- A hat's marks clear (R418). -/
def clearMarks (h : Nat) : Prog := .read fun b => .each (List.range 4) fun q => .when ((b.portSt q).marks.contains h) (.all [
  modPort q fun s => { s with marks := removeNat h s.marks },
  setF (Reg.HST_STATUS q) Fl.HST_STATUS_REBIND_PEND ((b.portSt q).marks.length - 1)])

/-- The end of a removal. -/
def endRemoval (r : Removal) : Prog := .all [
  .each r.set fun h => setHat h HatState.removed,
  .for? r.port fun q => .each r.set (markRebind q),
  setF Reg.HAT_REMOVE Fl.HAT_REMOVE_CODE (if r.kept then St.unsupported else St.ok),
  setF Reg.HAT_REMOVE Fl.HAT_REMOVE_DONE 1,
  setF Reg.HAT_REMOVE Fl.HAT_REMOVE_BUSY 0,
  removeStep 0,
  modHats fun s => { s with running := none },
  startRemoval]

/-- One step of the running removal, if the step before has ended for its whole set. -/
def stepRemoval : Prog := .read fun b =>
  .for? b.hats.running fun r =>
    if r.step = 2 then .when (decide (r.await = [])) (.all [
      removeStep 3, setRemoval { r with step := 3 }, .each r.set pumpRemove])
    else if r.step = 3 then .when (!(b.pmp.revs.any fun x => match x.hat with
        | some h => r.set.contains h
        | none => false)) (.all [
      removeStep 4, setRemoval { r with step := 4 },
      .each (b.xctxOf r.set) disableXctx])
    else if r.step = 4 then .when (!((b.xctxOf r.set).any fun x => b.on (Reg.XLT_CTX_EPOCH x) Fl.XLT_CTX_EPOCH_BUSY)) (.all [
      .each ((List.range 16).filter fun q => r.set.contains (b.fqOwner q)) fun q => setF (Reg.XLT_FQ_CTL q) Fl.XLT_FQ_CTL_ENABLE 0,
      removeStep 5,
      .each r.set ejectHat,
      .each ((List.range 256).filter fun w => b.on (Reg.PMP_WSET w) Fl.PMP_WSET_VALID &&
        r.set.contains (b.f (Reg.PMP_WSET w) Fl.PMP_WSET_HAT)) fun w => .all [
          clearWset w, setF (Reg.PMP_WSET w) Fl.PMP_WSET_VALID 0],
      removeStep 6,
      .read fun b =>
        let (dead, live) := if r.clear then b.clearable r.set else ([], false)
        .all [
          setRemoval { r with step := 6, holding := dead, kept := live, inside := b.noc.net },
          holdSites (dead.foldl setBit 0)]])
    else .when (r.holding.all fun p => b.partQuiet p r.inside) (.all [
      .each r.holding clearPart,
      setRemoval { r with step := 7, holding := [] },
      releaseSites (r.holding.foldl setBit 0),
      releaseHeld,
      removeStep 7,
      endRemoval r])

/-- The hub's own sequences go on as far as they can: hat resets whose units have answered end, the running removal goes on. -/
def hubGoesOn : Prog := .all [
  .read fun b => .each (b.hats.resets.filter fun r => decide (r.2 = [])) fun r => endHatReset r.1,
  startRemoval, stepRemoval, stepRemoval, stepRemoval, stepRemoval]

/-- HAT_CMD_DONE: a unit that has received the command and whose work of the hat has stopped reports it. -/
def hatCmdDone (u : Ep) (h : Nat) : Prog := .read fun b =>
  .when (!(b.noc.net.any fun k => decide (k.cmd = 0x88 ∧ k.dst = u ∧ k.hat = h)) && !b.unitBusy u h) (.all [
    modHats fun s => { s with
      resets := s.resets.map fun r => if r.1 = h then (r.1, r.2.erase u) else r,
      running := s.running.map fun r => { r with await := r.await.erase (u, h) } },
    hubGoesOn])

def execHatCmdDone (u : Ep) (h : Nat) (s : State) : Host.Outcome State Fault Refusal := s.run (hatCmdDone u h)

def execHatReset (hat : Nat) (h : Fin 1024) (s : State) : Host.Outcome State Fault Refusal :=
  s.run (underHat hat (.all [hatReset hat h, hubGoesOn]))

/-- The set a GO names, or none when the request is refused. -/
def Block.removeSet (b : Block) (hat : Nat) (v : W64) : Option (List Nat) :=
  let scope := getFld v Fl.HAT_REMOVE_SCOPE
  let h := getFld v Fl.HAT_REMOVE_HAT
  let t := getFld v Fl.HAT_REMOVE_TENANT
  let set := if scope = 0 then [h] else (List.range 1024).filter fun x => decide (x ≠ 0 ∧ b.hatTenant x = t) && b.hatLive x
  if 1 < scope ∨ (scope = 0 ∧ h = 0) then none
  else if hat ≠ 0 ∧ (set.any fun x => !b.inPart hat (some (b.hatPart x))) = true then none
  else some (set.filter b.hatLive)

/-- A write of HAT_REMOVE: hat 0 and HAT_ADMIN hats. -/
def hatRemove (hat : Nat) (v : W64) : Prog := underHat hat (.read fun b =>
  let a := Reg.HAT_REMOVE
  .when (decide (hat = 0) || b.holds hat Right.hatAdmin) (.all [
    .each [Fl.HAT_REMOVE_CLEAR, Fl.HAT_REMOVE_SCOPE, Fl.HAT_REMOVE_HAT, Fl.HAT_REMOVE_TENANT] fun fl => setF a fl (getFld v fl),
    .each [Fl.HAT_REMOVE_DONE, Fl.HAT_REMOVE_DENIED] fun fl => .when (decide (getFld v fl = 1)) (setF a fl 0),
    .when (decide (getFld v Fl.HAT_REMOVE_GO = 1)) (match b.removeSet hat v with
      | none => setF a Fl.HAT_REMOVE_DENIED 1
      | some set =>
        if 8 ≤ b.hats.queue.length then setF a Fl.HAT_REMOVE_DENIED 1
        else .all [
          modHats fun s => { s with queue := s.queue ++ [{ set := set, clear := decide (getFld v Fl.HAT_REMOVE_CLEAR = 1) }] },
          showQueue, hubGoesOn])]))

def execHatRemove (hat : Nat) (val : W64) (s : State) : Host.Outcome State Fault Refusal := s.run (hatRemove hat val)

/-- A removal of the orphaned hats of a set queues (R392, R393). -/
def queueOrphans (q : Nat) (set : List Nat) : Prog := .read fun b => .all [
  modHats fun s => { s with
    queue := s.queue ++ [{ set := set.filter (fun h => decide (b.hatState h = HatState.orphaned)), port := some q }] },
  showQueue, hubGoesOn]

/-- The grace of the oldest hats that port q orphaned ends: their removal queues (R392). -/
def graceEnd (q : Nat) : Prog := .read fun b =>
  match Tbl.get (dflt []) q b.hats.orphanOf with
  | [] => .skip
  | set :: rest => .all [
      modHats fun s => { s with orphanOf := Tbl.set (dflt []) q rest s.orphanOf },
      queueOrphans q set]

def execGraceEnd (q : Fin 4) (s : State) : Host.Outcome State Fault Refusal := s.run (graceEnd q)

/-- The host of port q is gone: the hats of its functions are orphaned; without grace their removal queues at once (R391, R392). -/
def orphanPort (q : Nat) : Prog := .read fun b =>
  let set := (List.range 1024).filter fun h => decide (h ≠ 0) &&
    decide (b.hatState h = HatState.active ∨ b.hatState h = HatState.resetting) && (match b.hatPort h with
      | some k => decide (k < 256 ∧ k / 64 = q)
      | none => false)
  .when (decide (set ≠ [])) (.all [
    .each set fun h => .all [setHat h HatState.orphaned, releaseSlotsOf h],
    showOrphans q,
    if b.f (Reg.HAT_GRACE q) Fl.HAT_GRACE_GRACE_S = 0 then queueOrphans q set
    else modHats fun s => { s with orphanOf := Tbl.upd [] q (fun l => l ++ [set]) s.orphanOf }])

/-! ### Regulation (R382–R386) -/

/-- A regulator at the end of a window; none when its pair has charged nothing in it. -/
def Block.nextWindow (b : Block) (r : Regul) : Option Regul :=
  if r.idle then none
  else
    let have_ := b.allowance r + r.carry
    let burst := if r.hat < 1024 then ((b.budget r.hat r.label).map Prod.snd).getD 0 else 0
    some { r with spent := r.spent - have_, carry := min burst (have_ - r.spent), idle := true }

def execRegulationWindow (s : State) : Host.Outcome State Fault Refusal :=
  s.run (.read fun b => modHats fun x => { x with reguls := x.reguls.filterMap b.nextWindow })

end Sys2Proof.Machine
end

