-- ==== Sys2Proof/Machine/WellOps.lean ====
section
/-! DEFINITION. What else happens at a well: the buffer's idle drain, clearing, failing channels, scrub, temperatures, write-back
(R261, R267, R271–R274, WEL_CTL). -/

namespace Sys2Proof.Machine

/-- 1 µs without a write to a buffered line (R267). -/
def execWcIdleTimeout (w : Fin 12) (key : Nat) (s : State) : Host.Outcome State Fault Refusal :=
  s.run (.when (decide (keyWell key = w)) (drainLine key))

/-- The well has cleared its lowest marked block; in retention it does not clear (R261). -/
def clearBlockDone (w : Nat) : Prog := .read fun b =>
  .when (!b.domAsleep w) (.for? (b.mem.clear.find? fun k => decide (k / 2 ^ 19 = w)) fun k => .all [
    modMem fun m => { m with clear := removeNat k m.clear }, showClear w])

def execClearBlockDone (w : Fin 12) (s : State) : Host.Outcome State Fault Refusal := s.run (clearBlockDone w)

/-- A channel in service fails retraining (R271). -/
def execChannelFail (w : Fin 12) (ch : Fin 16) (s : State) : Host.Outcome State Fault Refusal :=
  s.run (.read fun b => .when (bit (b.f (Reg.WEL_CHAN w) Fl.WEL_CHAN_IN_SERVICE) ch) (failChannel w ch))

/-- The line holds data of a region, or lies in the trough reserve. -/
def Block.populated (b : Block) (w wl : Nat) : Bool :=
  (localOf (regionsOf b.recs) w wl).isSome || decide (b.f (Reg.WEL_CAP w) Fl.WEL_CAP_CAP_MIB * 2 ^ 20 ≤
    wl + b.f (Reg.WEL_CAP w) Fl.WEL_CAP_RESERVE_MIB * 2 ^ 20 ∧ wl < b.f (Reg.WEL_CAP w) Fl.WEL_CAP_CAP_MIB * 2 ^ 20)

/-- The scrub reads the half at a well-local address of populated memory (R272). -/
def patrolScrub (w line : Nat) (ecc : Ecc) : Prog := .read fun b =>
  let key := lineKey w line
  .when (!b.on (Reg.WEL_CTL w) Fl.WEL_CTL_SCRUB_OFF && b.populated w line) (
    match ecc with
    | .clean => .skip
    | .corrected => corrected key none
    | .bad => uncorrectable key (line / 32 % 4) 3)

def execPatrolScrub (w : Fin 12) (line : Nat) (ecc : Ecc) (s : State) : Host.Outcome State Fault Refusal :=
  s.run (patrolScrub w line ecc)

/-! ### Heat (R273, R274) -/

/-- A condition set at one threshold and cleared below another. -/
def latched (was : Bool) (set clear : Bool) : Bool := if was then !clear else set

/-- The heat action begins at a well, or ends. -/
def wellHeat (w : Nat) (on : Bool) : Prog := .read fun b => .all [
  setF (Reg.WEL_STATUS w) Fl.WEL_STATUS_HEAT (b2n on),
  (if on then logEv St.thermalThrottle w
  else .all [
    setTarget w (b.domOp w),
    modDom w fun s => { s with stackHeat := 15 },
    refreshHeat w]),
  .each (sitesByWell w) refreshThrottle]

/-- The 100 µs read of a stack's temperature, in units of 0.125 °C. -/
def stackTempRead (w : Nat) (temp : Int) : Prog := .read fun b =>
  let a := Reg.WEL_STATUS w
  let heat := latched (b.on a Fl.WEL_STATUS_HEAT) (decide (800 < temp)) (decide (temp < 776))
  .when (b.wellOn w) (.all [
    setF a Fl.WEL_STATUS_STACK_TEMP (wrapInt 16 temp),
    setF a Fl.WEL_STATUS_REFRESH_2X
      (b2n (latched (b.on a Fl.WEL_STATUS_REFRESH_2X) (decide (760 ≤ temp)) (decide (temp < 744)))),
    setF a Fl.WEL_STATUS_PACE (b2n (latched (b.on a Fl.WEL_STATUS_PACE) (decide (840 ≤ temp)) (decide (temp < 816)))),
    .when (heat != b.on a Fl.WEL_STATUS_HEAT) (wellHeat w heat)])

def execStackTempRead (w : Fin 12) (temp : Int) (s : State) : Host.Outcome State Fault Refusal := s.run (stackTempRead w temp)

/-- One millisecond of the heat action: the well's domain steps down, to its lowest. -/
def execWellHeatStep (w : Fin 12) (s : State) : Host.Outcome State Fault Refusal :=
  s.run (.read fun b => .when (b.on (Reg.WEL_STATUS w) Fl.WEL_STATUS_HEAT && !b.domAsleep w) (.all [
    modDom w fun s => { s with stackHeat := b.lowerLim w s.stackHeat }, refreshHeat w]))

/-- The stack's own count of corrections (R271). -/
def execStackEcsRead (w : Fin 12) (count : Nat) (s : State) : Host.Outcome State Fault Refusal :=
  s.run (.all [
    addSat (Reg.WEL_ERR w) Fl.WEL_ERR_STACK_CORR count,
    modPwr fun p => { p with errs := Tbl.upd 0 w (fun n => n + count) p.errs }])

/-! ### Write-back and invalidate (WEL_CTL) -/

/-- Who may write a well's registers (R379). -/
def Block.mayWell (b : Block) (hat w : Nat) : Bool :=
  decide (hat = 0) || (b.holds hat Right.partAdmin && b.inPart hat (b.wellPart w))

def wbInv (hat w : Nat) : Prog := underHat hat (.read fun b =>
  .when (b.mayWell hat w && b.wellOn w) (setF (Reg.WEL_CTL w) Fl.WEL_CTL_WB_BUSY 1))

def execWbInv (hat : Nat) (w : Fin 12) (s : State) : Host.Outcome State Fault Refusal := s.run (wbInv hat w)

/-- Dirty sectors of a well's home cache go to the stack, and it holds nothing. -/
def emptyCache (w : Nat) : Prog := .read fun b =>
  .each ((b.mem.hc.map Prod.fst).filter fun k => decide (keyWell k = w)) evictLine

def execWbInvDone (w : Fin 12) (s : State) : Host.Outcome State Fault Refusal :=
  s.run (.read fun b => .when (b.on (Reg.WEL_CTL w) Fl.WEL_CTL_WB_BUSY) (.all [
    emptyCache w,
    setF (Reg.WEL_CTL w) Fl.WEL_CTL_WB_BUSY 0,
    setF (Reg.WEL_CTL w) Fl.WEL_CTL_WB_DONE 1]))

end Sys2Proof.Machine
end

