-- ==== Sys2Proof/Machine/Commit.lean ====
section
/-! DEFINITION. Commit (R73–R82): the steps of a commit, the epoch and what it changes in every chapter's units (R56, R71,
R259, R260, R372, R386, R397, R448, R463). -/

namespace Sys2Proof.Machine

/-! ### What changes hands in memory (R259, R260) -/

/-- The start and length of a region's share in a well. -/
def shareOf (l : List Rec) (w : Nat) (r : Region) : Nat × Nat := (shareStart (regionsOf l) w r, r.share)

/-- Two records are one region: base, granule, well mask and partition are the same. -/
def Region.same (r x : Region) : Bool := decide (r.base = x.base ∧ r.gran = x.gran ∧ r.mask = x.mask ∧ r.part = x.part)

/-- The runs of a well that regions of `l` hold and the same regions of `m` do not hold at the same place. -/
def goneRuns (l m : List Rec) (w : Nat) : List WlRun :=
  ((regionsOf l).filter fun r => r.wells.contains w).map fun r =>
    let (lo, n) := shareOf l w r
    match (regionsOf m).find? fun x => r.same x with
    | some x => let (lo', n') := shareOf m w x
        if lo = lo' then ⟨w, lo + min n n', lo + n⟩ else ⟨w, lo, lo + n⟩
    | none => ⟨w, lo, lo + n⟩

/-- The reserve of a well, at its top. -/
def Block.reserveRun (b : Block) (l : List Rec) (w : Nat) : WlRun := ⟨w, b.capOf l w - reservedOf l w, b.capOf l w⟩

/-- What part of the reserve under `l` is none under `m`. -/
def Block.goneReserve (b : Block) (l m : List Rec) (w : Nat) : WlRun :=
  let r := b.reserveRun l w
  let x := b.reserveRun m w
  if r.hi = x.hi then ⟨w, r.lo, min r.hi x.lo⟩ else r

/-- The runs of a well whose owner changes from `old` to `new`: all of it when its channels change. -/
def Block.changedRuns (b : Block) (old new : List Rec) (w : Nat) : List WlRun :=
  if b.outOf old w ≠ b.outOf new w then [⟨w, 0, max (b.capOf old w) (b.capOf new w)⟩]
  else goneRuns old new w ++ goneRuns new old w ++ [b.goneReserve old new w, b.goneReserve new old w]

/-! ### The epoch (R73 step 5) -/

/-- The part of a unit, 0xFF for none. -/
def partNum (o : Option Nat) : Nat := o.getD 0xFF

/-- What a well shows of its channels and capacity; channels are in service once the memory has trained (R258). -/
def showWell (w : Nat) : Prog := .read fun b =>
  let out := b.outOf b.recs w
  let trained := b.sys.memDone && b.wellOn w
  let shares := ((regionsOf b.recs).filter fun r => r.wells.contains w).foldl (fun n r => n + r.share) 0
  .all [
    setF (Reg.WEL_CHAN w) Fl.WEL_CHAN_MAPPED (mapoutsOf b.recs w),
    setF (Reg.WEL_CHAN w) Fl.WEL_CHAN_IN_SERVICE (if trained then 0xFFFF - (out &&& 0xFFFF) else 0),
    setF (Reg.WEL_CAP w) Fl.WEL_CAP_CAP_MIB (if trained then b.capOf b.recs w / 2 ^ 20 else 0),
    setF (Reg.WEL_CAP w) Fl.WEL_CAP_RESERVE_MIB (reservedOf b.recs w / 2 ^ 20),
    setF (Reg.WEL_CAP w) Fl.WEL_CAP_SHARES_KIB (shares / 1024)]

/-- HUB_CAPACITY: the enabled wells after all map-out. -/
def showCapacity : Prog := .read fun b =>
  let l := List.range 12
  .all [
    setF Reg.HUB_CAPACITY Fl.HUB_CAPACITY_CHANNELS
      (l.map fun w => popCount (b.f (Reg.WEL_CHAN w) Fl.WEL_CHAN_IN_SERVICE) 16).sum,
    setF Reg.HUB_CAPACITY Fl.HUB_CAPACITY_CAP_MIB (l.map fun w => b.f (Reg.WEL_CAP w) Fl.WEL_CAP_CAP_MIB).sum]

def showWells : Prog := .all [.each (List.range 12) showWell, showCapacity]

/-- The registers whose fields are staged. -/
def stgRegs : List Nat :=
  [Reg.MON_TMG_CTL, Reg.NOC_CTL, Reg.PWR_CAP] ++ (List.range 16).map Reg.PWR_PART ++ (List.range 20).map Reg.PWR_DOM_CTL

/-- Staged fields take their committed values (R11). -/
def syncStg : Prog := .read fun b => .each stgRegs fun a => setR a (b.stgWord b.recs a (b.w a))

/-- A hat's rows follow its record; a hat whose record the commit carries is live again when it had been removed (R397). -/
def syncHat (old : List Rec) (carried : List Nat) (h : Nat) : Prog := .read fun b =>
  match hatRec b.recs h with
  | some r => .all [
      setF (Reg.HAT_INFO h) Fl.HAT_INFO_TENANT r.tenant, setF (Reg.HAT_INFO h) Fl.HAT_INFO_PARTITION r.part,
      setF (Reg.HAT_INFO h) Fl.HAT_INFO_VEC_LOG2 r.vecLog2, setF (Reg.HAT_INFO h) Fl.HAT_INFO_LABEL r.label,
      setF (Reg.HAT_INFO h) Fl.HAT_INFO_RIGHTS r.rights,
      setF (Reg.HAT_KEYS h) Fl.HAT_KEYS_FIRST_KEY r.firstKey, setF (Reg.HAT_KEYS h) Fl.HAT_KEYS_KEY_COUNT r.keyCount,
      .when (decide ((hatRec old h).isNone)) (.all [
        setHat h HatState.active, setR (Reg.PWR_HAT_ENERGY h) 0,
        modHats fun s => { s with absentLogged := removeNat h s.absentLogged }]),
      .when (decide (b.hatState h = HatState.removed) && carried.contains h) (.all [
        setHat h HatState.active,
        modHats fun s => { s with absentLogged := removeNat h s.absentLogged },
        clearMarks h])]
  | none => .when (decide (h ≠ 0)) (.all [
      setR (Reg.HAT_INFO h) (resetVal (Reg.HAT_INFO h)), setR (Reg.HAT_KEYS h) 0, setR (Reg.HAT_CTL h) 0,
      setR (Reg.HAT_FALLBACK h) 0, clearMarks h])

/-- The port authority table follows the PORT_BIND records; the I3C port is hat 0's (R373, C19). -/
def syncBind (old : List Rec) : Prog := .read fun b => .all [
  .each ((bindsOf old).filter fun e => e.1 ≠ 0x100) fun e => .all [
    setR (Reg.HAT_PORT e.1) 0,
    setF (Reg.HAT_CTL e.2) Fl.HAT_CTL_BOUND 0, setF (Reg.HAT_CTL e.2) Fl.HAT_CTL_PORT 0],
  .each ((bindsOf b.recs).filter fun e => e.1 ≠ 0x100) fun e => .all [
    setF (Reg.HAT_PORT e.1) Fl.HAT_PORT_VALID 1, setF (Reg.HAT_PORT e.1) Fl.HAT_PORT_HAT e.2,
    setF (Reg.HAT_CTL e.2) Fl.HAT_CTL_BOUND 1, setF (Reg.HAT_CTL e.2) Fl.HAT_CTL_PORT e.1],
  showAllOrphans]

/-- The hat table at an epoch. -/
def syncHats (old : List Rec) (carried : List Nat) : Prog := .read fun b => .all [
  .each (((hatsOf old).map HatRec.hat ++ (hatsOf b.recs).map HatRec.hat).eraseDups) (syncHat old carried),
  .when (decide (bindsOf old ≠ bindsOf b.recs)) (syncBind old)]

/-- The span at an epoch: SPN_ID, and the states of peers (R364, R372). -/
def syncSpan (old : List Rec) : Prog := .read fun b =>
  let (own, _, encap, _, _) := identityOf b.recs
  let fresh := decide (identityOf old ≠ identityOf b.recs ∨ hasIdentity old ≠ hasIdentity b.recs)
  let was := (peersOf old).map Prod.fst
  let is_ := b.listedPeers
  .all [
    .when fresh newIdentity,
    setF Reg.SPN_ID Fl.SPN_ID_OWN_ID own, setF Reg.SPN_ID Fl.SPN_ID_ENCAP encap,
    setF Reg.SPN_ID Fl.SPN_ID_VALID (b2n (hasIdentity b.recs)),
    .each (was.filter fun n => !is_.contains n) fun n => setPeer n PeerState.unlisted,
    .each (is_.filter fun n => fresh || !was.contains n) fun n => setPeer n PeerState.unknown,
    .when (hasIdentity b.recs) (.all [
      .when (hasIdentity old) (setPeer (identityOf old).1 (if is_.contains (identityOf old).1 then PeerState.unknown else PeerState.unlisted)),
      setPeer own PeerState.self]),
    showDisc]

/-- Before the epoch sessions that cannot outlive it end: all when the identity changes, those of deleted peers. -/
def closeSessions (new : List Rec) : Prog := .read fun b =>
  let all := decide (identityOf b.recs ≠ identityOf new ∨ hasIdentity b.recs ≠ hasIdentity new)
  let keep := (peersOf new).map Prod.fst
  .each (b.listedPeers.filter fun n => all || !keep.contains n) fun n => .all [
    closeSession n,
    .read fun b => .when (decide (b.peerState n = PeerState.unknown ∨ b.peerState n = PeerState.opening)) (peerDown n)]

/-- PARTITION of wells, engines and pumps. -/
def syncUnits : Prog := .read fun b => .all [
  .each (List.range 12) fun w => setF (Reg.WEL_STATUS w) Fl.WEL_STATUS_PARTITION (partNum (b.wellPart w)),
  .each (List.range 24) fun e => setF (Reg.VEC_STATUS e) Fl.VEC_STATUS_PARTITION (partNum (b.enginePart e)),
  .each (List.range 48) fun p => setF (Reg.PMP_STATUS p) Fl.PMP_STATUS_PARTITION (partNum (b.pumpPart p))]

/-- Bypassed routers, but those that fuses give (R95). -/
def syncBypass : Prog := .read fun b => .each (List.range 4) fun q =>
  let a := Reg.NOC_BYPASS q
  .when (!b.on a Fl.NOC_BYPASS_FUSED) (match (bypassesOf b.recs).find? fun e => decide (quadAt e.1 e.2.1 = q) with
    | some (x, y, d) => .all [
        setF a Fl.NOC_BYPASS_VALID 1, setF a Fl.NOC_BYPASS_X x, setF a Fl.NOC_BYPASS_Y y, setF a Fl.NOC_BYPASS_DIR d]
    | none => setR a 0)

/-- Domains follow their DOMAIN_OP records: floors, and a target where the record has changed (R448, R450). -/
def syncDomains (old : List Rec) : Prog := .read fun b => .each (List.range 20) fun d => .all [
  refreshFloor d,
  .when (decide (domainOpOf old d ≠ domainOpOf b.recs d)) (match domainOpOf b.recs d with
    | some (lo, hi, _, _) => setTarget d (min hi (max 7 lo))
    | none => setTarget d (min (b.f (Reg.PWR_DOM_CTL d) Fl.PWR_DOM_CTL_HIGHEST) (max 7 (b.f (Reg.PWR_DOM_CTL d) Fl.PWR_DOM_CTL_LOWEST))))]

/-- A partition that is no longer enabled is down no more. -/
def syncDown (old : List Rec) : Prog := .read fun b =>
  .each ((List.range 16).filter fun p => partEnabled old p && !partEnabled b.recs p) fun p => .all [
    andNotF Reg.HUB_PART_DOWN Fl.HUB_PART_DOWN_DOWN (2 ^ p),
    andNotF Reg.HUB_PART_DOWN Fl.HUB_PART_DOWN_EVENT (2 ^ p),
    setR (Reg.HUB_PART_CAUSE p) 0,
    releaseCap (1 + p)]

/-- The state digest and the length of the canonical image. -/
def syncDigest : Prog := .read fun b =>
  let img := b.canonical
  let d := Config.sha384 img
  .all [
    setF Reg.CFG_EXPORT_LEN Fl.CFG_EXPORT_LEN_LEN img.length,
    .each (List.range 6) fun k => setR (Reg.CFG_STATE_DIGEST k) (BitVec.ofNat 64 (bits d (64 * k) 64))]

/-- Engines that a commit moves to another partition stop every context, as at a unit reset (R200). -/
def leaveEngines (old new : List Rec) : Prog := .read fun b =>
  .each ((List.range 24).filter fun e => decide (partOfEngine old e ≠ partOfEngine new e) && b.engineOn e) resetEngine

/-- Units that change partition stop as at a unit reset (R200, R342); the home caches of wells that leave one are emptied. -/
def leaveUnits (old new : List Rec) : Prog := .read fun b => .all [
  leaveEngines old new,
  .each ((List.range 48).filter fun p => decide (partOfPump old p ≠ partOfPump new p) && b.pumpOn p) resetPump,
  .each ((List.range 12).filter fun w => decide (partOfWell old w ≠ partOfWell new w)) fun w => .all [drainWell w, emptyCache w]]

/-- The commit epoch: every table flips to the new state, the registers that show it follow, memory whose owner changes is pending
clear. -/
def epoch (new : List Rec) (gen : Nat) (carried : List Nat) : Prog := .read fun b =>
  let old := b.recs
  let runs := if b.mem.fresh then ((List.range 12).filter b.wellOn).map fun w => ⟨w, 0, b.capOf new w⟩
    else (List.range 12).flatMap fun w => b.changedRuns old new w
  .all [
    leaveUnits old new,
    discardLines fun k => runs.any fun r => r.hasKey k,
    closeSessions new,
    modCis fun s => { s with committed := new },
    modMem fun m => { m with fresh := false },
    setF Reg.CFG_GEN Fl.CFG_GEN_GEN gen,
    setF Reg.CFG_GEN Fl.CFG_GEN_BUSY 1,
    syncDigest, syncStg, regionPolicy b.guard, syncHats old carried, syncSpan old, syncUnits, syncBypass, syncDomains old, syncDown old, showWells,
    .each runs markClear,
    .read fun b' => modHats fun s => { s with
      reguls := s.reguls.filter fun r => decide (1024 ≤ r.hat ∨ b.budget r.hat r.label = b'.budget r.hat r.label) },
    .when (b.noc.ltest.running && decide (partitionsOf new ≠ [])) (withFree fun k => withFree fun n => nocLtestOff k n),
    measured]

/-! ### The steps (R73) -/

/-- The hats whose records a content carries. -/
def Content.hats (c : Content) : List Nat := c.ops.filterMap fun o => match o.2 with
  | .set (.hat h ..) => some h
  | _ => none

/-- What a commit leaves its slot: the carry list as new content, or the claim alone; released if that is owed (R65, R67, R82). -/
def settleSlot (n : Nat) (fresh : Bool) : Prog := .read fun b =>
  let s := b.slotSt n
  let c := carryIn b s fresh
  .all [
    modSlot n fun s => { s with content := c, carry := [] },
    setSlot n (if c.isSome then SlotState.staging else SlotState.claimed),
    setR (Reg.CFG_SLOT_TOUCH n) 0,
    showCarry n,
    .when s.relOwed (releaseSlot n)]

/-- Step 7: a commit fails. -/
def commitFail (n : Nat) (code : Status) (rule off : Nat) : Prog := .all [slotDone n code rule off, settleSlot n false]

/-- Steps 5 and 6: the epoch, held traffic released, DONE. -/
def commitEpoch (c : Commit) : Prog := .read fun b =>
  let k := (b.slotSt c.slot).content.getD ⟨[], [], 0⟩
  .all [
    epoch c.next (b.gen + 1) k.hats,
    modCis fun s => { s with commit := some { c with phase := .copying } },
    slotDone c.slot St.ok 0 0,
    settleSlot c.slot true,
    releaseSites c.touched,
    .each c.leaving fun g => .all [reopenCredits g, modPrt g fun s => { s with noRead := false }],
    openWaiting, releaseHeld]

/-- Step 4 starts: engines that leave stop (R200), sites that leave are flushed; one whose link domain sleeps and that holds no line
stays asleep (R82). -/
def commitFlush : Prog := .read fun b =>
  .for? b.cis.commit fun c => .when (decide (c.phase = .draining) && !c.flushed) (.all [
    modCis fun s => { s with commit := some { c with flushed := true } },
    leaveEngines b.recs c.next,
    .each (c.leaving.filter fun g => b.siteRuns g && (!b.domAsleep (12 + g / 4) || b.listed g)) fun g => startFlush g .commit])

/-- Steps 2 and 3 of a commit of slot n. -/
def commitRun (n : Nat) : Prog := .read fun b =>
  match (b.slotSt n).content with
  | none => commitFail n St.descInvalid 0 0
  | some k =>
    if b.f (Reg.CFG_SLOT_EXPECT n) Fl.CFG_SLOT_EXPECT_GEN ≠ b.gen then commitFail n St.stageStale 0 0
    else if b.genFault k then commitFail n St.stageStale 6 0
    else match firstFault (b.liveFaults k) with
      | some (off, rule) => commitFail n St.checkFailed rule off
      | none =>
        let next := k.merged b.recs
        let t := touchOf b.recs next
        let parts := heldParts b.recs next
        let leaving := (List.range 16).filter fun g =>
          (partOfSite b.recs g).isSome && decide (partOfSite b.recs g ≠ partOfSite next g)
        let c : Commit := ⟨n, parts, t.package, next, leaving, .blocked, false, [], b.now⟩
        if parts = 0 then commitEpoch c
        else .all [modCis fun s => { s with commit := some c }, unblockCommit, commitFlush]

/-- A COMMIT came at this instant with the EXPECT of slot n, and won step 1 (R78).  DESIGN CHOICE: an instant is one value of
HUB_TIMESTAMP (notes/assumptions/15.md). -/
def Block.tiedCommit (b : Block) (n : Nat) : Bool :=
  let expect := fun k => b.f (Reg.CFG_SLOT_EXPECT k) Fl.CFG_SLOT_EXPECT_GEN
  match b.cis.commit with
  | some c => decide (c.slot ≠ n ∧ c.since = b.now ∧ expect c.slot = expect n)
  | none => false

/-- A write of COMMIT: in TEST_MODE it is denied; one that ties with another loses, one that finds another commit in progress
waits.  A check of the slot that still runs ends with it. -/
def commit (hat n : Nat) : Prog := slotCmd hat n fun b =>
  if b.on Reg.TST_CTL Fl.TST_CTL_TEST_MODE then slotDone n St.accessDenied 0 0
  else if b.slotState n ≠ SlotState.checked then slotDone n St.descInvalid 0 0
  else .all [
    modSlot n fun s => { s with checking := false },
    setSlot n SlotState.committing,
    if b.tiedCommit n then commitFail n St.stageStale 0 0
    else if b.cis.commit.isSome then modCis fun s => { s with waiting := s.waiting ++ [n] } else commitRun n]

def execCommit (hat : Nat) (n : Fin 4) (s : State) : Host.Outcome State Fault Refusal := s.run (commit hat n)

/-- The drain of step 4 has ended, once the flushes of the sites that leave have: a site that could not complete its flush takes
its partition down (R82, R138). -/
def commitDrained : Prog := .all [
  commitFlush,
  .read fun b => .for? b.cis.commit fun c =>
    .when (decide (c.phase = .draining) && (c.leaving.all fun g => decide ((b.site g).flush = .none)) &&
        (setBits c.touched 16).all fun p => b.partDown p || b.partQuiet p c.inside) (.all [
      .each (c.leaving.filter fun g => b.ownsLine g ||
          (b.siteRuns g && decide ((b.site g).flushFor = .commit) && !b.on (Reg.GLV_STATUS g) Fl.GLV_STATUS_FLUSHED)) fun g =>
        .for? (b.sitePart g) fun p => partitionDown p { cause := 7, site := g },
      commitEpoch c])]

def execCommitDrainDone (s : State) : Host.Outcome State Fault Refusal := s.run commitDrained

/-- The commit that waits longest starts at step 2, once none is under way. -/
def nextCommit : Prog := .read fun b => .when b.cis.commit.isNone (.for? b.cis.waiting.head? fun n => .all [
  modCis fun s => { s with waiting := s.waiting.drop 1 }, commitRun n])

/-- Step 8 ends, and the commits that wait start in turn: one that fails at step 2 makes room for the next (R78). -/
def commitCopied : Prog := .read fun b =>
  .when (match b.cis.commit with
    | some c => decide (c.phase = .copying)
    | none => false) (.all [
      setF Reg.CFG_GEN Fl.CFG_GEN_BUSY 0,
      modCis fun s => { s with commit := none },
      .each b.cis.waiting fun _ => nextCommit])

def execCommitBankCopyDone (s : State) : Host.Outcome State Fault Refusal := s.run commitCopied

end Sys2Proof.Machine
end

