-- ==== Sys2Proof/Machine/HostPort.lean ====
section
/-! DEFINITION. Host ports (R399–R420): functions and their configuration, interrupts, requests to the host, resets, presence,
power, removal, insertion. -/

namespace Sys2Proof.Machine

namespace Block

def hstF (b : Block) (q : Nat) (fl : Fld) : Nat := b.f (Reg.HST_STATUS q) fl
def hstUp (b : Block) (q : Nat) : Bool := decide (b.hstF q Fl.HST_STATUS_LINK_UP = 1)
def hstReady (b : Block) (q : Nat) : Bool := decide (b.hstF q Fl.HST_STATUS_READY = 1)
def autoPwr (b : Block) (q : Nat) : Bool := b.on (Reg.HST_CTL q) Fl.HST_CTL_AUTO_PWR

/-- A function exists on the link (R401). -/
def fnThere (b : Block) (q fn : Nat) : Bool :=
  decide (fn = 0) || ((b.portSt q).vfEn && decide (1 ≤ fn ∧ fn ≤ (b.portSt q).numVfs))

/-- The hat bound to a function. -/
def fnHat (b : Block) (q fn : Nat) : Option Nat := b.boundHat (64 * q + fn)

/-- The function's hat is in a hat reset: other requests than configuration are discarded (R414). -/
def fnResetting (b : Block) (q fn : Nat) : Bool :=
  match b.fnHat q fn with
  | some h => b.hats.resets.any fun r => r.1 = h
  | none => false

end Block

def modFn (q fn : Nat) (g : FnSt → FnSt) : Prog := modPort q fun s => { s with fn := Tbl.upd {} fn g s.fn }
def hstSet (q : Nat) (fl : Fld) (v : Nat) : Prog := setF (Reg.HST_STATUS q) fl v
def slotSet (q : Nat) (fl : Fld) (v : Nat) : Prog := setF (Reg.HST_SLOT q) fl v

/-- The events of a port that the wellhead is told of, each by the bit that holds it (R416): 0 REMOVED, 1 ORDERLY, 2 PWR_FAULT,
3 PRSNT_CHG, 4 ATTN_BTN. -/
def hostEventReg (q k : Nat) : Nat := if k < 2 then Reg.HST_STATUS q else Reg.HST_SLOT q

def hostEventFld (k : Nat) : Fld :=
  if k = 0 then Fl.HST_STATUS_REMOVED else if k = 1 then Fl.HST_STATUS_ORDERLY else if k = 2 then Fl.HST_SLOT_PWR_FAULT
  else if k = 3 then Fl.HST_SLOT_PRSNT_CHG else Fl.HST_SLOT_ATTN_BTN

/-- An event sets its bit, and a change of the bit notifies the wellhead. -/
def hostEvent (q k : Nat) : Prog := .read fun b => .when (!b.on (hostEventReg q k) (hostEventFld k)) (.all [
  setF (hostEventReg q k) (hostEventFld k) 1, send (.notify q k true)])

/-- Bits of a register that a write clears notify the wellhead as well. -/
def hostEventsCleared (q a : Nat) (val : W64) : Prog := .read fun b =>
  .each ((List.range 5).filter fun k => decide (hostEventReg q k = a) && b.on a (hostEventFld k) &&
    decide (getFld val (hostEventFld k) = 1)) fun k => send (.notify q k false)

/-- The power indicator, which the hub drives while AUTO_PWR is set (R416): 0 off, 1 on, 2 blinking. -/
def pwrInd (q v : Nat) : Prog := .read fun b => .when (b.autoPwr q) (slotSet q Fl.HST_SLOT_PWR_IND v)

/-! ### Interrupts (R388, R411) -/

/-- What an MSI-X table word that nothing has written reads as: a vector control word masks its vector. -/
def msixDflt (k : Nat) : W64 := if k % 2 = 1 then BitVec.ofNat 64 (2 ^ 32) else 0

/-- Vector v is masked in the table. -/
def FnSt.masked (s : FnSt) (v : Nat) : Bool := (Tbl.get msixDflt (2 * v + 1) s.table).toNat.testBit 32

/-- Pending vectors whose mask has cleared are sent, in D0. -/
def msixKick (q fn : Nat) : Prog := .read fun b =>
  let s := b.fnSt q fn
  .when (s.msixEn && !s.msixMask && !s.d3hot && b.hstUp q) (
    let go := s.pba.filter fun v => !s.masked v
    .all [
      modFn q fn fun s => { s with pba := s.pba.filter fun v => s.masked v },
      .each go fun v => send (.msix q fn v)])

def irqDropped (h : Nat) : Prog := incSat (Reg.HAT_CTL h) Fl.HAT_CTL_IRQ_DROPPED

/-- A vector reaches a function of a port (R411). -/
def fnIrq (q fn h v : Nat) : Prog := .read fun b =>
  let s := b.fnSt q fn
  if b.on (Reg.HST_STATUS q) Fl.HST_STATUS_D3COLD then .all [
    irqDropped h, .when s.pmeEn (modPort q fun s => { s with wakeN := true })]
  else if s.d3hot && s.pmeEn then .all [
    modFn q fn fun s => { s with pba := insertNat v s.pba }, send (.pme q)]
  else if s.msixEn then .all [modFn q fn fun s => { s with pba := insertNat v s.pba }, msixKick q fn]
  else if fn = 0 ∧ s.intxOff = false ∧ s.d3hot = false then .all [
    incSat (Reg.HST_INTX q) Fl.HST_INTX_COUNT,
    setF (Reg.HST_INTX q) Fl.HST_INTX_LAST_VEC v,
    .when (!b.on (Reg.HST_INTX q) Fl.HST_INTX_PENDING) (send (.intx q)),
    setF (Reg.HST_INTX q) Fl.HST_INTX_PENDING 1]
  else irqDropped h

/-- IRQ: delivered by the binding of its hat, or dropped and counted. -/
def irq (p : Pkt) : Prog := .read fun b =>
  let h := p.hat
  let v := p.addr % 2 ^ 11
  let gone := decide (b.hatState h = HatState.orphaned ∨ b.hatState h = HatState.removing ∨ b.hatState h = HatState.removed)
  .when (b.noc.net.contains p && decide (p.cmd = 0x84 ∧ h < 1024)) (.all [
    takePkt p,
    if gone || decide (2 ^ b.f (Reg.HAT_INFO h) Fl.HAT_INFO_VEC_LOG2 ≤ v) then irqDropped h
    else match b.hatPort h with
      | some k =>
        if k = 0x100 then send (.irqWellhead v)
        else if k < 256 ∧ b.fnThere (k / 64) (k % 64) = true then fnIrq (k / 64) (k % 64) h v
        else irqDropped h
      | none => irqDropped h])

def execIrq (p : Pkt) (s : State) : Host.Outcome State Fault Refusal := s.run (irq p)

/-! ### Requests to the host (R404, R405, R407–R409) -/

/-- The runs of enabled bytes of a data unit: offset and bytes. -/
def beRuns (u : DUnit) : List (Nat × List Byte) :=
  ((List.range 64).filter fun i => u.be.testBit i && (i = 0 || !u.be.testBit (i - 1))).map fun i =>
    (i, ((u.data.drop i).zipIdx.takeWhile fun x => u.be.testBit (i + x.2)).map Prod.fst)

/-- The bus address of an aperture address. -/
def Block.busAddr (b : Block) (q a : Nat) : Nat := b.f (Reg.HST_CTL q) Fl.HST_CTL_APT_HI * 2 ^ 43 + a % 2 ^ 43

/-- A request dropped because no host is there. -/
def absentDrop (q : Nat) (p : Pkt) : Prog := .all [
  incSat (Reg.HST_ERR q) Fl.HST_ERR_ABSENT_DROPS, logAbsent p.hat, refuseReq p St.hostAbsent]

/-- A write to the host leaves with Relaxed Ordering: a pump's data, where the function allows it; no record does (R405). -/
def Block.relaxes (b : Block) (q fn : Nat) (p : Pkt) : Bool :=
  (b.fnSt q fn).relaxed && (match p.src with
    | .pump _ => !(recordTags p.src).contains p.tag
    | _ => false)

/-- A mesh request reaches a port's aperture; a read waits while 4,096 are outstanding (R399). -/
def hostRequest (q : Nat) (p : Pkt) : Prog := .read fun b =>
  let fn := (b.hostFn p.hat q).getD 0
  .when (!isRead p || decide ((b.portSt q).issued.length < 4096)) (.all [
  takePkt p,
  if isAtomic p then refuseReq p St.unsupported
  else if !isRead p && !isWrite p then refuseReq p St.descInvalid
  else if (b.portSt q).removed then absentDrop q p
  else if !b.hostServes p.hat q then refuseReq p St.accessDenied
  else if !b.hstUp q then absentDrop q p
  else if isWrite p then .all [
    .each p.units.zipIdx fun u => .each (beRuns u.1) fun r => .all [
      send (.hostWrite q fn (b.busAddr q (p.addr / 64 * 64 + 64 * u.2 + r.1)) r.2 u.1.pu (b.relaxes q fn p)),
      .when u.1.pu (incSat (Reg.HST_ERR q) Fl.HST_ERR_POISON_OUT)],
    memAnswer p St.ok []]
  else
    let used := (b.portSt q).issued.map Prod.fst
    let tag := (((List.range (used.length + 1)).map fun i => ((b.portSt q).nextTag + i) % 16384).find? fun t => !used.contains t).getD 0
    .all [
      modPort q fun s => { s with issued := s.issued ++ [(tag, p)], nextTag := (tag + 1) % 16384 },
      send (.hostRead q fn tag (b.busAddr q p.addr) (if p.cmd = 1 then 128 else if p.cmd = 2 then 32 else 64))]])

/-- The data units a read's bytes make. -/
def hostUnits (p : Pkt) (data : List Byte) (ep : Bool) : List DUnit :=
  let z := List.replicate 32 0
  if p.cmd = 2 then
    let d := slice data 0 32
    [⟨if p.addr / 32 % 2 = 0 then d ++ z else z ++ d, 2 ^ 64 - 1, ep⟩]
  else (List.range (readCount p.cmd)).map fun k => ⟨slice data (64 * k) 64, 2 ^ 64 - 1, ep⟩

/-- The host returns what a read asked for (R408); a completion that nothing asked for is logged (R410). -/
def hostCompletion (q tag : Nat) (data : List Byte) (ep : Bool) : Prog := .read fun b => .when (b.hstUp q) (
  match (b.portSt q).issued.find? fun e => decide (e.1 = tag) with
  | none => aerLog q 0 16
  | some e =>
    let u := hostUnits e.2 data ep
    .all [
      modPort q fun s => { s with issued := s.issued.erase e },
      .when ep (.all [incSat (Reg.HST_ERR q) Fl.HST_ERR_POISON_IN, aerLog q ((b.hostFn e.2.hat q).getD 0) 12]),
      memAnswer e.2 (unitsSt u) u])

def execHostCompletion (q : Fin 4) (tag : Nat) (data : List Byte) (ep : Bool) (s : State) : Host.Outcome State Fault Refusal :=
  s.run (hostCompletion q tag data ep)

/-- A read's answer as poisoned data with a status. -/
def hostReadFails (p : Pkt) (st : Status) : Prog := memAnswer p st (List.replicate (readCount p.cmd) poisonUnit)

/-- A read to the host times out (R409). -/
def hostReadTimeout (q tag : Nat) : Prog := .read fun b =>
  .for? ((b.portSt q).issued.find? fun e => decide (e.1 = tag)) fun e =>
    let fn := (b.hostFn e.2.hat q).getD 0
    .when (!(b.fnSt q fn).cplOff) (.all [
      modPort q fun s => { s with issued := s.issued.erase e },
      incSat (Reg.HST_ERR q) Fl.HST_ERR_CPL_TIMEOUT,
      aerLog q fn 14,
      hostReadFails e.2 St.poisoned])

def execHostReadTimeout (q : Fin 4) (tag : Nat) (s : State) : Host.Outcome State Fault Refusal := s.run (hostReadTimeout q tag)

/-! ### Resets (R412, R414) -/

/-- The head of the report queue is served: its first snapshot begins (R440, R444). -/
def beginReport : Prog := .read fun b => .all [
  modSec fun s => { s with retakes := 0, unstable := false, snapTime := b.now },
  setF Reg.SEC_RPT Fl.SEC_RPT_QUEUED b.sec.queue.length]

/-- The DOE exchanges that a test picks are aborted: their reports are dropped, key loads answer to no one (R420). -/
def abortDoe (test : Via → Bool) : Prog := .read fun b =>
  let rest := b.sec.queue.filter fun r => !test r.via
  let headGone := (b.sec.queue.head?.map fun r => test r.via).getD false
  .all [
    modSec fun s => { s with
      queue := rest, loads := s.loads.map fun l => if test l.via then { l with via := .gone } else l },
    setF Reg.SEC_RPT Fl.SEC_RPT_QUEUED rest.length,
    .when headGone beginReport]

/-- A function's configuration returns to its defaults; a DOE exchange is aborted (R414, R420). -/
def fnDefaults (q fn : Nat) : Prog := .all [
  modFn q fn fun _ => {},
  abortDoe fun v => decide (v = .doe q fn)]

/-- The functions of a port return to their defaults. -/
def portDefaults (q : Nat) : Prog := .all [
  .each (List.range 64) (fnDefaults q),
  modPort q fun s => { s with vfEn := false, numVfs := 0 }]

/-- A hat reset of the hat bound to a function. -/
def resetFnHat (q fn : Nat) : Prog := .read fun b => .for? (b.fnHat q fn) startHatReset

/-- FLR of a function: the PF's resets the VFs with it. -/
def flr (q fn : Nat) : Prog := .read fun b => .when (b.hstReady q && b.fnThere q fn) (.all [
  if fn = 0 then .all [.each (List.range 64) (resetFnHat q), portDefaults q]
  else .all [resetFnHat q fn, fnDefaults q fn],
  hubGoesOn])

def execFlr (q : Fin 4) (fn : Fin 64) (s : State) : Host.Outcome State Fault Refusal := s.run (flr q fn)

/-- VF Enable and NumVFs change: the hats of the VFs that cease to exist are reset. -/
def vfControl (q numVfs : Nat) (vfEn : Bool) : Prog := .read fun b =>
  let s := b.portSt q
  let was := if s.vfEn then s.numVfs else 0
  let is_ := if vfEn then min 63 numVfs else 0
  .when (b.hstReady q) (.all [
    modPort q fun s => { s with numVfs := min 63 numVfs, vfEn := vfEn },
    .each ((List.range 64).filter fun fn => decide (is_ < fn ∧ fn ≤ was)) fun fn => .all [resetFnHat q fn, fnDefaults q fn],
    hubGoesOn])

def execVfEnableClear (q : Fin 4) (numVfs : Nat) (vfEn : Bool) (s : State) : Host.Outcome State Fault Refusal :=
  s.run (vfControl q numVfs vfEn)

/-- Reads issued to a host that answers no more end with a status, and that host's reads are dropped; its posted writes run on. -/
def dropTraffic (q : Nat) (st : Status) : Prog := .read fun b => .all [
  .each (b.portSt q).issued fun e => hostReadFails e.2 st,
  modPort q fun s => { s with issued := [], reads := [] }]

/-- The link is down. -/
def linkDown (q : Nat) : Prog := .all [
  hstSet q Fl.HST_STATUS_LINK_UP 0, hstSet q Fl.HST_STATUS_READY 0, hstSet q Fl.HST_STATUS_PSTATE 6]

/-- A port reset: every hat of the port is reset. -/
def portReset (q : Nat) : Prog := .all [
  linkDown q,
  hstSet q Fl.HST_STATUS_PORT_RST 1,
  .each (List.range 64) (resetFnHat q),
  dropTraffic q St.hostAbsent,
  portDefaults q,
  hubGoesOn]

/-- PERST_N asserted: D3cold after L2, in which the functions' configuration is lost but for what wakes the host; else a port
reset. -/
def perstAssert (q : Nat) : Prog := .read fun b => .when (decide (b.hstF q Fl.HST_STATUS_PERST = 0)) (.all [
  hstSet q Fl.HST_STATUS_PERST 1,
  if (b.portSt q).l2 then .all [
    linkDown q,
    hstSet q Fl.HST_STATUS_D3COLD 1,
    dropTraffic q St.accessDenied,
    .each (List.range 64) fun fn => .all [fnDefaults q fn, .when (b.fnSt q fn).pmeEn (modFn q fn fun s => { s with pmeEn := true })],
    modPort q fun s => { s with vfEn := false, numVfs := 0 }]
  else portReset q])

def execPerstAssert (q : Fin 4) (s : State) : Host.Outcome State Fault Refusal := s.run (perstAssert q)

/-- PERST_N deasserted: the port waits for its link; it leaves D3cold with its functions at their defaults, and releases WAKE_N. -/
def perstDeassert (q : Nat) : Prog := .read fun b => .when (decide (b.hstF q Fl.HST_STATUS_PERST = 1)) (.all [
  hstSet q Fl.HST_STATUS_PERST 0,
  .when (b.on (Reg.HST_STATUS q) Fl.HST_STATUS_D3COLD) (.all [hstSet q Fl.HST_STATUS_D3COLD 0, portDefaults q]),
  modPort q fun s => { s with l2 := false, wakeN := false }])

def execPerstDeassert (q : Fin 4) (s : State) : Host.Outcome State Fault Refusal := s.run (perstDeassert q)

def execHotReset (q : Fin 4) (s : State) : Host.Outcome State Fault Refusal :=
  s.run (.read fun b => .when (b.hstUp q) (portReset q))

/-- The link has trained and the port answers configuration requests (R415), after step 4 of bring-up (R470): with its PHY powered, PERST_N deasserted, outside
TEST_MODE (R490). -/
def portReady (q rate width : Nat) (flit : Bool) : Prog := .read fun b =>
  .when (b.on (Reg.HST_SLOT q) Fl.HST_SLOT_PWR_GOOD && b.sys.testDone && decide (b.hstF q Fl.HST_STATUS_PERST = 0) && !b.sys.offPort.contains q &&
      !b.on Reg.TST_CTL Fl.TST_CTL_TEST_MODE && !b.on Reg.HUB_BRINGUP Fl.HUB_BRINGUP_FAILED && !b.hstReady q && decide (rate ≤ 5) && [1, 2, 4, 8, 16].contains width) (.all [
    hstSet q Fl.HST_STATUS_LINK_UP 1, hstSet q Fl.HST_STATUS_READY 1,
    hstSet q Fl.HST_STATUS_RATE rate, hstSet q Fl.HST_STATUS_WIDTH width, hstSet q Fl.HST_STATUS_FLIT (b2n flit),
    hstSet q Fl.HST_STATUS_PSTATE 0,
    modPort q fun s => { s with removed := false, l2 := false },
    pwrInd q 1])

def execPortReady (q : Fin 4) (rate : Nat) (width : Nat) (flit : Bool) (s : State) : Host.Outcome State Fault Refusal :=
  s.run (portReady q rate width flit)

/-! ### Link power (R399, R400, R412) -/

/-- PME_Turn_Off: the link enters L2. -/
def execPmeTurnOff (q : Fin 4) (s : State) : Host.Outcome State Fault Refusal :=
  s.run (.read fun b => .when (b.hstUp q) (.all [
    modPort q fun s => { s with l2 := true },
    hstSet q Fl.HST_STATUS_LINK_UP 0, hstSet q Fl.HST_STATUS_PSTATE 5]))

/-- 100 µs with both directions below an eighth of the rate: L0p is requested. -/
def execL0pIdleTimer (q : Fin 4) (s : State) : Host.Outcome State Fault Refusal :=
  s.run (.read fun b => .when (b.hstUp q && b.on (Reg.HST_CTL q) Fl.HST_CTL_L0P_EN &&
      decide (b.hstF q Fl.HST_STATUS_PSTATE = 0 ∧ 1 < b.hstF q Fl.HST_STATUS_WIDTH)) (hstSet q Fl.HST_STATUS_PSTATE 1))

/-- The link moves among L0, L0p, L1.0, L1.1 and L1.2. -/
def execLinkPowerStateChange (q : Fin 4) (pstate : Fin 8) (s : State) : Host.Outcome State Fault Refusal :=
  s.run (.read fun b => .when (b.hstUp q && decide (pstate.val ≤ 4)) (hstSet q Fl.HST_STATUS_PSTATE pstate))

/-! ### Removal and insertion (R416–R419) -/

/-- A removal is declared (R417). -/
def declareRemoval (q : Nat) (orderly : Bool) : Prog := .read fun b => .when (!(b.portSt q).removed) (.all [
  hostEvent q (if orderly then 1 else 0),
  incSat (Reg.HST_STATUS q) Fl.HST_STATUS_REMOVALS,
  modPort q fun s => { s with removed := true, l2 := false, btn := false, wakeN := false },
  slotSet q Fl.HST_SLOT_BTN_PENDING 0,
  hstSet q Fl.HST_STATUS_D3COLD 0,
  linkDown q,
  releaseParked,
  orphanPort q,
  dropTraffic q St.poisoned,
  portDefaults q,
  .when orderly (.all [slotSet q Fl.HST_SLOT_PWR_CMD 0, slotSet q Fl.HST_SLOT_PWR_GOOD 0, pwrInd q 0])])

/-- DL_Down with PERST_N deasserted; a link in L2 is down by design. -/
def execDlDown (q : Fin 4) (s : State) : Host.Outcome State Fault Refusal :=
  s.run (.read fun b => .when (b.hstUp q && decide (b.hstF q Fl.HST_STATUS_PERST = 0)) (declareRemoval q false))

/-- Presence has changed and settled. -/
def presence (q : Nat) (present : Bool) : Prog := .read fun b =>
  .when (decide (b.hstF q Fl.HST_STATUS_PRSNT ≠ b2n present)) (.all [
    hstSet q Fl.HST_STATUS_PRSNT (b2n present),
    hostEvent q 3,
    if present then .when (b.autoPwr q) (.all [slotSet q Fl.HST_SLOT_PWR_CMD 1, pwrInd q 2])
    else .all [
      declareRemoval q false,
      .when (b.autoPwr q) (.all [slotSet q Fl.HST_SLOT_PWR_CMD 0, slotSet q Fl.HST_SLOT_PWR_GOOD 0, pwrInd q 0])]])

def execPresenceDebounce (q : Fin 4) (present : Bool) (s : State) : Host.Outcome State Fault Refusal := s.run (presence q present)

/-- The attention button: ignored during a removal or a grace period; with AUTO_PWR and the link up it starts the countdown to an
orderly removal, or cancels it. -/
def attnButton (q : Nat) : Prog := .read fun b =>
  .when (!(b.portSt q).removed && decide (b.f (Reg.HAT_GRACE q) Fl.HAT_GRACE_ORPHANS = 0)) (.all [
    hostEvent q 4,
    .when (b.autoPwr q && b.hstUp q) (
      if (b.portSt q).btn then .all [
        modPort q fun s => { s with btn := false }, slotSet q Fl.HST_SLOT_BTN_PENDING 0, pwrInd q 1]
      else .all [
        modPort q fun s => { s with btn := true }, slotSet q Fl.HST_SLOT_BTN_PENDING 1, pwrInd q 2])])

def execAttnButton (q : Fin 4) (s : State) : Host.Outcome State Fault Refusal := s.run (attnButton q)

def execAttnButtonTimeout (q : Fin 4) (s : State) : Host.Outcome State Fault Refusal :=
  s.run (.read fun b => .when (b.portSt q).btn (declareRemoval q true))

/-- Hats that may write a port's block: hat 0, the hat of its PF (R379). -/
def Block.mayHst (b : Block) (hat q : Nat) : Bool := decide (hat = 0 ∨ b.fnHat q 0 = some hat)

def pwrOn (hat q : Nat) : Prog := underHat hat (.read fun b => .when (b.mayHst hat q) (slotSet q Fl.HST_SLOT_PWR_CMD 1))

def execPwrCmdOn (hat : Nat) (q : Fin 4) (s : State) : Host.Outcome State Fault Refusal := s.run (pwrOn hat q)

/-- PWR_CMD written to 0: an orderly removal with the link up; else the PHY domain goes off. -/
def pwrOff (q : Nat) : Prog := .read fun b =>
  if b.hstUp q then declareRemoval q true
  else .all [slotSet q Fl.HST_SLOT_PWR_CMD 0, slotSet q Fl.HST_SLOT_PWR_GOOD 0]

def pwrOffWrite (hat q : Nat) : Prog := underHat hat (.read fun b => .when (b.mayHst hat q) (pwrOff q))

def execPwrCmdOff (hat : Nat) (q : Fin 4) (s : State) : Host.Outcome State Fault Refusal := s.run (pwrOffWrite hat q)

def execPwrGoodRise (q : Fin 4) (s : State) : Host.Outcome State Fault Refusal :=
  s.run (.read fun b => .when (b.on (Reg.HST_SLOT q) Fl.HST_SLOT_PWR_CMD) (slotSet q Fl.HST_SLOT_PWR_GOOD 1))

/-- PWR_GOOD lost while PWR_CMD is 1: PWR_FAULT, a surprise removal. -/
def execPwrGoodLoss (q : Fin 4) (s : State) : Host.Outcome State Fault Refusal :=
  s.run (.read fun b => .when (b.on (Reg.HST_SLOT q) Fl.HST_SLOT_PWR_CMD && b.on (Reg.HST_SLOT q) Fl.HST_SLOT_PWR_GOOD) (.all [
    slotSet q Fl.HST_SLOT_PWR_GOOD 0, hostEvent q 2,
    slotSet q Fl.HST_SLOT_ATTN_IND 1,
    declareRemoval q false]))

/-- The wellhead restores the marked hats of a port that is ready: a live-class commit of their records, from a free slot (R418). -/
def hatRebind (q : Nat) : Prog := .read fun b =>
  let marks := (b.portSt q).marks
  .when (b.hstReady q && b.on (Reg.HST_CTL q) Fl.HST_CTL_AUTO_REBIND && decide (marks ≠ []) && b.cis.commit.isNone &&
      !b.on Reg.TST_CTL Fl.TST_CTL_TEST_MODE && !b.sec.linkLost) (
    .for? ((List.range 4).find? fun n => decide (b.slotState n = SlotState.empty)) fun n => .all [
      epoch b.recs (b.gen + 1) marks,
      modCis fun s => { s with commit := some ⟨n, 0, false, b.recs, [], .copying, true, [], b.now⟩ }])

def execHatRebind (q : Fin 4) (s : State) : Host.Outcome State Fault Refusal := s.run (hatRebind q)

/-! ### Configuration space (R402, R415) -/

/-- BAR4's size of a function, as log2. -/
def Block.bar4Size (b : Block) (q fn : Nat) : Nat :=
  let n := if fn = 0 then (b.fnSt q 0).bar4Log else (b.fnSt q 0).vfBar4Log
  if n ≠ 0 then n else if fn = 0 then 34 else 30

/-- What a configuration register reads, where the manual fixes it: fixed fields, and those the model keeps; the default severities
of AER are R410's. -/
def Block.cfgWord (b : Block) (q fn reg : Nat) : Option Nat :=
  let s := b.fnSt q fn
  if reg = 0x04 then some (b2n s.memEn * 2 + b2n s.bme * 4 + b2n s.intxOff * 1024)
  else if reg = 0x08 then some (0x12000000 + b.f Reg.HUB_ID Fl.HUB_ID_HUB_REV)
  else if reg = 0x44 then some ((if s.d3hot then 3 else 0) + 8 + b2n s.pmeEn * 256)
  else if reg = 0x50 then some (0x11 + 0x7FF * 2 ^ 16 + b2n s.msixMask * 2 ^ 30 + b2n s.msixEn * 2 ^ 31)
  else if reg = 0x54 then some 0x00080000
  else if reg = 0x58 then some 0x00088000
  else if reg = 0x104 then some (maskOf s.aer % 2 ^ 32)
  else if reg = 0x10C ∧ (Tbl.get (dflt none) 0x10C (s.cfg.map fun e => (e.1, some e.2))).isNone then some (maskOf [4, 13, 17, 18, 22])
  else if reg = 0x110 then some (maskOf s.aer / 2 ^ 32)
  else if fn = 0 ∧ reg = 0x288 then some (0x24 + (b.bar4Size q 0 - 20) * 256)
  else if fn = 0 ∧ reg = 0x328 then some (0x24 + (b.bar4Size q 1 - 20) * 256)
  else if fn = 0 ∧ reg = 0x14C then some (b.f Reg.HUB_ID Fl.HUB_ID_SERIAL)
  else if fn = 0 ∧ reg = 0x150 then some q
  else if fn = 0 ∧ reg = 0x298 then some (b2n (b.portSt q).vfEn)
  else if fn = 0 ∧ reg = 0x29C then some (63 * 65536 + 63)
  else if fn = 0 ∧ reg = 0x2A0 then some ((b.portSt q).numVfs)
  else if fn = 0 ∧ reg = 0x2A4 then some (1 + 65536)
  else Tbl.get (dflt none) reg (s.cfg.map fun e => (e.1, some e.2))

/-- A configuration write. -/
def cfgWrite (q fn reg v : Nat) : Prog := .read fun b =>
  let s := b.fnSt q fn
  if reg = 0x04 then .all [
    modFn q fn fun s => { s with memEn := v.testBit 1, bme := v.testBit 2, intxOff := v.testBit 10 }, releaseParked]
  else if reg = 0x44 then .all [
    .when (decide (v % 4 = 0 ∨ v % 4 = 3)) (modFn q fn fun s => { s with d3hot := decide (v % 4 = 3) }),
    modFn q fn fun s => { s with pmeEn := v.testBit 8 },
    releaseParked,
    msixKick q fn]
  else if reg = 0x50 then .all [
    modFn q fn fun s => { s with msixMask := v.testBit 30, msixEn := v.testBit 31 }, msixKick q fn]
  else if reg = 0x78 then .all [
    modFn q fn fun s => { s with relaxed := v.testBit 4, cfg := Tbl.put reg (v % 2 ^ 15) s.cfg },
    .when (v.testBit 15) (flr q fn)]
  else if reg = 0x104 then modFn q fn fun s => { s with aer := s.aer.filter fun e => !(decide (e < 32) && v.testBit e) }
  else if reg = 0x110 then modFn q fn fun s => { s with aer := s.aer.filter fun e => !(decide (32 ≤ e) && v.testBit (e - 32)) }
  else if reg = 0x98 then modFn q fn fun s => { s with cplOff := v.testBit 4, cfg := Tbl.put reg v s.cfg }
  else if fn = 0 ∧ reg = 0x298 then vfControl q (b.portSt q).numVfs (v.testBit 0)
  else if fn = 0 ∧ reg = 0x2A0 then .when (!(b.portSt q).vfEn) (modPort q fun s => { s with numVfs := min 63 (v % 65536) })
  else if fn = 0 ∧ reg = 0x288 then
    let n := 20 + bits v 8 6
    .when (!s.memEn && decide (30 ≤ n ∧ n ≤ 39)) (modFn q 0 fun s => { s with bar4Log := n })
  else if fn = 0 ∧ reg = 0x328 then
    let n := 20 + bits v 8 6
    .when (!(b.portSt q).vfEn && decide (28 ≤ n ∧ n ≤ 39)) (modFn q 0 fun s => { s with vfBar4Log := n })
  else .when (decide (reg ≠ 0 ∧ reg ≠ 8 ∧ reg ≠ 0x54 ∧ reg ≠ 0x58)) (modFn q fn fun s => { s with cfg := Tbl.put reg v s.cfg })

/-- A configuration request: Request Retry Status until READY, Unsupported Request from a function that is not there. -/
def configRequest (q fn reg : Nat) (write : Bool) (v : Nat) : Prog := .read fun b =>
  let reg := reg % 4096 / 4 * 4
  let reply := fun st data => send (.hostCpl q fn 0 st data false)
  if b.on (Reg.HST_STATUS q) Fl.HST_STATUS_D3COLD || !b.on (Reg.HST_SLOT q) Fl.HST_SLOT_PWR_GOOD || decide (b.hstF q Fl.HST_STATUS_PERST = 1) then .skip
  else if !b.hstReady q then reply 2 []
  else if !b.fnThere q fn then .all [aerLog q 0 20, reply 1 []]
  else if write then .all [cfgWrite q fn reg (v % 2 ^ 32), reply 0 []]
  else match b.cfgWord q fn reg with
    | some w => reply 0 (toBytesLE 4 w)
    | none =>
      if reg = 0 then withFree fun x => reply 0 (toBytesLE 2 x ++ toBytesLE 2 (if fn = 0 then 0x1632 else 0x1633))
      else withFree fun x => reply 0 (toBytesLE 4 x)

def execConfigRequest (q : Fin 4) (fn : Fin 64) (write : Bool) (reg : Nat) (val : W64) (s : State) :
    Host.Outcome State Fault Refusal := s.run (configRequest q fn reg write val.toNat)

end Sys2Proof.Machine
end

