-- ==== Sys2Proof/Machine/Trust.lean ====
section
/-! DEFINITION. The wellhead's trust functions (R421–R446): images and slots, firmware updates, key loads, attestation
reports, and the I3C and DOE exchanges that ask for them. -/

namespace Sys2Proof.Machine

/-- Slot A is shipped with a bundle, slot B empty (notes/assumptions/21.md). -/
def slotDflt (k : Nat) : Option Bundle := if k = 0 then some {} else none

namespace Block

def updState (b : Block) : Nat := b.f Reg.SEC_STATUS Fl.SEC_STATUS_UPD_STATE
def inRecovery (b : Block) : Bool := b.on Reg.SEC_STATUS Fl.SEC_STATUS_RECOVERY
/-- What a slot holds. -/
def fwSlot (b : Block) (k : Nat) : Option Bundle := Tbl.get slotDflt k b.sec.slots

end Block

def setFwSlot (k : Nat) (o : Option Bundle) : Prog :=
  modSec fun s => { s with slots := Tbl.set slotDflt k o s.slots }

/-! ### Images (R423–R425) -/

/-- An image as it is read: KIND, the REVOKE byte, what it says of itself, how long it is, and OK or the status that refuses it. -/
structure ImgRead where
  kind   : Nat
  revoke : Nat
  img    : Img
  size   : Nat
  code   : Status

/-- The bytes of both signatures. -/
def sigBytes : Nat := 384 + 16224

namespace Block

/-- An image's key indices and security version pass the fuses in force (R424). -/
def fusesPass (b : Block) (i : Img) : Bool :=
  !(b.f Reg.SEC_FUSE Fl.SEC_FUSE_REV_RSA).testBit i.rsaIdx && !(b.f Reg.SEC_FUSE Fl.SEC_FUSE_REV_SLH).testBit i.slhIdx &&
    decide (b.f Reg.SEC_STATUS Fl.SEC_STATUS_SVN_FUSED ≤ i.svn)

/-- Reading an image and putting it to R424. -/
def readImage (b : Block) (d : List Byte) : ImgRead :=
  let i : Img := ⟨numAt d 0x008 4, numAt d 0x00C 2, numAt d 0x00E 1, numAt d 0x00F 1, numAt d 0x018 48⟩
  let len := numAt d 0x010 4
  let head := slice d 0 0x200
  let rsaKey := slice d 0x048 388
  let slhKey := slice d 0x1CC 48
  let fields := decide (numAt d 0 4 = 0x4D49574B ∧ numAt d 6 2 = 0x0100 ∧ numAt d 0x014 2 = b.f Reg.HUB_ID Fl.HUB_ID_PART ∧
    numAt d 0x016 1 = b.f Reg.HUB_ID Fl.HUB_ID_HUB_REV ∧ i.svn < 64 ∧ i.rsaIdx < 4 ∧ i.slhIdx < 4)
  let tests : List (Bool × Status) := [
    (fields && b.fusesPass i, St.sigInvalid),
    (decide (Config.sha384 rsaKey = Config.rootHash 0 i.rsaIdx ∧ Config.sha384 slhKey = Config.rootHash 1 i.slhIdx), St.digestMismatch),
    (decide (Config.sha384 (slice d 0x200 len) = i.digest), St.digestMismatch),
    (decide (slice rsaKey 384 4 = [0, 1, 0, 1]) && Config.rsaVerify rsaKey head (slice d (0x200 + len) 384), St.sigInvalid),
    (Config.slhVerify slhKey head (slice d (0x200 + len + 384) 16224), St.sigInvalid)]
  ⟨numAt d 0x004 2, numAt d 0x017 1, i, 0x200 + len + sigBytes, worst (tests.map fun t => if t.1 then St.ok else t.2)⟩

/-- A bundle put to R425: OK with what it holds, or a status. -/
def readBundle (b : Block) (d : List Byte) : Status × Bundle :=
  let w := b.readImage (d.take (2 ^ 20))
  let h := b.readImage (d.drop (2 ^ 20))
  let code := worst [w.code, h.code]
  let whole := decide (w.size ≤ 2 ^ 20 ∧ h.size ≤ 2 ^ 20 ∧ 2 ^ 20 + h.size ≤ d.length ∧ w.kind = 1 ∧ h.kind = 2 ∧ w.img.svn = h.img.svn)
  (if code ≠ 0 then code else if whole then St.ok else St.descInvalid, ⟨w.img, h.img⟩)

/-- A slot holds a bundle that is valid under the fuses in force. -/
def slotValid (b : Block) (k : Nat) : Bool :=
  match b.fwSlot k with
  | some u => b.fusesPass u.w && b.fusesPass u.h
  | none => false

end Block

/-! ### Updates (R429–R431) -/

def secSet (fl : Fld) (v : Nat) : Prog := setF Reg.SEC_STATUS fl v

/-- UPD_STATE changes. -/
def setUpd (st : Nat) : Prog := .all [secSet Fl.SEC_STATUS_UPD_STATE st, measured]

/-- An update command completes. -/
def updEnd (code : Status) : Prog := .all [
  setF Reg.SEC_UPD_CTL Fl.SEC_UPD_CTL_CODE code, setF Reg.SEC_UPD_CTL Fl.SEC_UPD_CTL_DONE 1]

/-- Hats that drive an update. -/
def Block.maySec (b : Block) (hat : Nat) : Bool := decide (hat = 0) || b.holds hat Right.security

/-- An update command outside recovery: accepted in one UPD_STATE. -/
def updCommand (hat st : Nat) (p : Prog) : Prog := underHat hat (.read fun b =>
  .when (b.maySec hat && !b.i3cLimited) (if b.updState = st then p else updEnd St.descInvalid))

/-- What the wellhead reads at SEC_UPD_SRC under a hat. -/
def Block.updRead (b : Block) (hat len : Nat) (told : ReadIn) : ReadIn :=
  b.sourced (b.rightsOf hat) hat (b.f Reg.SEC_UPD_SRC Fl.SEC_UPD_SRC_ADDR * 8) len told

/-- The bytes a STAGE takes: of the recovery region in recovery (R428), else what it read. -/
def Block.stageBytes (b : Block) (hat len : Nat) (told : ReadIn) : Status × List Byte :=
  if b.inRecovery then (St.ok, Tbl.getRun (dflt 0xFF) 0 (min len (2 ^ 21)) b.sec.recovery)
  else
    let read := b.updRead hat len told
    (read.end_, slice read.data 0 len)

/-- The source of an update lies in memory of a partition that a commit or a reset holds (R513). -/
def Block.updHeld (b : Block) : Bool :=
  match b.place (b.f Reg.SEC_UPD_SRC Fl.SEC_UPD_SRC_ADDR * 8) with
  | .mem p _ _ => !b.inRecovery && b.partHeld p
  | _ => false

/-- A STAGE whose copy waited ends without a write. -/
def stageStop (code : Status) : Prog := .read fun b => .all [
  .when b.sec.stageWait.isSome (.all [
    modSec fun s => { s with stageWait := none },
    setF Reg.SEC_UPD_CTL Fl.SEC_UPD_CTL_BUSY 0,
    setUpd 0]),
  updEnd code]

/-- The copy of a STAGE has ended: the bundle is checked; a valid one is written over the slot that is not ACTIVE, in recovery over
slot A (R428, R429). -/
def stageCopied (hat len : Nat) (told : ReadIn) : Prog := .read fun b =>
  let (st, d) := b.stageBytes hat len told
  let (code, u) := b.readBundle d
  let target := if b.inRecovery then 0 else 1 - b.f Reg.SEC_STATUS Fl.SEC_STATUS_ACTIVE_SLOT
  if st ≠ St.ok then stageStop st
  else if code ≠ 0 then stageStop code
  else .all [
    setF Reg.SEC_UPD_CTL Fl.SEC_UPD_CTL_BUSY 1,
    setUpd 1,
    setFwSlot target none,
    modSec fun s => { s with upd := some (target, u), stageWait := none }]

/-- STAGE (R429): a source in held memory is copied when the hold ends (R513). -/
def secStage (hat : Nat) (val : W64) (read : ReadIn) : Prog := inRecoveryToo hat (.read fun b =>
  let len := getFld val Fl.SEC_UPD_CTL_LEN
  .when (b.maySec hat) (.all [
    setF Reg.SEC_UPD_CTL Fl.SEC_UPD_CTL_LEN len,
    .when (decide (getFld val Fl.SEC_UPD_CTL_DONE = 1)) (setF Reg.SEC_UPD_CTL Fl.SEC_UPD_CTL_DONE 0),
    if b.updState ≠ 0 ∨ 0x400000 < len then updEnd St.descInvalid
    else if b.updHeld then .all [
      setF Reg.SEC_UPD_CTL Fl.SEC_UPD_CTL_BUSY 1, setUpd 1,
      modSec fun s => { s with stageWait := some (hat, len, read) }]
    else stageCopied hat len read]))

def execSecStage (hat : Nat) (val : W64) (read : ReadIn) (s : State) : Host.Outcome State Fault Refusal :=
  s.run (secStage hat val read)

/-- The bundle is written, its headers last; a copy that waited goes on once nothing holds its source. -/
def stageWritten : Prog := .read fun b =>
  if !b.sec.linkLost && b.sec.stageWait.isSome && b.sec.upd.isNone then
    .when (!b.updHeld) (.for? b.sec.stageWait fun w => stageCopied w.1 w.2.1 w.2.2)
  else .for? (if b.sec.linkLost then none else b.sec.upd) fun u => .all [
    setFwSlot u.1 (some u.2),
    modSec fun s => { s with upd := none },
    secSet Fl.SEC_STATUS_PENDING (u.1 + 1),
    secSet Fl.SEC_STATUS_TRIES 3,
    setF Reg.SEC_UPD_CTL Fl.SEC_UPD_CTL_BUSY 0,
    setUpd 2,
    updEnd St.ok]

def updCancel (hat : Nat) : Prog := updCommand hat 2 (.all [secSet Fl.SEC_STATUS_PENDING 0, setUpd 0, updEnd St.ok])

def updConfirm (hat : Nat) : Prog := updCommand hat 3 (.read fun b => .all [
  secSet Fl.SEC_STATUS_ACTIVE_SLOT (b.f Reg.SEC_STATUS Fl.SEC_STATUS_RUN_SLOT),
  secSet Fl.SEC_STATUS_PENDING 0,
  incSat Reg.SEC_COUNT Fl.SEC_COUNT_UPDATES,
  setUpd 0,
  updEnd St.ok])

/-- The fused security version rises; bits once burned stay (R422). -/
def updCommitSvn (hat : Nat) : Prog := updCommand hat 0 (.read fun b => .all [
  secSet Fl.SEC_STATUS_SVN_FUSED (max (b.f Reg.SEC_STATUS Fl.SEC_STATUS_SVN_FUSED) (b.f Reg.SEC_STATUS Fl.SEC_STATUS_SVN_RUN)),
  updEnd St.ok])

def execCancel (hat : Nat) (s : State) : Host.Outcome State Fault Refusal := s.run (updCancel hat)
def execConfirm (hat : Nat) (s : State) : Host.Outcome State Fault Refusal := s.run (updConfirm hat)
def execCommitSvn (hat : Nat) (s : State) : Host.Outcome State Fault Refusal := s.run (updCommitSvn hat)

/-- The revocation bits an image names may be burned (R431). -/
def Block.revokeOk (b : Block) (i : ImgRead) (whole : Bool) : Bool :=
  let rsa := bits i.revoke 0 4
  let slh := bits i.revoke 4 4
  let clash := fun (x : Img) => rsa.testBit x.rsaIdx || slh.testBit x.slhIdx
  whole && decide (i.kind = 3 ∧ i.code = 0) && !clash i.img &&
    decide ((b.f Reg.SEC_FUSE Fl.SEC_FUSE_REV_RSA ||| rsa) ≠ 15 ∧ (b.f Reg.SEC_FUSE Fl.SEC_FUSE_REV_SLH ||| slh) ≠ 15) &&
    (match b.fwSlot (b.f Reg.SEC_STATUS Fl.SEC_STATUS_ACTIVE_SLOT) with
      | some u => !clash u.w && !clash u.h
      | none => true)

def secRevoke (hat : Nat) (told : ReadIn) : Prog := updCommand hat 0 (.read fun b =>
  let len := b.f Reg.SEC_UPD_CTL Fl.SEC_UPD_CTL_LEN
  let read := b.updRead hat len told
  let d := slice read.data 0 len
  let i := b.readImage d
  if read.end_ ≠ St.ok then updEnd read.end_
  else if b.revokeOk i (decide (i.size ≤ len ∧ len ≤ 0x400000)) then .all [
    orF Reg.SEC_FUSE Fl.SEC_FUSE_REV_RSA (bits i.revoke 0 4),
    orF Reg.SEC_FUSE Fl.SEC_FUSE_REV_SLH (bits i.revoke 4 4),
    updEnd St.ok]
  else updEnd St.descInvalid)

def execRevoke (hat : Nat) (read : ReadIn) (s : State) : Host.Outcome State Fault Refusal := s.run (secRevoke hat read)

/-! ### The recovery and boot image regions (R428, R473) -/

/-- A private write carries at most 256 bytes, within its region. -/
def regionFits (size off : Nat) (bytes : List Byte) : Bool := decide (bytes.length ≤ 256 ∧ off + bytes.length ≤ size)

def execI3cRecoveryWrite (off : Nat) (bytes : List Byte) (s : State) : Host.Outcome State Fault Refusal :=
  s.runWell (.when (regionFits 0x200000 off bytes) (modSec fun x => { x with recovery := Tbl.setRun (dflt 0xFF) off bytes x.recovery }))

def execI3cRecoveryErase (s : State) : Host.Outcome State Fault Refusal := s.runWell (modSec fun x => { x with recovery := [] })

def execI3cBootRegionWrite (off : Nat) (bytes : List Byte) (s : State) : Host.Outcome State Fault Refusal :=
  s.runWell (.read fun b => .when (regionFits 0x90000 off bytes && !b.i3cLimited) (
    modSec fun x => { x with boot := Tbl.setRun (dflt 0xFF) off bytes x.boot }))

def execI3cBootRegionErase (s : State) : Host.Outcome State Fault Refusal :=
  s.runWell (.read fun b => .when (!b.i3cLimited) (modSec fun x => { x with boot := [] }))

/-! ### Answers (R442, R443) -/

/-- An answer goes back: into the DOE mailbox, or onto the I3C bus after an in-band interrupt. -/
def secAnswer (via : Via) (type : Nat) (payload : List Byte) : Prog :=
  match via with
  | .i3c => modSec fun s => { s with answer := payload, readPos := 0, ibi := true }
  | .doe q fn => send (.doe q fn type payload)
  | .gone => .skip

def rptAnswer (via : Via) (st : Status) (report : List Byte) : Prog :=
  secAnswer via 2 (toBytesLE 1 st ++ toBytesLE 3 0 ++ report)

def keyAnswer (via : Via) (k : Nat) (st : Status) : Prog :=
  secAnswer via 4 (toBytesLE 1 k ++ toBytesLE 1 st ++ toBytesLE 2 0)

def execI3cReadRestart (s : State) : Host.Outcome State Fault Refusal := s.runWell (modSec fun x => { x with readPos := 0 })

/-- A private read goes on where the last one ended. -/
def i3cRead (len : Nat) : Prog := .read fun b =>
  let n := min (min len 256) (b.sec.answer.length - b.sec.readPos)
  .when (decide (n ≠ 0)) (.all [
    send (.i3c (slice b.sec.answer b.sec.readPos n)),
    modSec fun x => { x with readPos := x.readPos + n, ibi := false }])

def execI3cPrivateRead (len : Nat) (s : State) : Host.Outcome State Fault Refusal := s.runWell (i3cRead len)

/-! ### Report requests (R436, R444) -/

/-- A request by a hat. -/
def reportReq (hat : Option Nat) (via : Via) (payload : List Byte) : Prog := .read fun b =>
  let package := decide (numAt payload 0 1 = 1)
  match hat.filter b.portAdmits with
  | none => rptAnswer via St.accessDenied []
  | some h =>
    if payload.length ≠ 36 ∨ 1 < numAt payload 0 4 then rptAnswer via St.descInvalid []
    else if package && !b.maySec h then rptAnswer via St.accessDenied []
    else if 8 ≤ b.sec.queue.length then rptAnswer via St.descInvalid []
    else .all [
      modSec fun s => { s with queue := s.queue ++ [⟨h, package, slice payload 4 32, via⟩] },
      if b.sec.queue = [] then beginReport else setF Reg.SEC_RPT Fl.SEC_RPT_QUEUED (b.sec.queue.length + 1)]

def execI3cReportReq (payload : List Byte) (s : State) : Host.Outcome State Fault Refusal :=
  s.run (.read fun b => .when (!b.i3cLimited) (reportReq (some 0) .i3c payload))

def execReportReq (q : Fin 4) (fn : Fin 64) (payload : List Byte) (s : State) : Host.Outcome State Fault Refusal :=
  s.run (.read fun b => .when (b.hstUp q && b.fnThere q fn) (reportReq (b.fnHat q fn) (.doe q fn) payload))

/-! ### The report (R436–R441) -/

def pad8 (l : List Byte) : List Byte := l ++ List.replicate (roundUp8 l.length - l.length) 0

/-- A section: the header of R59, and its records padded to 8 bytes. -/
def rptSection (type : Nat) (recs : List (List Byte)) : List Byte :=
  let body := recs.flatMap pad8
  toBytesLE 2 type ++ toBytesLE 2 0 ++ toBytesLE 4 body.length ++ toBytesLE 4 recs.length ++ toBytesLE 4 0 ++ body

namespace Block

/-- The bytes of a register. -/
def regBytes (b : Block) (a : Nat) : List Byte := toBytesLE 8 (b.w a).toNat

/-- The partitions in a report's scope. -/
def rptParts (b : Block) (r : RptReq) : List Nat :=
  (List.range 16).filter fun p => partEnabled b.recs p && (r.package || decide (b.hatPart r.hat = p))

/-- A partition is running: neither RESETTING nor DOWN (R441). -/
def partRuns (b : Block) (p : Nat) : Bool := !b.partResetting p && !b.partDown p

def inScope (ps : List Nat) (o : Option Nat) : Bool :=
  match o with
  | some p => ps.contains p
  | none => false

def imgBytes (n : Nat) : List Byte := toBytesLE 48 n

/-- FIRMWARE: a record per image kind; the other image is the pending one in VERIFIED, the prior ACTIVE one in UNCONFIRMED. -/
def rptFirmware (b : Block) : List (List Byte) :=
  let st := b.updState
  let other := if st = 2 then (b.fwSlot (b.f Reg.SEC_STATUS Fl.SEC_STATUS_PENDING - 1)).getD {}
    else if st = 3 then (b.fwSlot (b.f Reg.SEC_STATUS Fl.SEC_STATUS_ACTIVE_SLOT)).getD {}
    else {}
  [(1, b.sec.run.w, other.w), (2, b.sec.run.h, other.h)].map fun (kind, mine, oth) =>
    toBytesLE 1 kind ++ toBytesLE 1 st ++ toBytesLE 1 (b.f Reg.SEC_STATUS Fl.SEC_STATUS_RUN_SLOT) ++ toBytesLE 1 0 ++
      toBytesLE 2 mine.svn ++ toBytesLE 2 oth.svn ++ toBytesLE 4 mine.version ++ toBytesLE 4 oth.version ++
      toBytesLE 48 mine.digest ++ toBytesLE 48 oth.digest

def rptPartitions (b : Block) (ps : List Nat) : List (List Byte) := ps.map fun p =>
  toBytesLE 1 p ++ toBytesLE 1 (if b.partResetting p then 1 else if b.partDown p then 2 else 0) ++
    toBytesLE 1 (b.f (Reg.HUB_PART_CAUSE p) Fl.HUB_PART_CAUSE_CAUSE) ++ toBytesLE 1 0 ++
    toBytesLE 4 (Tbl.get (dflt 0) p b.sec.partResets)

def rptSites (b : Block) (ps : List Nat) : List (List Byte) :=
  ((List.range 16).filter fun g => b.siteOn g && decide (b.siteKind g ≠ 0) && inScope ps (b.sitePart g)).map fun g =>
    (List.range 48).flatMap fun k => b.regBytes (Reg.GLV_FIT g k)

def rptKernels (b : Block) (ps : List Nat) : List (List Byte) :=
  ((List.range 24).filter fun e => inScope ps (b.enginePart e)).flatMap fun e =>
    ((List.range 8).filter fun k => b.on (Reg.VEC_KERNEL e k) Fl.VEC_KERNEL_VALID).map fun k =>
      let f := b.f (Reg.VEC_KERNEL e k)
      toBytesLE 1 e ++ toBytesLE 1 k ++ toBytesLE 2 (f Fl.VEC_KERNEL_HAT) ++ toBytesLE 2 (f Fl.VEC_KERNEL_LEN) ++
        toBytesLE 2 (f Fl.VEC_KERNEL_BASE) ++ toBytesLE 4 (f Fl.VEC_KERNEL_LOADS) ++ toBytesLE 4 0 ++
        (List.range 6).flatMap fun j => b.regBytes (Reg.VEC_KERNEL_DIGEST e k j)

def rptPrograms (b : Block) (ps : List Nat) : List (List Byte) :=
  ((List.range 16).filter fun g => decide (b.siteKind g = 1)).flatMap fun g =>
    ((List.range 16).filter fun c => decide ((b.prtCtx g c).prog ≠ []) && ps.contains (b.hatPart (b.prtHat g c))).map fun c =>
      toBytesLE 1 g ++ toBytesLE 1 c ++ toBytesLE 2 (b.prtHat g c) ++ toBytesLE 2 (b.f (Reg.PRT_CTX_PROG g c) Fl.PRT_CTX_PROG_COUNT) ++
        toBytesLE 2 (b.f (Reg.PRT_CTX_PROG g c) Fl.PRT_CTX_PROG_REPEAT) ++
        (List.range 6).flatMap fun j => b.regBytes (Reg.PRT_CTX_PROG_DIGEST g c j)

def rptWeights (b : Block) (ps : List Nat) : List (List Byte) :=
  ((List.range 256).filter fun w => b.on (Reg.PMP_WSET w) Fl.PMP_WSET_VALID &&
      ps.contains (b.hatPart (b.f (Reg.PMP_WSET w) Fl.PMP_WSET_HAT))).map fun w =>
    let f := b.f (Reg.PMP_WSET w)
    toBytesLE 1 w ++ toBytesLE 1 (f Fl.PMP_WSET_INCOMPLETE) ++ toBytesLE 2 (f Fl.PMP_WSET_HAT) ++
      toBytesLE 2 (f Fl.PMP_WSET_COUNT) ++ toBytesLE 2 0 ++ b.regBytes (Reg.PMP_WSET_BYTES w) ++ b.wsetDigest w

def rptTroughs (b : Block) (ps : List Nat) : List (List Byte) :=
  ((List.range 64).filter fun t => decide (b.trgState t ≠ TrgState.idle) && inScope ps (b.troughPart t)).map fun t =>
    let arm := fun i => (Tbl.get (dflt []) t b.sec.armCfg).getD i 0
    let ms := (List.range 64).filter fun k => b.memValid t k || b.memOut t k || b.memDone t k
    toBytesLE 1 t ++ toBytesLE 1 (b.trgState t) ++ toBytesLE 1 ((b.troughPart t).getD 0xFF) ++ toBytesLE 1 ms.length ++
      toBytesLE 2 (getFld (BitVec.ofNat 64 (arm 2)) Fl.TRG_QUOTA_QUOTA) ++ toBytesLE 2 0 ++ toBytesLE 8 (arm 0) ++
      toBytesLE 8 (arm 1) ++ toBytesLE 8 (arm 3) ++ toBytesLE 8 (arm 4) ++ ms.flatMap fun k =>
        let f := b.f (Reg.TRG_MEMBER t k)
        toBytesLE 2 (f Fl.TRG_MEMBER_PACKAGE) ++ toBytesLE 2 (f Fl.TRG_MEMBER_HAT) ++
          toBytesLE 1 (f Fl.TRG_MEMBER_EJECTED + 2 * f Fl.TRG_MEMBER_COMPLETE) ++ toBytesLE 3 0

/-- The eleven sections. -/
def rptSections (b : Block) (r : RptReq) : List Byte :=
  let ps := b.rptParts r
  let run := ps.filter b.partRuns
  let certs := ([1, 2].filter Config.leafMatches).map fun a =>
    toBytesLE 1 a ++ toBytesLE 3 0 ++ toBytesLE 4 (Config.certChain a).length ++ Config.certChain a
  rptSection 1 [b.regBytes Reg.HUB_ID ++ b.regBytes Reg.HUB_POPULATION ++ slice (Config.identKey 0) 0 97 ++
      List.replicate 7 0 ++ slice (Config.identKey 1) 0 1184 ++ slice (Config.identKey 2) 0 384 ++ slice (Config.identKey 3) 0 48] ++
    rptSection 2 certs ++
    rptSection 3 b.rptFirmware ++
    rptSection 4 [b.regBytes Reg.CFG_GEN ++ (List.range 6).flatMap fun k => b.regBytes (Reg.CFG_STATE_DIGEST k)] ++
    rptSection 5 (b.rptPartitions ps) ++
    rptSection 6 (b.rptSites ps) ++
    rptSection 7 (b.rptKernels run) ++
    rptSection 8 (b.rptPrograms run) ++
    rptSection 9 (b.rptWeights run) ++
    rptSection 10 (b.rptTroughs ps) ++
    rptSection 11 [toBytesLE 4 (b.f Reg.SEC_COUNT Fl.SEC_COUNT_PKG_RESETS) ++ toBytesLE 4 (b.f Reg.SEC_COUNT Fl.SEC_COUNT_UPDATES) ++
      toBytesLE 4 (b.f Reg.SEC_COUNT Fl.SEC_COUNT_FALLBACKS) ++ toBytesLE 1 (b.f Reg.SEC_STATUS Fl.SEC_STATUS_SVN_FUSED) ++
      toBytesLE 3 0 ++ toBytesLE 8 b.sec.keyLoads]

/-- FLAGS of the header. -/
def rptFlags (b : Block) (r : RptReq) : Nat :=
  b2n r.package + 2 * b2n b.sec.unstable + 4 * b2n (decide (b.updState ≠ 0)) +
    8 * b2n ((b.rptParts r).any fun p => !b.partRuns p) + 16 * b2n (!(Config.leafMatches 1 && Config.leafMatches 2))

/-- A report up to its signature block. -/
def rptBody (b : Block) (r : RptReq) : List Byte :=
  let secs := b.rptSections r
  let off := 64 + secs.length
  toBytesLE 4 0x5452504D ++ toBytesLE 2 0x0100 ++ toBytesLE 2 (b.rptFlags r) ++ toBytesLE 4 (off + 8 + sigBytes) ++
    toBytesLE 2 11 ++ toBytesLE 2 r.hat ++ toBytesLE 8 b.sec.snapTime ++ r.nonce ++ toBytesLE 4 off ++ toBytesLE 4 0 ++ secs

/-- The signed report; the salt is the DRBG's (R439). -/
def report (b : Block) (r : RptReq) (salt : Nat) : List Byte :=
  let body := b.rptBody r
  body ++ toBytesLE 2 384 ++ toBytesLE 2 16224 ++ toBytesLE 4 0 ++ slice (Config.rsaSign salt body) 0 384 ++
    slice (Config.slhSign body) 0 16224

end Block

/-- The head of the queue is signed and delivered, while the DRBG is ready; the next one starts. -/
def reportReady : Prog := .read fun b =>
  match b.sec.queue with
  | [] => .skip
  | r :: rest => .when (b.on Reg.TRG_RNG Fl.TRG_RNG_READY && !b.sec.linkLost) (withFree fun salt =>
      let out := b.report r salt
      .all [
        modSec fun s => { s with queue := rest },
        incSat Reg.SEC_RPT Fl.SEC_RPT_REPORTS,
        setF Reg.SEC_RPT Fl.SEC_RPT_LAST_LEN out.length,
        beginReport,
        rptAnswer r.via St.ok out])

def execReportReady (s : State) : Host.Outcome State Fault Refusal := s.run reportReady

/-! ### Key loads (R433–R435, R446) -/

/-- The key-encryption key a blob stands for, and what it unwraps (R434). -/
def blobKey (d : List Byte) : Option Nat :=
  let pub := slice d 0x010 97
  let ct := slice d 0x078 1088
  let info := "MEONE-KEYSLOT".toList.map (fun c => BitVec.ofNat 8 c.toNat) ++ slice d 0x00C 4 ++ slice d 6 1 ++ slice d 8 2 ++ pub ++
    toBytesLE 48 (Config.sha384 ct)
  Config.unwrapKey (Config.hkdf (Config.kemShared ct ++ Config.ecdhShared pub) info) (slice d 0x4B8 40)

namespace Block

/-- A blob's fields are right for slot k and a hat (R435). -/
def blobOk (b : Block) (d : List Byte) (h k : Nat) : Bool :=
  decide (numAt d 0 4 = 0x4B4C534D ∧ numAt d 4 2 = 0x0100 ∧ numAt d 6 1 = k ∧ numAt d 7 1 = 0 ∧ numAt d 8 2 = h ∧ numAt d 0xA 2 = 0 ∧
    numAt d 0xC 4 = b.f Reg.HUB_ID Fl.HUB_ID_SERIAL ∧ numAt d 0x10 1 = 4 ∧ numAt d 0x71 7 = 0 ∧ numAt d 0x4E0 32 = 0) &&
    Config.onCurve (slice d 0x10 97)

/-- A removal that has begun its step 3 names a hat whose range holds the slot (R398). -/
def keyGoing (b : Block) (h k : Nat) : Bool :=
  match b.hats.running with
  | some r => decide (3 ≤ r.step) && r.set.any fun x => decide (x = h) || b.inKeyRange x k
  | none => false

/-- The hat may load keys: as at any port, and while it is REMOVING until step 3 (R446). -/
def keyAdmits (b : Block) (h : Nat) : Bool := b.portAdmits h || decide (b.hatState h = HatState.removing)

end Block

/-- A load arrives. -/
def keyLoad (hat : Option Nat) (via : Via) (payload : List Byte) : Prog := .read fun b =>
  let k := numAt payload 0 1
  let d := payload.drop 4
  match hat.filter b.keyAdmits with
  | none => keyAnswer via k St.accessDenied
  | some h =>
    if !b.holds h Right.key || !b.inKeyRange h k || b.keyGoing h k then keyAnswer via k St.accessDenied
    else if payload.length ≠ 1284 ∨ numAt payload 1 3 ≠ 0 ∨ b.keyState k ≠ 0 ∨ b.blobOk d h k = false then
      keyAnswer via k St.descInvalid
    else .all [
      setF (Reg.PMP_KEY k) Fl.PMP_KEY_STATE 1,
      modSec fun s => { s with loads := s.loads ++ [⟨k, via, blobKey d⟩] }]

def execI3cKeyLoad (payload : List Byte) (s : State) : Host.Outcome State Fault Refusal :=
  s.run (.read fun b => .when (!b.i3cLimited) (keyLoad (some 0) .i3c payload))

def execKeyLoad (q : Fin 4) (fn : Fin 64) (payload : List Byte) (s : State) : Host.Outcome State Fault Refusal :=
  s.run (.read fun b => .when (b.hstUp q && b.fnThere q fn) (keyLoad (b.fnHat q fn) (.doe q fn) payload))

/-- Unwrapping ends.  A load whose slot is no longer LOADING for it has lost to a REVOKE (R446). -/
def keyLoadDone (k : Nat) : Prog := .read fun b =>
  match if b.sec.linkLost then [] else b.sec.loads.filter fun l => decide (l.slot = k) with
  | [] => .skip
  | l :: later => .all [
      modSec fun s => { s with loads := s.loads.erase l },
      if b.keyState k ≠ 1 ∨ later ≠ [] then keyAnswer l.via k St.keyRevoked
      else match l.key with
        | none => .all [setF (Reg.PMP_KEY k) Fl.PMP_KEY_STATE 0, keyAnswer l.via k St.digestMismatch]
        | some key => .all [
            modPmp fun s => { s with keymat := Tbl.set (dflt 0) k key s.keymat },
            setF (Reg.PMP_KEY k) Fl.PMP_KEY_STATE 2,
            setF (Reg.PMP_KEY k) Fl.PMP_KEY_PAGES 0,
            modSec fun s => { s with keyLoads := s.keyLoads + 1 },
            keyAnswer l.via k St.ok]]

def execKeyLoadDone (k : Fin 256) (s : State) : Host.Outcome State Fault Refusal := s.run (keyLoadDone k)

end Sys2Proof.Machine
end

