-- ==== Sys2Proof/Machine/Bringup.lean ====
section
/-! DEFINITION. Bring-up and self-test (R426, R469–R478), package reset (R483), the loss of a die, of a clock or of power (R484,
R508, R511). -/

namespace Sys2Proof.Machine

/-! ### Where bring-up stands (R469, R471) -/

namespace Block

def bringF (b : Block) (fl : Fld) : Nat := b.f Reg.HUB_BRINGUP fl
def bringFailed (b : Block) : Bool := b.on Reg.HUB_BRINGUP Fl.HUB_BRINGUP_FAILED

/-- A site is neither blank nor fused off. -/
def siteUsed (b : Block) (g : Nat) : Bool := b.siteOn g && decide (b.siteKind g ≠ 0)

/-- Every enabled site has been fitted, or refused (step 6). -/
def sitesSettled (b : Block) : Bool :=
  b.sys.testDone && (List.range 16).all fun g => !b.siteUsed g || decide (SiteState.fitted ≤ b.gState g)

/-- The lowest step not yet complete. -/
def bringStep (b : Block) : Nat :=
  let s := b.sys
  if b.held || !s.begun then 0
  else [s.romDone, s.fuseDone, s.imgDone, s.testDone, s.memDone, b.sitesSettled, s.cfgDone].takeWhile id |>.length + 1

end Block

def bringSet (fl : Fld) (v : Nat) : Prog := setF Reg.HUB_BRINGUP fl v

def showStep : Prog := .read fun b =>
  .when (!b.bringFailed && !b.on Reg.HUB_BRINGUP Fl.HUB_BRINGUP_READY) (bringSet Fl.HUB_BRINGUP_STEP b.bringStep)

/-- A fatal failure in a step (R471). -/
def bringFail (step cause : Nat) : Prog := .all [
  bringSet Fl.HUB_BRINGUP_FAILED 1, bringSet Fl.HUB_BRINGUP_CAUSE cause, bringSet Fl.HUB_BRINGUP_STEP step]

/-- Bring-up starts at step 1, once nothing holds the package in reset. -/
def beginBringup : Prog := .read fun b => .when (!b.held) (.all [
  modSys fun s => { s with begun := true, start := b.now }, showStep])

/-! ### Package reset (R483) -/

/-- A register keeps one field and takes its reset value elsewhere. -/
def keepField (a : Nat) (fl : Fld) : Prog := .read fun b => setR a (putFld (resetVal a) fl (b.f a fl))

/-! Classes of objects that self-test names (R475, R476, R478).  Object numbers: lane group engine × 8 + group; cache way set; site,
well, pump, walker, trough unit, reducer's well, host port, transport engine by number; bridge module chiplet × 8 + module; router
x + 16 × y; region; channel well × 16 + channel. -/
namespace FailCls
abbrev lane := 0
abbrev way := 1
abbrev pump := 2
abbrev walker := 3
abbrev troughUnit := 4
abbrev reducer := 5
abbrev well := 6
abbrev site := 7
abbrev hostPort := 8
abbrev spanEngine := 9
abbrev bridge := 10
abbrev router := 11
abbrev region := 12
abbrev commitLogic := 13
abbrev channel := 14
end FailCls

/-- The bank whose spare way stands in for a set, as well and bank. -/
def wayBank (set : Nat) : Nat × Nat := (set / 8 % 12, set % 8)

/-- The spare fields of a pump's quadrant. -/
def pumpSpares : List (Fld × Fld) :=
  [(Fl.HUB_SPARE_P0_USED, Fl.HUB_SPARE_P0_FOR), (Fl.HUB_SPARE_P1_USED, Fl.HUB_SPARE_P1_FOR)]

/-- An object is fused off (R478); `back`: an unburned fuse-off is undone. -/
def fuseOff (cls obj : Nat) (back : Bool) : Prog :=
  let put := fun (l : List Nat) => if back then l.erase obj else insertNat obj l
  if cls = FailCls.lane then
    modSys fun s => { s with offEng := if back then s.offEng.erase (obj / 8) else insertNat (obj / 8) s.offEng }
  else if cls = FailCls.way then modSys fun s => { s with offWay := if back then s.offWay.erase obj else obj :: s.offWay }
  else if cls = FailCls.pump then modSys fun s => { s with offPump := put s.offPump }
  else if cls = FailCls.walker then modSys fun s => { s with offWalk := put s.offWalk }
  else if cls = FailCls.troughUnit then modSys fun s => { s with offTrgU := put s.offTrgU }
  else if cls = FailCls.reducer then modSys fun s => { s with offRed := put s.offRed }
  else if cls = FailCls.well then
    (if back then orF else andNotF) Reg.HUB_POPULATION Fl.HUB_POPULATION_STACK_EN (2 ^ obj)
  else if cls = FailCls.site then
    (if back then orF else andNotF) Reg.HUB_POPULATION Fl.HUB_POPULATION_SITE_EN (2 ^ obj)
  else if cls = FailCls.hostPort then modSys fun s => { s with offPort := put s.offPort }
  else if cls = FailCls.spanEngine then modSys fun s => { s with offSpan := put s.offSpan }
  else if cls = FailCls.bridge then modSys fun s => { s with offBridge := put s.offBridge }
  else if cls = FailCls.channel then
    (if back then andNotF else orF) (Reg.WEL_CHAN (obj / 16)) Fl.WEL_CHAN_FUSED (2 ^ (obj % 16))
  else .skip

/-- A spare that was not burned in goes back. -/
def undoSpare (cls obj : Nat) : Prog := .read fun b =>
  if cls = FailCls.lane then andNotF (Reg.VEC_STATUS (obj / 8)) Fl.VEC_STATUS_SPARES (2 ^ (obj % 8))
  else if cls = FailCls.way then
    andNotF (Reg.WEL_HC (wayBank obj).1) Fl.WEL_HC_SPARE_USED (2 ^ (wayBank obj).2)
  else if cls = FailCls.pump then .each pumpSpares fun f =>
    let a := Reg.HUB_SPARE (obj / 12)
    .when (b.on a f.1 && decide (b.f a f.2 = obj)) (.all [setF a f.1 0, setF a f.2 0])
  else if cls = FailCls.walker then .all [
    setF (Reg.HUB_SPARE (obj / 8)) Fl.HUB_SPARE_WK_USED 0, setF (Reg.HUB_SPARE (obj / 8)) Fl.HUB_SPARE_WK_FOR 0]
  else if cls = FailCls.router then setR (Reg.NOC_BYPASS (quadAt (obj % 16) (obj / 16))) 0
  else .skip

/-- Registers that a package reset keeps in whole or in part: fuses, flash, HUB_TIMESTAMP. -/
def keptReg (a : Nat) : Bool :=
  [Reg.HUB_TIMESTAMP, Reg.HUB_ID, Reg.HUB_POPULATION, Reg.HUB_RESET_CAUSE, Reg.SEC_STATUS, Reg.SEC_FUSE, Reg.SEC_COUNT, Reg.PWR_TEMP,
    Reg.MON_WEAR, Reg.MON_WEAR_BAND].contains a ||
  (List.range 4).any (fun q => decide (a = Reg.HUB_SPARE q ∨ a = Reg.NOC_BYPASS q ∨ a = Reg.MON_WEAR_MECH q)) ||
  (List.range 12).any (fun w => decide (a = Reg.WEL_CHAN w ∨ a = Reg.WEL_HC w)) ||
  (List.range 16).any (fun r => decide (a = Reg.MON_WEAR_REGION r)) ||
  (List.range 24).any fun e => decide (a = Reg.VEC_STATUS e)

/-- The package resets: only fuses, the wellhead's flash and HUB_TIMESTAMP keep what they hold. -/
def packageReset (cause : Nat) : Prog := .read fun b => .all [
  .each b.sys.unburned fun u => if u.2.2 then fuseOff u.1 u.2.1 true else undoSpare u.1 u.2.1,
  .edit .fresh,
  .edit (.wipe keptReg),
  .each (List.range 12) fun w => .all [keepField (Reg.WEL_CHAN w) Fl.WEL_CHAN_FUSED, keepField (Reg.WEL_HC w) Fl.WEL_HC_SPARE_USED],
  .each (List.range 24) fun e => keepField (Reg.VEC_STATUS e) Fl.VEC_STATUS_SPARES,
  .each (List.range 4) fun q => .when (!b.on (Reg.NOC_BYPASS q) Fl.NOC_BYPASS_FUSED) (setR (Reg.NOC_BYPASS q) 0),
  keepField Reg.PWR_TEMP Fl.PWR_TEMP_TRIPS,
  setF Reg.SEC_STATUS Fl.SEC_STATUS_RECOVERY 0,
  .each (List.range 16) fun r => modRegion r fun s => { firstKnown := s.firstKnown },
  modPwr fun p => { thermtrip := p.thermtrip, tripOwed := p.tripOwed, hist := p.hist, daily := p.daily, hours := p.hours, errHist := p.errHist },
  modSec fun s => { slots := s.slots, recovery := s.recovery, boot := s.boot, alwaysOn := s.alwaysOn },
  modSys fun s => {
    pwrOk := s.pwrOk, pkgRstN := s.pkgRstN, faultN := s.faultN, coreClk := s.coreClk, aonClk := s.aonClk,
    offEng := s.offEng, offPump := s.offPump, offWalk := s.offWalk, offTrgU := s.offTrgU, offRed := s.offRed, offPort := s.offPort,
    offSpan := s.offSpan, offWay := s.offWay, offBridge := s.offBridge, ir := s.ir, scan := s.scan, die := s.die },
  .each b.sys.offWay fun set => modMem fun m => { m with waysOff := Tbl.upd 0 set (fun n => n + 1) m.waysOff },
  incSat Reg.SEC_COUNT Fl.SEC_COUNT_PKG_RESETS,
  incSat Reg.HUB_RESET_CAUSE Fl.HUB_RESET_CAUSE_COUNT,
  setF Reg.HUB_RESET_CAUSE Fl.HUB_RESET_CAUSE_LAST cause,
  .read fun b => setF Reg.SPN_ID Fl.SPN_ID_INCARN (b.f Reg.SEC_COUNT Fl.SEC_COUNT_PKG_RESETS * 256)]

/-- PWR_OK asserts: HUB_TIMESTAMP starts at 0 (R39), bring-up starts. -/
def pwrOkAssert : Prog := .read fun b => .when (!b.sys.pwrOk || !b.sys.begun) (.all [
  modSys fun s => { s with pwrOk := true },
  setR Reg.HUB_TIMESTAMP 0,
  setF Reg.HUB_RESET_CAUSE Fl.HUB_RESET_CAUSE_LAST 1,
  setF Reg.HUB_RESET_CAUSE Fl.HUB_RESET_CAUSE_COUNT 0,
  beginBringup])

def execPwrOkAssert (s : State) : Host.Outcome State Fault Refusal := s.runRaw pwrOkAssert

def execPwrOkDeassert (s : State) : Host.Outcome State Fault Refusal :=
  s.runRaw (.read fun b => .when b.sys.pwrOk (.all [modSys fun s => { s with pwrOk := false }, packageReset 1]))

/-- PKG_RST_N asserts: no effect while PWR_OK is low (R511); the pin wins over the CLOSE phase (R485). -/
def execPkgRstN (s : State) : Host.Outcome State Fault Refusal :=
  s.runRaw (.read fun b => .when b.sys.pkgRstN (.all [
    modSys fun s => { s with pkgRstN := false },
    .when b.sys.pwrOk (packageReset 2)]))

def execPkgRstNRelease (s : State) : Host.Outcome State Fault Refusal :=
  s.runRaw (.read fun b => .when (!b.sys.pkgRstN) (.all [modSys fun s => { s with pkgRstN := true }, beginBringup]))

/-- A write of HUB_PKG_RESET by hat 0 with GO and the key: CLOSE goes out on every session, then the package resets. -/
def pkgResetWrite (hat : Nat) (val : W64) : Prog := underHat hat (.read fun b =>
  .when (decide (hat = 0 ∧ getFld val Fl.HUB_PKG_RESET_GO = 1 ∧ getFld val Fl.HUB_PKG_RESET_KEY = 0xA55A) && !b.i3cLimited &&
      !b.sys.closing) (.all [
    .each b.listedPeers closeSession,
    modSys fun s => { s with closing := true }]))

def execHubPkgReset (hat : Nat) (val : W64) (s : State) : Host.Outcome State Fault Refusal := s.runWell (pkgResetWrite hat val)

def execPkgResetCloseDone (s : State) : Host.Outcome State Fault Refusal :=
  s.runWell (.read fun b => .when b.sys.closing (.all [packageReset 3, beginBringup]))

/-- The end of a STAGE; in recovery the package then resets (R427). -/
def execSecStageDone (s : State) : Host.Outcome State Fault Refusal :=
  s.run (.read fun b => .all [
    stageWritten,
    .when (b.inRecovery && b.sec.upd.isSome && !b.sec.linkLost) (.all [packageReset 4, beginBringup])])

/-! ### Step 1: the boot ROM (R426, R430, R432) -/

/-- A slot runs. -/
def runSlot (k upd : Nat) : Prog := .read fun b => .for? (b.fwSlot k) fun u => .all [
  modSec fun s => { s with run := u },
  secSet Fl.SEC_STATUS_RUN_SLOT k,
  secSet Fl.SEC_STATUS_SVN_RUN u.w.svn,
  setF Reg.SEC_FUSE Fl.SEC_FUSE_RSA_IDX u.w.rsaIdx,
  setF Reg.SEC_FUSE Fl.SEC_FUSE_SLH_IDX u.w.slhIdx,
  setUpd upd]

/-- The boot ROM has picked a slot, or found none: recovery. -/
def bootRom : Prog := .read fun b =>
  let act := b.f Reg.SEC_STATUS Fl.SEC_STATUS_ACTIVE_SLOT
  let pend := b.f Reg.SEC_STATUS Fl.SEC_STATUS_PENDING
  let tries := b.f Reg.SEC_STATUS Fl.SEC_STATUS_TRIES
  let try_ := decide (pend ≠ 0 ∧ tries ≠ 0)
  .when (b.sec.alwaysOn && b.sys.pkgRstN && b.sys.coreClk && !b.sys.romDone && !b.bringFailed) (.all [
    modSys fun s => { s with romDone := true },
    modPwr fun p => { p with tripOwed := false },
    .when b.pwr.tripOwed (incSat Reg.PWR_TEMP Fl.PWR_TEMP_TRIPS),
    secSet Fl.SEC_STATUS_NO_CERTS (b2n (!(Config.leafMatches 1 && Config.leafMatches 2))),
    .when try_ (secSet Fl.SEC_STATUS_TRIES (tries - 1)),
    .when (decide (pend ≠ 0 ∧ tries = 0)) (secSet Fl.SEC_STATUS_PENDING 0),
    if try_ && b.slotValid (pend - 1) then runSlot (pend - 1) 3
    else if b.slotValid act then runSlot act 0
    else .all [
      incSat Reg.SEC_COUNT Fl.SEC_COUNT_FALLBACKS,
      if b.slotValid (1 - act) then runSlot (1 - act) 0
      else .all [
        setUpd 0,
        secSet Fl.SEC_STATUS_RECOVERY 1,
        bringFail 1 6]],
    showStep])

def execBootRomDone (s : State) : Host.Outcome State Fault Refusal := s.runRaw bootRom

/-- The always-on rail becomes good: the wellhead runs. -/
def execAlwaysOnRailGood (s : State) : Host.Outcome State Fault Refusal :=
  s.runRaw (.read fun b => .when (!b.sec.alwaysOn) (modSec fun x => { x with alwaysOn := true }))

/-- The always-on rail goes: THERMTRIP_N is released (R465); what flash and fuses do not keep is lost. -/
def execAlwaysOnRailRemoved (s : State) : Host.Outcome State Fault Refusal :=
  s.runRaw (.read fun b => .when b.sec.alwaysOn (.all [
    .when b.sys.pwrOk (.all [modSys fun s => { s with pwrOk := false }, packageReset 1]),
    modPwr fun p => { p with thermtrip := false },
    modSys fun s => { s with romDone := false, begun := false },
    modSec fun x => { x with alwaysOn := false }]))

/-! ### Steps 2 and 3 (R469, R472) -/

/-- A step of bring-up ends: it has begun, has not failed, and the steps it follows have ended. -/
def bringWhen (ok : Block → Bool) (p : Prog) : Prog := .read fun b => .when (b.sys.begun && !b.bringFailed && ok b) (.all [p, showStep])

def execFuseLoadDone (ok : Bool) (s : State) : Host.Outcome State Fault Refusal :=
  s.run (bringWhen (fun b => !b.sys.fuseDone) (
    if ok then modSys fun x => { x with fuseDone := true } else bringFail 2 1))

/-- The hub image is loaded and domains are switched on: those of enabled wells, of quadrants with a die at some site (R20), and the
others. -/
def execHubImageLoaded (railOk : Bool) (s : State) : Host.Outcome State Fault Refusal :=
  s.run (bringWhen (fun b => b.sys.romDone && b.sys.fuseDone && !b.sys.imgDone) (
    if railOk then .all [
      modSys fun x => { x with imgDone := true },
      .read fun b => .each ((List.range 20).filter fun d => !b.domThere d) fun d =>
        setF (Reg.PWR_DOM_STATUS d) Fl.PWR_DOM_STATUS_STATE 2]
    else bringFail 3 7))

def execWellheadLinkTrainTimeout (s : State) : Host.Outcome State Fault Refusal :=
  s.run (bringWhen (fun b => !b.sys.imgDone) (.read fun b => bringFail b.bringStep 2))

/-! ### Step 4: self-test and repair (R475–R478) -/

/-- A repair is burned, up to 64 of them, else held for this bring-up. -/
def countRepair (cls obj : Nat) (off : Bool) : Prog := .read fun b => .all [
  if b.f Reg.HUB_REPAIR Fl.HUB_REPAIR_BURNED < 64 then addWrap Reg.HUB_REPAIR Fl.HUB_REPAIR_BURNED 1
  else .all [
    incSat Reg.HUB_REPAIR Fl.HUB_REPAIR_UNBURNED,
    modSys fun s => { s with unburned := s.unburned ++ [(cls, obj, off)] }],
  if off then incSat Reg.HUB_REPAIR Fl.HUB_REPAIR_FUSED_OFF else logEv St.spareConsumed obj]

def takeOff (cls obj : Nat) : Prog := .all [fuseOff cls obj false, countRepair cls obj true]

/-- A bypass of a router found at self-test: to a neighbour of its quadrant, which the manual leaves open. -/
def fuseBypass (x y q : Nat) : Prog := withFree fun k =>
  let dirs := (List.range 4).filter fun d => match neighbour x y d with
    | some n => decide (quadAt n.1 n.2 = q)
    | none => false
  let a := Reg.NOC_BYPASS q
  .all [setF a Fl.NOC_BYPASS_VALID 1, setF a Fl.NOC_BYPASS_FUSED 1, setF a Fl.NOC_BYPASS_X x, setF a Fl.NOC_BYPASS_Y y,
    setF a Fl.NOC_BYPASS_DIR (dirs.getD (k % dirs.length) 0)]

/-- A failure that repeats: a spare comes in, or the object is fused off, or bring-up fails. -/
def repair (f : SelfTestFail) : Prog := .read fun b =>
  let c := f.cls
  let o := f.obj
  let spare := fun (p : Prog) => Prog.all [p, countRepair c o false]
  if c = FailCls.lane then
    let a := Reg.VEC_STATUS (o / 8)
    if bit (b.f a Fl.VEC_STATUS_SPARES) (o % 8) then takeOff c o else spare (orF a Fl.VEC_STATUS_SPARES (2 ^ (o % 8)))
  else if c = FailCls.way then
    let (w, k) := wayBank o
    if bit (b.f (Reg.WEL_HC w) Fl.WEL_HC_SPARE_USED) k then .all [
      takeOff c o, modMem fun m => { m with waysOff := Tbl.upd 0 o (fun n => n + 1) m.waysOff }]
    else spare (orF (Reg.WEL_HC w) Fl.WEL_HC_SPARE_USED (2 ^ k))
  else if c = FailCls.pump then
    let a := Reg.HUB_SPARE (o / 12)
    match pumpSpares.find? fun s => !b.on a s.1 with
    | some s => spare (.all [setF a s.1 1, setF a s.2 o])
    | none => takeOff c o
  else if c = FailCls.walker then
    let a := Reg.HUB_SPARE (o / 8)
    if b.on a Fl.HUB_SPARE_WK_USED then takeOff c o
    else spare (.all [setF a Fl.HUB_SPARE_WK_USED 1, setF a Fl.HUB_SPARE_WK_FOR o])
  else if c = FailCls.router then
    let q := quadAt (o % 16) (o / 16)
    if b.on (Reg.NOC_BYPASS q) Fl.NOC_BYPASS_VALID then bringFail 4 4 else spare (fuseBypass (o % 16) (o / 16) q)
  else if c = FailCls.region then (if o < 12 then takeOff FailCls.well o else bringFail 4 3)
  else if c = FailCls.commitLogic then bringFail 4 5
  else if c = FailCls.bridge then .all [
    takeOff c o,
    .read fun b => .when (decide (2 < (b.sys.offBridge.filter fun m => decide (m / 8 = o / 8)).length)) (.all [
      modSys fun s => { s with netLost := insertNat (o / 8) s.netLost },
      setF (Reg.PWR_DOM_STATUS (17 + o / 8)) Fl.PWR_DOM_STATUS_STATE 2])]
  else .when (decide (FailCls.troughUnit ≤ c ∧ c ≤ FailCls.spanEngine)) (.all [
    takeOff c o, .when (decide (c = FailCls.well)) (setF (Reg.PWR_DOM_STATUS o) Fl.PWR_DOM_STATUS_STATE 2)])

/-- Step 4 ends: repairs, regions that failed calibration among them; site links start to train. -/
def selfTestDone (failures : List SelfTestFail) (transient : Nat) : Prog := .read fun b => .all [
  .each (failures ++ b.sys.calFail.map fun r => ⟨FailCls.region, r⟩) fun f => .read fun b => .when (!b.bringFailed) (repair f),
  addSat Reg.HUB_REPAIR Fl.HUB_REPAIR_TRANSIENT transient,
  .read fun b => .when (!b.bringFailed) (.all [
    modSys fun s => { s with testDone := true, calFail := [] },
    .each ((List.range 16).filter b.siteUsed) startTraining])]

def execSelfTestDone (failures : List SelfTestFail) (transient : Nat) (s : State) : Host.Outcome State Fault Refusal :=
  s.run (bringWhen (fun b => b.sys.imgDone && !b.sys.testDone) (selfTestDone failures transient))

/-! ### Step 5 -/

/-- The memory has trained: a failing channel is mapped out by a fuse while its well has fewer than 4 mapped out, else it is failed
in service. -/
def hbmTrained (failed : List (Nat × Nat)) : Prog := .all [
  .each (failed.filter fun e => decide (e.1 < 12 ∧ e.2 < 16)) fun e => .read fun b =>
    let out := b.f (Reg.WEL_CHAN e.1) Fl.WEL_CHAN_FUSED
    .when (!out.testBit e.2) (
      if popCount out 16 < 4 then takeOff FailCls.channel (e.1 * 16 + e.2) else failChannel e.1 e.2),
  modSys fun s => { s with memDone := true },
  showWells]

def execHbmTrainingDone (failedChannels : List (Nat × Nat)) (s : State) : Host.Outcome State Fault Refusal :=
  s.run (bringWhen (fun b => b.sys.testDone && !b.sys.memDone) (hbmTrained failedChannels))

/-! ### Step 7: the boot structure image (R473) -/

/-- The bytes of the wellhead's flash from an offset of the region that R473 names. -/
def Block.bootBytes (b : Block) (o n : Nat) : List Byte := Tbl.getRun (dflt 0xFF) o n b.sec.boot

/-- Slot 0 is claimed under hat 0, the image staged, checked and committed with EXPECT 0, the slot released. -/
def bootCommit : Prog := .read fun b =>
  if numAt (b.bootBytes 0 4) 0 4 ≠ 0x5453424D then bringSet Fl.HUB_BRINGUP_IMG_NONE 1
  else
    let img := b.bootBytes 0 (min 0x80000 (numAt (b.bootBytes 0x0C 4) 0 4))
    .all [
      slotClaim 0 0,
      modSlot 0 fun s => { s with content := some ⟨img, [], b.gen⟩, checking := true },
      setSlot 0 SlotState.staging,
      checkDone 0,
      .read fun b => .when (decide (b.slotState 0 = SlotState.checked)) (.all [
        setF (Reg.CFG_SLOT_EXPECT 0) Fl.CFG_SLOT_EXPECT_GEN 0, commit 0 0, commitDrained]),
      .read fun b => bringSet Fl.HUB_BRINGUP_IMG_CODE (b.slotF 0 Fl.CFG_SLOT_STATUS_CODE),
      releaseSlot 0]

def execBootImageCommit (s : State) : Host.Outcome State Fault Refusal :=
  s.run (bringWhen (fun b => b.sys.memDone && b.sitesSettled && !b.sys.cfgDone) (.all [
    bootCommit, modSys fun x => { x with cfgDone := true }]))

/-! ### One die, one clock (R484, R508) -/

def execHostRefclkLoss (q : Fin 4) (s : State) : Host.Outcome State Fault Refusal :=
  s.run (declareRemoval q false)

/-- A network chiplet's bridge link or clock is lost: its ports go down, responses bound for its engines are absorbed. -/
def netLoss (c : Nat) : Prog := .read fun b =>
  let mine := fun (p : Pkt) => (decide (p.cmd = 0x18 ∨ p.cmd = 0x19)) && (match p.dst with
    | .spanEng e => decide (e / 4 = c)
    | _ => false)
  .all [
    modSys fun s => { s with netLost := insertNat c s.netLost },
    .each (List.range 48) (spanPortDown c),
    .each (b.noc.net.filter mine) fun p => .all [takePkt p, logEv St.drainAbsorbed c]]

def execNetRefclkLoss (c : Fin 2) (s : State) : Host.Outcome State Fault Refusal := s.run (netLoss c)
def execNetworkChipletLoss (c : Fin 2) (s : State) : Host.Outcome State Fault Refusal := s.run (netLoss c)

/-- The wellhead's link is lost: DOE exchanges abort, responses to it are absorbed; reports, loads, updates, rebinds wait. -/
def wellheadLost : Prog := .read fun b => .when (!b.sec.linkLost) (.all [
  modSec fun s => { s with linkLost := true, answer := [], readPos := 0, ibi := false },
  abortDoe fun v => match v with
    | .doe _ _ => true
    | _ => false,
  .each (b.noc.net.filter fun p => decide (p.dst = .wellhead)) fun p => .all [takePkt p, logEv St.drainAbsorbed 0]])

/-- The wellhead is back (R513): a STAGE that was under way is lost with the slot it was writing, loads are lost without an answer
and their slots EMPTY, its hats' staging slots are released. -/
def wellheadBack : Prog := .read fun b => .when b.sec.linkLost (.all [
  modSec fun s => { s with linkLost := false, upd := none, stageWait := none, loads := [] },
  .when (decide (b.updState = 1)) (.all [setF Reg.SEC_UPD_CTL Fl.SEC_UPD_CTL_BUSY 0, setUpd 0]),
  .each (b.sec.loads.filter fun l => decide (b.keyState l.slot = 1)) fun l => setF (Reg.PMP_KEY l.slot) Fl.PMP_KEY_STATE 0,
  .each (0 :: ((b.boundHat 0x100).filter (· ≠ 0)).toList) releaseSlotsOf])

def execWellheadLinkLoss (s : State) : Host.Outcome State Fault Refusal := s.run wellheadLost
def execWellheadRelink (s : State) : Host.Outcome State Fault Refusal := s.run (.read fun b => .when b.sys.aonClk wellheadBack)

/-- REFCLK_CORE is lost: PKG_FAULT_N asserts and the hub stops as at a package reset. -/
def execRefclkCoreLoss (s : State) : Host.Outcome State Fault Refusal :=
  s.runRaw (.read fun b => .when (b.sys.pwrOk && b.sys.coreClk) (.all [
    modSys fun x => { x with coreClk := false, faultN := true },
    packageReset 5]))

def execRefclkCoreReturn (s : State) : Host.Outcome State Fault Refusal :=
  s.runRaw (.read fun b => .when (!b.sys.coreClk) (.all [
    modSys fun x => { x with coreClk := true, faultN := false }, beginBringup]))

/-- REFCLK_AON is lost: the wellhead, its buses and its link stop. -/
def execRefclkAonLoss (s : State) : Host.Outcome State Fault Refusal :=
  s.runRaw (.all [modSys fun x => { x with aonClk := false }, wellheadLost])

/-- It returns: the wellhead reboots alone and relinks with WELLHEAD_RELINK. -/
def execRefclkAonReturn (s : State) : Host.Outcome State Fault Refusal :=
  s.runRaw (modSys fun x => { x with aonClk := true })

end Sys2Proof.Machine
end

