-- ==== Sys2Proof/Machine/PartReset.lean ====
section
/-! DEFINITION. Unit resets (R480), drain bounds (R479), partition resets (R481, R482, R441). -/

namespace Sys2Proof.Machine

/-! ### Unit reset (R480) -/

def unitCode (code : Status) : Prog := .all [
  setF Reg.HUB_UNIT_RESET Fl.HUB_UNIT_RESET_CODE code, setF Reg.HUB_UNIT_RESET Fl.HUB_UNIT_RESET_DONE 1]

/-- A walker's walk returns to the head of its quadrant's queue. -/
def resetWalker (w : Nat) : Prog := .read fun b => .for? (b.walkAt w) fun k => .all [
  modXlt fun x => { x with
    walks := Tbl.set (dflt none) w none x.walks, line := Tbl.set (dflt none) w none x.line, queue := (w / 8, k) :: x.queue },
  serveWalks (w / 8)]

/-- Why a unit reset does not run: the unit does not exist, is fused off, or its partition is being reset. -/
def Block.unitRefused (b : Block) (kind u : Nat) : Option Status :=
  if kind = 3 ∨ (kind = 0 ∧ 24 ≤ u) ∨ (kind = 1 ∧ 48 ≤ u) ∨ (kind = 2 ∧ 32 ≤ u) then some St.descInvalid
  else if (kind = 0 ∧ b.engineOn u = false) ∨ (kind = 1 ∧ b.pumpOn u = false) ∨ (kind = 2 ∧ b.walkerOn u = false) then some St.fusedOff
  else if (if kind = 0 then b.enginePart u else if kind = 1 then b.pumpPart u else none).any b.partResetting then some St.ok
  else none

/-- A write of HUB_UNIT_RESET by hat 0. -/
def unitReset (hat : Nat) (val : W64) : Prog := underHat hat (.read fun b =>
  let a := Reg.HUB_UNIT_RESET
  let kind := getFld val Fl.HUB_UNIT_RESET_KIND
  let u := getFld val Fl.HUB_UNIT_RESET_UNIT
  .when (decide (hat = 0)) (.all [
    .when (decide (getFld val Fl.HUB_UNIT_RESET_DONE = 1)) (setF a Fl.HUB_UNIT_RESET_DONE 0),
    setF a Fl.HUB_UNIT_RESET_KIND kind,
    setF a Fl.HUB_UNIT_RESET_UNIT u,
    .when (!b.on a Fl.HUB_UNIT_RESET_BUSY && decide (getFld val Fl.HUB_UNIT_RESET_GO = 1)) (match b.unitRefused kind u with
      | some code => unitCode code
      | none =>
        if kind = 0 then .all [resetEngine u, unitCode St.ok]
        else if kind = 2 then .all [resetWalker u, unitCode St.ok]
        else .all [
          setF a Fl.HUB_UNIT_RESET_BUSY 1,
          modSys fun s => { s with unit := some (1, u) },
          resetPump u,
          unitDone])]))

def execHubUnitReset (hat : Nat) (val : W64) (s : State) : Host.Outcome State Fault Refusal := s.run (unitReset hat val)

/-! ### Partition reset (R481) -/

def Block.partRst (b : Block) (p : Nat) : Option PartRst := Tbl.get (dflt none) p b.sys.part

def Block.partStep (b : Block) (p : Nat) : Nat := ((b.partRst p).map PartRst.step).getD 0

/-- The sites of a partition that have a die. -/
def Block.partSites (b : Block) (p : Nat) : List Nat := (List.range 16).filter fun g => decide (b.sitePart g = some p) && b.siteUsed g

/-- BUSY, STEP and ACTIVE of HUB_PART_RESET. -/
def showPart : Prog := .read fun b =>
  let l := (List.range 16).filter b.partResetting
  .all [
    setF Reg.HUB_PART_RESET Fl.HUB_PART_RESET_BUSY (b2n (decide (l ≠ []))),
    setF Reg.HUB_PART_RESET Fl.HUB_PART_RESET_STEP ((l.head?.map b.partStep).getD 0),
    setF Reg.HUB_PART_RESET Fl.HUB_PART_RESET_ACTIVE (maskOf l)]

def setPart (p : Nat) (o : Option PartRst) : Prog := .all [
  modSys fun s => { s with part := Tbl.set (dflt none) p o s.part }, showPart]

def partStepTo (p n : Nat) : Prog := .read fun b => .for? (b.partRst p) fun r => setPart p (some { r with step := n })

/-- The measured objects of a partition are freed (R441). -/
def freeMeasured (p : Nat) : Prog := .read fun b => .all [
  .each ((List.range 24).filter fun e => decide (b.enginePart e = some p)) fun e => .each (List.range 8) (freeKernel e),
  .each (b.partSites p) fun g => .each (List.range 16) (progEnd g),
  .each ((List.range 256).filter fun w => b.on (Reg.PMP_WSET w) Fl.PMP_WSET_VALID &&
    decide (b.hatPart (b.f (Reg.PMP_WSET w) Fl.PMP_WSET_HAT) = p)) clearWset]

/-- Step 5 at a site: steps 3 to 6 of R139, after a wake where its link domain sleeps. -/
def partSiteReset (g : Nat) : Prog := .read fun b =>
  if b.domAsleep (12 + g / 4) then .all [
    modGlv g fun s => { s with rst := .waking, rstForce := true, flush := .none }, siteState g SiteState.resetting, startWake (12 + g / 4)]
  else resetFence g false

/-- Step 4, and the start of step 5. -/
def partStep4 (p : Nat) : Prog := .read fun b => .all [
  partStepTo p 4,
  .each ((List.range 1024).filter fun h => decide (h ≠ 0 ∧ b.hatPart h = p)) startHatReset,
  absorbHeld p,
  stopUnits p,
  freeMeasured p,
  hubGoesOn,
  partStepTo p 5,
  .each (b.partSites p) partSiteReset]

/-- Step 1, and the start of what follows it. -/
def partResetStart (p : Nat) : Prog := .read fun b =>
  let down := b.partDown p
  .all [
    logEv St.resetting p,
    setPart p (some { step := 2, wasDown := down }),
    holdSites (2 ^ p),
    releaseCap (1 + p),
    measured,
    .when down (partStep4 p)]

/-- A commit that touches the partition is between its steps 3 and 6 (R82). -/
def Block.commitIn (b : Block) (p : Nat) : Bool :=
  match b.cis.commit with
  | some c => decide (c.phase ≠ .copying) && c.touched.testBit p
  | none => false

/-- A write of HUB_PART_RESET by hat 0. -/
def partReset (hat : Nat) (val : W64) : Prog := underHat hat (.read fun b =>
  let a := Reg.HUB_PART_RESET
  let p := getFld val Fl.HUB_PART_RESET_PART
  .when (decide (hat = 0)) (.all [
    .when (decide (getFld val Fl.HUB_PART_RESET_DONE = 1)) (setF a Fl.HUB_PART_RESET_DONE 0),
    setF a Fl.HUB_PART_RESET_PART p,
    .when (decide (getFld val Fl.HUB_PART_RESET_GO = 1) && !b.partResetting p && !b.sys.partWait.contains p) (
      if !partEnabled b.recs p then setF a Fl.HUB_PART_RESET_CODE St.descInvalid
      else if b.commitIn p then modSys fun s => { s with partWait := s.partWait ++ [p] }
      else partResetStart p)]))

def execHubPartReset (hat : Nat) (val : W64) (s : State) : Host.Outcome State Fault Refusal := s.run (partReset hat val)

/-- Partition resets that waited for a commit start. -/
def partWaiting : Prog := .read fun b => .each (b.sys.partWait.filter fun p => !b.commitIn p) fun p => .all [
  modSys fun s => { s with partWait := s.partWait.erase p }, .when (partEnabled b.recs p) (partResetStart p)]

/-- Step 3: every site flushes. -/
def partFlush (p : Nat) : Prog := .all [
  partStepTo p 3,
  .read fun b => .each ((b.partSites p).filter fun g => b.siteRuns g && decide ((b.site g).flush = .none ∧ (b.site g).rst = .none)) fun g =>
    startFlush g .partition]

/-- The partition has drained. -/
def execPartResetDrainDone (p : Fin 16) (s : State) : Host.Outcome State Fault Refusal :=
  s.run (.read fun b => .when (decide (b.partStep p = 2) && b.partQuiet p b.noc.net) (partFlush p))

/-- The sites' flushes have ended; lines that a failed one leaves owned are poisoned. -/
def partFlushed (p : Nat) : Prog := .read fun b =>
  .when (decide (b.partStep p = 3) && (b.partSites p).all fun g => decide ((b.site g).flush = .none)) (.all [
    .for? (b.partRst p) fun r => .each r.failed fun g => poisonOwned p fun d => decide (d.owner = g),
    partStep4 p])

def execPartResetFlushDone (p : Fin 16) (s : State) : Host.Outcome State Fault Refusal := s.run (partFlushed p)

def execPartResetRefitDone (p : Fin 16) (s : State) : Host.Outcome State Fault Refusal :=
  s.run (.read fun b => .when (decide (b.partStep p = 5) && (b.partSites p).all fun g => decide ((b.site g).rst = .none)) (partStepTo p 6))

/-- Steps 6 and 7. -/
def partDirDone (p : Nat) : Prog := .read fun b => .when (decide (b.partStep p = 6)) (.all [
  .edit (.dirKeep fun k => decide (b.wellPart (keyWell k) ≠ some p)),
  .each (List.range 12) showDir,
  partStepTo p 7,
  andNotF Reg.HUB_PART_DOWN Fl.HUB_PART_DOWN_DOWN (2 ^ p),
  andNotF Reg.HUB_PART_DOWN Fl.HUB_PART_DOWN_EVENT (2 ^ p),
  setR (Reg.HUB_PART_CAUSE p) 0,
  modSec fun s => { s with partResets := Tbl.upd 0 p (fun n => n + 1) s.partResets },
  setPart p none,
  setF Reg.HUB_PART_RESET Fl.HUB_PART_RESET_CODE St.ok,
  setF Reg.HUB_PART_RESET Fl.HUB_PART_RESET_DONE 1,
  measured,
  releaseSites (2 ^ p),
  .each (b.partSites p) fun g => modPrt g fun s => { s with noRead := false },
  openWaiting, releaseHeld,
  unblockCommit])

def execPartResetDirectoryDone (p : Fin 16) (s : State) : Host.Outcome State Fault Refusal := s.run (partDirDone p)

/-! ### Drain bounds (R479) -/

/-- A packet is a response. -/
def isResponse (p : Pkt) : Bool :=
  [0x18, 0x19, 0x28, 0x29, 0x2A, 0x2B, 0x2C, 0x2D, 0x38, 0x39, 0x5E, 0x5F, 0x61, 0x62, 0x74, 0x75, 0x82, 0x83, 0x87, 0xA1].contains p.cmd

/-- What a partition has outstanding is absorbed: responses for its units are discarded, requests it owes an answer complete as
DRAIN_ABSORBED. -/
def absorbPart (p : Nat) : Prog := .read fun b => .all [
  .each (b.noc.net.filter fun k => isResponse k && b.usesEp p k.dst && (match k.dst with
    | .engine _ | .pump _ | .glove _ _ => true
    | _ => false)) fun k => .all [takePkt k, logEv St.drainAbsorbed p],
  .each (b.dir.filter fun e => decide (b.wellPart (keyWell e.1) = some p)) fun e => .all [
    .for? e.2.txn fun t => .when (decide (t.kind ≠ .recall)) (refuseReq t.req St.drainAbsorbed),
    .each e.2.queue fun q => refuseReq q St.drainAbsorbed,
    modDir e.1 fun d => { d with txn := none, queue := [] }],
  .each (b.noc.net.filter fun k => match k.dst with
    | .bank w _ => decide (b.wellPart w = some p) && !isResponse k
    | _ => false) fun k => .all [takePkt k, refuseReq k St.drainAbsorbed]]

/-- A drain bound passes: the pieces of a pump in unit reset are given up, a partition's traffic is absorbed.  The bounds of a site
are those of R138 and R142, whose own events end them. -/
def drainBound (d : DrainScope) : Prog := .read fun b =>
  match d with
  | .unit kind u => .when (decide (b.sys.unit = some (kind, u))) (.each (b.workSlots u) fun s => .all [
      logEv St.drainAbsorbed u, finishDesc u s St.drainAbsorbed 1])
  | .part p => .when (decide (b.partStep p = 2)) (.all [absorbPart p, partFlush p])
  | .site _ => .skip

def execDrainBoundExpiry (scope : DrainScope) (s : State) : Host.Outcome State Fault Refusal := s.run (drainBound scope)

end Sys2Proof.Machine
end

