-- ==== Sys2Proof/Machine/TestPort.lean ====
section
/-! DEFINITION. Production and field test (spec/20_test.md): the test access port but REGACC (Machine/RegWrite.lean), TEST_MODE,
link pattern tests. -/

namespace Sys2Proof.Machine

/-! ### The test access port (R488–R490) -/

def testMode (b : Block) : Bool := b.on Reg.TST_CTL Fl.TST_CTL_TEST_MODE

/-- An instruction is in the instruction register. -/
def loadIr (code : Nat) : Prog := modSys fun s => { s with ir := code }

/-- Bits shift through the bypass register, which captures 0: they come out one bit late, the last stays in the register. -/
def bypassShift (bits : Nat) (inp : Nat) : Prog := .all [
  modSys fun s => { s with scan := [BitVec.ofNat 8 (inp / 2 ^ (bits - 1) % 2)] },
  send (.tdo (toBytesLE ((bits + 7) / 8) (inp * 2 % 2 ^ bits)))]

/-- The step of the test access port: it works whenever the rails are good (R489). -/
def State.runTap (s : State) (p : Prog) : Host.Outcome State Fault Refusal := s.runRaw (.read fun b => .when b.sys.pwrOk p)

def execBypass (tdi : Bool) (s : State) : Host.Outcome State Fault Refusal :=
  s.runTap (.all [loadIr 0xFF, bypassShift 1 (b2n tdi)])

/-- The package IDCODE (R488). -/
def Block.idcode (b : Block) : Nat :=
  let rev := b.f Reg.HUB_ID Fl.HUB_ID_HUB_REV
  (if rev = 0xA1 then 1 else 2) * 2 ^ 28 + 0x1632 * 2 ^ 12 + Config.jep106 % 2 ^ 11 * 2 + 1

def execIdcode (s : State) : Host.Outcome State Fault Refusal :=
  s.runTap (.all [loadIr 0x01, .read fun b => send (.tdo (toBytesLE 4 b.idcode))])

/-- Cells shift in, and what they captured shifts out: values the model does not hold. -/
def shiftCells (cells : List Byte) : Prog := .all [
  withFree fun k => send (.tdo ((List.range cells.length).map fun i => BitVec.ofNat 8 (Config.scanCell k i))),
  modSys fun s => { s with scan := cells }]

def execSamplePreload (cells : List Byte) (s : State) : Host.Outcome State Fault Refusal :=
  s.runTap (.all [loadIr 0x02, shiftCells cells])

/-- An intrusive instruction: outside TEST_MODE it acts as BYPASS (R490). -/
def intrusive (code : Nat) (cells : List Byte) (p : Prog) : Prog := .all [
  loadIr code,
  .read fun b => if testMode b then p else bypassShift (8 * cells.length) (ofBytesLE cells)]

def execExtest (cells : List Byte) (s : State) : Host.Outcome State Fault Refusal :=
  s.runTap (intrusive 0x03 cells (shiftCells cells))

def execDiesel (die : Nat) (s : State) : Host.Outcome State Fault Refusal :=
  s.runTap (intrusive 0x11 [] (modSys fun s => { s with die := some die }))

/-- The hub's scan chains: what they held comes out, and the hub's state is undefined until a package reset. -/
def execHubscan (chain : List Byte) (s : State) : Host.Outcome State Fault Refusal :=
  s.runTap (intrusive 0x12 chain (.all [shiftCells chain, modSys fun s => { s with scanned := true }]))

def execTestLogicReset (s : State) : Host.Outcome State Fault Refusal :=
  s.runTap (modSys fun s => { s with ir := 0x01, scan := [], die := none })

/-! ### TEST_MODE (R490, R515) -/

/-- The package is quiet. -/
def Block.quiet (b : Block) : Bool :=
  decide (partitionsOf b.recs = []) && (List.range 64).all fun t => decide (b.trgState t = TrgState.idle)

/-- TEST_MODE is set: host ports and span quads go down, every enabled domain wakes and goes to its OP. -/
def enterTestMode : Prog := .all [
  setF Reg.TST_CTL Fl.TST_CTL_TEST_MODE 1,
  .each (List.range 4) fun q => .read fun b => .when (b.hstUp q) (.all [linkDown q, dropTraffic q St.hostAbsent]),
  .each (List.range 2) fun c => .each (List.range 12) fun q => .all [
    .each (List.range 4) fun i => spanPortDown c (4 * q + i),
    setF (Reg.SPN_QUAD c q) Fl.SPN_QUAD_MODE 3],
  .each (List.range 20) fun d => .read fun b =>
    if b.domAsleep d then startWake d else kickDomain d]

/-- A write of TEST_MODE.  In recovery the wellhead does not take it (R513). -/
def testModeSet (hat : Nat) : Prog := underHat hat (.read fun b =>
  .when (!b.inRecovery && !testMode b) (
    if b.holds hat Right.test && b.quiet then enterTestMode else setF Reg.TST_CTL Fl.TST_CTL_REFUSED 1))

def execTestModeSet (hat : Nat) (s : State) : Host.Outcome State Fault Refusal := s.run (testModeSet hat)

/-! ### Link pattern tests (R492–R495) -/

/-- The object that KIND, INDEX and SUB name is there (R492). -/
def Block.ltestThere (b : Block) (kind index sub : Nat) : Bool :=
  if kind = 0 then decide (index < 16 ∧ sub < 5) && b.siteThere index
  else if kind = 1 then decide (index < 2 ∧ sub < 5)
  else if kind = 2 then decide (index < 12 ∧ sub = 0) && b.wellOn index
  else if kind = 3 then decide (index < 4 ∧ sub = 0)
  else decide (kind = 4 ∧ index < 2 ∧ sub < 50)

/-- The target is a spare not in use (R493). -/
def Block.ltestSpare (b : Block) (kind index sub : Nat) : Bool :=
  (decide (kind = 0) && (b.f (Reg.GLV_MODULES index) Fl.GLV_MODULES_SPARE).testBit sub) ||
    (decide (kind = 4 ∧ 48 ≤ sub) && (b.spareFor index (sub - 48)).isNone)

/-- GO: the fields are written; a test starts or is refused. -/
def tstLtestGo (hat : Nat) (val : W64) : Prog := underHat hat (.read fun b =>
  let a := Reg.TST_LTEST_CTL
  let f := getFld val
  let kind := f Fl.TST_LTEST_CTL_KIND
  let index := f Fl.TST_LTEST_CTL_INDEX
  let sub := f Fl.TST_LTEST_CTL_SUB
  let len := f Fl.TST_LTEST_CTL_LEN
  let ok := b.ltestThere kind index sub && !decide (40 < len ∧ len ≠ 63) && decide (f Fl.TST_LTEST_CTL_PATTERN ≤ 4) &&
    (testMode b || b.ltestSpare kind index sub)
  .when (b.holds hat Right.test) (.all [
    .each [Fl.TST_LTEST_CTL_LEN, Fl.TST_LTEST_CTL_PATTERN, Fl.TST_LTEST_CTL_KIND, Fl.TST_LTEST_CTL_INDEX, Fl.TST_LTEST_CTL_SUB]
      fun x => setF a x (f x),
    .when (!b.sys.ltest.running) (
      if !ok then setF a Fl.TST_LTEST_CTL_REFUSED 1
      else .all [
        setR Reg.TST_LTEST_STAT 0,
        setF a Fl.TST_LTEST_CTL_BUSY 1, setF a Fl.TST_LTEST_CTL_END 0, setF a Fl.TST_LTEST_CTL_MISSION (b2n (!testMode b)),
        modSys fun s => { s with ltest := ⟨true, decide (len = 63), kind, index, sub⟩ },
        startWake (if kind = 0 then 12 + index / 4 else if kind = 2 then index else if kind = 3 then 19 else 17 + index)])]))

def execTstLtestGo (hat : Nat) (val : W64) (s : State) : Host.Outcome State Fault Refusal := s.run (tstLtestGo hat val)

/-- A test ends with what its checker counted. -/
def tstLtestOff (end_ errBits errWords : Nat) : Prog := .all [
  addSat Reg.TST_LTEST_STAT Fl.TST_LTEST_STAT_ERR_BITS errBits,
  addSat Reg.TST_LTEST_STAT Fl.TST_LTEST_STAT_ERR_WORDS errWords,
  setF Reg.TST_LTEST_CTL Fl.TST_LTEST_CTL_BUSY 0, setF Reg.TST_LTEST_CTL Fl.TST_LTEST_CTL_MISSION 0,
  setF Reg.TST_LTEST_CTL Fl.TST_LTEST_CTL_END end_,
  modSys fun s => { s with ltest := {} }]

def tstLtestStop (hat errBits errWords : Nat) : Prog := underHat hat (.read fun b =>
  .when (b.holds hat Right.test && b.sys.ltest.running) (tstLtestOff 2 errBits errWords))

def execTstLtestStop (hat : Nat) (errBits errWords : Nat) (s : State) : Host.Outcome State Fault Refusal :=
  s.run (tstLtestStop hat errBits errWords)

/-- A test reaches its length; a mission test with errors marks its spare (R495). -/
def tstLtestEnd (errBits errWords : Nat) : Prog := .read fun b =>
  let t := b.sys.ltest
  .when (t.running && !t.forever) (.all [
    tstLtestOff 1 errBits errWords,
    .when (b.on Reg.TST_LTEST_CTL Fl.TST_LTEST_CTL_MISSION && decide (errBits ≠ 0)) (
      if t.kind = 0 then orF Reg.TST_SPARE Fl.TST_SPARE_MOD_SUSPECT (2 ^ t.index)
      else orF Reg.TST_SPARE Fl.TST_SPARE_LANE_SUSPECT (2 ^ (2 * t.index + (t.sub - 48))))])

def execTstLtestEnd (errBits errWords : Nat) (s : State) : Host.Outcome State Fault Refusal := s.run (tstLtestEnd errBits errWords)

end Sys2Proof.Machine
end

