-- ==== Sys2Proof/Machine/RegFilter.lean ====
section
/-! DEFINITION. Register space: which offsets hold what (R25, R29, R30), who may read and write them (R379 and the rules of
the chapters on top of it), and what a read returns (R10, R11). -/

namespace Sys2Proof.Machine

/-! ### The map -/

/-- An access of a size and alignment the hub takes (R10). -/
def goodAccess (off size : Nat) : Bool := decide (size = 8 ∧ off % 8 = 0 ∨ size = 4 ∧ off % 4 = 0)

/-- The site, the context and the offset in its task window that an offset names (R154). -/
def taskWin (off : Nat) : Option (Nat × Nat × Nat) :=
  let o := off % 0x1000000
  if 0x100000000 ≤ off ∧ off < 0x110000000 ∧ 0x100000 ≤ o ∧ o < 0x140000 then
    some ((off - 0x100000000) / 0x1000000, (o - 0x100000) / 0x4000, o % 0x4000) else none

namespace Block

/-- The offset lies in the block of an object that is blank or fused off: it reads as 0, and writes are ignored (R25). -/
def blank (b : Block) (a : Nat) : Bool :=
  if 0x800000 ≤ a ∧ a < 0x900000 then !b.siteThere ((a - 0x800000) / 0x10000)
  else if 0xC00000 ≤ a ∧ a < 0xCC0000 then !b.wellOn ((a - 0xC00000) / 0x10000)
  else if 0x1000000 ≤ a ∧ a < 0x1180000 then
    let e := (a - 0x1000000) / 0x10000
    if a % 0x20000 = 0x8000 then !b.reducerOn (e / 2) else !b.engineOn e
  else if 0x1800000 ≤ a ∧ a < 0x1840000 then !b.trgUnitOn ((a - 0x1800000) / 0x8000)
  else if 0x1900000 ≤ a ∧ a < 0x1930000 then !b.pumpOn ((a - 0x1900000) / 0x1000)
  else if 0x1A10000 ≤ a ∧ a < 0x1A20000 then !b.siteThere ((a - 0x1A10000) / 0x1000)
  else if 0x1A20000 ≤ a ∧ a < 0x1A26000 then !b.engineOn ((a - 0x1A20000) / 0x400)
  else if 0x1D00100 ≤ a ∧ a < 0x1D00160 then !b.wellOn ((a - 0x1D00100) / 8)
  else if 0x2000000 ≤ a ∧ a < 0x2600000 then !b.engineOn ((a - 0x2000000) / 0x40000)
  else if 0x2600000 ≤ a ∧ a < 0x3200000 then !b.engineOn ((a - 0x2600000) / 0x80000)
  else false

/-- The partition of the register's object is the hat's own: the "partition hats" of R379. -/
def partHat (b : Block) (hat : Nat) (p : Option Nat) : Bool := b.inPart hat p

/-- HAT_ADMIN over hat `h`: of its partition (R389). -/
def hatAdminOf (b : Block) (hat h : Nat) : Bool := b.holds hat Right.hatAdmin && b.inPart hat (some (b.hatPart h))

/-- Hats that may export from a trough (R246): release-read, of its partition. -/
def mayExport (b : Block) (hat t : Nat) : Bool := b.holds hat Right.trgRead && b.inPart hat (b.troughPart t)

/-- A hat may read the register at `a`, copy numbers `l` (R379). -/
def mayRead (b : Block) (hat a : Nat) (l : List Nat) : Bool :=
  let i := l.getD 0 0
  let mon := b.holds hat Right.monitor
  decide (hat = 0) ||
  if a < 0xC0000 then true
  else if a < 0x100000 then (List.range 64).any fun f => decide (b.fnHat i f = some hat)
  else if a < 0x200000 then b.holds hat Right.config && (decide (a < 0x100100) || b.slotHeld i hat)
  else if a < 0x400000 then b.holds hat Right.hatAdmin ||
    (if a < 0x300000 then decide (i = hat) else decide (a < 0x380000) && decide (b.boundHat i = some hat))
  else if a < 0x800000 then mon
  else if a < 0x900000 then b.partHat hat (b.sitePart i) || mon
  else if a < 0x1000000 then b.partHat hat (b.wellPart i) || mon
  else if a < 0x1800000 then b.partHat hat (if a % 0x20000 = 0x8000 then b.wellPart i else b.enginePart i)
  else if a < 0x1840000 then b.partHat hat (b.troughPart i)
  else if a < 0x1900000 then true
  else if a < 0x1940000 then b.partHat hat (b.pumpPart i)
  else if a < 0x1960000 then b.partHat hat (b.pumpPart (b.intakePump i))
  else if a < 0x1970000 then b.inKeyRange hat i
  else if a < 0x1980000 then b.partHat hat (some (b.hatPart (b.f (Reg.PMP_WSET i) Fl.PMP_WSET_HAT)))
  else if a < 0x1A00000 then false
  else if a < 0x1A01000 then true
  else if a < 0x1A04000 then b.mayFq hat i
  else if a < 0x1A10000 then b.mayXctx hat i
  else if a < 0x1B00000 then b.maySeg hat a false
  else if a < 0x1D00000 then true
  else if a < 0x1E00000 then mon
  else if a < 0x1F00000 then true
  else if a < 0x2000000 then b.holds hat Right.test
  else b.partHat hat (b.sitePart i)

/-- A binding a write of a context, intake, queue, entry or hat set would make names a hat that is REMOVED (R397). -/
def bindsRemoved (b : Block) (base i k : Nat) (val : W64) : Bool :=
  if base = Reg.VEC_CTX_CTL 0 0 then !b.on (Reg.VEC_CTX_CTL i k) Fl.VEC_CTX_CTL_ENABLE && b.hatRemoved (getFld val Fl.VEC_CTX_CTL_HAT)
  else if base = Reg.VEC_TREG 0 0 then b.hatRemoved (getFld val Fl.VEC_TREG_HAT)
  else if base = Reg.PMP_INTAKE_CTL 0 then !b.intakeOn i && b.hatRemoved (getFld val Fl.PMP_INTAKE_CTL_HAT)
  else if base = Reg.XLT_CTX_CTL 0 then !b.on (Reg.XLT_CTX_CTL i) Fl.XLT_CTX_CTL_ENABLE && b.hatRemoved (getFld val Fl.XLT_CTX_CTL_HAT)
  else if base = Reg.XLT_FQ_CTL 0 then b.hatRemoved (getFld val Fl.XLT_FQ_CTL_OWNER)
  else if base = Reg.PMP_WSET 0 then b.hatRemoved (getFld val Fl.PMP_WSET_HAT)
  else false

/-- Entry `e` of a hat-set word, as R122 lays it out. -/
def hatsetEntry (val : W64) (e : Nat) : Nat := bits val.toNat (16 * e) 16

/-- An entry names a hat that is a partition hat of the site and is not REMOVED, or names none (R379, R397). -/
def hatsetOk (b : Block) (g : Nat) (x : Nat) : Bool :=
  !x.testBit 15 || (b.inPart (x % 1024) (b.sitePart g) && !b.hatRemoved (x % 1024))

/-- A hat may write the register at `a`, of the family based at `base`, copy numbers `l`, with this value (R379 and the
register rules it cites). -/
def mayWrite (b : Block) (hat a base : Nat) (l : List Nat) (val : W64) : Bool :=
  let i := l.getD 0 0
  let k := l.getD 1 0
  let hub := decide (hat = 0)
  if a < 0xC0000 then hub || b.holds hat Right.hatAdmin
  else if a < 0x100000 then b.mayHst hat i
  else if a < 0x200000 then
    if a < 0x100100 then b.holds hat Right.config
    else if base = Reg.CFG_SLOT_CMD 0 ∧ val.toNat % 16 = 1 then b.holds hat Right.config
    else if base = Reg.CFG_SLOT_CMD 0 ∧ val.toNat % 16 = 7 then hub
    else b.slotHeld i hat
  else if a < 0x300000 then hub || decide (hat = i) || b.hatAdminOf hat i
  else if a < 0x400000 then hub || b.holds hat Right.hatAdmin
  else if a < 0x800000 then b.holds hat Right.test
  else if a < 0x900000 then b.mayGlove hat i &&
    (decide (base ≠ Reg.GLV_HATSET 0 0) || (List.range 4).all fun e => b.hatsetOk i (hatsetEntry val e))
  else if a < 0x1000000 then b.mayWell hat i
  else if a < 0x1800000 then
    (if base = Reg.VEC_CTX_CTL 0 0 ∨ base = Reg.VEC_CTX_START 0 0 ∨ base = Reg.VEC_CTX_STATUS 0 0 ∨ base = Reg.VEC_CTX_FLAGS 0 0 ∨
        base = Reg.VEC_CTX_ARG 0 0 0 then b.mayCtx hat i k else b.mayEngine hat i) && !b.bindsRemoved base i k val
  else if a < 0x1840000 then
    if base = Reg.TRG_EXPORT 0 ∨ base = Reg.TRG_EXPORT_DST 0 then hub || b.mayExport hat i
    else if base = Reg.TRG_CTL 0 then
      (if getFld val Fl.TRG_CTL_CMD = 5 then (b.memberOf i b.ownPkg hat).isSome else b.mayTrough hat i)
    else b.mayTrough hat i && (decide (b.trgState i = TrgState.idle) ||
      (decide (base = Reg.TRG_MEMBER 0 0) && decide (b.trgState i = TrgState.armed ∧ getFld val Fl.TRG_MEMBER_VALID = 0)))
  else if a < 0x1900000 then hub || b.holds hat Right.trgAdmin
  else if a < 0x1940000 then b.mayIntake hat i
  else if a < 0x1960000 then b.mayIntake hat
      (if base = Reg.PMP_INTAKE_CTL 0 ∧ b.intakeOn i = false then getFld val Fl.PMP_INTAKE_CTL_PUMP else b.intakePump i) &&
    !b.bindsRemoved base i k val
  else if a < 0x1970000 then hub || (b.holds hat Right.key && b.inKeyRange hat i)
  else if a < 0x1980000 then b.mayWset hat (b.f (Reg.PMP_WSET i) Fl.PMP_WSET_HAT) && !b.bindsRemoved base i k val
  else if a < 0x1A00000 then hub
  else if a < 0x1A04000 then b.mayFq hat i && !b.bindsRemoved base i k val
  else if a < 0x1A10000 then b.mayXctx hat i && !b.bindsRemoved base i k val
  else if a < 0x1B00000 then b.maySeg hat a true
  else if a < 0x1C00000 then b.holds hat Right.span
  else if a < 0x1E00000 then b.holds hat Right.power
  else if a < 0x1F00000 then b.maySec hat
  else if a < 0x2000000 then b.holds hat Right.test
  else b.prtReach hat i &&
    (decide (base < Reg.PRT_CTX_CTL 0 0) || b.prtTakes hat i k)

/-! ### What a read returns -/

/-- A register word as a read of it finds it: most are held; some are computed (R11, and the registers named). -/
def view (b : Block) (a base : Nat) (l : List Nat) : W64 :=
  let i := l.getD 0 0
  let w := b.w a
  if 0x200000 ≤ a ∧ a < 0x300000 ∧ base ≠ Reg.HAT_CTL 0 ∧ b.hatState i = HatState.unused then 0
  else if base = Reg.HAT_CTL 0 ∧ b.hatState i = HatState.unused then putFld 0 Fl.HAT_CTL_STATE (getFld w Fl.HAT_CTL_STATE)
  else if base = Reg.GLV_TEMP 0 then
    putFld w Fl.GLV_TEMP_AGE (min (2 ^ Fl.GLV_TEMP_AGE.width - 1) ((b.now - (b.site i).lastTemp) / 1000))
  else if base = Reg.WEL_STATUS 0 then
    let st := b.domState i
    putFld w Fl.WEL_STATUS_STATE (if st = 1 then 2 else if st = 2 then 3 else 1)
  else if base = Reg.PMP_STATUS 0 then putFld w Fl.PMP_STATUS_STATE (b.pumpState i)
  else if base = Reg.CFG_SLOT_VIEW_DATA 0 then b.viewData i
  else if a = Reg.TST_CTL then match b.boundHat 0x101 with
    | some h => putFld (putFld w Fl.TST_CTL_JTAG_BOUND 1) Fl.TST_CTL_JTAG_HAT h
    | none => w
  else w

/-- What a read of register space returns: its status and its bytes as a number (R25, R29); of a size or alignment the hub does not
take, 0 (R10). -/
def regRead (b : Block) (hat off size : Nat) : Status × Nat :=
  let a := off / 8 * 8
  let cut := fun (n : Nat) => if !goodAccess off size then 0 else if size = 4 then n / 2 ^ (8 * (off % 8)) % 2 ^ 32 else n
  if b.blank a then (St.ok, 0)
  else if 0x2000000 ≤ a ∧ a < 0x2600000 then (St.ok, cut (b.imemAt ((a - 0x2000000) / 8)).toNat)
  else if 0x2600000 ≤ a ∧ a < 0x3200000 then
    if hat = 0 ∨ b.partHat hat (b.enginePart ((a - 0x2600000) / 0x80000)) then
      (if (List.range size).any fun i => b.vec.ldmPois.contains (off - 0x2600000 + i) then St.poisoned else St.ok,
        cut (ofBytesLE (Tbl.getRun (dflt 0) (a - 0x2600000) 8 b.ldm)))
    else (St.accessDenied, 0)
  else if 0x100000000 ≤ a ∧ a < 0x110000000 ∧ !b.siteThere ((a - 0x100000000) / 0x1000000) then (St.fusedOff, 0)
  else match taskWin a, Regs.find a with
    | some (g, c, o), _ =>
      if !b.prtHas g c then (St.addrUnmapped, 0)
      else if decide (hat = 0) || b.partHat hat (b.sitePart g) then
        (St.ok, cut (numAt (slice (Tbl.get (dflt []) (o / 128) (b.prtCtx g c).slots) 0 128) (o % 128) 8))
      else (St.accessDenied, 0)
    | none, none => (St.addrUnmapped, 0)
    | none, some (d, l) => if b.mayRead hat a l then (St.ok, cut (b.view a d.base l).toNat) else (St.accessDenied, 0)

/-- A read of this offset must wait for accesses under an older descriptor of the segment (R303). -/
def readWaits (b : Block) (off : Nat) : Bool := decide (0x1A10000 ≤ off ∧ off < 0x1A26000) && b.segBusy (off / 8 * 8)

/-! ### What a write does, before the register's own meaning -/

/-- The bytes a write marks: none where the hub discards it (R10). -/
def writeBE (off size : Nat) : Nat := if !goodAccess off size then 0 else if size = 4 then 0x0F * 2 ^ (off % 8) else 0xFF

/-- The word a write of the fields presents: the written bytes, and elsewhere what leaves the fields as they are: the held value
of RW and STG fields, 0 of the others. -/
def writeWord (d : RegDesc) (old : W64) (off size val : Nat) : W64 :=
  let keep := d.flds.foldl (fun (m : W64) f => match f.acc with
    | .rw => m ||| f.fld.mask
    | .stg => m ||| f.fld.mask
    | _ => m) 0
  mergeWord (writeBE off size) (old &&& keep) (BitVec.ofNat 64 (val * 2 ^ (8 * (off % 8))))

/-- The write touches a byte of a field. -/
def touches (be : Nat) (f : Fld) : Bool :=
  (List.range 8).any fun k => be.testBit k && decide (f.lo < 8 * k + 8 ∧ 8 * k < f.lo + f.width)

/-- Whether the write touches a byte of an STG field. -/
def hitsStg (d : RegDesc) (be : Nat) : Bool := d.flds.any fun f => decide (f.acc = Acc.stg) && touches be f.fld

/-- The status a register write completes with (R10, R25, R29, R65, R379, R397). -/
def regCode (b : Block) (hat off size val : Nat) : Status :=
  let a := off / 8 * 8
  if b.blank a then St.ok
  else if 0x2000000 ≤ a ∧ a < 0x2600000 then St.accessDenied
  else if 0x2600000 ≤ a ∧ a < 0x3200000 then (if b.mayEngine hat ((a - 0x2600000) / 0x80000) then St.ok else St.accessDenied)
  else if 0x100000000 ≤ a ∧ a < 0x110000000 ∧ !b.siteThere ((a - 0x100000000) / 0x1000000) then St.fusedOff
  else match taskWin a, Regs.find a with
    | some (g, c, _), _ =>
      if !b.prtHas g c then St.addrUnmapped else if b.prtReach hat g && b.prtTakes hat g c then St.ok else St.accessDenied
    | none, none => St.addrUnmapped
    | none, some (d, l) => worst [
        if b.mayWrite hat a d.base l (writeWord d (b.w a) off size val) then St.ok else St.accessDenied,
        if hitsStg d (writeBE off size) then b.stgStatus hat a else St.ok]

end Block

end Sys2Proof.Machine
end

