-- ==== Sys2Proof/Machine/RegWrite.lean ====
section
/-! DEFINITION. A write to register space (R10, R11): the written fields change by their access codes, and a register whose
write means more does what its chapter says.  REGISTER_WRITE, REGACC and BOOT_REGISTER_LIST come through here. -/

namespace Sys2Proof.Machine

/-- A register word after a write of some of its fields, each by its access code (R11). -/
def writeFields (l : List FldDesc) (old val : W64) : W64 := l.foldl (fun w f =>
  match f.acc with
  | .rw => putFld w f.fld (getFld val f.fld)
  | .w1c => putFld w f.fld (getFld w f.fld - (getFld w f.fld &&& getFld val f.fld))
  | .w1s => putFld w f.fld (getFld w f.fld ||| getFld val f.fld)
  | _ => w) old

/-- Write some fields of a register. -/
def putFields (a : Nat) (l : List FldDesc) (val : W64) : Prog := .read fun b => setR a (writeFields l (b.w a) val)

/-- Write the fields of one access code. -/
def putAcc (acc : Acc) (a : Nat) (d : RegDesc) (val : W64) : Prog := putFields a (d.flds.filter fun f => decide (f.acc = acc)) val

/-- The bits written 1 of W1C fields clear. -/
def clearEvents (a : Nat) (d : RegDesc) (val : W64) : Prog := putAcc .w1c a d val

/-- A WO bit that the write sets. -/
def asks (val : W64) (fl : Fld) : Bool := decide (getFld val fl = 1)

/-- Counts of a test that software stops, which no operand tells (notes/assumptions/2.md). -/
def withCounts (k : Nat → Nat → Prog) : Prog := withFree fun x => withFree fun y => k x y

def clampFld (a : Nat) (fl : Fld) (lo hi : Nat) : Prog := .read fun b => setF a fl (max lo (min hi (b.f a fl)))

/-! ### By block -/

def writeHub (hat a : Nat) (d : RegDesc) (val : W64) : Prog :=
  if hat ≠ 0 then underHat hat (.read fun b => .when (b.holds hat Right.hatAdmin) (clearEvents a d val))
  else if a = Reg.HUB_UNIT_RESET then unitReset hat val
  else if a = Reg.HUB_PART_RESET then partReset hat val
  else if a = Reg.HUB_PKG_RESET then pkgResetWrite hat val
  else putFields a d.flds val

/-- HST_ registers: PWR_CMD acts when it changes, PWR_IND is read-only under AUTO_PWR. -/
def writeHst (hat q a : Nat) (d : RegDesc) (val : W64) : Prog := .read fun b => .when (b.mayHst hat q) (
  .all [hostEventsCleared q a val, if a = Reg.HST_SLOT q then .all [
    clearEvents a d val,
    setF a Fl.HST_SLOT_ATTN_IND (getFld val Fl.HST_SLOT_ATTN_IND),
    .when (!b.autoPwr q) (setF a Fl.HST_SLOT_PWR_IND (getFld val Fl.HST_SLOT_PWR_IND)),
    if asks val Fl.HST_SLOT_PWR_CMD then .when (!b.on a Fl.HST_SLOT_PWR_CMD) (pwrOn hat q)
    else .when (b.on a Fl.HST_SLOT_PWR_CMD) (pwrOffWrite hat q)]
  else putFields a d.flds val])

/-- A command to a cistern slot (R63). -/
def slotOp (hat n op : Nat) : Prog :=
  if op = 1 then slotClaim hat n
  else if op = 2 then slotRelease hat n
  else if op = 3 then slotStage hat n
  else if op = 4 then slotCheck hat n
  else if op = 5 then commit hat n
  else if op = 6 then slotDiscard hat n
  else if op = 7 then slotForce hat n
  else .skip

def writeCfg (hat n a : Nat) (d : RegDesc) (val : W64) : Prog :=
  if a = Reg.CFG_EXPORT then cfgExport hat val
  else if d.base = Reg.CFG_SLOT_CMD 0 then slotOp hat n (getFld val Fl.CFG_SLOT_CMD_OP)
  else .read fun b => .when (b.slotHeld n hat) (putFields a d.flds val)

def writeHat (hat h a : Nat) (d : RegDesc) (val : W64) : Prog :=
  if a = Reg.HAT_REMOVE then hatRemove hat val
  else .read fun b => .when (b.mayWrite hat a d.base [h] val) (
    if d.base = Reg.HAT_CTL 0 then .all [
      clearEvents a d val,
      .when (asks val Fl.HAT_CTL_RESET) (.all [hatReset hat h, hubGoesOn])]
    else putFields a d.flds val)

def writeNoc (hat a be : Nat) (d : RegDesc) (val : W64) : Prog :=
  if a = Reg.NOC_CTL then .when (Block.hitsStg d be) (stgWrite hat a be val)
  else .read fun b => .when (b.holds hat Right.test) (
    if a = Reg.NOC_LTEST_CTL then .all [
      putFields a d.flds val,
      .when (asks val Fl.NOC_LTEST_CTL_STOP) (withCounts (nocLtestStop hat)),
      .when (asks val Fl.NOC_LTEST_CTL_GO) (nocLtestGo hat val)]
    else putFields a d.flds val)

/-- One entry of a site's hat set: kept, or the write of it discarded and HATSET_DENIED set (R379, R397). -/
def putHatset (g a e x : Nat) : Prog := .read fun b =>
  if b.hatsetOk g x then setF a ⟨16 * e, 16⟩ (x % 1024 + x / 2 ^ 15 % 2 * 2 ^ 15)
  else setF (Reg.GLV_STATUS g) Fl.GLV_STATUS_HATSET_DENIED 1

def writeGlv (hat g a be : Nat) (d : RegDesc) (val : W64) : Prog := .read fun b =>
  if b.mayGlove hat g then
    if d.base = Reg.GLV_HATSET 0 0 then
      .each ((List.range 4).filter fun e => be.testBit (2 * e)) fun e => putHatset g a e (Block.hatsetEntry val e)
    else if a = Reg.GLV_CTL g then .all [
      putFields a d.flds val,
      if asks val Fl.GLV_CTL_RESET then gloveReset hat g (asks val Fl.GLV_CTL_FORCE)
      else .when (asks val Fl.GLV_CTL_FLUSH) (gloveFlush hat g)]
    else .all [
      putFields a d.flds val,
      .when (decide (a = Reg.GLV_THROTTLE g)) (refreshThrottle g)]
  else .when (decide (d.base = Reg.GLV_HATSET 0 0)) (setF (Reg.GLV_STATUS g) Fl.GLV_STATUS_HATSET_DENIED 1)

def writeWel (hat w a : Nat) (d : RegDesc) (val : W64) : Prog := .read fun b => .when (b.mayWell hat w) (.all [
  putFields a d.flds val,
  .when (decide (a = Reg.WEL_CTL w) && asks val Fl.WEL_CTL_WB_INV) (wbInv hat w)])

def writeVec (hat e c a : Nat) (d : RegDesc) (val : W64) : Prog :=
  if a = Reg.VEC_CTX_CTL e c then ctxWrite hat e c (ctxCtlWrite e c val)
  else if a = Reg.VEC_CTX_START e c then ctxWrite hat e c (ctxStart e c val)
  else if d.base = Reg.VEC_CTX_STATUS 0 0 ∨ d.base = Reg.VEC_CTX_FLAGS 0 0 ∨ d.base = Reg.VEC_CTX_ARG 0 0 0 then
    ctxWrite hat e c (putFields a d.flds val)
  else if d.base = Reg.VEC_TREG 0 0 then tregBindWrite hat e c val
  else .read fun b => .when (b.mayEngine hat e) (
    if a = Reg.VEC_KLOAD e then .all [
      clearEvents a d val,
      if asks val Fl.VEC_KLOAD_GO then kloadGo hat e val
      else if asks val Fl.VEC_KLOAD_FREE then kloadFree hat e val
      else kloadFields e val]
    else putFields a d.flds val)

def writeTrg (hat t k a : Nat) (d : RegDesc) (val : W64) : Prog := .read fun b =>
  if a = Reg.TRG_RNG then .when (decide (hat = 0) || b.holds hat Right.trgAdmin) (putFields a d.flds val)
  else if a = Reg.TRG_CTL t then
    let cmd := getFld val Fl.TRG_CTL_CMD
    .all [
      .when (b.mayTrough hat t) (clearEvents a d val),
      if cmd = 5 then trgFinishWrite hat t
      else .when (decide (1 ≤ cmd ∧ cmd ≤ 4)) (trgAdmin hat t cmd)]
  else if a = Reg.TRG_EXPORT t then .all [
    .when (decide (hat = 0) || b.mayExport hat t) (putFields a d.flds val),
    .when (asks val Fl.TRG_EXPORT_GO) (exportGo hat t val)]
  else if a = Reg.TRG_EXPORT_DST t then .when (decide (hat = 0) || b.mayExport hat t) (putFields a d.flds val)
  else if b.mayTrough hat t && decide (b.trgState t = TrgState.idle) then putFields a d.flds val
  else if d.base = Reg.TRG_MEMBER 0 0 ∧ getFld val Fl.TRG_MEMBER_VALID = 0 then memberEject hat t k
  else trgDenied t

def writePmp (hat i a : Nat) (d : RegDesc) (val : W64) : Prog := .read fun b =>
  if a = Reg.PMP_INTAKE_CTL i then intakeCtl hat i val
  else if a < 0x1960000 then .when (decide (0x1940000 ≤ a) && b.mayIntake hat (b.intakePump i)) (putFields a d.flds val)
  else if a = Reg.PMP_KEY i then .when (asks val Fl.PMP_KEY_REVOKE) (keyRevoke hat i)
  else if a = Reg.PMP_WSET i then .all [
    .when (b.mayWset hat (b.f a Fl.PMP_WSET_HAT)) (clearEvents a d val),
    .when (asks val Fl.PMP_WSET_RESET) (wsetReset hat i),
    wsetBind hat i val]
  else .when (decide (a = Reg.PMP_REMOVE ∧ hat = 0)) (.all [clearEvents a d val, pmpRemove hat val])

/-- XLT_CTXx_CTL with ENABLE 0: the context is disabled; a context that was not enabled takes HAT and FQ. -/
def xctxClear (hat x a : Nat) (val : W64) : Prog := .read fun b => .when (b.mayXctx hat x) (
  if b.on a Fl.XLT_CTX_CTL_ENABLE then .all [xctxOff hat x, setF a Fl.XLT_CTX_CTL_FQ (getFld val Fl.XLT_CTX_CTL_FQ)]
  else if b.hatRemoved (getFld val Fl.XLT_CTX_CTL_HAT) then xctxDenied x
  else .each [Fl.XLT_CTX_CTL_HAT, Fl.XLT_CTX_CTL_FQ] fun fl => setF a fl (getFld val fl))

/-- XLT_FQq_CTL with ENABLE 0: the queue is disabled, unless contexts use it; a disabled queue takes the other fields. -/
def fqClear (hat q a : Nat) (val : W64) : Prog := .all [
  .read fun b => .when (b.on a Fl.XLT_FQ_CTL_ENABLE) (fqOff hat q),
  .read fun b => .when (b.mayFq hat q && !b.on a Fl.XLT_FQ_CTL_ENABLE) (
    if b.hatRemoved (getFld val Fl.XLT_FQ_CTL_OWNER) then fqDenied q
    else .each [Fl.XLT_FQ_CTL_OWNER, Fl.XLT_FQ_CTL_IRQ_VEC, Fl.XLT_FQ_CTL_SIZE] fun fl => setF a fl (getFld val fl))]

def writeXlt (hat i a : Nat) (d : RegDesc) (val : W64) : Prog := .read fun b =>
  if 0x1A10000 ≤ a then .when (b.maySeg hat a true) (segWrite a val)
  else if a = Reg.XLT_FQ_CTL i then
    if asks val Fl.XLT_FQ_CTL_ENABLE then fqEnable hat i val else fqClear hat i a val
  else if a = Reg.XLT_FQ_RESP i then
    let act := getFld val Fl.XLT_FQ_RESP_ACTION
    let fid := getFld val Fl.XLT_FQ_RESP_FID
    if act = 1 then respond hat i fid resumeFault
    else .when (decide (act = 2)) (respond hat i fid abortFault)
  else if a = Reg.XLT_CTX_CTL i then .all [
    .when (b.mayXctx hat i) (clearEvents a d val),
    if asks val Fl.XLT_CTX_CTL_ENABLE then xctxEnable hat i val else xctxClear hat i a val]
  else if a = Reg.XLT_CTX_EPOCH i then .all [
    .when (b.mayXctx hat i) (clearEvents a d val),
    .when (asks val Fl.XLT_CTX_EPOCH_BUMP) (xltBump hat i)]
  else .when (if a < 0x1A04000 then decide (0x1A01000 ≤ a) && b.mayFq hat i else b.mayXctx hat i) (putFields a d.flds val)

def writeSpn (hat c q a : Nat) (d : RegDesc) (val : W64) : Prog := .read fun b => .when (b.holds hat Right.span) (
  if d.base = Reg.SPN_QUAD 0 0 then spnQuadWrite hat c q val
  else if a = Reg.SPN_CTL then .all [
    .when (!asks val Fl.SPN_CTL_RLC_ENABLE && b.on a Fl.SPN_CTL_RLC_ENABLE) (rlcDisable hat),
    putFields a d.flds val,
    clampFld a Fl.SPN_CTL_TIMEOUT_US 2 64, clampFld a Fl.SPN_CTL_RTO 2 64, clampFld a Fl.SPN_CTL_MTU 1500 9216]
  else .all [
    putFields a d.flds val,
    .when (decide (a = Reg.SPN_DISC)) (clampFld a Fl.SPN_DISC_HELLO_MS 1 100)])

def writePwr (hat i a be : Nat) (d : RegDesc) (val : W64) : Prog := .read fun b => .when (b.holds hat Right.power) (
  if a = Reg.MON_RECAL then monRecal hat (val.toNat % 2 ^ 16)
  else .all [
    .when (Block.hitsStg d be) (stgWrite hat a be val),
    if a = Reg.PWR_DOM_CTL i then
      .when (Block.touches be Fl.PWR_DOM_CTL_TARGET) (targetWrite hat i (getFld val Fl.PWR_DOM_CTL_TARGET))
    else putFields a d.flds val])

/-- What a register write that makes the wellhead read is told of memory outside the package, or owned by a site: free values. -/
def Block.anyRead (b : Block) (len : Nat) : ReadIn := ⟨St.ok, (List.range len).map fun o => BitVec.ofNat 8 (Config.freeElem b.free o), []⟩

def writeSec (hat a : Nat) (d : RegDesc) (val : W64) : Prog := .read fun b =>
  let cmd := getFld val Fl.SEC_UPD_CTL_CMD
  let read := b.anyRead (min 0x400000 (getFld val Fl.SEC_UPD_CTL_LEN))
  .when (b.maySec hat && (!b.i3cLimited || decide (a = Reg.SEC_UPD_SRC ∨ a = Reg.SEC_UPD_CTL ∧ cmd = 1))) (.all [
    putFields a d.flds val,
    .when (decide (a = Reg.SEC_UPD_CTL)) (
      if cmd = 1 then .all [.edit .free, secStage hat val read]
      else if cmd = 2 then updCancel hat
      else if cmd = 3 then updConfirm hat
      else if cmd = 4 then updCommitSvn hat
      else .when (decide (cmd = 5)) (.all [.edit .free, secRevoke hat read]))])

def writeTst (hat a : Nat) (d : RegDesc) (val : W64) : Prog := .read fun b =>
  if a = Reg.TST_CTL then .all [
    .when (b.holds hat Right.test) (clearEvents a d val),
    .when (asks val Fl.TST_CTL_TEST_MODE) (testModeSet hat)]
  else .when (b.holds hat Right.test) (
    if a = Reg.TST_LTEST_CTL then .all [
      putFields a d.flds val,
      .when (asks val Fl.TST_LTEST_CTL_STOP) (withCounts (tstLtestStop hat)),
      .when (asks val Fl.TST_LTEST_CTL_GO) (tstLtestGo hat val)]
    else putFields a d.flds val)

/-- The registers of a Prour tile (R153): a write of a context's registers counts only under its hat or hat 0.  DESIGN CHOICE
(notes/assumptions/62.md): a PROG write with GO and STOP both set stops. -/
def writePrt (hat g c a : Nat) (d : RegDesc) (val : W64) : Prog := .read fun b =>
  let en := asks val Fl.PRT_CTX_CTL_ENABLE
  let was := b.on a Fl.PRT_CTX_CTL_ENABLE
  .when (b.siteRuns g && decide (b.siteKind g = 1) && b.prtReach hat g) (
    if a = Reg.PRT_CLK g then .all [putFields a d.flds val, clampFld a Fl.PRT_CLK_CAP_MHZ 800 2100]
    else if a < Reg.PRT_CTX_CTL g 0 then putFields a d.flds val
    else .when (b.prtHas g c) (
      if !b.prtTakes hat g c then prtDenied g c
      else if a = Reg.PRT_CTX_CTL g c then
        if en && !was then ctxEnable g c hat val
        else if was && !en then .all [ctxDisable g c hat, putFields a d.flds val]
        else putFields a d.flds val
      else if a = Reg.PRT_CTX_PROG g c then
        if asks val Fl.PRT_CTX_PROG_STOP then .all [progFields g c val, progStop g c hat]
        else if asks val Fl.PRT_CTX_PROG_GO then progGo g c hat val
        else putFields a d.flds val
      else putFields a d.flds val))

/-! ### Any write -/

/-- A write of a register, its value completed from what the register holds. -/
def writeReg (hat a be : Nat) (d : RegDesc) (l : List Nat) (val : W64) : Prog :=
  let i := l.getD 0 0
  let k := l.getD 1 0
  if a < 0xC0000 then writeHub hat a d val
  else if a < 0x100000 then writeHst hat i a d val
  else if a < 0x200000 then writeCfg hat i a d val
  else if a < 0x400000 then writeHat hat i a d val
  else if a < 0x800000 then writeNoc hat a be d val
  else if a < 0x900000 then writeGlv hat i a be d val
  else if a < 0x1000000 then writeWel hat i a d val
  else if a < 0x1800000 then writeVec hat i k a d val
  else if a < 0x1900000 then writeTrg hat i k a d val
  else if a < 0x1A00000 then writePmp hat i a d val
  else if a < 0x1B00000 then writeXlt hat i a d val
  else if a < 0x1C00000 then writeSpn hat i k a d val
  else if a < 0x1E00000 then writePwr hat i a be d val
  else if a < 0x1F00000 then writeSec hat a d val
  else if a < 0x2000000 then writeTst hat a d val
  else writePrt hat i k a d val

/-- A write of 8 or 4 bytes at an offset of register space under a hat (R10, R25, R29): a register, or local data memory.  In
recovery only the update registers are written (R427). -/
def regWrite (hat off size val : Nat) : Prog :=
  (if off / 8 * 8 = Reg.SEC_UPD_SRC ∨ off / 8 * 8 = Reg.SEC_UPD_CTL then inRecoveryToo else underHat) hat (.read fun b =>
  let a := off / 8 * 8
  .when (goodAccess off size && !b.blank a) (
    if 0x2600000 ≤ a ∧ a < 0x3200000 then
      .when (b.mayEngine hat ((a - 0x2600000) / 0x80000)) (.edit (.ldm (off - 0x2600000) (toBytesLE size val)))
    else match taskWin a with
      | some (g, c, o) => taskSubmit g c hat (o / 128) (off % 128) (toBytesLE size val)
      | none => .for? (Regs.find a) fun r =>
        writeReg hat a (Block.writeBE off size) r.1 r.2 (Block.writeWord r.1 (b.w a) off size val)))

def execRegisterWrite (hat off size : Nat) (val : W64) (s : State) : Host.Outcome State Fault Refusal :=
  s.run (regWrite hat off size (val.toNat % 2 ^ (8 * size)))

/-! ### REGACC (R488, R489) -/

/-- The 128-bit register: an offset, and a value written or read.  Under the hat bound at port index 0x101; with none, or one
that the port turns away, ACCESS_DENIED: nothing is written, and the read data is that of R29, as poison-free 0 bytes cannot
carry poison over the scan path. -/
def regacc (write : Bool) (off val : Nat) : Prog := .read fun b =>
  let shift := fun (v : Nat) => Prog.all [
    modSys fun s => { s with scan := toBytesLE 8 off ++ toBytesLE 8 v },
    send (.tdo (toBytesLE 8 off ++ toBytesLE 8 v))]
  match b.boundHat 0x101 with
  | none => shift 0
  | some h =>
    if !b.portAdmits h then shift 0
    else if write then .all [regWrite h off 8 val, shift val]
    else .when (!b.readWaits off) (shift (b.regRead h off 8).2)

def execRegacc (write : Bool) (off : Nat) (val : W64) (s : State) : Host.Outcome State Fault Refusal :=
  s.runTap (.all [loadIr 0x10, .read fun b => .when (!b.held && !b.sys.scanned) (regacc write off val.toNat)])

/-! ### The boot register list (R474) -/

/-- The entries of the list: offset and value, those the wellhead skips left out, up to the first that is misaligned or outside
BAR0. -/
def Block.bootList (b : Block) : List (Nat × Nat) :=
  let n := min 4095 (numAt (b.bootBytes 0x80004 4) 0 4)
  let es := (List.range n).map fun i => (numAt (b.bootBytes (0x80010 + 16 * i) 8) 0 8, numAt (b.bootBytes (0x80018 + 16 * i) 8) 0 8)
  (es.takeWhile fun e => decide (e.1 % 8 = 0 ∧ e.1 < 0x4000000)).filter fun e =>
    !decide (0x100000 ≤ e.1 ∧ e.1 < 0x200000 ∨ 0x1E00000 ≤ e.1 ∧ e.1 < 0x2000000)

/-- Step 8 of bring-up: the list is applied under hat 0, then the package is READY (R474). -/
def bootRegisterList : Prog := .read fun b => .when (b.sys.begun && !b.bringFailed && decide (b.bringStep = 8) &&
    !b.on Reg.HUB_BRINGUP Fl.HUB_BRINGUP_READY) (.all [
  .when (decide (numAt (b.bootBytes 0x80000 4) 0 4 = 0x54534C42)) (.all [
    .each b.bootList fun e => regWrite 0 e.1 8 e.2,
    bringSet Fl.HUB_BRINGUP_LIST_APPLIED b.bootList.length]),
  bringSet Fl.HUB_BRINGUP_READY 1,
  bringSet Fl.HUB_BRINGUP_STEP 10,
  .read fun b => bringSet Fl.HUB_BRINGUP_READY_US (min (2 ^ 28 - 1) ((b.now - b.sys.start) / 1000))])

def execBootRegisterList (s : State) : Host.Outcome State Fault Refusal := s.run bootRegisterList

end Sys2Proof.Machine
end

