-- ==== Sys2Proof/Machine/HostMem.lean ====
section
/-! DEFINITION. Requests of a host to the BARs of a function (R403, R406, R408): posted writes and reads, in the order the manual
keeps, as packets of the mesh; and the answers to them. -/

namespace Sys2Proof.Machine

/-! ### What a BAR offset reaches -/

/-- A function takes memory requests: there, in D0, with its memory space enabled. -/
def Block.fnTakes (b : Block) (q fn : Nat) : Bool :=
  b.fnThere q fn && (b.fnSt q fn).memEn && !b.fnAsleep q fn

/-- The size of a BAR, as an exponent (R403). -/
def Block.barLog (b : Block) (q fn bar : Nat) : Nat :=
  if bar = 0 then 26 else if bar = 2 then 24 else if bar = 4 then b.bar4Size q fn else 0

/-- The function's own MSI-X table and PBA, as offsets of BAR0. -/
def ownMsix (bar off : Nat) : Bool := decide (bar = 0 ∧ 0x80000 ≤ off ∧ off < 0x88100)

/-- The local address an offset of a BAR reaches. -/
def Block.barAddr (b : Block) (q fn bar off : Nat) : Nat :=
  if bar = 0 then 0x500000000000 + off
  else if bar = 2 then 0x500004000000 + off
  else b.f (Reg.HST_FN_BAR4 q fn) Fl.HST_FN_BAR4_BASE * 2 ^ 30 + off

/-- What a local address reaches in this package: beyond 2^47 there is nothing (R403). -/
def Block.barPlace (b : Block) (la : Nat) : Place :=
  if la < 2 ^ 47 then placeLocal b.recs la else .none

/-- The pieces of a request: whole toward registers, one for each 64-byte data unit otherwise. -/
def Block.barPieces (b : Block) (own : Bool) (la len : Nat) : List (Nat × Nat) :=
  match b.barPlace la with
  | .reg _ => [(0, len)]
  | .site _ _ => [(0, len)]
  | _ => if own then [(0, len)] else unitPieces (len / 64 + 3) la 0 len

/-- The local address a piece of a request reaches as it is admitted: BASE as it then stands (R420). -/
def Block.barLa (b : Block) (q : Nat) (r : HostReq) : Nat := b.barAddr q r.fn r.bar r.addr

/-- The hat of a function that the port admits (R374). -/
def Block.fnAdmits (b : Block) (q fn : Nat) : Option Nat := (b.fnHat q fn).filter b.portAdmits

/-- What a piece is: refused with a status, held at the port, or a packet to an endpoint. -/
inductive BarGo where
  | stop (st : Status)
  | hold
  | go (hat : Nat) (dst : Ep) (reg : Bool)

def Block.barGo (b : Block) (q : Nat) (r : HostReq) : BarGo :=
  match b.fnAdmits q r.fn with
  | none => .stop St.accessDenied
  | some h =>
    let la := b.barLa q r
    let pa := b.ownPkg * 2 ^ 47 + la
    if 2 ^ 47 ≤ la then .stop St.addrUnmapped
    else match b.barPlace la with
      | .reg _ => .go h (.quadReg 0) true
      | .site g _ => .go h (.glove g 0) true
      | .mem p w _ =>
        if !b.memRight h p then .stop St.accessDenied
        else if !b.epThere (.bank w (homeBank pa)) then .stop St.fusedOff
        else if b.commitHolds p || b.clearHolds p then .hold
        else .go h (.bank w (homeBank pa)) false
      | _ => match b.route h pa with
        | .inl st => .stop st
        | .inr d => .go h d false

/-- How an access of a size or alignment that no register packet spells ends (R10, R21, R29): by what it names. -/
def Block.oddEnd (b : Block) (hat la len : Nat) : Status :=
  match b.barPlace la with
  | .site g _ => if b.siteThere g then St.ok else St.fusedOff
  | _ => (b.regRead hat (la - 0x500000000000) len).1

/-! ### Ends of requests -/

/-- A BAR access that ends with a status of a rejection is logged as Completer Abort (R408). -/
def logAbort (q fn : Nat) (st : Status) : Prog := .when (rejected st) (aerLog q fn 15)

def modPosted (q : Nat) (g : List HostReq → List HostReq) : Prog := modPort q fun s => { s with posted := g s.posted }
def modReads (q : Nat) (g : List HostReq → List HostReq) : Prog := modPort q fun s => { s with reads := g s.reads }

/-- A posted write has ended: nothing waits for it any longer. -/
def endWrite (q : Nat) (r : HostReq) (st : Status) : Prog := .all [
  modPosted q fun l => l.filter fun x => decide (x.mtag ≠ r.mtag),
  modReads q fun l => l.map fun x => { x with wait := removeNat r.mtag x.wait },
  logAbort q r.fn st]

/-- A read TLP whose pieces have all come is completed (R408). -/
def completeRead (q fn tag : Nat) : Prog := .read fun b =>
  let mine := (b.portSt q).reads.filter fun r => decide (r.fn = fn ∧ r.tag = tag)
  let st := worst ((mine.filter fun r => rejected r.st).map HostReq.st)
  let data := mine.flatMap HostReq.data
  let ep := (mine.any fun r => r.ep) || decide (st ≠ 0)
  .when (decide (mine ≠ []) && mine.all HostReq.done) (.all [
    modReads q fun l => l.filter fun r => !decide (r.fn = fn ∧ r.tag = tag),
    logAbort q fn st,
    .when ep (incSat (Reg.HST_ERR q) Fl.HST_ERR_POISON_OUT),
    send (.hostCpl q fn tag 0 (if st ≠ 0 then List.replicate data.length 0xFF else data) ep)])

/-- A piece of a read has come. -/
def endRead (q : Nat) (r : HostReq) (st : Status) (data : List Byte) (pois : Bool) : Prog := .all [
  modReads q fun l => l.map fun x => if x.mtag = r.mtag then
    { x with done := true, sent := true, st := st, data := slice data 0 r.len, ep := pois || decide (0x40 ≤ st) } else x,
  completeRead q r.fn r.tag]

/-! ### The function's own MSI-X structures -/

/-- A write of 4 or 8 bytes of the MSI-X table; the PBA is read-only. -/
def msixWrite (q fn off : Nat) (data : List Byte) : Prog := .read fun b =>
  let k := (off - 0x80000) / 8
  let old := Tbl.get msixDflt k (b.fnSt q fn).table
  let new := mergeWord (Block.writeBE off data.length) old (BitVec.ofNat 64 (ofBytesLE data * 2 ^ (8 * (off % 8))))
  .when (goodAccess off data.length && decide (off < 0x88000)) (.all [
    modFn q fn fun s => { s with table := Tbl.set msixDflt k (if k % 2 = 1 then new &&& BitVec.ofNat 64 (2 ^ 33 - 1) else new) s.table },
    msixKick q fn])

def Block.msixRead (b : Block) (q fn off len : Nat) : List Byte :=
  let s := b.fnSt q fn
  let word := if off < 0x88000 then (Tbl.get msixDflt ((off - 0x80000) / 8) s.table).toNat
    else maskOf ((List.range 64).filter fun i => s.pba.contains ((off - 0x88000) / 8 * 64 + i))
  if goodAccess off len then slice (toBytesLE 8 word) (off % 8) len else List.replicate len 0

/-! ### Injection (R406) -/

/-- A write as the packet it becomes: a register write under BE, or a memory write. -/
def HostReq.writePkt (r : HostReq) (q hat label pa : Nat) (dst : Ep) (reg : Bool) : Pkt :=
  let u := { Sys2Proof.Machine.writePkt pa r.mtag hat label r.data r.ep (.host q) dst with ordered := true }
  if reg then { u with cmd := 0x81, addr := pa / 8 * 8 } else u

/-- Inject a posted write when its turn has come: writes of one function in their order, one to BAR0 or BAR2 once every earlier
one has ended. -/
def tryWrite (q mtag : Nat) : Prog := .read fun b =>
  .for? ((b.portSt q).posted.find? fun r => decide (r.mtag = mtag)) fun r =>
    let before := ((b.portSt q).posted.takeWhile fun x => decide (x.mtag ≠ mtag)).filter fun x => decide (x.fn = r.fn)
    let turn := !r.sent && (if r.bar = 4 then before.all HostReq.sent else before.isEmpty)
    .when turn (
      if r.own then .all [msixWrite q r.fn r.addr r.data, endWrite q r St.ok]
      else match b.barGo q r with
        | .stop st => .all [
            .when (decide (r.bar = 2 ∧ st = St.fusedOff)) (setF (Reg.PMP_INTAKE_STATUS (r.addr / 0x1000)) Fl.PMP_INTAKE_STATUS_DENIED 1),
            endWrite q r st]
        | .hold => .skip
        | .go h d reg =>
          let la := b.barLa q r
          if reg && !goodAccess la r.len then endWrite q r (b.oddEnd h la r.len)
          else .all [
            .when (decide (r.bar ≠ 2)) (charge (.host q) h (b.hatLabel h) 64),
            modPosted q fun l => l.map fun x => if x.mtag = mtag then { x with sent := true } else x,
            sendPkt (r.writePkt q h (b.hatLabel h) (b.ownPkg * 2 ^ 47 + la) d reg)])

/-- Inject a read once every earlier posted write of its function has ended. -/
def tryRead (q mtag : Nat) : Prog := .read fun b =>
  .for? ((b.portSt q).reads.find? fun r => decide (r.mtag = mtag)) fun r =>
    .when (!r.sent && !r.done && r.wait.isEmpty) (
      if r.own then endRead q r St.ok (b.msixRead q r.fn r.addr r.len) false
      else match b.barGo q r with
        | .stop st => endRead q r st [] true
        | .hold => .skip
        | .go h d reg =>
          let la := b.barLa q r
          let pa := b.ownPkg * 2 ^ 47 + la
          if reg && !goodAccess la r.len then endRead q r (b.oddEnd h la r.len) [] false
          else if r.bar = 2 then endRead q r St.ok [] false
          else .all [
            charge (.host q) h (b.hatLabel h) 64,
            modReads q fun l => l.map fun x => if x.mtag = mtag then { x with sent := true } else x,
            sendPkt { Pkt.bare (if reg then 0x80 else 0) (if reg then pa / 8 * 8 else pa / 64 * 64) mtag h (.host q) d with
              label := b.hatLabel h }])

/-- Every waiting request of a port that may go, goes. -/
def hostKick (q : Nat) : Prog := .read fun b => .all [
  .each ((b.portSt q).posted.map HostReq.mtag) (tryWrite q),
  .each ((b.portSt q).reads.map HostReq.mtag) (tryRead q)]

/-- Requests held at the ports go on once what held them has ended (R75, R396). -/
def hostsGoOn : Prog := .each (List.range 4) hostKick

/-! ### From the host -/

/-- A mesh tag that no request of the port carries. -/
def PortSt.freeTag (s : PortSt) : Nat :=
  let used := s.posted.map HostReq.mtag ++ s.reads.map HostReq.mtag
  ((List.range (used.length + 1)).find? fun t => !used.contains t).getD 0

/-- A function refuses a request as unsupported (R410); in a function-level reset it discards it instead (R414). -/
def unsupportedReq (q fn : Nat) : Prog := aerLog q fn 20

def hostMemWrite (q fn bar off : Nat) (data : List Byte) (ep : Bool) : Prog := .read fun b =>
  let la := b.barAddr q fn bar off
  let own := ownMsix bar off
  .when (b.hstUp q && !b.fnResetting q fn) (
    if !b.fnTakes q fn || decide (2 ^ b.barLog q fn bar < off + data.length) || !decide (bar = 0 ∨ bar = 2 ∨ bar = 4) then
      unsupportedReq q fn
    else .all [
      .when ep (.all [incSat (Reg.HST_ERR q) Fl.HST_ERR_POISON_IN, aerLog q fn 12]),
      .each (b.barPieces own la data.length) fun pc => modPort q fun s => { s with
        posted := s.posted ++ [⟨fn, bar, own, off + pc.1, pc.2, 0, slice data pc.1 pc.2, ep, false,
          s.freeTag, [], false, 0⟩] },
      hostKick q])

def execHostMemWrite (q : Fin 4) (fn : Fin 64) (bar off : Nat) (data : List Byte) (ep : Bool) (s : State) :
    Host.Outcome State Fault Refusal := s.run (hostMemWrite q fn bar off data ep)

def hostMemRead (q fn bar off len tag : Nat) : Prog := .read fun b =>
  let la := b.barAddr q fn bar off
  let own := ownMsix bar off
  let wait := ((b.portSt q).posted.filter fun r => decide (r.fn = fn)).map HostReq.mtag
  .when (b.hstUp q && !b.fnResetting q fn) (
    if !b.fnTakes q fn || decide (2 ^ b.barLog q fn bar < off + len) || !decide (bar = 0 ∨ bar = 2 ∨ bar = 4) then .all [
      unsupportedReq q fn, send (.hostCpl q fn tag 1 [] false)]
    else .all [
      .each (b.barPieces own la len) fun pc => modPort q fun s => { s with
        reads := s.reads ++ [⟨fn, bar, own, off + pc.1, pc.2, tag, [], false, false, s.freeTag, wait,
          false, 0⟩] },
      hostKick q])

def execHostMemRead (q : Fin 4) (fn : Fin 64) (bar off len tag : Nat) (s : State) : Host.Outcome State Fault Refusal :=
  s.run (hostMemRead q fn bar off len tag)

/-! ### Answers from the mesh -/

/-- An answer reaches the port: MACK and REG_ACK end writes, MRSP and REG_RSP bring data. -/
def hostAnswer (q : Nat) (p : Pkt) : Prog := .read fun b =>
  let st := p.addr % 256
  let bytes := p.units.flatMap fun u => u.data
  .all [
    takePkt p,
    if p.cmd = 0x19 ∨ p.cmd = 0x83 then
      .for? ((b.portSt q).posted.find? fun r => r.sent && decide (r.mtag = p.tag)) fun r => endWrite q r st
    else
      .for? ((b.portSt q).reads.find? fun r => r.sent && !r.done && decide (r.mtag = p.tag)) fun r =>
        endRead q r st (bytes.drop (r.addr % 64)) (p.poison || p.units.any fun u => u.pu),
    hostKick q]

end Sys2Proof.Machine
end

