-- ==== Sys2Proof/Machine/Packets.lean ====
section
/-! DEFINITION. Mesh packets at their receivers (R93, R243, R262, R279, R290, R387): each command goes to the unit it names, and
the unit does with it what its chapter says. -/

namespace Sys2Proof.Machine

/-- A packet of a command reaches its receiver, in its turn and with no boundary closed before it (R51, R52, R96); one whose power
domain sleeps starts a wake and arrives after it, and one whose domain is entering sleep waits (R99, R101). -/
def onPkt (p : Pkt) (code : Nat) (k : Prog) : Prog := .read fun b =>
  .when (b.reached p && decide (p.cmd = code)) (match b.epDom p.dst with
    | some d => if b.domAsleep d then packetWake d else if b.enteringSleep d p then .skip else k
    | none => k)

/-- A request that the receiver has no meaning for (R387, R93). -/
def strange (p : Pkt) : Prog := .all [takePkt p, refuseReq p St.descInvalid]

/-! ### Requests for memory (R262, R279, R290) -/

/-- A write to an intake (R322, R323): each data unit is one slot.  A write the intake does not take, or of poisoned data, is
discarded. -/
def intakeWrite (i : Nat) (p : Pkt) : Prog := .read fun b =>
  let o := p.addr % 0x1000 / 64
  let taken := b.intakeOn i && !b.intakeClosing i && decide (p.hat = b.intakeHat i)
  .all [
    .each p.units.zipIdx fun u => .when (!u.1.pu) (slotWrite p.hat i ((o + u.2) % 64) u.1.be u.1.data),
    memAnswer p (worst [if taken then St.ok else St.accessDenied, if p.anyPois then St.poisoned else St.ok]) []]

/-- A read or write at a pump: the intake range; a read of it gives zeros. -/
def pumpRequest (p : Pkt) : Prog := .read fun b =>
  match b.place p.addr with
  | .intake i _ => .all [
      takePkt p,
      if isWrite p then intakeWrite i p
      else if isRead p then memAnswer p St.ok (List.replicate (readCount p.cmd) ⟨List.replicate 64 0, 2 ^ 64 - 1, false⟩)
      else refuseReq p St.descInvalid]
  | _ => strange p

/-- A request for memory, at a home bank, a pump, a host port or the span. -/
def memRequest (p : Pkt) : Prog :=
  match p.dst with
  | .bank _ _ => homeArrive p
  | .pump _ => pumpRequest p
  | .host q => hostRequest q p
  | .spanEng e => spanRequest e p
  | _ => strange p

/-! ### Answers -/

/-- The partition that is down and whose engine or pump the endpoint is. -/
def Block.downUnit (b : Block) (e : Ep) : Option Nat :=
  (match e with
  | .engine n => b.enginePart n
  | .pump n => b.pumpPart n
  | _ => none).filter b.partDown

/-- An answer for a unit of a partition that is down is absorbed (R293). -/
def orAbsorbed (p : Pkt) (k : Prog) : Prog := .read fun b =>
  match b.downUnit p.dst with
  | some q => .all [takePkt p, logEv St.drainAbsorbed q]
  | none => k

/-- An answer to a memory request, at the unit that asked. -/
def memResponse (p : Pkt) : Prog := orAbsorbed p (
  match p.dst with
  | .engine e => .all [takePkt p, engineMemRsp e p]
  | .trough _ => .all [takePkt p, troughMemRsp p]
  | .pump n => .all [takePkt p, pumpMemRsp n p]
  | .glove g k => .all [gloveRsp g k p, prtWriteFailed g p]
  | .walker w => .read fun b => if (b.walkAt w).any fun k => b.entryRsp w k p then walkEntryReadDone w 0 0 else takePkt p
  | .host q => hostAnswer q p
  | .spanEng e => spanAnswer e p
  | _ => takePkt p)

/-- An answer only a site or the span asks for. -/
def siteResponse (p : Pkt) : Prog :=
  match p.dst with
  | .glove g k => gloveRsp g k p
  | .spanEng e => spanAnswer e p
  | _ => takePkt p

/-- A snoop at a site's glove. -/
def snoopArrives (p : Pkt) : Prog :=
  match p.dst with
  | .glove g _ => gloveSnoop g p
  | _ => takePkt p

/-- The answer to a snoop at its home. -/
def snoopAnswer (p : Pkt) : Prog :=
  match p.dst with
  | .bank _ _ => homeSnoopRsp p
  | _ => takePkt p

/-! ### Troughs (R243) -/

/-- A trough command at a trough unit, or on its way across the span. -/
def troughRequest (p : Pkt) (k : Prog) : Prog :=
  match p.dst with
  | .trough _ => if p.cmd = 0x73 then k else atTrough p k
  | .spanEng e => spanRequest e p
  | _ => takePkt p

/-- A trough unit's answer at the engine that contributes, or on its way back across the span. -/
def troughResponse (p : Pkt) (k : Nat → Prog) : Prog := orAbsorbed p (
  match p.dst with
  | .engine e => .all [takePkt p, k e]
  | .spanEng e => spanAnswer e p
  | _ => takePkt p)

/-! ### Register commands (R379, R387) -/

/-- The offset an address names: of register space, or, from 0x1_0000_0000 on, of a site's window (R27, R28). -/
def Block.regOff (b : Block) (pa : Nat) : Nat :=
  match b.place pa with
  | .reg o => o
  | .site g o => 0x100000000 + g * 0x1000000 + o
  | _ => 0x3FFFFF8

/-- A register read under the packet's hat: 8 bytes in their place in the data unit.  One that must wait for accesses under an
older descriptor stays where it is (R303). -/
def regReadPkt (p : Pkt) : Prog := .read fun b =>
  let off := b.regOff p.addr
  let got := b.regRead p.hat off 8
  let st := worst [if b.unitAdmits p.hat || b.portAdmits p.hat then St.ok else St.accessDenied, got.1]
  let v := got.2
  let unit : DUnit := if st = 0 then ⟨slice (List.replicate (p.addr % 64) 0 ++ toBytesLE 8 v) 0 64, 2 ^ 64 - 1, false⟩ else poisonUnit
  .when (!b.readWaits off) (.all [
    takePkt p, sendPkt (p.reply 0x82 (statusAddr p st) (decide (st ≠ 0)) [unit])])

/-- A register write under the packet's hat: 4 or 8 bytes that BE marks (R10); poisoned data is not written. -/
def regWritePkt (p : Pkt) : Prog := .read fun b =>
  let u := (p.units.head?).getD poisonUnit
  let o := p.addr % 64 / 8 * 8
  let be := u.be / 2 ^ o % 256
  let off := b.regOff p.addr + (if be = 0xF0 then 4 else 0)
  let size := if be = 0xFF then 8 else if be = 0x0F ∨ be = 0xF0 then 4 else 1
  let v := numAt u.data (if be = 0xF0 then o + 4 else o) size
  let ok := b.unitAdmits p.hat || b.portAdmits p.hat
  let st := worst [if ok then St.ok else St.accessDenied, if p.anyPois then St.poisoned else St.ok, b.regCode p.hat off size v]
  .all [
    takePkt p,
    .when (ok && !p.anyPois) (.all [
      modHats fun s => { s with acting := some p.hat },
      regWrite p.hat off size v,
      modHats fun s => { s with acting := none }]),
    sendPkt (p.reply 0x83 (statusAddr p st) false [])]

/-- What a site's window does with a register command: FUSED_OFF without a die, ACCESS_DENIED outside the partition (R29, R379).
A Prour tile that passes traffic does the command itself (R154); another die gets it as a message. -/
def windowRequest (g : Nat) (p : Pkt) : Prog := .read fun b =>
  let no := fun (st : Status) => Prog.all [takePkt p,
    sendPkt (p.reply (if p.cmd = 0x80 then 0x82 else 0x83) (statusAddr p st) (decide (p.cmd = 0x80)) (if p.cmd = 0x80 then [poisonUnit] else []))]
  let st := worst [
    if b.siteThere g then St.ok else St.fusedOff,
    if decide (p.hat = 0) || b.inPart p.hat (b.sitePart g) then St.ok else St.accessDenied]
  if st ≠ 0 then no (worst [st, if p.anyPois then St.poisoned else St.ok])
  else if b.siteRuns g && decide (b.siteKind g = 1) then (if p.cmd = 0x80 then regReadPkt p else regWritePkt p)
  else gloveWindow g p

def regRequest (p : Pkt) (k : Prog) : Prog :=
  match p.dst with
  | .glove g _ => windowRequest g p
  | .quadReg _ => k
  | .wellReg _ => k
  | .island _ => k
  | _ => takePkt p

def regResponse (p : Pkt) : Prog :=
  match p.dst with
  | .glove g k => gloveRsp g k p
  | .host q => hostAnswer q p
  | _ => takePkt p

/-- Every earlier ORDERED packet from the same source to the same destination has completed. -/
def Block.fenceClear (b : Block) (p : Pkt) : Bool :=
  !(b.noc.net.takeWhile fun x => decide (x ≠ p)).any fun x => x.ordered && decide (x.src = p.src ∧ x.dst = p.dst)

/-- A fence is answered. -/
def meshFence (p : Pkt) : Prog := .read fun b => .when (b.fenceClear p) (.all [
  takePkt p, sendPkt (p.reply 0x87 (statusAddr p St.ok) false [])])

/-! ### Reserved commands (R92, R262, R282, R290, R387) -/

/-- A command that its chapter reserves and has the endpoint complete with DESC_INVALID. -/
def spareCmd (c : Nat) : Bool :=
  let used := [0x00, 0x01, 0x02, 0x08, 0x09, 0x0A, 0x18, 0x19, 0x20, 0x21, 0x22, 0x23, 0x24, 0x25, 0x28, 0x29, 0x2A, 0x2B, 0x2C,
    0x2D, 0x30, 0x31, 0x32, 0x33, 0x38, 0x39]
  (decide (c < 0x40) && !used.contains c) ||
  decide (0x4C ≤ c ∧ c < 0x50 ∨ c = 0x5C ∨ c = 0x5D ∨ c = 0x85 ∨ 0x8A ≤ c ∧ c < 0xA0 ∨ 0xA4 ≤ c ∧ c < 0xC0)

/-- A reserved command from `lo` to `hi` is completed by the endpoint that receives it; the row that carries the range's completions
stands for it, as the table has no row of its own. -/
def onSpare (p : Pkt) (lo hi : Nat) : Prog := .when (spareCmd p.cmd && decide (lo ≤ p.cmd ∧ p.cmd < hi)) (onPkt p p.cmd (strange p))

/-! ### The rows -/

/-- A request that reads at its home in another form than MRD64 does: a line, a narrow read, a coherent read, an atomic. -/
def readsToo (p : Pkt) : Bool := (isRead p && decide (p.cmd ≠ 0)) || decide (0x20 ≤ p.cmd ∧ p.cmd ≤ 0x22) || isAtomic p

/-- A read of 64 bytes; `err` is what the home's check words and tags show on it.  Of another request that reads, the row tells only
what its access shows, before its own row serves it (R271; notes/assumptions/60.md). -/
def execMrd64 (p : Pkt) (err : HomeErr) (s : State) : Host.Outcome State Fault Refusal :=
  s.run (.all [
    onPkt p 0x00 (.all [homeError p err, memRequest p]),
    .when (readsToo p) (onPkt p p.cmd (homeError p err))])

def execMrd128 (p : Pkt) (s : State) : Host.Outcome State Fault Refusal := s.run (onPkt p 0x01 (memRequest p))

def execMrd32n (p : Pkt) (s : State) : Host.Outcome State Fault Refusal := s.run (onPkt p 0x02 (memRequest p))

def execMwr64 (p : Pkt) (s : State) : Host.Outcome State Fault Refusal := s.run (onPkt p 0x08 (memRequest p))

def execMwr128 (p : Pkt) (s : State) : Host.Outcome State Fault Refusal := s.run (onPkt p 0x09 (memRequest p))

def execMwr32n (p : Pkt) (s : State) : Host.Outcome State Fault Refusal := s.run (onPkt p 0x0A (memRequest p))

def execMrsp (p : Pkt) (s : State) : Host.Outcome State Fault Refusal := s.run (onPkt p 0x18 (memResponse p))

def execMack (p : Pkt) (s : State) : Host.Outcome State Fault Refusal :=
  s.run (.all [onPkt p 0x19 (memResponse p), onSpare p 0x00 0x20])

def execRds (p : Pkt) (s : State) : Host.Outcome State Fault Refusal := s.run (onPkt p 0x20 (memRequest p))

def execRdo (p : Pkt) (s : State) : Host.Outcome State Fault Refusal := s.run (onPkt p 0x21 (memRequest p))

def execUpg (p : Pkt) (s : State) : Host.Outcome State Fault Refusal := s.run (onPkt p 0x22 (memRequest p))

def execOwn (p : Pkt) (s : State) : Host.Outcome State Fault Refusal := s.run (onPkt p 0x23 (memRequest p))

def execWbk (p : Pkt) (s : State) : Host.Outcome State Fault Refusal := s.run (onPkt p 0x24 (memRequest p))

def execEvc (p : Pkt) (s : State) : Host.Outcome State Fault Refusal := s.run (onPkt p 0x25 (memRequest p))

def execDats (p : Pkt) (s : State) : Host.Outcome State Fault Refusal := s.run (onPkt p 0x28 (siteResponse p))

def execDate (p : Pkt) (s : State) : Host.Outcome State Fault Refusal := s.run (onPkt p 0x29 (siteResponse p))

def execDatm (p : Pkt) (s : State) : Host.Outcome State Fault Refusal := s.run (onPkt p 0x2A (siteResponse p))

def execGntm (p : Pkt) (s : State) : Host.Outcome State Fault Refusal := s.run (onPkt p 0x2B (siteResponse p))

def execWack (p : Pkt) (s : State) : Host.Outcome State Fault Refusal := s.run (onPkt p 0x2C (siteResponse p))

def execErr (p : Pkt) (s : State) : Host.Outcome State Fault Refusal :=
  s.run (.all [onPkt p 0x2D (siteResponse p), onSpare p 0x20 0x40])

def execSnps (p : Pkt) (s : State) : Host.Outcome State Fault Refusal := s.run (onPkt p 0x30 (snoopArrives p))

def execSnpo (p : Pkt) (s : State) : Host.Outcome State Fault Refusal := s.run (onPkt p 0x31 (snoopArrives p))

def execSnpi (p : Pkt) (s : State) : Host.Outcome State Fault Refusal := s.run (onPkt p 0x32 (snoopArrives p))

def execSnpd (p : Pkt) (s : State) : Host.Outcome State Fault Refusal := s.run (onPkt p 0x33 (snoopArrives p))

def execSack (p : Pkt) (s : State) : Host.Outcome State Fault Refusal := s.run (onPkt p 0x38 (snoopAnswer p))

def execSdat (p : Pkt) (s : State) : Host.Outcome State Fault Refusal := s.run (onPkt p 0x39 (snoopAnswer p))

/-- An atomic, on the home path or the narrow path (R290). -/
def atomicAt (p : Pkt) (op : Nat) : Prog := .all [onPkt p (0x40 + op) (memRequest p), onPkt p (0x50 + op) (memRequest p)]

def execAtomicAdd (p : Pkt) (s : State) : Host.Outcome State Fault Refusal := s.run (atomicAt p 0)

def execAtomicSwap (p : Pkt) (s : State) : Host.Outcome State Fault Refusal := s.run (atomicAt p 1)

def execAtomicCas (p : Pkt) (s : State) : Host.Outcome State Fault Refusal := s.run (atomicAt p 2)

def execAtomicAnd (p : Pkt) (s : State) : Host.Outcome State Fault Refusal := s.run (atomicAt p 3)

def execAtomicOr (p : Pkt) (s : State) : Host.Outcome State Fault Refusal := s.run (atomicAt p 4)

def execAtomicXor (p : Pkt) (s : State) : Host.Outcome State Fault Refusal := s.run (atomicAt p 5)

def execAtomicSmin (p : Pkt) (s : State) : Host.Outcome State Fault Refusal := s.run (atomicAt p 6)

def execAtomicSmax (p : Pkt) (s : State) : Host.Outcome State Fault Refusal := s.run (atomicAt p 7)

def execAtomicUmin (p : Pkt) (s : State) : Host.Outcome State Fault Refusal := s.run (atomicAt p 8)

def execAtomicUmax (p : Pkt) (s : State) : Host.Outcome State Fault Refusal := s.run (atomicAt p 9)

def execAtomicFadd (p : Pkt) (s : State) : Host.Outcome State Fault Refusal := s.run (atomicAt p 10)

def execAtomicBfadd (p : Pkt) (s : State) : Host.Outcome State Fault Refusal := s.run (atomicAt p 11)

def execArsp (p : Pkt) (s : State) : Host.Outcome State Fault Refusal := s.run (onPkt p 0x5E (siteResponse p))

def execAerr (p : Pkt) (s : State) : Host.Outcome State Fault Refusal :=
  s.run (.all [onPkt p 0x5F (siteResponse p), onSpare p 0x40 0x60])

def execTrgOpen (p : Pkt) (s : State) : Host.Outcome State Fault Refusal := s.run (onPkt p 0x70 (troughRequest p (trgOpen p)))

def execTrgAdd (p : Pkt) (s : State) : Host.Outcome State Fault Refusal := s.run (onPkt p 0x71 (troughRequest p (trgAdd p)))

def execTrgClose (p : Pkt) (s : State) : Host.Outcome State Fault Refusal := s.run (onPkt p 0x72 (troughRequest p (trgClose p)))

def execTrgAbort (p : Pkt) (s : State) : Host.Outcome State Fault Refusal := s.run (onPkt p 0x73 (troughRequest p (trgAbort p)))

def execTrgFinish (p : Pkt) (s : State) : Host.Outcome State Fault Refusal := s.run (onPkt p 0x76 (troughRequest p (trgFinish p)))

def execTrgAck (p : Pkt) (s : State) : Host.Outcome State Fault Refusal := s.run (onPkt p 0x74 (troughResponse p fun e => engineTrgAck e p))

def execTrgStat (p : Pkt) (s : State) : Host.Outcome State Fault Refusal := s.run (onPkt p 0x75 (troughResponse p fun e => engineTrgStat e p))

def execRegRd (p : Pkt) (s : State) : Host.Outcome State Fault Refusal := s.run (onPkt p 0x80 (regRequest p (regReadPkt p)))

def execRegWr (p : Pkt) (s : State) : Host.Outcome State Fault Refusal := s.run (onPkt p 0x81 (regRequest p (regWritePkt p)))

def execRegRsp (p : Pkt) (s : State) : Host.Outcome State Fault Refusal := s.run (onPkt p 0x82 (regResponse p))

def execRegAck (p : Pkt) (s : State) : Host.Outcome State Fault Refusal :=
  s.run (.all [onPkt p 0x83 (regResponse p), onSpare p 0x80 0xA0])

def execMeshFence (p : Pkt) (s : State) : Host.Outcome State Fault Refusal := s.run (onPkt p 0x86 (meshFence p))

def execFenceDone (p : Pkt) (s : State) : Host.Outcome State Fault Refusal := s.run (onPkt p 0x87 (siteResponse p))

/-! ### Acquires (R362, R370) -/

def execSpnAcq (p : Pkt) (s : State) : Host.Outcome State Fault Refusal :=
  s.run (onPkt p 0xA0 (match p.dst with
    | .spanEng e => spanAcquire e p
    | _ => strange p))

def execSpnAcqDone (p : Pkt) (s : State) : Host.Outcome State Fault Refusal :=
  s.run (.all [
    onPkt p 0xA1 (orAbsorbed p (match p.dst with
    | .engine e => .all [takePkt p, engineAcqDone e p]
    | .glove g k => gloveRsp g k p
    | _ => takePkt p)),
    onSpare p 0xA0 0xC0])

/-! ### The bucket queue (R187–R195, R200) -/

def execBktTile (p : Pkt) (s : State) : Host.Outcome State Fault Refusal := s.run (onPkt p 0x60 (bktTile p))

def execBktCredit (p : Pkt) (s : State) : Host.Outcome State Fault Refusal := s.run (onPkt p 0x61 (bktCredit p))

def execBktReturn (p : Pkt) (s : State) : Host.Outcome State Fault Refusal := s.run (onPkt p 0x62 (bktReturn p))

end Sys2Proof.Machine
end

