-- ==== Sys2Proof/Machine/Sleep.lean ====
section
/-! DEFINITION. How a power domain goes to sleep and wakes (R45, R99–R101, R110, R447, R448, R453). -/

namespace Sys2Proof.Machine

namespace Block

/-- The idle policy in force (R448): 0 stay on, 1 retention, 2 off. -/
def idlePolicy (b : Block) (d : Nat) : Nat :=
  min (b.f (Reg.PWR_DOM_CTL d) Fl.PWR_DOM_CTL_IDLE) (if d = 16 then 0 else if d = 19 then 1 else 2)

/-- The domain a mission test runs in (R493). -/
def missionDom (b : Block) : Option Nat :=
  let t := b.sys.ltest
  if b.on Reg.TST_LTEST_CTL Fl.TST_LTEST_CTL_MISSION then some (if t.kind = 0 then 12 + t.index / 4 else 17 + t.index) else none

/-- A well has work: a context that runs or stops, a kernel load, a reducer job, a piece of a transfer, a transaction of its
directory, a recalibration window. -/
def wellWorks (b : Block) (w : Nat) : Bool :=
  ([2 * w, 2 * w + 1].any fun e =>
    ((List.range 4).any fun c => decide (b.ctxState e c = 2 ∨ b.ctxState e c = 4) || decide ((b.vctx (ctxKey e c)).pend ≠ [])) ||
      (Tbl.get (dflt none) e b.vec.kload).isSome || decide (Tbl.get (dflt []) e b.vec.red ≠ [])) ||
    ([4 * w, 4 * w + 1, 4 * w + 2, 4 * w + 3].any fun p => decide (b.piecesOut p ≠ 0)) ||
    (b.dir.any fun e => decide (keyWell e.1 = w) && e.2.txn.isSome) || b.windowAt w

/-- A site keeps its link awake: something waits for it or is on its way. -/
def siteWorks (b : Block) (g : Nat) : Bool :=
  let s := b.site g
  let st := b.gState g
  decide (st = SiteState.training ∨ st = SiteState.fitting ∨ st = SiteState.flushing ∨ st = SiteState.resetting) ||
    decide (s.txq ≠ [] ∨ s.reads ≠ [] ∨ s.snoops ≠ [] ∨ s.heldSnoop ≠ [] ∨ s.window ≠ [] ∨ s.half ≠ [] ∨ s.tile ≠ []) ||
    decide (s.flush ≠ .none ∨ s.rst ≠ .none ∨ s.hold ≠ 0 ∨ s.recal ≠ 0 ∨ s.fitSent = true)

/-- The peers whose sessions lie on a span side. -/
def sidePeers (b : Block) (c : Nat) : List Nat := b.listedPeers.filter fun n => decide (b.spanEngOf n / 4 = c)

def sideWorks (b : Block) (c : Nat) : Bool :=
  ((b.sidePeers c).any fun n =>
    let s := b.peerSt n
    decide (s.unacked ≠ [] ∨ s.txq ≠ [] ∨ s.inject ≠ []) || s.moving) ||
    (b.span.ins.any fun i => decide (i.eng / 4 = c)) || (b.span.waitDrain.any fun e => decide (e.1 / 4 = c)) ||
    (b.span.acqWrap.any fun e => decide (e.1 / 4 = c)) || (b.span.fills.any fun f => decide (f.line.slice / 4 = c))

/-- The units of a domain have work. -/
def domBusy (b : Block) (d : Nat) : Bool :=
  if d < 12 then b.wellWorks d
  else if d < 16 then (List.range 4).any fun k => b.siteWorks (4 * (d - 12) + k)
  else if d = 17 ∨ d = 18 then b.sideWorks (d - 17)
  else if d = 19 then (List.range 4).any fun q => decide (b.hstF q Fl.HST_STATUS_PSTATE < 4)
  else true

/-- A domain has work, or a packet for one of its endpoints has not been taken. -/
def domWorks (b : Block) (d : Nat) : Bool := (b.noc.net.any fun p => decide (b.epDom p.dst = some d)) || b.domBusy d

/-- What keeps a domain from going deeper than retention (R110, R200, R261, R294, R342, R372). -/
def offBarred (b : Block) (d : Nat) : Bool :=
  if d < 12 then
    ([2 * d, 2 * d + 1].any fun e =>
      ((List.range 8).any fun k => b.on (Reg.VEC_KERNEL e k) Fl.VEC_KERNEL_VALID) ||
        ((List.range 4).any fun c => decide (b.ctxState e c ≠ 0)) ||
        (List.range 16).any fun t => b.on (Reg.VEC_TREG e t) Fl.VEC_TREG_BIND) ||
      (b.mem.clear.any fun k => decide (k / 2 ^ 19 = d)) ||
      [4 * d, 4 * d + 1, 4 * d + 2, 4 * d + 3].any fun p => decide (b.workSlots p ≠ []) ||
        (List.range 4096).any fun i => decide (b.intakePump i = p ∧ (b.intakeSt i).held ≠ [])
  else if d < 16 then (List.range 4).any fun k => b.listed (4 * (d - 12) + k)
  else (b.sidePeers (d - 17)).any fun n => decide (b.peerState n = PeerState.up)

/-- The depth a domain may enter now. -/
def sleepDepth (b : Block) (d : Nat) : Nat :=
  if b.idlePolicy d = 2 ∧ b.offBarred d then 1 else b.idlePolicy d

/-- The domain may change its depth: it is on, or in retention with a deeper policy; nothing in it holds it on. -/
def maySettle (b : Block) (d : Nat) : Bool :=
  decide (b.domState d < 2) && decide (b.domState d < b.sleepDepth d) && !(b.domSt d).waking &&
    !testMode b && decide (b.missionDom ≠ some d) && !b.domBusy d

/-- And no packet for it has not been taken. -/
def maySleep (b : Block) (d : Nat) : Bool := b.maySettle d && !b.domWorks d

end Block

/-- A domain enters retention (1) or goes off (2) (R110, R275, R453). -/
def sleepAt (d depth : Nat) : Prog := .all [
  .when (decide (d < 12)) (.all [drainWell d, .when (decide (depth = 2)) (emptyCache d)]),
  .when (decide (12 ≤ d ∧ d < 16 ∧ depth = 2)) (.each (List.range 4) fun k => modGlv (4 * (d - 12) + k) fun s => { s with linkUp := false }),
  setF (Reg.PWR_DOM_STATUS d) Fl.PWR_DOM_STATUS_STATE depth,
  .each (domRegions d) fun r => .all [
    setF (Reg.MON_TMG_REGION r) Fl.MON_TMG_REGION_STATE 5, modRegion r fun s => { s with calibrated := false }],
  modDom d fun s => { s with goingOff := false },
  writeVdd]

/-- The directory entries of a well that hold a line. -/
def Block.linesOf (b : Block) (w : Nat) : List (Nat × DirEnt) := b.dir.filter fun e => decide (keyWell e.1 = w ∧ e.2.ds ≠ .i)

/-- The home recalls an entry. -/
def recallEntry (key : Nat) (d : DirEnt) : Prog :=
  let bank := Ep.bank (keyWell key) (homeBank d.pa)
  openTxn key (Pkt.bare 0 d.pa 0 0 bank bank) .recall (d.holders.map fun g => (g, 0x32))

/-- The domain has been idle for IDLE_US; a well whose directory holds lines recalls them before it goes off (R294). -/
def idleEntry (d : Nat) : Prog := .read fun b =>
  .when (b.maySleep d) (
    if d < 12 ∧ b.sleepDepth d = 2 ∧ b.linesOf d ≠ [] then .all [
      modDom d fun s => { s with goingOff := true },
      .each (b.linesOf d) fun e => recallEntry e.1 e.2]
    else sleepAt d (b.sleepDepth d))

def execDomainIdleEntry (d : Fin 20) (s : State) : Host.Outcome State Fault Refusal := s.run (idleEntry d)

/-- A well that has recalled every entry goes off, and wakes at once for a packet that came meanwhile (R101); work in it keeps it
on. -/
def goOff : Prog := .each (List.range 12) fun d => .read fun b =>
  .when ((b.domSt d).goingOff && decide (b.linesOf d = [])) (
    if b.maySettle d then .all [
      sleepAt d (b.sleepDepth d),
      .when (decide (Tbl.get (dflt []) d b.noc.wakeBuf ≠ [])) (packetWake d)]
    else .all [modDom d fun s => { s with goingOff := false }, deliverHeld d])

/-- A domain has woken (R99, R100): held packets are delivered; after a wake from off its regions have been calibrated (R45), a site's
link has come up (R110), and the domain stands at its effective OP. -/
def wakeDone (d : Nat) : Prog := .read fun b =>
  let off := decide (b.domState d = 2)
  .when (b.domAsleep d && (b.domSt d).waking && (!off || (domRegions d).all fun r => (b.region r).calibrated)) (.all [
    setF (Reg.PWR_DOM_STATUS d) Fl.PWR_DOM_STATUS_STATE 0,
    .each (domRegions d) fun r => .all [
      setF (Reg.MON_TMG_REGION r) Fl.MON_TMG_REGION_STATE 1, modRegion r fun s => { s with calibrated := false }],
    .when (decide (12 ≤ d ∧ d < 16) && off) (.each (List.range 4) fun k =>
      let g := 4 * (d - 12) + k
      .when ((b.site g).fitted && !(b.site g).fenced) (modGlv g fun s => { s with linkUp := true, woke := true })),
    refreshFloor d,
    .read fun b => .when off (setF (Reg.PWR_DOM_STATUS d) Fl.PWR_DOM_STATUS_OP (b.effOp d)),
    modDom d fun s => { s with waking := false },
    writeVdd,
    kickDomain d,
    deliverHeld d,
    .when (decide (12 ≤ d ∧ d < 16)) (.each (List.range 4) fun k =>
      let g := 4 * (d - 12) + k
      .all [
        pumpTx g,
        .when (decide ((b.site g).rst = .waking)) (.all [
          modGlv g fun s => { s with rst := .none },
          match b.sitePart g with
          | some p => if b.partResetting p then resetFence g false else startReset g (b.site g).rstForce
          | none => startReset g (b.site g).rstForce])]),
    hubGoesOn])

def execDomainWakeDone (d : Fin 20) (s : State) : Host.Outcome State Fault Refusal := s.run (wakeDone d)

end Sys2Proof.Machine
end

