-- ==== Sys2Proof/Machine/VecArith.lean ====
section
/-! DEFINITION. Vector arithmetic and compares (R214, R215). -/

namespace Sys2Proof.Machine

/-! ### The shape all of them share -/

/-- What a vector instruction of R214 reads beside A: B, C; which formats it allows; whether B is a signed integer whatever
the format (R209). -/
structure ArithShape where
  useB : Bool
  useC : Bool
  fmts : Nat → Bool
  intB : Bool

/-- Any float format, any integer format, both; INT32 and INT8. -/
def fmtsF : Nat → Bool := fmtFloat
def fmtsI : Nat → Bool := fmtInt
def fmtsFI (f : Nat) : Bool := fmtFloat f || fmtInt f
def fmtsSat (f : Nat) : Bool := decide (f = 5 ∨ f = 7)

def vecReads (h : ArithShape) (w : Nat) : List VReg :=
  .v (Ins.a w) :: (if h.useB then bReg w else []) ++ (if h.useC then [.v (Ins.c w)] else [])

/-- The checks before issue (R203, R206). -/
def arithOk (h : ArithShape) (x : VecCtx) (w : Nat) : Bool :=
  h.fmts (Ins.fmt w) && decide (fmtWidth (Ins.fmt w) = x.ew) && (if h.useB then bOk true 64 w else noB w) &&
    (h.useC || decide (Ins.c w = 0))

/-- What an element's operation is given: the format, the rounding mode, the element's draw, a free number for an element
whose result the manual does not state, the operands. -/
structure ElemIn where
  fmt  : Nat
  mode : Nat
  u    : Nat
  free : Nat
  a    : Nat
  b    : Nat
  c    : Nat

/-- An elementwise instruction: each active element's result, its flags, the rest of the destination as R204 says. -/
def vecArith (e c op : Nat) (h : ArithShape) (g : ElemIn → FRes) : Prog :=
  vecIssue e c {
    op := op, legal := fun _ x w => arithOk h x w && rmOk (Ins.rm w),
    reads := vecReads h, writes := fun w => [.v (Ins.d w)],
    body := fun b x w =>
      let f := Ins.fmt w
      let fw := fmtWidth f
      let mode := x.modeOf (Ins.rm w)
      let res := (x.active (Ins.mask w)).map fun i => (i, g {
        fmt := f, mode := mode, u := srDraw b i, free := Config.freeElem b.free i,
        a := x.elem fw (Ins.a w) i, b := x.bElem f h.intB w i, c := x.elem fw (Ins.c w) i })
      .all [
        modCtx (ctxKey e c) fun y =>
          y.putV fw (Ins.mask w) (Ins.d w) (res.map fun r => (r.1, r.2.val)) ((vecReads h w).any x.isPois),
        setFlags e c (res.foldl (fun n r => n ||| r.2.flags) 0),
        .edit .free] }

/-! ### Integers -/

namespace ElemIn
def w (i : ElemIn) : Nat := fmtWidth i.fmt
/-- A format's integers: UINT32 alone is unsigned. -/
def int (i : ElemIn) (n : Nat) : Int := if i.fmt = 6 then (n : Int) else signed i.w n
def ff (i : ElemIn) : FFmt := fmtOf i.fmt
def va (i : ElemIn) : FVal := i.ff.decode i.a
def vb (i : ElemIn) : FVal := i.ff.decode i.b
def vc (i : ElemIn) : FVal := i.ff.decode i.c
def isF (i : ElemIn) : Bool := fmtFloat i.fmt
def signBit (i : ElemIn) : Nat := 2 ^ (i.w - 1)
end ElemIn

/-- An integer result with no flag, cut to the width. -/
def ElemIn.wrap (i : ElemIn) (v : Int) : FRes := ⟨wrapInt i.w v, 0⟩

/-- An integer saturated to the format, with SAT when it saturates. -/
def ElemIn.saturate (i : ElemIn) (v : Int) : FRes :=
  let hi : Int := 2 ^ (i.w - 1) - 1
  let lo : Int := -(2 ^ (i.w - 1))
  if v < lo then ⟨wrapInt i.w lo, Flag.sat⟩ else if hi < v then ⟨wrapInt i.w hi, Flag.sat⟩ else ⟨wrapInt i.w v, 0⟩

/-- |a| for an integer; the most negative value has none in its format, and the manual states no result for it. -/
def ElemIn.absInt (i : ElemIn) : FRes :=
  if i.fmt ≠ 6 ∧ i.a = i.signBit then ⟨i.free % 2 ^ i.w, 0⟩ else i.wrap (i.int i.a).natAbs

/-- -a for an integer; where the format does not hold it, the manual states no result. -/
def ElemIn.negInt (i : ElemIn) : FRes :=
  if (i.fmt ≠ 6 ∧ i.a = i.signBit) ∨ (i.fmt = 6 ∧ i.a ≠ 0) then ⟨i.free % 2 ^ i.w, 0⟩ else i.wrap (-(i.int i.a))

def minInt (big : Bool) (i : ElemIn) : FRes :=
  if i.int i.a < i.int i.b then ⟨if big then i.b else i.a, 0⟩ else ⟨if big then i.a else i.b, 0⟩

/-- The arithmetic shift of an element. -/
def sraElem (i : ElemIn) : FRes := i.wrap (signed i.w i.a / 2 ^ (i.b % i.w))

/-! ### The instructions -/

def shapeFI2 : ArithShape := ⟨true, false, fmtsFI, false⟩
def shapeFI1 : ArithShape := ⟨false, false, fmtsFI, false⟩
def shapeF1 : ArithShape := ⟨false, false, fmtsF, false⟩
def shapeF2 : ArithShape := ⟨true, false, fmtsF, false⟩
def shapeF3 : ArithShape := ⟨true, true, fmtsF, false⟩
def shapeI2 : ArithShape := ⟨true, false, fmtsI, false⟩
def shapeSat : ArithShape := ⟨true, false, fmtsSat, false⟩
/-- VSCALB: b a signed integer of the element width in every format. -/
def shapeScalb : ArithShape := ⟨true, false, fmtsF, true⟩

def execVadd (e : Fin 24) (c : Fin 4) (s : State) : Host.Outcome State Fault Refusal :=
  s.run (vecArith e c 0x30 shapeFI2 fun i => if i.isF then i.ff.add i.mode i.u i.va i.vb else i.wrap (i.int i.a + i.int i.b))

def execVsub (e : Fin 24) (c : Fin 4) (s : State) : Host.Outcome State Fault Refusal :=
  s.run (vecArith e c 0x31 shapeFI2 fun i => if i.isF then i.ff.add i.mode i.u i.va i.vb.flip else i.wrap (i.int i.a - i.int i.b))

def execVmul (e : Fin 24) (c : Fin 4) (s : State) : Host.Outcome State Fault Refusal :=
  s.run (vecArith e c 0x32 shapeFI2 fun i => if i.isF then i.ff.mul i.mode i.u i.va i.vb else i.wrap (i.int i.a * i.int i.b))

def execVmin (e : Fin 24) (c : Fin 4) (s : State) : Host.Outcome State Fault Refusal :=
  s.run (vecArith e c 0x33 shapeFI2 fun i => if i.isF then i.ff.minmax false i.a i.b else minInt false i)

def execVmax (e : Fin 24) (c : Fin 4) (s : State) : Host.Outcome State Fault Refusal :=
  s.run (vecArith e c 0x34 shapeFI2 fun i => if i.isF then i.ff.minmax true i.a i.b else minInt true i)

def execVabs (e : Fin 24) (c : Fin 4) (s : State) : Host.Outcome State Fault Refusal :=
  s.run (vecArith e c 0x35 shapeFI1 fun i => if i.isF then ⟨i.a % i.signBit, 0⟩ else i.absInt)

def execVneg (e : Fin 24) (c : Fin 4) (s : State) : Host.Outcome State Fault Refusal :=
  s.run (vecArith e c 0x36 shapeFI1 fun i => if i.isF then ⟨i.a ^^^ i.signBit, 0⟩ else i.negInt)

def execVdiv (e : Fin 24) (c : Fin 4) (s : State) : Host.Outcome State Fault Refusal :=
  s.run (vecArith e c 0x37 shapeF2 fun i => i.ff.div i.mode i.u i.va i.vb)

def execVsqrt (e : Fin 24) (c : Fin 4) (s : State) : Host.Outcome State Fault Refusal :=
  s.run (vecArith e c 0x38 shapeF1 fun i => i.ff.sqrt i.mode i.u i.va)

def execVfma (e : Fin 24) (c : Fin 4) (s : State) : Host.Outcome State Fault Refusal :=
  s.run (vecArith e c 0x39 shapeF3 fun i => i.ff.fma i.mode i.u i.va i.vb i.vc)

def execVfms (e : Fin 24) (c : Fin 4) (s : State) : Host.Outcome State Fault Refusal :=
  s.run (vecArith e c 0x3A shapeF3 fun i => i.ff.fma i.mode i.u i.va i.vb i.vc.flip)

def execVfnma (e : Fin 24) (c : Fin 4) (s : State) : Host.Outcome State Fault Refusal :=
  s.run (vecArith e c 0x3B shapeF3 fun i => i.ff.fma i.mode i.u i.va.flip i.vb i.vc)

def execVscalb (e : Fin 24) (c : Fin 4) (s : State) : Host.Outcome State Fault Refusal :=
  s.run (vecArith e c 0x3C shapeScalb fun i => i.ff.scalb i.mode i.u i.va (signed i.w i.b))

def execVgetexp (e : Fin 24) (c : Fin 4) (s : State) : Host.Outcome State Fault Refusal :=
  s.run (vecArith e c 0x3D shapeF1 fun i => i.ff.getExp i.mode i.u i.va)

def execVgetmant (e : Fin 24) (c : Fin 4) (s : State) : Host.Outcome State Fault Refusal :=
  s.run (vecArith e c 0x3E shapeF1 fun i => i.ff.getMant i.a)

def execVand (e : Fin 24) (c : Fin 4) (s : State) : Host.Outcome State Fault Refusal :=
  s.run (vecArith e c 0x40 shapeI2 fun i => ⟨i.a &&& i.b, 0⟩)

def execVor (e : Fin 24) (c : Fin 4) (s : State) : Host.Outcome State Fault Refusal :=
  s.run (vecArith e c 0x41 shapeI2 fun i => ⟨i.a ||| i.b, 0⟩)

def execVxor (e : Fin 24) (c : Fin 4) (s : State) : Host.Outcome State Fault Refusal :=
  s.run (vecArith e c 0x42 shapeI2 fun i => ⟨i.a ^^^ i.b, 0⟩)

def execVandn (e : Fin 24) (c : Fin 4) (s : State) : Host.Outcome State Fault Refusal :=
  s.run (vecArith e c 0x43 shapeI2 fun i => ⟨i.a &&& (i.b ^^^ (2 ^ i.w - 1)), 0⟩)

def execVsll (e : Fin 24) (c : Fin 4) (s : State) : Host.Outcome State Fault Refusal :=
  s.run (vecArith e c 0x44 shapeI2 fun i => ⟨i.a * 2 ^ (i.b % i.w) % 2 ^ i.w, 0⟩)

def execVsrl (e : Fin 24) (c : Fin 4) (s : State) : Host.Outcome State Fault Refusal :=
  s.run (vecArith e c 0x45 shapeI2 fun i => ⟨i.a / 2 ^ (i.b % i.w), 0⟩)

def execVsra (e : Fin 24) (c : Fin 4) (s : State) : Host.Outcome State Fault Refusal :=
  s.run (vecArith e c 0x46 shapeI2 fun i => sraElem i)

def execVsadd (e : Fin 24) (c : Fin 4) (s : State) : Host.Outcome State Fault Refusal :=
  s.run (vecArith e c 0x47 shapeSat fun i => i.saturate (i.int i.a + i.int i.b))

def execVssub (e : Fin 24) (c : Fin 4) (s : State) : Host.Outcome State Fault Refusal :=
  s.run (vecArith e c 0x48 shapeSat fun i => i.saturate (i.int i.a - i.int i.b))

def execVmulh (e : Fin 24) (c : Fin 4) (s : State) : Host.Outcome State Fault Refusal :=
  s.run (vecArith e c 0x49 shapeI2 fun i => i.wrap (i.int i.a * i.int i.b / 2 ^ i.w))

/-! ### Compares (R215) -/

/-- The order of two elements, and whether either is a NaN. -/
def elemLt (f a b : Nat) : Bool :=
  if fmtFloat f then FVal.lt ((fmtOf f).decode a) ((fmtOf f).decode b)
  else if f = 6 then decide (a < b) else decide (signed (fmtWidth f) a < signed (fmtWidth f) b)

def elemEq (f a b : Nat) : Bool :=
  if fmtFloat f then FVal.eq ((fmtOf f).decode a) ((fmtOf f).decode b) else decide (a = b)

def elemNan (f a b : Nat) : Bool := fmtFloat f && (((fmtOf f).decode a).isNan || ((fmtOf f).decode b).isNan)

/-- A compare: bits of mD, no poison; with `quiet` a NaN sets no flag, else NV. -/
def vecCompare (e c op : Nat) (quiet : Bool) (g : Nat → Nat → Nat → Bool) : Prog :=
  vecIssue e c {
    op := op,
    legal := fun _ x w => arithOk shapeFI2 x w && decide (Ins.rm w = 0) && decide (Ins.d w < 8),
    reads := vecReads shapeFI2, writes := fun _ => [],
    body := fun _ x w =>
      let f := Ins.fmt w
      let ab := (x.active (Ins.mask w)).map fun i => (i, x.elem (fmtWidth f) (Ins.a w) i, x.bElem f false w i)
      .all [
        modCtx (ctxKey e c) fun y => y.putM (Ins.d w) (ab.map fun t => (t.1, g f t.2.1 t.2.2)),
        setFlags e c (if !quiet && ab.any (fun t => elemNan f t.2.1 t.2.2) then Flag.nv else 0)] }

def execVcmpeq (e : Fin 24) (c : Fin 4) (s : State) : Host.Outcome State Fault Refusal :=
  s.run (vecCompare e c 0x4A true elemEq)

def execVcmpne (e : Fin 24) (c : Fin 4) (s : State) : Host.Outcome State Fault Refusal :=
  s.run (vecCompare e c 0x4B true fun f a b => !elemEq f a b)

def execVcmplt (e : Fin 24) (c : Fin 4) (s : State) : Host.Outcome State Fault Refusal :=
  s.run (vecCompare e c 0x4C false elemLt)

def execVcmple (e : Fin 24) (c : Fin 4) (s : State) : Host.Outcome State Fault Refusal :=
  s.run (vecCompare e c 0x4D false fun f a b => !elemNan f a b && !elemLt f b a)

end Sys2Proof.Machine
end

