-- ==== Sys2Proof/Machine/VecMove.lean ====
section
/-! DEFINITION. Data movement, conversions and mask instructions (R216–R221). -/

namespace Sys2Proof.Machine

/-! ### Data movement (R216) -/

/-- FMT is any format of the SETVL width that arithmetic takes. -/
def moveFmt (x : VecCtx) (w : Nat) : Bool :=
  (fmtFloat (Ins.fmt w) || fmtInt (Ins.fmt w)) && decide (fmtWidth (Ins.fmt w) = x.ew) && decide (Ins.rm w = 0)

/-- B names a scalar. -/
def bScalar (w : Nat) : Bool := decide (Ins.bsrc w = 0 ∧ Ins.imm20 w = 0 ∧ Ins.b w < 32)

/-- A movement that writes vD element by element: what active element `i` becomes, if anything. -/
def vecMove (e c op : Nat) (legal : VecCtx → Nat → Bool) (reads : Nat → List VReg)
    (g : VecCtx → Nat → Nat → Option Nat) : Prog :=
  vecIssue e c {
    op := op, legal := fun _ x w => moveFmt x w && legal x w, reads := reads, writes := fun w => [.v (Ins.d w)],
    body := fun _ x w => modCtx (ctxKey e c) fun y =>
      y.putV x.ew (Ins.mask w) (Ins.d w)
        ((x.active (Ins.mask w)).filterMap fun i => (g x w i).map fun v => (i, v)) ((reads w).any x.isPois) }

def execVsel (e : Fin 24) (c : Fin 4) (s : State) : Host.Outcome State Fault Refusal :=
  s.run (vecMove e c 0x4E
    (fun _ w => decide (Ins.mask w = 0 ∧ Ins.c w < 8) && bOk true 64 w)
    (fun w => .v (Ins.a w) :: bReg w)
    fun x w i => some (if (x.mreg (Ins.c w)).testBit i then x.elem x.ew (Ins.a w) i else x.bElem (Ins.fmt w) false w i))

def execVmov (e : Fin 24) (c : Fin 4) (s : State) : Host.Outcome State Fault Refusal :=
  s.run (vecMove e c 0x4F (fun _ w => decide (Ins.a w = 0 ∧ Ins.c w = 0) && bOk true 64 w) bReg
    fun x w i => some (x.bElem (Ins.fmt w) false w i))

def execVid (e : Fin 24) (c : Fin 4) (s : State) : Host.Outcome State Fault Refusal :=
  s.run (vecMove e c 0x50 (fun _ w => fmtInt (Ins.fmt w) && decide (Ins.a w = 0 ∧ Ins.c w = 0) && noB w) (fun _ => [])
    fun _ _ i => some i)

/-- Element `k` of vA, or 0 past the register. -/
def elemOr0 (x : VecCtx) (w k : Nat) : Nat := if k < vlmax x.ew then x.elem x.ew (Ins.a w) k else 0

def execVslidedn (e : Fin 24) (c : Fin 4) (s : State) : Host.Outcome State Fault Refusal :=
  s.run (vecMove e c 0x51 (fun _ w => decide (Ins.c w = 0) && bScalar w) (fun w => [.v (Ins.a w), .s (Ins.b w)])
    fun x w i => some (elemOr0 x w (i + (x.sc (Ins.b w)).toNat)))

def execVslideup (e : Fin 24) (c : Fin 4) (s : State) : Host.Outcome State Fault Refusal :=
  s.run (vecMove e c 0x52 (fun _ w => decide (Ins.c w = 0) && bScalar w) (fun w => [.v (Ins.a w), .s (Ins.b w)])
    fun x w i =>
      let k := (x.sc (Ins.b w)).toNat
      if k ≤ i then some (x.elem x.ew (Ins.a w) (i - k)) else none)

def execVperm (e : Fin 24) (c : Fin 4) (s : State) : Host.Outcome State Fault Refusal :=
  s.run (vecMove e c 0x53 (fun _ w => decide (Ins.c w = 0) && bOk true 64 w) (fun w => .v (Ins.a w) :: bReg w)
    fun x w i => some (elemOr0 x w (x.bElem (Ins.fmt w) false w i)))

def execVmovvs (e : Fin 24) (c : Fin 4) (s : State) : Host.Outcome State Fault Refusal :=
  s.run (vecIssue e c {
    op := 0x54,
    legal := fun _ x w => moveFmt x w && decide (Ins.mask w = 0 ∧ Ins.c w = 0 ∧ Ins.d w < 32) && bScalar w,
    reads := fun w => [.v (Ins.a w), .s (Ins.b w)], writes := fun w => [.s (Ins.d w)],
    body := fun _ x w => modCtx (ctxKey e c) fun y =>
      y.putS (Ins.d w) (BitVec.ofNat 64 (elemOr0 x w (x.sc (Ins.b w)).toNat))
        (x.isPois (.v (Ins.a w))) })

/-- VMOVSV changes one element of vD and keeps the rest; an index past the register changes nothing. -/
def execVmovsv (e : Fin 24) (c : Fin 4) (s : State) : Host.Outcome State Fault Refusal :=
  s.run (vecIssue e c {
    op := 0x55,
    legal := fun _ x w => moveFmt x w && decide (Ins.mask w = 0 ∧ Ins.c w = 0 ∧ Ins.a w < 32) && bScalar w,
    reads := fun w => [.s (Ins.a w), .s (Ins.b w)], writes := fun w => [.v (Ins.d w)],
    body := fun _ x w =>
      let k := (x.sc (Ins.b w)).toNat
      .when (decide (k < vlmax x.ew)) (modCtx (ctxKey e c) fun y => { y with
        v := putElem x.ew (Ins.d w) y.v k (x.sc (Ins.a w)).toNat,
        vPois := putBit y.vPois (Ins.d w)
          (x.isPois (.v (Ins.d w)) || x.isPois (.s (Ins.a w))) }) })

/-! ### VCVT (R217, R218) -/

def cvtSrc (w : Nat) : Nat := bits (Ins.imm20 w) 16 4
def cvtPart (w : Nat) : Nat := bits (Ins.imm20 w) 14 2
def cvtSat (w : Nat) : Bool := (Ins.imm20 w).testBit 13
def cvtRest (w : Nat) : Bool := decide (Ins.imm20 w % 2 ^ 13 = 0 ∧ Ins.bsrc w = 0 ∧ Ins.b w = 0)

/-- The integers a format holds. -/
def intLo (f : Nat) : Int := if f = 6 then 0 else -(2 ^ (fmtWidth f - 1))
def intHi (f : Nat) : Int := if f = 6 then 2 ^ 32 - 1 else 2 ^ (fmtWidth f - 1) - 1

/-- One element converted.  Between integer formats a value the destination does not hold has no stated result. -/
def cvtElem (src dst mode u free : Nat) (sat : Bool) (v : Nat) : FRes :=
  let fw := fmtWidth dst
  if fmtFloat src then
    if fmtFloat dst then (fmtOf src).convert (fmtOf dst) mode u sat v
    else
      let (i, fl) := toIntSat mode u (intLo dst) (intHi dst) ((fmtOf src).decode v)
      ⟨wrapInt fw i, fl⟩
  else
    let i : Int := if src = 6 then (v : Int) else signed (fmtWidth src) v
    if fmtFloat dst then (fmtOf dst).ofInt mode u sat i
    else if intLo dst ≤ i ∧ i ≤ intHi dst then ⟨wrapInt fw i, 0⟩ else ⟨free % 2 ^ fw, 0⟩

/-- VCVT.  A narrower destination takes elements p × Nw + i and keeps every other element of the register. -/
def execVcvt (e : Fin 24) (c : Fin 4) (s : State) : Host.Outcome State Fault Refusal :=
  s.run (vecIssue e c {
    op := 0x60,
    legal := fun _ x w =>
      let sf := cvtSrc w
      let df := Ins.fmt w
      let wide := max (fmtWidth sf) (fmtWidth df)
      decide (sf ≤ 7 ∧ df ≤ 7 ∧ wide = x.ew ∧ cvtPart w < wide / min (fmtWidth sf) (fmtWidth df) ∧ Ins.c w = 0) &&
        cvtRest w && rmOk (Ins.rm w),
    reads := fun w => [.v (Ins.a w)], writes := fun w => [.v (Ins.d w)],
    body := fun b x w =>
      let sf := cvtSrc w
      let df := Ins.fmt w
      let mode := x.modeOf (Ins.rm w)
      let base := cvtPart w * vlmax x.ew
      let srcBase := if fmtWidth sf < x.ew then base else 0
      let res := (x.active (Ins.mask w)).map fun i =>
        (i, cvtElem sf df mode (srDraw b i) (Config.freeElem b.free i) (cvtSat w) (x.elem (fmtWidth sf) (Ins.a w) (srcBase + i)))
      let pois := x.isPois (.v (Ins.a w))
      .all [
        modCtx (ctxKey e c) fun y =>
          if fmtWidth df < x.ew then
            { y with
              v := res.foldl (fun t r => putElem (fmtWidth df) (Ins.d w) t (base + r.1) r.2.val) y.v,
              vPois := putBit y.vPois (Ins.d w) (pois || x.isPois (.v (Ins.d w))) }
          else y.putV x.ew (Ins.mask w) (Ins.d w) (res.map fun r => (r.1, r.2.val)) pois,
        setFlags e c (res.foldl (fun n r => n ||| r.2.flags) 0),
        .edit .free] })

/-! ### MX blocks (R219, R220) -/

/-- emax of an MX format's elements. -/
def mxEmax (f : Nat) : Int := if f = 8 then 8 else if f = 9 then 15 else if f = 10 then 4 else 2

/-- The scale byte of a block of FP32 words: 0x00 for zeros, 0xFF when a NaN is among them.  Where no E8M0 byte is the stated
power of two, or an infinity is the largest magnitude, the manual states no scale. -/
def mxScale (f free : Nat) (vals : List Nat) : Nat :=
  let ds := vals.map FFmt.fp32.decode
  if ds.any FVal.isNan then 0xFF
  else if ds.all FVal.isZero then 0
  else if ds.any (fun d => match d with
      | .inf _ => true
      | _ => false) then free % 256
  else
    let top := ds.foldl (fun (n : Int) d => match d with
      | .fin _ m ex => if m = 0 then n else max n (floorLog2 m ex)
      | _ => n) (-1000)
    let k := top - mxEmax f + 127
    if 0 ≤ k ∧ k ≤ 254 then k.toNat else free % 256

/-- One element divided by its block's scale and rounded to the element format. -/
def mxElem (f mode u free scale : Nat) (satcvt : Bool) (v : Nat) : FRes :=
  let g := fmtOf f
  let sat := satcvt || decide (f = 8 ∨ f = 11 ∨ f = 12)
  if scale = 0xFF then ⟨if g.nan then g.cnan else free % 2 ^ g.width, 0⟩
  else match FFmt.fp32.decode v with
    | .nan s => ⟨if g.nan then g.cnan else free % 2 ^ g.width, if s then Flag.nv else 0⟩
    | .inf n => if sat then ⟨g.maxFin n, Flag.of_ ||| Flag.nx⟩
      else if g.inf then ⟨g.infW n, 0⟩ else ⟨free % 2 ^ g.width, Flag.of_ ||| Flag.nx⟩
    | .fin n m ex =>
      let r := g.round mode u sat n m (ex - ((scale : Int) - 127))
      if !sat && !g.inf && r.flags.testBit 2 then ⟨free % 2 ^ g.width, r.flags⟩ else r

/-- VCVTMX packs FP32 into MX: elements into vD from byte 0, scales into sC. -/
def execVcvtmx (e : Fin 24) (c : Fin 4) (s : State) : Host.Outcome State Fault Refusal :=
  s.run (vecIssue e c {
    op := 0x61,
    legal := fun _ x w =>
      fmtMx (Ins.fmt w) && rmOk (Ins.rm w) && cvtRest w &&
        decide (x.ew = 32 ∧ x.vl % 32 = 0 ∧ x.vl ≤ 256 ∧ Ins.c w < 32 ∧ cvtSrc w = 0 ∧ cvtPart w = 0),
    reads := fun w => [.v (Ins.a w)], writes := fun w => [.v (Ins.d w), .s (Ins.c w)],
    body := fun b x w =>
      let f := Ins.fmt w
      let ew := fmtWidth f
      let mode := x.modeOf (Ins.rm w)
      let val := fun i => if (x.mreg (Ins.mask w)).testBit i then x.elem 32 (Ins.a w) i else 0
      let blocks := (List.range (x.vl / 32)).map fun j =>
        mxScale f (Config.freeElem b.free (1024 + j)) ((List.range 32).map fun k => val (32 * j + k))
      let res := (List.range x.vl).map fun i =>
        if (x.mreg (Ins.mask w)).testBit i then
          mxElem f mode (srDraw b i) (Config.freeElem b.free (2048 + i)) (blocks.getD (i / 32) 0) (cvtSat w) (val i)
        else ⟨0, 0⟩
      let word := ((List.range x.vl).zip res).foldl (fun n r => n + r.2.val * 2 ^ (ew * r.1)) 0
      let nb := x.vl * ew / 8
      let pois := x.isPois (.v (Ins.a w))
      let signal := (List.range x.vl).any fun i => (FFmt.fp32.decode (val i)).signals
      .all [
        modCtx (ctxKey e c) fun y =>
          let v1 := ((List.range nb).zip (toBytesLE nb word)).foldl (fun t p => putElem 8 (Ins.d w) t p.1 p.2.toNat) y.v
          let v2 := if y.tailZ then
              ((List.range 1024).filter fun i => nb ≤ i).foldl (fun t i => putElem 8 (Ins.d w) t i 0) v1
            else v1
          { y with v := v2, vPois := putBit y.vPois (Ins.d w) (pois || (!y.tailZ && decide (nb < 1024) && x.isPois (.v (Ins.d w)))) },
        modCtx (ctxKey e c) fun y => y.putS (Ins.c w) (BitVec.ofNat 64 (ofBytesLE (blocks.map (BitVec.ofNat 8)))) pois,
        setFlags e c (res.foldl (fun n r => n ||| r.flags) (if signal then Flag.nv else 0)),
        .edit .free] })

/-- `n` bits of a vector register from bit `o`. -/
def VecCtx.bitsAt (x : VecCtx) (r o n : Nat) : Nat :=
  bits ((Tbl.get (dflt 0) (r * 256 + o / 32) x.v).toNat +
    (if o / 32 + 1 < 256 then (Tbl.get (dflt 0) (r * 256 + o / 32 + 1) x.v).toNat else 0) * 2 ^ 32) (o % 32) n

/-- VUNMX: each packed element times its scale, exact, or rounded below the normal range. -/
def execVunmx (e : Fin 24) (c : Fin 4) (s : State) : Host.Outcome State Fault Refusal :=
  s.run (vecIssue e c {
    op := 0x62,
    legal := fun _ x w =>
      rmOk (Ins.rm w) && cvtRest w && fmtMx (cvtSrc w) &&
        decide (x.ew = 32 ∧ Ins.fmt w = 0 ∧ Ins.c w < 32 ∧ cvtPart w = 0) && !cvtSat w,
    reads := fun w => [.v (Ins.a w), .s (Ins.c w)], writes := fun w => [.v (Ins.d w)],
    body := fun b x w =>
      let f := cvtSrc w
      let ew := fmtWidth f
      let mode := x.modeOf (Ins.rm w)
      let res := (x.active (Ins.mask w)).map fun i =>
        let scale := bits (x.sc (Ins.c w)).toNat (8 * (i / 32)) 8
        (i, if scale = 0xFF then FFmt.fp32.nanRes false
          else FFmt.fp32.scalb mode (srDraw b i) ((fmtOf f).decode (x.bitsAt (Ins.a w) (ew * i) ew)) ((scale : Int) - 127))
      .all [
        modCtx (ctxKey e c) fun y => y.putV 32 (Ins.mask w) (Ins.d w) (res.map fun r => (r.1, r.2.val))
          (x.isPois (.v (Ins.a w)) || x.isPois (.s (Ins.c w))),
        setFlags e c (res.foldl (fun n r => n ||| r.2.flags) 0),
        .edit .free] })

/-! ### Masks (R221) -/

/-- The unused fields of a mask instruction: FMT, MASK, RM, C, BSRC, IMM20. -/
def maskRest (w : Nat) : Bool :=
  decide (Ins.fmt w = 0 ∧ Ins.mask w = 0 ∧ Ins.rm w = 0 ∧ Ins.c w = 0 ∧ Ins.bsrc w = 0 ∧ Ins.imm20 w = 0)

/-- A mask operation bit by bit below VL. -/
def vecMask (e c op : Nat) (useB : Bool) (g : Bool → Bool → Bool) : Prog :=
  vecIssue e c {
    op := op,
    legal := fun _ _ w => maskRest w && decide (Ins.d w < 8 ∧ Ins.a w < 8 ∧ Ins.b w < (if useB then 8 else 1)),
    reads := fun _ => [], writes := fun _ => [],
    body := fun _ x w => modCtx (ctxKey e c) fun y => y.putM (Ins.d w)
      ((List.range x.vl).map fun i => (i, g ((x.mreg (Ins.a w)).testBit i) ((x.mreg (Ins.b w)).testBit i))) }

def execMand (e : Fin 24) (c : Fin 4) (s : State) : Host.Outcome State Fault Refusal :=
  s.run (vecMask e c 0x70 true fun a b => a && b)
def execMor (e : Fin 24) (c : Fin 4) (s : State) : Host.Outcome State Fault Refusal :=
  s.run (vecMask e c 0x71 true fun a b => a || b)
def execMxor (e : Fin 24) (c : Fin 4) (s : State) : Host.Outcome State Fault Refusal :=
  s.run (vecMask e c 0x72 true fun a b => a != b)
def execMandn (e : Fin 24) (c : Fin 4) (s : State) : Host.Outcome State Fault Refusal :=
  s.run (vecMask e c 0x73 true fun a b => a && !b)
def execMnot (e : Fin 24) (c : Fin 4) (s : State) : Host.Outcome State Fault Refusal :=
  s.run (vecMask e c 0x74 false fun a _ => !a)

/-- A scalar formed from the set bits of mA below VL. -/
def vecMaskScalar (e c op : Nat) (g : List Nat → W64) : Prog :=
  vecIssue e c {
    op := op, legal := fun _ _ w => maskRest w && decide (Ins.d w < 32 ∧ Ins.a w < 8 ∧ Ins.b w = 0),
    reads := fun _ => [], writes := fun w => [.s (Ins.d w)],
    body := fun _ x w => modCtx (ctxKey e c) fun y =>
      y.putS (Ins.d w) (g ((List.range x.vl).filter fun i => (x.mreg (Ins.a w)).testBit i)) false }

def execMpopc (e : Fin 24) (c : Fin 4) (s : State) : Host.Outcome State Fault Refusal :=
  s.run (vecMaskScalar e c 0x75 fun l => BitVec.ofNat 64 l.length)
def execMfirst (e : Fin 24) (c : Fin 4) (s : State) : Host.Outcome State Fault Refusal :=
  s.run (vecMaskScalar e c 0x76 fun l => match l with
    | [] => BitVec.ofInt 64 (-1)
    | i :: _ => BitVec.ofNat 64 i)

/-- A mask formed whole from a scalar, tail included. -/
def vecMaskWhole (e c op : Nat) (g : Nat → Nat) : Prog :=
  vecIssue e c {
    op := op, legal := fun _ _ w => maskRest w && decide (Ins.d w < 8 ∧ Ins.a w < 32 ∧ Ins.b w = 0),
    reads := fun w => [.s (Ins.a w)], writes := fun _ => [],
    body := fun _ x w => .when (decide (Ins.d w ≠ 0)) (modCtx (ctxKey e c) fun y =>
      { y with m := Tbl.set (dflt 0) (Ins.d w) (g (x.sc (Ins.a w)).toNat) y.m }) }

def execMfroms (e : Fin 24) (c : Fin 4) (s : State) : Host.Outcome State Fault Refusal :=
  s.run (vecMaskWhole e c 0x77 fun a => a)
def execMset (e : Fin 24) (c : Fin 4) (s : State) : Host.Outcome State Fault Refusal :=
  s.run (vecMaskWhole e c 0x78 fun a => 2 ^ min a 1024 - 1)

end Sys2Proof.Machine
end

