-- ==== Sys2Proof/Machine/VecScalar.lean ====
section
/-! DEFINITION. The control and scalar instructions (R210–R213). -/

namespace Sys2Proof.Machine

/-! ### Control (R210, R212) -/

/-- Fields of the J layout an instruction leaves unused: COND, A, B, bits 39:32 always, IMM32. -/
def jOk (w : Nat) (cond a b imm : Bool) : Bool :=
  (cond || decide (Ins.cond w = 0)) && decide (Ins.ja w < if a then 32 else 1) && decide (Ins.jb w < if b then 32 else 1) &&
    decide (bits w 32 8 = 0) && (imm || decide (Ins.imm32 w = 0))

/-- A control instruction. -/
def vecCtl (e c op : Nat) (legal : Nat → Bool) (reads writes : Nat → List VReg) (body : Block → VecCtx → Nat → Prog) : Prog :=
  vecIssue e c { op := op, legal := fun _ _ w => legal w, reads := reads, writes := writes, body := body }

/-- sA of the J layout written; its poison is that of the sources. -/
def putA (e c w : Nat) (val : W64) (pois : Bool) : Prog := modCtx (ctxKey e c) fun x => x.putS (Ins.ja w) val pois

/-- A taken branch: relative to the branch itself. -/
def takeBranch (e c pc w : Nat) : Prog := setPc e c (pc + Ins.jump w)

/-- COND holds (R212). -/
def condHolds (k : Nat) (a b : W64) : Bool :=
  match k with
  | 0 => true
  | 1 => decide (a = b)
  | 2 => decide (a ≠ b)
  | 3 => decide (a.toInt < b.toInt)
  | 4 => decide (b.toInt ≤ a.toInt)
  | 5 => decide (a.toNat < b.toNat)
  | _ => decide (b.toNat ≤ a.toNat)

def execNop (e : Fin 24) (c : Fin 4) (s : State) : Host.Outcome State Fault Refusal :=
  s.run (vecCtl e c 0x01 (fun w => jOk w false false false false) (fun _ => []) (fun _ => []) fun _ _ _ => .skip)

/-- HALT waits for earlier stores, faults with code 7 on a store error, aborts open handles, copies s1, and makes the context
idle (R180, R182, R228).  Loads still out find no context to write. -/
def execHalt (e : Fin 24) (c : Fin 4) (s : State) : Host.Outcome State Fault Refusal :=
  s.run (vecIssue e c {
    op := 0x02, legal := fun _ _ w => jOk w false false false false,
    reads := fun _ => [.s 1], writes := fun _ => [],
    ready := fun _ x _ => !(x.pend.any fun p => p.write),
    refuse := fun _ x _ => if x.badSt then some (7, none) else none,
    body := fun b x _ => .all [
      abortHandles e c,
      modCtx (ctxKey e c) fun x => { x with pend := [] },
      setF (Reg.VEC_CTX_STATUS e c) Fl.VEC_CTX_STATUS_EXIT (x.sc 1).toNat,
      setF (Reg.VEC_CTX_STATUS e c) Fl.VEC_CTX_STATUS_STATE 1,
      setF (Reg.VEC_CTX_STATUS e c) Fl.VEC_CTX_STATUS_DONE 1,
      raiseIrq (.engine e) (b.ctxHat e c) (b.f (Reg.VEC_CTX_CTL e c) Fl.VEC_CTX_CTL_IRQ_VEC)] })

/-- SETVL (R172, R210). -/
def execSetvl (e : Fin 24) (c : Fin 4) (s : State) : Host.Outcome State Fault Refusal :=
  s.run (vecCtl e c 0x03
    (fun w => jOk w false true true true && decide (Ins.imm32 w < 8 ∧ Ins.imm32 w % 4 ≠ 3))
    (fun w => [.s (Ins.jb w)]) (fun w => [.s (Ins.ja w)])
    fun _ x w =>
      let ew := [32, 16, 8].getD (Ins.imm32 w % 4) 32
      let vl := min (x.sc (Ins.jb w)).toNat (vlmax ew)
      .all [
        modCtx (ctxKey e c) fun x => { x with vl := vl, ew := ew, tailZ := (Ins.imm32 w).testBit 2 },
        putA e c w (BitVec.ofNat 64 vl) (x.isPois (.s (Ins.jb w)))])

def execBr (e : Fin 24) (c : Fin 4) (s : State) : Host.Outcome State Fault Refusal :=
  s.run (vecCtl e c 0x04 (fun w => jOk w true true true true && decide (Ins.cond w ≤ 6))
    (fun w => [.s (Ins.ja w), .s (Ins.jb w)]) (fun _ => [])
    fun b x w => .when (condHolds (Ins.cond w) (x.sc (Ins.ja w)) (x.sc (Ins.jb w))) (takeBranch e c (b.ctxPc e c) w))

def execJal (e : Fin 24) (c : Fin 4) (s : State) : Host.Outcome State Fault Refusal :=
  s.run (vecCtl e c 0x05 (fun w => jOk w false true false true) (fun _ => []) (fun w => [.s (Ins.ja w)])
    fun b _ w => .all [putA e c w (BitVec.ofNat 64 (b.ctxPc e c + 1)) false, takeBranch e c (b.ctxPc e c) w])

def execJr (e : Fin 24) (c : Fin 4) (s : State) : Host.Outcome State Fault Refusal :=
  s.run (vecCtl e c 0x06 (fun w => jOk w false true false false) (fun w => [.s (Ins.ja w)]) (fun _ => [])
    fun _ x w => setPc e c (bits (x.sc (Ins.ja w)).toNat 0 15))

/-- sA written, and the branch taken while the new sA is not zero; s0 reads 0 after the write as before it. -/
def countLoop (e c : Nat) (b : Block) (x : VecCtx) (w : Nat) (val : W64) : Prog := .all [
  putA e c w val (x.isPois (.s (Ins.ja w))),
  .when (decide (Ins.ja w ≠ 0) && decide (val ≠ 0)) (takeBranch e c (b.ctxPc e c) w)]

def execDbnz (e : Fin 24) (c : Fin 4) (s : State) : Host.Outcome State Fault Refusal :=
  s.run (vecCtl e c 0x07 (fun w => jOk w false true false true) (fun w => [.s (Ins.ja w)]) (fun w => [.s (Ins.ja w)])
    fun b x w => countLoop e c b x w (x.sc (Ins.ja w) - 1))

def execVloop (e : Fin 24) (c : Fin 4) (s : State) : Host.Outcome State Fault Refusal :=
  s.run (vecCtl e c 0x08 (fun w => jOk w false true false true) (fun w => [.s (Ins.ja w)]) (fun w => [.s (Ins.ja w)])
    fun b x w => countLoop e c b x w
      (if x.vl > (x.sc (Ins.ja w)).toNat then 0 else x.sc (Ins.ja w) - BitVec.ofNat 64 x.vl))

def execLi (e : Fin 24) (c : Fin 4) (s : State) : Host.Outcome State Fault Refusal :=
  s.run (vecCtl e c 0x09 (fun w => jOk w false true false true) (fun _ => []) (fun w => [.s (Ins.ja w)])
    fun _ _ w => putA e c w (BitVec.ofInt 64 (Ins.jump w)) false)

def execLih (e : Fin 24) (c : Fin 4) (s : State) : Host.Outcome State Fault Refusal :=
  s.run (vecCtl e c 0x0A (fun w => jOk w false true false true) (fun w => [.s (Ins.ja w)]) (fun w => [.s (Ins.ja w)])
    fun _ x w => putA e c w (BitVec.ofNat 64 ((x.sc (Ins.ja w)).toNat % 2 ^ 32 + Ins.imm32 w * 2 ^ 32))
      (x.isPois (.s (Ins.ja w))))

/-- FLAGS waits for the context's reducer jobs, reads the sticky flags and clears those it names (R211). -/
def execFlags (e : Fin 24) (c : Fin 4) (s : State) : Host.Outcome State Fault Refusal :=
  s.run (vecIssue e c {
    op := 0x0B, legal := fun _ _ w => jOk w false true false true && decide (Ins.imm32 w < 256),
    reads := fun _ => [], writes := fun w => [.s (Ins.ja w)],
    ready := fun b _ _ => !((Tbl.get (dflt []) e.val b.vec.red).any fun j => decide (j.ctx = c.val)),
    body := fun b _ w => .all [
      putA e c w (BitVec.ofNat 64 (b.f (Reg.VEC_CTX_FLAGS e c) flagBits)) false,
      andNotF (Reg.VEC_CTX_FLAGS e c) flagBits (Ins.imm32 w)] })

def execRdts (e : Fin 24) (c : Fin 4) (s : State) : Host.Outcome State Fault Refusal :=
  s.run (vecCtl e c 0x0C (fun w => jOk w false true false false) (fun _ => []) (fun w => [.s (Ins.ja w)])
    fun b _ w => putA e c w (BitVec.ofNat 64 b.now) false)

/-! ### Scalar integer and FP32 (R213) -/

/-- The registers and the second operand of a scalar instruction. -/
def scalarB (x : VecCtx) (float : Bool) (w : Nat) : W64 :=
  if Ins.bsrc w = 0 then x.sc (Ins.b w)
  else if float then BitVec.ofNat 64 (immFp32 w) else BitVec.ofInt 64 (signed 20 (Ins.imm20 w))

def scalarOk (useB useC : Bool) (w : Nat) : Bool :=
  decide (Ins.fmt w = 0 ∧ Ins.mask w = 0) && rmOk (Ins.rm w) && decide (Ins.d w < 32 ∧ Ins.a w < 32) &&
    (if useB then bOk false 32 w else noB w) && decide (Ins.c w < if useC then 32 else 1)

def scalarReads (useB useC : Bool) (w : Nat) : List VReg :=
  .s (Ins.a w) :: (if useB ∧ Ins.bsrc w = 0 then [.s (Ins.b w)] else []) ++ (if useC then [.s (Ins.c w)] else [])

/-- A scalar integer instruction: 64 bits with wrap-around. -/
def vecScalarInt (e c op : Nat) (g : W64 → W64 → W64) : Prog :=
  vecIssue e c {
    op := op, legal := fun _ _ w => scalarOk true false w,
    reads := scalarReads true false, writes := fun w => [.s (Ins.d w)],
    body := fun _ x w => modCtx (ctxKey e c) fun y =>
      y.putS (Ins.d w) (g (x.sc (Ins.a w)) (scalarB x false w)) ((scalarReads true false w).any x.isPois) }

def execAdd (e : Fin 24) (c : Fin 4) (s : State) : Host.Outcome State Fault Refusal :=
  s.run (vecScalarInt e c 0x10 fun a b => a + b)
def execSub (e : Fin 24) (c : Fin 4) (s : State) : Host.Outcome State Fault Refusal :=
  s.run (vecScalarInt e c 0x11 fun a b => a - b)
def execMul (e : Fin 24) (c : Fin 4) (s : State) : Host.Outcome State Fault Refusal :=
  s.run (vecScalarInt e c 0x12 fun a b => a * b)
def execMulhu (e : Fin 24) (c : Fin 4) (s : State) : Host.Outcome State Fault Refusal :=
  s.run (vecScalarInt e c 0x13 fun a b => BitVec.ofNat 64 (a.toNat * b.toNat / 2 ^ 64))
def execAnd (e : Fin 24) (c : Fin 4) (s : State) : Host.Outcome State Fault Refusal :=
  s.run (vecScalarInt e c 0x14 fun a b => a &&& b)
def execOr (e : Fin 24) (c : Fin 4) (s : State) : Host.Outcome State Fault Refusal :=
  s.run (vecScalarInt e c 0x15 fun a b => a ||| b)
def execXor (e : Fin 24) (c : Fin 4) (s : State) : Host.Outcome State Fault Refusal :=
  s.run (vecScalarInt e c 0x16 fun a b => a ^^^ b)
def execSll (e : Fin 24) (c : Fin 4) (s : State) : Host.Outcome State Fault Refusal :=
  s.run (vecScalarInt e c 0x17 fun a b => a <<< (b.toNat % 64))
def execSrl (e : Fin 24) (c : Fin 4) (s : State) : Host.Outcome State Fault Refusal :=
  s.run (vecScalarInt e c 0x18 fun a b => a >>> (b.toNat % 64))
def execSra (e : Fin 24) (c : Fin 4) (s : State) : Host.Outcome State Fault Refusal :=
  s.run (vecScalarInt e c 0x19 fun a b => a.sshiftRight (b.toNat % 64))
def execMin (e : Fin 24) (c : Fin 4) (s : State) : Host.Outcome State Fault Refusal :=
  s.run (vecScalarInt e c 0x1A fun a b => if b.toInt < a.toInt then b else a)
def execMax (e : Fin 24) (c : Fin 4) (s : State) : Host.Outcome State Fault Refusal :=
  s.run (vecScalarInt e c 0x1B fun a b => if a.toInt < b.toInt then b else a)
def execSlt (e : Fin 24) (c : Fin 4) (s : State) : Host.Outcome State Fault Refusal :=
  s.run (vecScalarInt e c 0x1C fun a b => if a.toInt < b.toInt then 1 else 0)
def execSltu (e : Fin 24) (c : Fin 4) (s : State) : Host.Outcome State Fault Refusal :=
  s.run (vecScalarInt e c 0x1D fun a b => if a.toNat < b.toNat then 1 else 0)

/-- A scalar FP32 instruction: s[31:0], the result zero-extended. -/
def vecScalarFp (e c op : Nat) (useB useC : Bool) (g : Nat → Nat → Nat → Nat → Nat → FRes) : Prog :=
  vecIssue e c {
    op := op, legal := fun _ _ w => scalarOk useB useC w,
    reads := scalarReads useB useC, writes := fun w => [.s (Ins.d w)],
    body := fun b x w =>
      let mode := x.modeOf (Ins.rm w)
      let low := fun v : W64 => v.toNat % 2 ^ 32
      let r := g mode (srDraw b 0) (low (x.sc (Ins.a w))) (low (scalarB x true w)) (low (x.sc (Ins.c w)))
      .all [
        modCtx (ctxKey e c) fun y =>
          y.putS (Ins.d w) (BitVec.ofNat 64 r.val) ((scalarReads useB useC w).any x.isPois),
        setFlags e c r.flags,
        drew mode] }

/-- An FP32 word. -/
def fp (x : Nat) : FVal := FFmt.fp32.decode x

def execFadd (e : Fin 24) (c : Fin 4) (s : State) : Host.Outcome State Fault Refusal :=
  s.run (vecScalarFp e c 0x20 true false fun md u a b _ => FFmt.fp32.add md u (fp a) (fp b))
def execFsub (e : Fin 24) (c : Fin 4) (s : State) : Host.Outcome State Fault Refusal :=
  s.run (vecScalarFp e c 0x21 true false fun md u a b _ => FFmt.fp32.add md u (fp a) (fp b).flip)
def execFmul (e : Fin 24) (c : Fin 4) (s : State) : Host.Outcome State Fault Refusal :=
  s.run (vecScalarFp e c 0x22 true false fun md u a b _ => FFmt.fp32.mul md u (fp a) (fp b))
def execFdiv (e : Fin 24) (c : Fin 4) (s : State) : Host.Outcome State Fault Refusal :=
  s.run (vecScalarFp e c 0x23 true false fun md u a b _ => FFmt.fp32.div md u (fp a) (fp b))
def execFsqrt (e : Fin 24) (c : Fin 4) (s : State) : Host.Outcome State Fault Refusal :=
  s.run (vecScalarFp e c 0x24 false false fun md u a _ _ => FFmt.fp32.sqrt md u (fp a))
def execFma (e : Fin 24) (c : Fin 4) (s : State) : Host.Outcome State Fault Refusal :=
  s.run (vecScalarFp e c 0x25 true true fun md u a b k => FFmt.fp32.fma md u (fp a) (fp b) (fp k))
def execFmin (e : Fin 24) (c : Fin 4) (s : State) : Host.Outcome State Fault Refusal :=
  s.run (vecScalarFp e c 0x26 true false fun _ _ a b _ => FFmt.fp32.minmax false a b)
def execFmax (e : Fin 24) (c : Fin 4) (s : State) : Host.Outcome State Fault Refusal :=
  s.run (vecScalarFp e c 0x27 true false fun _ _ a b _ => FFmt.fp32.minmax true a b)

end Sys2Proof.Machine
end

