-- ==== Sys2Proof/Machine/Dispatch.lean ====
section
/-! DEFINITION. Which meaning each command has: one arm per constructor of `Instr`, one call per arm. -/

namespace Sys2Proof.Machine

/-- The effect of a command on everything but the queue. -/
def exec (i : Instr) (s : State) : Host.Outcome State Fault Refusal :=
  match i with
  | .monitorTrip r => Sys2Proof.Machine.execMonitorTrip r s
  | .pacingInterval r => Sys2Proof.Machine.execPacingInterval r s
  | .monRecal hat mask => Sys2Proof.Machine.execMonRecal hat mask s
  | .recalDrainDone r => Sys2Proof.Machine.execRecalDrainDone r s
  | .recalSearchDone r baseline => Sys2Proof.Machine.execRecalSearchDone r baseline s
  | .idleCalibrationDone r baseline => Sys2Proof.Machine.execIdleCalibrationDone r baseline s
  | .claim hat n => Sys2Proof.Machine.execClaim hat n s
  | .release hat n => Sys2Proof.Machine.execRelease hat n s
  | .forceRelease hat n => Sys2Proof.Machine.execForceRelease hat n s
  | .discard hat n => Sys2Proof.Machine.execDiscard hat n s
  | .stage hat n => Sys2Proof.Machine.execStage hat n s
  | .stageCopyDone n read => Sys2Proof.Machine.execStageCopyDone n read s
  | .checkCmd hat n => Sys2Proof.Machine.execCheck hat n s
  | .checkDone n => Sys2Proof.Machine.execCheckDone n s
  | .stgWrite hat off be val => Sys2Proof.Machine.execStgWrite hat off be val s
  | .commit hat n => Sys2Proof.Machine.execCommit hat n s
  | .commitDrainDone => Sys2Proof.Machine.execCommitDrainDone s
  | .commitBankCopyDone => Sys2Proof.Machine.execCommitBankCopyDone s
  | .cfgExport hat val => Sys2Proof.Machine.execCfgExport hat val s
  | .cfgExportDone => Sys2Proof.Machine.execCfgExportDone s
  | .packetHop x y plane hdr units ecc => Sys2Proof.Machine.execPacketHop x y plane hdr units ecc s
  | .domainWakeDone d => Sys2Proof.Machine.execDomainWakeDone d s
  | .nocLtestGo hat val => Sys2Proof.Machine.execNocLtestGo hat val s
  | .nocLtestStop hat errBits errWords => Sys2Proof.Machine.execNocLtestStop hat errBits errWords s
  | .nocLtestEnd errBits errWords => Sys2Proof.Machine.execNocLtestEnd errBits errWords s
  | .linkTrainingDone g rate failedModules => Sys2Proof.Machine.execLinkTrainingDone g rate failedModules s
  | .cap g chunk bytes => Sys2Proof.Machine.execCap g chunk bytes s
  | .capEnd g => Sys2Proof.Machine.execCapEnd g s
  | .fitAck g reject => Sys2Proof.Machine.execFitAck g reject s
  | .capabilityTimeout g => Sys2Proof.Machine.execCapabilityTimeout g s
  | .fitAckTimeout g => Sys2Proof.Machine.execFitAckTimeout g s
  | .siteMeshMessage g m => Sys2Proof.Machine.execSiteMeshMessage g m s
  | .creditSlot g word => Sys2Proof.Machine.execCreditSlot g word s
  | .moduleFail g m => Sys2Proof.Machine.execModuleFail g m s
  | .spareRetrainDone g => Sys2Proof.Machine.execSpareRetrainDone g s
  | .moduleRecalStart g m => Sys2Proof.Machine.execModuleRecalStart g m s
  | .moduleRecalEnd g m => Sys2Proof.Machine.execModuleRecalEnd g m s
  | .rxClockLockLoss g => Sys2Proof.Machine.execRxClockLockLoss g s
  | .adapterLinkDown g => Sys2Proof.Machine.execAdapterLinkDown g s
  | .ctlSilenceTimeout g => Sys2Proof.Machine.execCtlSilenceTimeout g s
  | .linkRetrainTimeout g => Sys2Proof.Machine.execLinkRetrainTimeout g s
  | .keepalive g => Sys2Proof.Machine.execKeepalive g s
  | .keepaliveIdleSend g => Sys2Proof.Machine.execKeepaliveIdleSend g s
  | .glvReset hat g => Sys2Proof.Machine.execGlvReset hat g s
  | .glvResetForce hat g => Sys2Proof.Machine.execGlvResetForce hat g s
  | .glvFlush hat g => Sys2Proof.Machine.execGlvFlush hat g s
  | .flushDone g => Sys2Proof.Machine.execFlushDone g s
  | .flushTimeout g => Sys2Proof.Machine.execFlushTimeout g s
  | .flushDirectoryQueryDone g => Sys2Proof.Machine.execFlushDirectoryQueryDone g s
  | .siteRstAssert g => Sys2Proof.Machine.execSiteRstAssert g s
  | .siteRstRelease g => Sys2Proof.Machine.execSiteRstRelease g s
  | .temp g bytes => Sys2Proof.Machine.execTemp g bytes s
  | .tempPollTimer g => Sys2Proof.Machine.execTempPollTimer g s
  | .digest g bytes => Sys2Proof.Machine.execDigest g bytes s
  | .throttleCauseChange g => Sys2Proof.Machine.execThrottleCauseChange g s
  | .throttle g level => Sys2Proof.Machine.execThrottle g level s
  | .prtTaskSubmit g c hat slot off bytes => Sys2Proof.Machine.execPrtTaskSubmit g c hat slot off bytes s
  | .matmul g c a b sa sb => Sys2Proof.Machine.execMatmul g c a b sa sb s
  | .loadCmd g c src scale => Sys2Proof.Machine.execLoad g c src scale s
  | .evict g c => Sys2Proof.Machine.execEvict g c s
  | .taskBarrier g c => Sys2Proof.Machine.execTaskBarrier g c s
  | .prtTaskComplete g c => Sys2Proof.Machine.execPrtTaskComplete g c s
  | .prtProgGo g c hat val => Sys2Proof.Machine.execPrtProgGo g c hat val s
  | .prtProgLoaded g c read => Sys2Proof.Machine.execPrtProgLoaded g c read s
  | .prtProgStop g c hat => Sys2Proof.Machine.execPrtProgStop g c hat s
  | .prtCtxEnable g c hat val => Sys2Proof.Machine.execPrtCtxEnable g c hat val s
  | .prtCtxDisable g c hat => Sys2Proof.Machine.execPrtCtxDisable g c hat s
  | .prtSensorSample g temps power clock => Sys2Proof.Machine.execPrtSensorSample g temps power clock s
  | .vecKloadGo hat e val => Sys2Proof.Machine.execVecKloadGo hat e val s
  | .vecKloadDone e read => Sys2Proof.Machine.execVecKloadDone e read s
  | .vecKloadFree hat e val => Sys2Proof.Machine.execVecKloadFree hat e val s
  | .vecCtxEnable hat e c val => Sys2Proof.Machine.execVecCtxEnable hat e c val s
  | .vecCtxDisable hat e c => Sys2Proof.Machine.execVecCtxDisable hat e c s
  | .vecCtxStopDone e c => Sys2Proof.Machine.execVecCtxStopDone e c s
  | .vecCtxStart hat e c val => Sys2Proof.Machine.execVecCtxStart hat e c val s
  | .tregBindWrite hat e t val => Sys2Proof.Machine.execTregBindWrite hat e t val s
  | .bktTile p => Sys2Proof.Machine.execBktTile p s
  | .bktCredit p => Sys2Proof.Machine.execBktCredit p s
  | .bktReturn p => Sys2Proof.Machine.execBktReturn p s
  | .reducerJobDone e => Sys2Proof.Machine.execReducerJobDone e s
  | .nop e c => Sys2Proof.Machine.execNop e c s
  | .halt e c => Sys2Proof.Machine.execHalt e c s
  | .setvl e c => Sys2Proof.Machine.execSetvl e c s
  | .br e c => Sys2Proof.Machine.execBr e c s
  | .jal e c => Sys2Proof.Machine.execJal e c s
  | .jr e c => Sys2Proof.Machine.execJr e c s
  | .dbnz e c => Sys2Proof.Machine.execDbnz e c s
  | .vloop e c => Sys2Proof.Machine.execVloop e c s
  | .li e c => Sys2Proof.Machine.execLi e c s
  | .lih e c => Sys2Proof.Machine.execLih e c s
  | .flags e c => Sys2Proof.Machine.execFlags e c s
  | .rdts e c => Sys2Proof.Machine.execRdts e c s
  | .add e c => Sys2Proof.Machine.execAdd e c s
  | .sub e c => Sys2Proof.Machine.execSub e c s
  | .mul e c => Sys2Proof.Machine.execMul e c s
  | .mulhu e c => Sys2Proof.Machine.execMulhu e c s
  | .andCmd e c => Sys2Proof.Machine.execAnd e c s
  | .orCmd e c => Sys2Proof.Machine.execOr e c s
  | .xor e c => Sys2Proof.Machine.execXor e c s
  | .sll e c => Sys2Proof.Machine.execSll e c s
  | .srl e c => Sys2Proof.Machine.execSrl e c s
  | .sra e c => Sys2Proof.Machine.execSra e c s
  | .min e c => Sys2Proof.Machine.execMin e c s
  | .max e c => Sys2Proof.Machine.execMax e c s
  | .slt e c => Sys2Proof.Machine.execSlt e c s
  | .sltu e c => Sys2Proof.Machine.execSltu e c s
  | .fadd e c => Sys2Proof.Machine.execFadd e c s
  | .fsub e c => Sys2Proof.Machine.execFsub e c s
  | .fmul e c => Sys2Proof.Machine.execFmul e c s
  | .fdiv e c => Sys2Proof.Machine.execFdiv e c s
  | .fsqrt e c => Sys2Proof.Machine.execFsqrt e c s
  | .fma e c => Sys2Proof.Machine.execFma e c s
  | .fmin e c => Sys2Proof.Machine.execFmin e c s
  | .fmax e c => Sys2Proof.Machine.execFmax e c s
  | .vadd e c => Sys2Proof.Machine.execVadd e c s
  | .vsub e c => Sys2Proof.Machine.execVsub e c s
  | .vmul e c => Sys2Proof.Machine.execVmul e c s
  | .vmin e c => Sys2Proof.Machine.execVmin e c s
  | .vmax e c => Sys2Proof.Machine.execVmax e c s
  | .vabs e c => Sys2Proof.Machine.execVabs e c s
  | .vneg e c => Sys2Proof.Machine.execVneg e c s
  | .vdiv e c => Sys2Proof.Machine.execVdiv e c s
  | .vsqrt e c => Sys2Proof.Machine.execVsqrt e c s
  | .vfma e c => Sys2Proof.Machine.execVfma e c s
  | .vfms e c => Sys2Proof.Machine.execVfms e c s
  | .vfnma e c => Sys2Proof.Machine.execVfnma e c s
  | .vscalb e c => Sys2Proof.Machine.execVscalb e c s
  | .vgetexp e c => Sys2Proof.Machine.execVgetexp e c s
  | .vgetmant e c => Sys2Proof.Machine.execVgetmant e c s
  | .vand e c => Sys2Proof.Machine.execVand e c s
  | .vor e c => Sys2Proof.Machine.execVor e c s
  | .vxor e c => Sys2Proof.Machine.execVxor e c s
  | .vandn e c => Sys2Proof.Machine.execVandn e c s
  | .vsll e c => Sys2Proof.Machine.execVsll e c s
  | .vsrl e c => Sys2Proof.Machine.execVsrl e c s
  | .vsra e c => Sys2Proof.Machine.execVsra e c s
  | .vsadd e c => Sys2Proof.Machine.execVsadd e c s
  | .vssub e c => Sys2Proof.Machine.execVssub e c s
  | .vmulh e c => Sys2Proof.Machine.execVmulh e c s
  | .vcmpeq e c => Sys2Proof.Machine.execVcmpeq e c s
  | .vcmpne e c => Sys2Proof.Machine.execVcmpne e c s
  | .vcmplt e c => Sys2Proof.Machine.execVcmplt e c s
  | .vcmple e c => Sys2Proof.Machine.execVcmple e c s
  | .vsel e c => Sys2Proof.Machine.execVsel e c s
  | .vmov e c => Sys2Proof.Machine.execVmov e c s
  | .vid e c => Sys2Proof.Machine.execVid e c s
  | .vslidedn e c => Sys2Proof.Machine.execVslidedn e c s
  | .vslideup e c => Sys2Proof.Machine.execVslideup e c s
  | .vperm e c => Sys2Proof.Machine.execVperm e c s
  | .vmovvs e c => Sys2Proof.Machine.execVmovvs e c s
  | .vmovsv e c => Sys2Proof.Machine.execVmovsv e c s
  | .vcvt e c => Sys2Proof.Machine.execVcvt e c s
  | .vcvtmx e c => Sys2Proof.Machine.execVcvtmx e c s
  | .vunmx e c => Sys2Proof.Machine.execVunmx e c s
  | .mand e c => Sys2Proof.Machine.execMand e c s
  | .mor e c => Sys2Proof.Machine.execMor e c s
  | .mxor e c => Sys2Proof.Machine.execMxor e c s
  | .mandn e c => Sys2Proof.Machine.execMandn e c s
  | .mnot e c => Sys2Proof.Machine.execMnot e c s
  | .mpopc e c => Sys2Proof.Machine.execMpopc e c s
  | .mfirst e c => Sys2Proof.Machine.execMfirst e c s
  | .mfroms e c => Sys2Proof.Machine.execMfroms e c s
  | .mset e c => Sys2Proof.Machine.execMset e c s
  | .vld e c => Sys2Proof.Machine.execVld e c s
  | .vlds e c => Sys2Proof.Machine.execVlds e c s
  | .vldx e c => Sys2Proof.Machine.execVldx e c s
  | .vst e c => Sys2Proof.Machine.execVst e c s
  | .vsts e c => Sys2Proof.Machine.execVsts e c s
  | .vstx e c => Sys2Proof.Machine.execVstx e c s
  | .lds e c => Sys2Proof.Machine.execLds e c s
  | .sts e c => Sys2Proof.Machine.execSts e c s
  | .trd e c => Sys2Proof.Machine.execTrd e c s
  | .trdc e c => Sys2Proof.Machine.execTrdc e c s
  | .twr e c => Sys2Proof.Machine.execTwr e c s
  | .twrc e c => Sys2Proof.Machine.execTwrc e c s
  | .tfree e c => Sys2Proof.Machine.execTfree e c s
  | .tzero e c => Sys2Proof.Machine.execTzero e c s
  | .tinfo e c => Sys2Proof.Machine.execTinfo e c s
  | .rsum e c => Sys2Proof.Machine.execRsum e c s
  | .rsumsq e c => Sys2Proof.Machine.execRsumsq e c s
  | .rmax e c => Sys2Proof.Machine.execRmax e c s
  | .rmin e c => Sys2Proof.Machine.execRmin e c s
  | .ramax e c => Sys2Proof.Machine.execRamax e c s
  | .trgopen e c => Sys2Proof.Machine.execTrgopen e c s
  | .trgadd e c => Sys2Proof.Machine.execTrgadd e c s
  | .trgclose e c => Sys2Proof.Machine.execTrgclose e c s
  | .trgabort e c => Sys2Proof.Machine.execTrgabort e c s
  | .trgfin e c => Sys2Proof.Machine.execTrgfin e c s
  | .fence e c => Sys2Proof.Machine.execFence e c s
  | .sacq e c => Sys2Proof.Machine.execSacq e c s
  | .srel e c => Sys2Proof.Machine.execSrel e c s
  | .arm hat t => Sys2Proof.Machine.execArm hat t s
  | .abandon hat t => Sys2Proof.Machine.execAbandon hat t s
  | .rearm hat t => Sys2Proof.Machine.execRearm hat t s
  | .disarm hat t => Sys2Proof.Machine.execDisarm hat t s
  | .finish hat t => Sys2Proof.Machine.execFinish hat t s
  | .zeroisationDone t => Sys2Proof.Machine.execZeroisationDone t s
  | .trgOpen p => Sys2Proof.Machine.execTrgOpen p s
  | .trgOpenGrant u => Sys2Proof.Machine.execTrgOpenGrant u s
  | .trgAdd p => Sys2Proof.Machine.execTrgAdd p s
  | .trgClose p => Sys2Proof.Machine.execTrgClose p s
  | .trgAbort p => Sys2Proof.Machine.execTrgAbort p s
  | .trgAck p => Sys2Proof.Machine.execTrgAck p s
  | .trgStat p => Sys2Proof.Machine.execTrgStat p s
  | .trgFinish p => Sys2Proof.Machine.execTrgFinish p s
  | .trgIdleAbort u n => Sys2Proof.Machine.execTrgIdleAbort u n s
  | .trgAccumulateDone t => Sys2Proof.Machine.execTrgAccumulateDone t s
  | .trgDeadlineExpiry t => Sys2Proof.Machine.execTrgDeadlineExpiry t s
  | .trgReleaseDone t => Sys2Proof.Machine.execTrgReleaseDone t s
  | .entropyHealthChange healthy => Sys2Proof.Machine.execEntropyHealthChange healthy s
  | .trgExport hat t val => Sys2Proof.Machine.execTrgExport hat t val s
  | .trgExportDone t => Sys2Proof.Machine.execTrgExportDone t s
  | .memberEject hat t k => Sys2Proof.Machine.execMemberEject hat t k s
  | .mrd64 p err => Sys2Proof.Machine.execMrd64 p err s
  | .mrd128 p => Sys2Proof.Machine.execMrd128 p s
  | .mrd32n p => Sys2Proof.Machine.execMrd32n p s
  | .mwr64 p => Sys2Proof.Machine.execMwr64 p s
  | .mwr128 p => Sys2Proof.Machine.execMwr128 p s
  | .mwr32n p => Sys2Proof.Machine.execMwr32n p s
  | .mrsp p => Sys2Proof.Machine.execMrsp p s
  | .mack p => Sys2Proof.Machine.execMack p s
  | .wcIdleTimeout w key => Sys2Proof.Machine.execWcIdleTimeout w key s
  | .clearBlockDone w => Sys2Proof.Machine.execClearBlockDone w s
  | .channelFail w ch => Sys2Proof.Machine.execChannelFail w ch s
  | .patrolScrub w line ecc => Sys2Proof.Machine.execPatrolScrub w line ecc s
  | .stackTempRead w temp => Sys2Proof.Machine.execStackTempRead w temp s
  | .wellHeatStep w => Sys2Proof.Machine.execWellHeatStep w s
  | .stackEcsRead w count => Sys2Proof.Machine.execStackEcsRead w count s
  | .wbInv hat w => Sys2Proof.Machine.execWbInv hat w s
  | .wbInvDone w => Sys2Proof.Machine.execWbInvDone w s
  | .rds p => Sys2Proof.Machine.execRds p s
  | .rdo p => Sys2Proof.Machine.execRdo p s
  | .upg p => Sys2Proof.Machine.execUpg p s
  | .own p => Sys2Proof.Machine.execOwn p s
  | .wbk p => Sys2Proof.Machine.execWbk p s
  | .evc p => Sys2Proof.Machine.execEvc p s
  | .dats p => Sys2Proof.Machine.execDats p s
  | .date p => Sys2Proof.Machine.execDate p s
  | .datm p => Sys2Proof.Machine.execDatm p s
  | .gntm p => Sys2Proof.Machine.execGntm p s
  | .wack p => Sys2Proof.Machine.execWack p s
  | .err p => Sys2Proof.Machine.execErr p s
  | .snps p => Sys2Proof.Machine.execSnps p s
  | .snpo p => Sys2Proof.Machine.execSnpo p s
  | .snpi p => Sys2Proof.Machine.execSnpi p s
  | .snpd p => Sys2Proof.Machine.execSnpd p s
  | .sack p => Sys2Proof.Machine.execSack p s
  | .sdat p => Sys2Proof.Machine.execSdat p s
  | .snoopTimeout g line => Sys2Proof.Machine.execSnoopTimeout g line s
  | .partitionDownClearDone p => Sys2Proof.Machine.execPartitionDownClearDone p s
  | .atomicAdd p => Sys2Proof.Machine.execAtomicAdd p s
  | .atomicSwap p => Sys2Proof.Machine.execAtomicSwap p s
  | .atomicCas p => Sys2Proof.Machine.execAtomicCas p s
  | .atomicAnd p => Sys2Proof.Machine.execAtomicAnd p s
  | .atomicOr p => Sys2Proof.Machine.execAtomicOr p s
  | .atomicXor p => Sys2Proof.Machine.execAtomicXor p s
  | .atomicSmin p => Sys2Proof.Machine.execAtomicSmin p s
  | .atomicSmax p => Sys2Proof.Machine.execAtomicSmax p s
  | .atomicUmin p => Sys2Proof.Machine.execAtomicUmin p s
  | .atomicUmax p => Sys2Proof.Machine.execAtomicUmax p s
  | .atomicFadd p => Sys2Proof.Machine.execAtomicFadd p s
  | .atomicBfadd p => Sys2Proof.Machine.execAtomicBfadd p s
  | .arsp p => Sys2Proof.Machine.execArsp p s
  | .aerr p => Sys2Proof.Machine.execAerr p s
  | .walkEntryReadDone w status entry => Sys2Proof.Machine.execWalkEntryReadDone w status entry s
  | .headWordReread q read => Sys2Proof.Machine.execHeadWordReread q read s
  | .faultIrqHoldoff q => Sys2Proof.Machine.execFaultIrqHoldoff q s
  | .xltBump hat x => Sys2Proof.Machine.execXltBump hat x s
  | .xltBumpAck x unit => Sys2Proof.Machine.execXltBumpAck x unit s
  | .resume hat q fid => Sys2Proof.Machine.execResume hat q fid s
  | .abortCmd hat q fid => Sys2Proof.Machine.execAbort hat q fid s
  | .xltCtxEnable hat x val => Sys2Proof.Machine.execXltCtxEnable hat x val s
  | .xltCtxDisable hat x => Sys2Proof.Machine.execXltCtxDisable hat x s
  | .xltFqEnable hat q val => Sys2Proof.Machine.execXltFqEnable hat q val s
  | .xltFqDisable hat q => Sys2Proof.Machine.execXltFqDisable hat q s
  | .segmentWordWrite hat off val => Sys2Proof.Machine.execSegmentWordWrite hat off val s
  | .segmentWordRead hat off tag => Sys2Proof.Machine.execSegmentWordRead hat off tag s
  | .intakeWrite hat k off bytes => Sys2Proof.Machine.execIntakeWrite hat k off bytes s
  | .descAdmit p k => Sys2Proof.Machine.execDescAdmit p k s
  | .copy p slot => Sys2Proof.Machine.execCopy p slot s
  | .fill p slot => Sys2Proof.Machine.execFill p slot s
  | .pumpBarrier p slot => Sys2Proof.Machine.execPumpBarrier p slot s
  | .pieceDone p slot k => Sys2Proof.Machine.execPieceDone p slot k s
  | .pmpIrqHoldoff k => Sys2Proof.Machine.execPmpIrqHoldoff k s
  | .intakeEnable hat k val => Sys2Proof.Machine.execIntakeEnable hat k val s
  | .intakeDisable hat k => Sys2Proof.Machine.execIntakeDisable hat k s
  | .keyRevoke hat k => Sys2Proof.Machine.execKeyRevoke hat k s
  | .wsetReset hat w => Sys2Proof.Machine.execWsetReset hat w s
  | .wsetBind hat w val => Sys2Proof.Machine.execWsetBind hat w val s
  | .pmpRemove hat val => Sys2Proof.Machine.execPmpRemove hat val s
  | .data e f fcsOk => Sys2Proof.Machine.execData e f fcsOk s
  | .ack e f fcsOk => Sys2Proof.Machine.execAck e f fcsOk s
  | .hello c port f fcsOk => Sys2Proof.Machine.execHello c port f fcsOk s
  | .openCmd c port f fcsOk => Sys2Proof.Machine.execOpen c port f fcsOk s
  | .openAck c port f fcsOk => Sys2Proof.Machine.execOpenAck c port f fcsOk s
  | .close e f fcsOk => Sys2Proof.Machine.execClose e f fcsOk s
  | .ackDelayTimer n => Sys2Proof.Machine.execAckDelayTimer n s
  | .retransmitTimeout n => Sys2Proof.Machine.execRetransmitTimeout n s
  | .helloTimer c port => Sys2Proof.Machine.execHelloTimer c port s
  | .openRetryTimer n => Sys2Proof.Machine.execOpenRetryTimer n s
  | .peerSilenceTimeout n => Sys2Proof.Machine.execPeerSilenceTimeout n s
  | .spanReadTimeout stag => Sys2Proof.Machine.execSpanReadTimeout stag s
  | .spanWriteTimeout stag => Sys2Proof.Machine.execSpanWriteTimeout stag s
  | .spanPortUp c port => Sys2Proof.Machine.execSpanPortUp c port s
  | .spanPortDown c port => Sys2Proof.Machine.execSpanPortDown c port s
  | .sessionHandoverDone n => Sys2Proof.Machine.execSessionHandoverDone n s
  | .spanLaneFail c lane => Sys2Proof.Machine.execSpanLaneFail c lane s
  | .spnQuadWrite hat c q val => Sys2Proof.Machine.execSpnQuadWrite hat c q val s
  | .rlcDisable hat => Sys2Proof.Machine.execRlcDisable hat s
  | .spnAcq p => Sys2Proof.Machine.execSpnAcq p s
  | .acquireInvalidateDone slice => Sys2Proof.Machine.execAcquireInvalidateDone slice s
  | .spnAcqDone p => Sys2Proof.Machine.execSpnAcqDone p s
  | .spnDrain e drainHat => Sys2Proof.Machine.execSpnDrain e drainHat s
  | .spnDrainDone e drainHat => Sys2Proof.Machine.execSpnDrainDone e drainHat s
  | .regRd p => Sys2Proof.Machine.execRegRd p s
  | .regWr p => Sys2Proof.Machine.execRegWr p s
  | .regRsp p => Sys2Proof.Machine.execRegRsp p s
  | .regAck p => Sys2Proof.Machine.execRegAck p s
  | .irq p => Sys2Proof.Machine.execIrq p s
  | .meshFence p => Sys2Proof.Machine.execMeshFence p s
  | .fenceDone p => Sys2Proof.Machine.execFenceDone p s
  | .hatCmd u h remove => Sys2Proof.Machine.execHatCmd u h remove s
  | .hatCmdDone u h => Sys2Proof.Machine.execHatCmdDone u h s
  | .regulationWindow => Sys2Proof.Machine.execRegulationWindow s
  | .hatReset hat h => Sys2Proof.Machine.execHatReset hat h s
  | .hatRemove hat val => Sys2Proof.Machine.execHatRemove hat val s
  | .graceEnd q => Sys2Proof.Machine.execGraceEnd q s
  | .hostMemWrite q fn bar off data ep => Sys2Proof.Machine.execHostMemWrite q fn bar off data ep s
  | .hostMemRead q fn bar off len tag => Sys2Proof.Machine.execHostMemRead q fn bar off len tag s
  | .configRequest q fn write reg val => Sys2Proof.Machine.execConfigRequest q fn write reg val s
  | .hostCompletion q tag data ep => Sys2Proof.Machine.execHostCompletion q tag data ep s
  | .hostReadTimeout q tag => Sys2Proof.Machine.execHostReadTimeout q tag s
  | .flr q fn => Sys2Proof.Machine.execFlr q fn s
  | .vfEnableClear q numVfs vfEn => Sys2Proof.Machine.execVfEnableClear q numVfs vfEn s
  | .perstAssert q => Sys2Proof.Machine.execPerstAssert q s
  | .perstDeassert q => Sys2Proof.Machine.execPerstDeassert q s
  | .hotReset q => Sys2Proof.Machine.execHotReset q s
  | .portReady q rate width flit => Sys2Proof.Machine.execPortReady q rate width flit s
  | .dlDown q => Sys2Proof.Machine.execDlDown q s
  | .pmeTurnOff q => Sys2Proof.Machine.execPmeTurnOff q s
  | .l0pIdleTimer q => Sys2Proof.Machine.execL0pIdleTimer q s
  | .presenceDebounce q present => Sys2Proof.Machine.execPresenceDebounce q present s
  | .attnButton q => Sys2Proof.Machine.execAttnButton q s
  | .attnButtonTimeout q => Sys2Proof.Machine.execAttnButtonTimeout q s
  | .pwrCmdOn hat q => Sys2Proof.Machine.execPwrCmdOn hat q s
  | .pwrCmdOff hat q => Sys2Proof.Machine.execPwrCmdOff hat q s
  | .pwrGoodRise q => Sys2Proof.Machine.execPwrGoodRise q s
  | .pwrGoodLoss q => Sys2Proof.Machine.execPwrGoodLoss q s
  | .hatRebind q => Sys2Proof.Machine.execHatRebind q s
  | .secStage hat val read => Sys2Proof.Machine.execSecStage hat val read s
  | .secStageDone => Sys2Proof.Machine.execSecStageDone s
  | .cancel hat => Sys2Proof.Machine.execCancel hat s
  | .confirm hat => Sys2Proof.Machine.execConfirm hat s
  | .commitSvn hat => Sys2Proof.Machine.execCommitSvn hat s
  | .revoke hat read => Sys2Proof.Machine.execRevoke hat read s
  | .i3cRecoveryWrite off bytes => Sys2Proof.Machine.execI3cRecoveryWrite off bytes s
  | .i3cRecoveryErase => Sys2Proof.Machine.execI3cRecoveryErase s
  | .i3cBootRegionWrite off bytes => Sys2Proof.Machine.execI3cBootRegionWrite off bytes s
  | .i3cBootRegionErase => Sys2Proof.Machine.execI3cBootRegionErase s
  | .i3cReportReq payload => Sys2Proof.Machine.execI3cReportReq payload s
  | .i3cKeyLoad payload => Sys2Proof.Machine.execI3cKeyLoad payload s
  | .i3cReadRestart => Sys2Proof.Machine.execI3cReadRestart s
  | .i3cPrivateRead len => Sys2Proof.Machine.execI3cPrivateRead len s
  | .reportReq q fn payload => Sys2Proof.Machine.execReportReq q fn payload s
  | .reportReady => Sys2Proof.Machine.execReportReady s
  | .keyLoad q fn payload => Sys2Proof.Machine.execKeyLoad q fn payload s
  | .keyLoadDone k => Sys2Proof.Machine.execKeyLoadDone k s
  | .powerSample railEst => Sys2Proof.Machine.execPowerSample railEst s
  | .capRelax ctl => Sys2Proof.Machine.execCapRelax ctl s
  | .capEscalate => Sys2Proof.Machine.execCapEscalate s
  | .railTelemetryRead answers => Sys2Proof.Machine.execRailTelemetryRead answers s
  | .energyAttribution pkgUJ siteUJ staticUJ => Sys2Proof.Machine.execEnergyAttribution pkgUJ siteUJ staticUJ s
  | .junctionSensorRead temps => Sys2Proof.Machine.execJunctionSensorRead temps s
  | .hubHeatStep d => Sys2Proof.Machine.execHubHeatStep d s
  | .thermtrip => Sys2Proof.Machine.execThermtrip s
  | .pwrTargetWrite hat d op => Sys2Proof.Machine.execPwrTargetWrite hat d op s
  | .domainOpStepDone d => Sys2Proof.Machine.execDomainOpStepDone d s
  | .bandHoldDone d => Sys2Proof.Machine.execBandHoldDone d s
  | .domainIdleEntry d => Sys2Proof.Machine.execDomainIdleEntry d s
  | .wearHourly em lanes => Sys2Proof.Machine.execWearHourly em lanes s
  | .pwrOkAssert => Sys2Proof.Machine.execPwrOkAssert s
  | .pwrOkDeassert => Sys2Proof.Machine.execPwrOkDeassert s
  | .pkgRstN => Sys2Proof.Machine.execPkgRstN s
  | .pkgRstNRelease => Sys2Proof.Machine.execPkgRstNRelease s
  | .hubPkgReset hat val => Sys2Proof.Machine.execHubPkgReset hat val s
  | .pkgResetCloseDone => Sys2Proof.Machine.execPkgResetCloseDone s
  | .bootRomDone => Sys2Proof.Machine.execBootRomDone s
  | .fuseLoadDone ok => Sys2Proof.Machine.execFuseLoadDone ok s
  | .hubImageLoaded railOk => Sys2Proof.Machine.execHubImageLoaded railOk s
  | .selfTestDone failures transient => Sys2Proof.Machine.execSelfTestDone failures transient s
  | .hbmTrainingDone failedChannels => Sys2Proof.Machine.execHbmTrainingDone failedChannels s
  | .bootImageCommit => Sys2Proof.Machine.execBootImageCommit s
  | .bootRegisterList => Sys2Proof.Machine.execBootRegisterList s
  | .hubUnitReset hat val => Sys2Proof.Machine.execHubUnitReset hat val s
  | .drainBoundExpiry scope => Sys2Proof.Machine.execDrainBoundExpiry scope s
  | .hubPartReset hat val => Sys2Proof.Machine.execHubPartReset hat val s
  | .partResetDrainDone p => Sys2Proof.Machine.execPartResetDrainDone p s
  | .partResetFlushDone p => Sys2Proof.Machine.execPartResetFlushDone p s
  | .partResetRefitDone p => Sys2Proof.Machine.execPartResetRefitDone p s
  | .partResetDirectoryDone p => Sys2Proof.Machine.execPartResetDirectoryDone p s
  | .refclkCoreLoss => Sys2Proof.Machine.execRefclkCoreLoss s
  | .refclkCoreReturn => Sys2Proof.Machine.execRefclkCoreReturn s
  | .refclkAonLoss => Sys2Proof.Machine.execRefclkAonLoss s
  | .hostRefclkLoss q => Sys2Proof.Machine.execHostRefclkLoss q s
  | .netRefclkLoss c => Sys2Proof.Machine.execNetRefclkLoss c s
  | .networkChipletLoss c => Sys2Proof.Machine.execNetworkChipletLoss c s
  | .wellheadLinkLoss => Sys2Proof.Machine.execWellheadLinkLoss s
  | .wellheadRelink => Sys2Proof.Machine.execWellheadRelink s
  | .testModeSet hat => Sys2Proof.Machine.execTestModeSet hat s
  | .bypass tdi => Sys2Proof.Machine.execBypass tdi s
  | .idcode => Sys2Proof.Machine.execIdcode s
  | .samplePreload cells => Sys2Proof.Machine.execSamplePreload cells s
  | .extest cells => Sys2Proof.Machine.execExtest cells s
  | .regacc write off val => Sys2Proof.Machine.execRegacc write off val s
  | .diesel die => Sys2Proof.Machine.execDiesel die s
  | .hubscan chain => Sys2Proof.Machine.execHubscan chain s
  | .tstLtestGo hat val => Sys2Proof.Machine.execTstLtestGo hat val s
  | .tstLtestStop hat errBits errWords => Sys2Proof.Machine.execTstLtestStop hat errBits errWords s
  | .tstLtestEnd errBits errWords => Sys2Proof.Machine.execTstLtestEnd errBits errWords s
  | .registerWrite hat off size val => Sys2Proof.Machine.execRegisterWrite hat off size val s
  | .alwaysOnRailGood => Sys2Proof.Machine.execAlwaysOnRailGood s
  | .alwaysOnRailRemoved => Sys2Proof.Machine.execAlwaysOnRailRemoved s
  | .refclkAonReturn => Sys2Proof.Machine.execRefclkAonReturn s
  | .wellheadLinkTrainTimeout => Sys2Proof.Machine.execWellheadLinkTrainTimeout s
  | .testLogicReset => Sys2Proof.Machine.execTestLogicReset s
  | .linkPowerStateChange q pstate => Sys2Proof.Machine.execLinkPowerStateChange q pstate s

end Sys2Proof.Machine
end

