-- ==== Sys2Proof/Machine/Tick.lean ====
section
/-! DEFINITION. What a nanosecond with nothing commanded does. -/

namespace Sys2Proof.Machine

/-- HUB_TIMESTAMP counts 1 ns (R40's register: 1 ns per count) whenever its reference clock REFCLK_CORE runs under good power
(R507), through a package reset too; the hub's own sequences go on as far as they can. -/
def tick : Prog := .read fun b =>
  .when (b.sys.pwrOk && b.sys.coreClk) (.all [
    addWrap Reg.HUB_TIMESTAMP Fl.HUB_TIMESTAMP_COUNT 1,
    .when (!b.held && !b.sys.scanned) (.all [commitFlush, hubGoesOn, partWaiting, unitDone, goOff, hostsGoOn, showStep])])

end Sys2Proof.Machine
end

