-- ==== Sys2Proof/Safety.lean ====
section
/-! DEFINITION. What a sound state of the block is: every table in its one canonical form.  And the words in which statements say
what a step does: the block works, the program of edits a step has done. -/

namespace Sys2Proof.Machine

/-- A list of numbers strictly rises. -/
def risingNats : List Nat → Bool
  | [] => true
  | [_] => true
  | x :: y :: l => decide (x < y) && risingNats (y :: l)

/-- Package memory is in canonical form: addresses rising, no byte listed that an unlisted address reads as, the poisoned
halves rising. -/
def Memory.wf (b : Block) : Bool := Tbl.wf memDefault b.bytes && risingNats b.pois

/-- The register table is in canonical form. -/
def Block.regsWf (b : Block) : Bool := Tbl.wf resetVal b.regs

/-- Every table of the block is in canonical form. -/
def Block.canonicalForm (b : Block) : Bool :=
  b.regsWf && Memory.wf b && Tbl.wf (dflt {}) b.tmg && Tbl.wf (dflt {}) b.dom && Tbl.wf (dflt {}) b.cap && Tbl.wf (dflt {}) b.slot &&
  Tbl.wf (dflt {}) b.glv && Tbl.wf (dflt {}) b.prt && Tbl.wf (dflt {}) b.ctx && Tbl.wf (dflt {}) b.treg && Tbl.wf (dflt 0) b.imem &&
  Tbl.wf (dflt 0) b.ldm && Tbl.wf (dflt {}) b.trg && Tbl.wf (dflt {}) b.trgU && Tbl.wf (dflt {}) b.dir &&
  Tbl.wf (dflt {}) b.intake && Tbl.wf (dflt none) b.work && Tbl.wf (dflt {}) b.peer && Tbl.wf (dflt {}) b.port

/-- The package is not held in reset (R469, R508) and scan has not left it undefined (R490): commands act. -/
def State.up (s : State) : Bool := !s.blk.held && !s.blk.sys.scanned

/-- The state after a program of edits: everything but the queue as the edits leave it. -/
def State.did (s : State) (p : Prog) : State := { s with blk := p.run s.blk }

/-- A packet of command code `code` has reached its receiver, and the receiver's power domain is awake and not entering sleep. -/
def State.arrives (s : State) (p : Pkt) (code : Nat) : Bool :=
  s.up && s.blk.reached p && decide (p.cmd = code) &&
  match s.blk.epDom p.dst with
  | some d => !s.blk.domAsleep d && !s.blk.enteringSleep d p
  | none => true

/-- A hat may command at its port (R374) and holds a command class (R376), in a block that works. -/
def State.may (s : State) (hat right : Nat) : Bool := s.up && s.blk.portAdmits hat && s.blk.holds hat right

/-- A frame that chiplet `c` takes in (R346, R362, R371): the domain is awake, the package has an identity, the frame is of its
domain, for this package or announced to all, and from another package that is listed, with a hat bound to it. -/
def State.hears (s : State) (c : Nat) (f : SpanFrame) : Bool :=
  s.up && !s.blk.domAsleep (netDom c) && s.blk.on Reg.SPN_ID Fl.SPN_ID_VALID &&
  decide (f.domain = (identityOf s.blk.recs).2.2.2.1) &&
  (decide (f.dstPkg = s.blk.ownPkg) || (decide (f.type = 3) && decide (f.dstPkg = 0x3FF))) &&
  decide (f.srcPkg ≠ s.blk.ownPkg) && s.blk.listedPeers.contains f.srcPkg &&
  (s.blk.boundHat (0x400 + f.srcPkg)).isSome

/-- A frame belongs to the session with its sender (R349, R350). -/
def State.inSessionWith (s : State) (f : SpanFrame) : Bool :=
  s.blk.session f.srcPkg && decide (s.blk.f (Reg.SPN_PEER f.srcPkg) Fl.SPN_PEER_INCARN = f.incarn)

/-- The instruction at PC of a context that runs has opcode `op` and issues without a trap: PC lies in the kernel (R180), no span
acquire is out, it is its turn (R175), the registers it reads and writes wait for nothing (R181), none it reads was refused late (R223), and poison, if it
reads any, is not trapped (R184). -/
def State.issues (s : State) (e c op : Nat) (reads writes : List VReg) (pois : Bool) : Bool :=
  s.up && s.blk.ctxRuns e c && s.blk.issueTurn e c && s.blk.pcInKernel e c && decide (Ins.op (s.blk.ctxWord e c) = op) &&
  (s.blk.vctx (ctxKey e c)).acq.isNone && !((reads ++ writes).any (s.blk.regBusy e c)) &&
  (reads.findSome? (s.blk.vctx (ctxKey e c)).badCode).isNone && !(pois && s.blk.on (Reg.VEC_CTX_CTL e c) Fl.VEC_CTX_CTL_POISON_TRAP)

/-- The state after an instruction: the issue slot taken, PSN where it read poison, PC at the next index, then its effect. -/
def State.retires (s : State) (e c : Nat) (pois : Bool) (p : Prog) : State :=
  s.did (.all [tookTurn e c, .when pois (setFlags e c Flag.psn), setPc e c (s.blk.ctxPc e c + 1), p])

/-- The commands that act also while the package is held in reset: power, clocks, the reset pin, the boot ROM's end, the trip
comparator, and the test access port's own. -/
def worksHeld : Instr → Bool
  | .thermtrip | .pwrOkAssert | .pwrOkDeassert | .pkgRstN | .pkgRstNRelease | .bootRomDone | .refclkCoreLoss | .refclkCoreReturn
  | .refclkAonLoss | .alwaysOnRailGood | .alwaysOnRailRemoved | .refclkAonReturn | .bypass _ | .idcode | .samplePreload _
  | .extest _ | .regacc .. | .diesel _ | .hubscan _ | .testLogicReset => true
  | _ => false

/-- The commands of the wellhead, which act also after scan has left the hub's state undefined. -/
def worksScanned : Instr → Bool
  | .i3cRecoveryWrite .. | .i3cRecoveryErase | .i3cBootRegionWrite .. | .i3cBootRegionErase | .i3cReadRestart | .i3cPrivateRead _
  | .hubPkgReset .. | .pkgResetCloseDone => true
  | i => worksHeld i

/-- The fields a record of the structure bitstream has room for (R62), and a NAME of 1 to 64 bytes. -/
def Rec.fits : Rec → Bool
  | .target part rev grade kind sites wells =>
    decide (part < 2 ^ 16 ∧ rev < 256 ∧ grade < 256 ∧ kind < 2 ^ 32 ∧ sites < 2 ^ 16 ∧ wells < 2 ^ 16)
  | .name t => decide (1 ≤ t.length ∧ t.length ≤ 64)
  | .mapout w ch => decide (w < 256 ∧ ch < 256)
  | .bypass x y dir => decide (x < 256 ∧ y < 256 ∧ dir < 256)
  | .nocArb hi => decide (hi < 256)
  | .partition p fl sites wells trs => decide (p < 256 ∧ fl < 256 ∧ sites < 2 ^ 16 ∧ wells < 2 ^ 16 ∧ trs < 2 ^ 64)
  | .lend kind unit p => decide (kind < 256 ∧ unit < 256 ∧ p < 256)
  | .region p gran wells base size => decide (p < 256 ∧ gran < 256 ∧ wells < 2 ^ 16 ∧ base < 2 ^ 64 ∧ size < 2 ^ 64)
  | .reserve w purpose size => decide (w < 256 ∧ purpose < 256 ∧ size < 2 ^ 64)
  | .hat h p rights fk kc lbl vec ten =>
    decide (h < 2 ^ 16 ∧ p < 256 ∧ rights < 2 ^ 32 ∧ fk < 2 ^ 16 ∧ kc < 2 ^ 16 ∧ lbl < 256 ∧ vec < 256 ∧ ten < 2 ^ 16)
  | .portBind kind port fn h => decide (kind < 256 ∧ port < 256 ∧ fn < 2 ^ 16 ∧ h < 2 ^ 16)
  | .labelBudget h lbl share burst => decide (h < 2 ^ 16 ∧ lbl < 256 ∧ share < 2 ^ 16 ∧ burst < 2 ^ 16)
  | .spanIdentity pkg et enc dom udp => decide (pkg < 2 ^ 16 ∧ et < 2 ^ 16 ∧ enc < 256 ∧ dom < 2 ^ 64 ∧ udp < 2 ^ 16)
  | .spanPeer peer admin => decide (peer < 2 ^ 16 ∧ admin < 256)
  | .policy guard rise cap => decide (guard < 256 ∧ rise < 256 ∧ cap < 2 ^ 16)
  | .partitionCap p cap => decide (p < 256 ∧ cap < 2 ^ 16)
  | .domainOp d lo hi idle us => decide (d < 256 ∧ lo < 256 ∧ hi < 256 ∧ idle < 256 ∧ us < 2 ^ 32)

/-- What an instruction of a context that uses no memory, tile, reducer or trough may change: registers STATUS and FLAGS of its own
context, its own context, whose turn its engine's issue slot was last, the packets it puts on the mesh (an interrupt, aborts of its
handles), the activity it counts, and free values taken. -/
def Block.ownContextOnly (e c : Nat) (b b' : Block) : Prop :=
  b' = { b with
    regs := b'.regs, ctx := b'.ctx, free := b'.free, vec := { b.vec with last := b'.vec.last },
    pwr := { b.pwr with activity := b'.pwr.activity }, noc := { b.noc with net := b'.noc.net } } ∧
  (∀ a, a ≠ Reg.VEC_CTX_STATUS e c → a ≠ Reg.VEC_CTX_FLAGS e c → b'.w a = b.w a) ∧
  (∀ k, k ≠ ctxKey e c → b'.vctx k = b.vctx k) ∧ b.noc.net <+: b'.noc.net

/-- What no instruction of a vector engine changes: package memory and its poison, its directory and caches, the records and slots
of the cistern, the sites, the hats' table, the pumps, the host ports, the span's peers, trust, timing and power but the activity
counted. -/
def Block.beyondEngines (b b' : Block) : Prop :=
  b'.bytes = b.bytes ∧ b'.pois = b.pois ∧ b'.dir = b.dir ∧ b'.cis = b.cis ∧ b'.slot = b.slot ∧ b'.glv = b.glv ∧ b'.prt = b.prt ∧
  b'.trg = b.trg ∧ b'.trgU = b.trgU ∧ b'.intake = b.intake ∧ b'.work = b.work ∧ b'.peer = b.peer ∧ b'.port = b.port ∧
  b'.sec = b.sec ∧ b'.tmg = b.tmg ∧ b'.dom = b.dom ∧ b'.pwr = { b.pwr with activity := b'.pwr.activity }

end Sys2Proof.Machine
end

