-- ==== Sys2Proof/WellFormed.lean ====
section
/-! DEFINITION. Which commands are well formed: operands that are not already bounded by their types lie in the ranges of the
fields that carry them (a hat has 10 bits, R90; an address 57, R27; a tag 12, R115; a data unit 64 bytes, R93). -/

namespace Sys2Proof.Machine

def hatOk (h : Nat) : Bool := decide (h < 1024)

/-- A data unit carries 64 bytes and a byte-enable mask of 64 bits (R93). -/
def DUnit.wf (u : DUnit) : Bool := decide (u.data.length = 64 ∧ u.be < 2 ^ 64)

/-- A mesh packet's fields fit the header of R90. -/
def Pkt.wf (p : Pkt) : Bool :=
  decide (p.cmd < 256 ∧ p.addr < 2 ^ 57 ∧ p.tag < 2 ^ 12 ∧ p.hat < 1024 ∧ p.label < 8) && p.units.all DUnit.wf

/-- A site message's fields fit the header slot of R115. -/
def Msp.wf (m : Msp) : Bool :=
  decide (m.chan < 8 ∧ m.op < 256 ∧ m.dlen < 8 ∧ m.lane < 4 ∧ m.tag < 2 ^ 12 ∧ m.hat < 1024 ∧ m.label < 8) &&
    decide (m.addr < 2 ^ 57 ∧ m.be < 2 ^ 64)

/-- A span frame's fields fit the header of R350. -/
def SpanFrame.wf (f : SpanFrame) : Bool :=
  decide (f.type < 256 ∧ f.dstPkg < 1024 ∧ f.srcPkg < 1024 ∧ f.psn < 2 ^ 32 ∧ f.ackPsn < 2 ^ 32)

end Sys2Proof.Machine

namespace Sys2Proof

open Sys2Proof.Machine

/-- A command's operands are in range. -/
def Instr.wf : Instr → Bool
  | .monitorTrip _ => true
  | .pacingInterval _ => true
  | .monRecal hat _ => hatOk hat
  | .recalDrainDone _ => true
  | .recalSearchDone _ _ => true
  | .idleCalibrationDone _ _ => true
  | .claim hat _ => hatOk hat
  | .release hat _ => hatOk hat
  | .forceRelease hat _ => hatOk hat
  | .discard hat _ => hatOk hat
  | .stage hat _ => hatOk hat
  | .stageCopyDone _ _ => true
  | .checkCmd hat _ => hatOk hat
  | .checkDone _ => true
  | .stgWrite hat _ _ _ => hatOk hat
  | .commit hat _ => hatOk hat
  | .commitDrainDone => true
  | .commitBankCopyDone => true
  | .cfgExport hat _ => hatOk hat
  | .cfgExportDone => true
  | .packetHop _ _ _ _ units _ => units.all DUnit.wf
  | .domainWakeDone _ => true
  | .nocLtestGo hat _ => hatOk hat
  | .nocLtestStop hat _ _ => hatOk hat
  | .nocLtestEnd _ _ => true
  | .linkTrainingDone _ _ _ => true
  | .cap _ _ _ => true
  | .capEnd _ => true
  | .fitAck _ _ => true
  | .capabilityTimeout _ => true
  | .fitAckTimeout _ => true
  | .siteMeshMessage _ m => m.wf
  | .creditSlot _ _ => true
  | .moduleFail _ _ => true
  | .spareRetrainDone _ => true
  | .moduleRecalStart _ _ => true
  | .moduleRecalEnd _ _ => true
  | .rxClockLockLoss _ => true
  | .adapterLinkDown _ => true
  | .ctlSilenceTimeout _ => true
  | .linkRetrainTimeout _ => true
  | .keepalive _ => true
  | .keepaliveIdleSend _ => true
  | .glvReset hat _ => hatOk hat
  | .glvResetForce hat _ => hatOk hat
  | .glvFlush hat _ => hatOk hat
  | .flushDone _ => true
  | .flushTimeout _ => true
  | .flushDirectoryQueryDone _ => true
  | .siteRstAssert _ => true
  | .siteRstRelease _ => true
  | .temp _ _ => true
  | .tempPollTimer _ => true
  | .digest _ _ => true
  | .throttleCauseChange _ => true
  | .throttle _ _ => true
  | .prtTaskSubmit _ _ hat _ _ _ => hatOk hat
  | .matmul _ _ _ _ _ _ => true
  | .loadCmd _ _ _ _ => true
  | .evict _ _ => true
  | .taskBarrier _ _ => true
  | .prtTaskComplete _ _ => true
  | .prtProgGo _ _ hat _ => hatOk hat
  | .prtProgLoaded _ _ _ => true
  | .prtProgStop _ _ hat => hatOk hat
  | .prtCtxEnable _ _ hat _ => hatOk hat
  | .prtCtxDisable _ _ hat => hatOk hat
  | .prtSensorSample _ _ _ _ => true
  | .vecKloadGo hat _ _ => hatOk hat
  | .vecKloadDone _ _ => true
  | .vecKloadFree hat _ _ => hatOk hat
  | .vecCtxEnable hat _ _ _ => hatOk hat
  | .vecCtxDisable hat _ _ => hatOk hat
  | .vecCtxStopDone _ _ => true
  | .vecCtxStart hat _ _ _ => hatOk hat
  | .tregBindWrite hat _ _ _ => hatOk hat
  | .bktTile p => p.wf
  | .bktCredit p => p.wf
  | .bktReturn p => p.wf
  | .reducerJobDone _ => true
  | .nop _ _ => true
  | .halt _ _ => true
  | .setvl _ _ => true
  | .br _ _ => true
  | .jal _ _ => true
  | .jr _ _ => true
  | .dbnz _ _ => true
  | .vloop _ _ => true
  | .li _ _ => true
  | .lih _ _ => true
  | .flags _ _ => true
  | .rdts _ _ => true
  | .add _ _ => true
  | .sub _ _ => true
  | .mul _ _ => true
  | .mulhu _ _ => true
  | .andCmd _ _ => true
  | .orCmd _ _ => true
  | .xor _ _ => true
  | .sll _ _ => true
  | .srl _ _ => true
  | .sra _ _ => true
  | .min _ _ => true
  | .max _ _ => true
  | .slt _ _ => true
  | .sltu _ _ => true
  | .fadd _ _ => true
  | .fsub _ _ => true
  | .fmul _ _ => true
  | .fdiv _ _ => true
  | .fsqrt _ _ => true
  | .fma _ _ => true
  | .fmin _ _ => true
  | .fmax _ _ => true
  | .vadd _ _ => true
  | .vsub _ _ => true
  | .vmul _ _ => true
  | .vmin _ _ => true
  | .vmax _ _ => true
  | .vabs _ _ => true
  | .vneg _ _ => true
  | .vdiv _ _ => true
  | .vsqrt _ _ => true
  | .vfma _ _ => true
  | .vfms _ _ => true
  | .vfnma _ _ => true
  | .vscalb _ _ => true
  | .vgetexp _ _ => true
  | .vgetmant _ _ => true
  | .vand _ _ => true
  | .vor _ _ => true
  | .vxor _ _ => true
  | .vandn _ _ => true
  | .vsll _ _ => true
  | .vsrl _ _ => true
  | .vsra _ _ => true
  | .vsadd _ _ => true
  | .vssub _ _ => true
  | .vmulh _ _ => true
  | .vcmpeq _ _ => true
  | .vcmpne _ _ => true
  | .vcmplt _ _ => true
  | .vcmple _ _ => true
  | .vsel _ _ => true
  | .vmov _ _ => true
  | .vid _ _ => true
  | .vslidedn _ _ => true
  | .vslideup _ _ => true
  | .vperm _ _ => true
  | .vmovvs _ _ => true
  | .vmovsv _ _ => true
  | .vcvt _ _ => true
  | .vcvtmx _ _ => true
  | .vunmx _ _ => true
  | .mand _ _ => true
  | .mor _ _ => true
  | .mxor _ _ => true
  | .mandn _ _ => true
  | .mnot _ _ => true
  | .mpopc _ _ => true
  | .mfirst _ _ => true
  | .mfroms _ _ => true
  | .mset _ _ => true
  | .vld _ _ => true
  | .vlds _ _ => true
  | .vldx _ _ => true
  | .vst _ _ => true
  | .vsts _ _ => true
  | .vstx _ _ => true
  | .lds _ _ => true
  | .sts _ _ => true
  | .trd _ _ => true
  | .trdc _ _ => true
  | .twr _ _ => true
  | .twrc _ _ => true
  | .tfree _ _ => true
  | .tzero _ _ => true
  | .tinfo _ _ => true
  | .rsum _ _ => true
  | .rsumsq _ _ => true
  | .rmax _ _ => true
  | .rmin _ _ => true
  | .ramax _ _ => true
  | .trgopen _ _ => true
  | .trgadd _ _ => true
  | .trgclose _ _ => true
  | .trgabort _ _ => true
  | .trgfin _ _ => true
  | .fence _ _ => true
  | .sacq _ _ => true
  | .srel _ _ => true
  | .arm hat _ => hatOk hat
  | .abandon hat _ => hatOk hat
  | .rearm hat _ => hatOk hat
  | .disarm hat _ => hatOk hat
  | .finish hat _ => hatOk hat
  | .zeroisationDone _ => true
  | .trgOpen p => p.wf
  | .trgOpenGrant _ => true
  | .trgAdd p => p.wf
  | .trgClose p => p.wf
  | .trgAbort p => p.wf
  | .trgAck p => p.wf
  | .trgStat p => p.wf
  | .trgFinish p => p.wf
  | .trgIdleAbort _ _ => true
  | .trgAccumulateDone _ => true
  | .trgDeadlineExpiry _ => true
  | .trgReleaseDone _ => true
  | .entropyHealthChange _ => true
  | .trgExport hat _ _ => hatOk hat
  | .trgExportDone _ => true
  | .memberEject hat _ _ => hatOk hat
  | .mrd64 p _ => p.wf
  | .mrd128 p => p.wf
  | .mrd32n p => p.wf
  | .mwr64 p => p.wf
  | .mwr128 p => p.wf
  | .mwr32n p => p.wf
  | .mrsp p => p.wf
  | .mack p => p.wf
  | .wcIdleTimeout _ _ => true
  | .clearBlockDone _ => true
  | .channelFail _ _ => true
  | .patrolScrub _ _ _ => true
  | .stackTempRead _ _ => true
  | .wellHeatStep _ => true
  | .stackEcsRead _ _ => true
  | .wbInv hat _ => hatOk hat
  | .wbInvDone _ => true
  | .rds p => p.wf
  | .rdo p => p.wf
  | .upg p => p.wf
  | .own p => p.wf
  | .wbk p => p.wf
  | .evc p => p.wf
  | .dats p => p.wf
  | .date p => p.wf
  | .datm p => p.wf
  | .gntm p => p.wf
  | .wack p => p.wf
  | .err p => p.wf
  | .snps p => p.wf
  | .snpo p => p.wf
  | .snpi p => p.wf
  | .snpd p => p.wf
  | .sack p => p.wf
  | .sdat p => p.wf
  | .snoopTimeout _ _ => true
  | .partitionDownClearDone _ => true
  | .atomicAdd p => p.wf
  | .atomicSwap p => p.wf
  | .atomicCas p => p.wf
  | .atomicAnd p => p.wf
  | .atomicOr p => p.wf
  | .atomicXor p => p.wf
  | .atomicSmin p => p.wf
  | .atomicSmax p => p.wf
  | .atomicUmin p => p.wf
  | .atomicUmax p => p.wf
  | .atomicFadd p => p.wf
  | .atomicBfadd p => p.wf
  | .arsp p => p.wf
  | .aerr p => p.wf
  | .walkEntryReadDone _ _ _ => true
  | .headWordReread _ _ => true
  | .faultIrqHoldoff _ => true
  | .xltBump hat _ => hatOk hat
  | .xltBumpAck _ _ => true
  | .resume hat _ _ => hatOk hat
  | .abortCmd hat _ _ => hatOk hat
  | .xltCtxEnable hat _ _ => hatOk hat
  | .xltCtxDisable hat _ => hatOk hat
  | .xltFqEnable hat _ _ => hatOk hat
  | .xltFqDisable hat _ => hatOk hat
  | .segmentWordWrite hat _ _ => hatOk hat
  | .segmentWordRead hat _ _ => hatOk hat
  | .intakeWrite hat _ _ _ => hatOk hat
  | .descAdmit _ _ => true
  | .copy _ _ => true
  | .fill _ _ => true
  | .pumpBarrier _ _ => true
  | .pieceDone _ _ _ => true
  | .pmpIrqHoldoff _ => true
  | .intakeEnable hat _ _ => hatOk hat
  | .intakeDisable hat _ => hatOk hat
  | .keyRevoke hat _ => hatOk hat
  | .wsetReset hat _ => hatOk hat
  | .wsetBind hat _ _ => hatOk hat
  | .pmpRemove hat _ => hatOk hat
  | .data _ f _ => f.wf
  | .ack _ f _ => f.wf
  | .hello _ _ f _ => f.wf
  | .openCmd _ _ f _ => f.wf
  | .openAck _ _ f _ => f.wf
  | .close _ f _ => f.wf
  | .ackDelayTimer _ => true
  | .retransmitTimeout _ => true
  | .helloTimer _ _ => true
  | .openRetryTimer _ => true
  | .peerSilenceTimeout _ => true
  | .spanReadTimeout _ => true
  | .spanWriteTimeout _ => true
  | .spanPortUp _ _ => true
  | .spanPortDown _ _ => true
  | .sessionHandoverDone _ => true
  | .spanLaneFail _ _ => true
  | .spnQuadWrite hat _ _ _ => hatOk hat
  | .rlcDisable hat => hatOk hat
  | .spnAcq p => p.wf
  | .acquireInvalidateDone _ => true
  | .spnAcqDone p => p.wf
  | .spnDrain _ drainHat => hatOk drainHat
  | .spnDrainDone _ drainHat => hatOk drainHat
  | .regRd p => p.wf
  | .regWr p => p.wf
  | .regRsp p => p.wf
  | .regAck p => p.wf
  | .irq p => p.wf
  | .meshFence p => p.wf
  | .fenceDone p => p.wf
  | .hatCmd _ _ _ => true
  | .hatCmdDone _ _ => true
  | .regulationWindow => true
  | .hatReset hat _ => hatOk hat
  | .hatRemove hat _ => hatOk hat
  | .graceEnd _ => true
  | .hostMemWrite _ _ _ _ _ _ => true
  | .hostMemRead _ _ _ _ _ _ => true
  | .configRequest _ _ _ _ _ => true
  | .hostCompletion _ _ _ _ => true
  | .hostReadTimeout _ _ => true
  | .flr _ _ => true
  | .vfEnableClear _ _ _ => true
  | .perstAssert _ => true
  | .perstDeassert _ => true
  | .hotReset _ => true
  | .portReady _ _ _ _ => true
  | .dlDown _ => true
  | .pmeTurnOff _ => true
  | .l0pIdleTimer _ => true
  | .presenceDebounce _ _ => true
  | .attnButton _ => true
  | .attnButtonTimeout _ => true
  | .pwrCmdOn hat _ => hatOk hat
  | .pwrCmdOff hat _ => hatOk hat
  | .pwrGoodRise _ => true
  | .pwrGoodLoss _ => true
  | .hatRebind _ => true
  | .secStage hat _ _ => hatOk hat
  | .secStageDone => true
  | .cancel hat => hatOk hat
  | .confirm hat => hatOk hat
  | .commitSvn hat => hatOk hat
  | .revoke hat _ => hatOk hat
  | .i3cRecoveryWrite _ _ => true
  | .i3cRecoveryErase => true
  | .i3cBootRegionWrite _ _ => true
  | .i3cBootRegionErase => true
  | .i3cReportReq _ => true
  | .i3cKeyLoad _ => true
  | .i3cReadRestart => true
  | .i3cPrivateRead _ => true
  | .reportReq _ _ _ => true
  | .reportReady => true
  | .keyLoad _ _ _ => true
  | .keyLoadDone _ => true
  | .powerSample _ => true
  | .capRelax _ => true
  | .capEscalate => true
  | .railTelemetryRead _ => true
  | .energyAttribution _ _ _ => true
  | .junctionSensorRead _ => true
  | .hubHeatStep _ => true
  | .thermtrip => true
  | .pwrTargetWrite hat _ _ => hatOk hat
  | .domainOpStepDone _ => true
  | .bandHoldDone _ => true
  | .domainIdleEntry _ => true
  | .wearHourly _ _ => true
  | .pwrOkAssert => true
  | .pwrOkDeassert => true
  | .pkgRstN => true
  | .pkgRstNRelease => true
  | .hubPkgReset hat _ => hatOk hat
  | .pkgResetCloseDone => true
  | .bootRomDone => true
  | .fuseLoadDone _ => true
  | .hubImageLoaded _ => true
  | .selfTestDone _ _ => true
  | .hbmTrainingDone _ => true
  | .bootImageCommit => true
  | .bootRegisterList => true
  | .hubUnitReset hat _ => hatOk hat
  | .drainBoundExpiry _ => true
  | .hubPartReset hat _ => hatOk hat
  | .partResetDrainDone _ => true
  | .partResetFlushDone _ => true
  | .partResetRefitDone _ => true
  | .partResetDirectoryDone _ => true
  | .refclkCoreLoss => true
  | .refclkCoreReturn => true
  | .refclkAonLoss => true
  | .hostRefclkLoss _ => true
  | .netRefclkLoss _ => true
  | .networkChipletLoss _ => true
  | .wellheadLinkLoss => true
  | .wellheadRelink => true
  | .testModeSet hat => hatOk hat
  | .bypass _ => true
  | .idcode => true
  | .samplePreload _ => true
  | .extest _ => true
  | .regacc _ _ _ => true
  | .diesel _ => true
  | .hubscan _ => true
  | .tstLtestGo hat _ => hatOk hat
  | .tstLtestStop hat _ _ => hatOk hat
  | .tstLtestEnd _ _ => true
  | .registerWrite hat _ _ _ => hatOk hat
  | .alwaysOnRailGood => true
  | .alwaysOnRailRemoved => true
  | .refclkAonReturn => true
  | .wellheadLinkTrainTimeout => true
  | .testLogicReset => true
  | .linkPowerStateChange _ _ => true

end Sys2Proof
end

