-- ==== Sys2Proof/Certificates/Slice0/Obligations.lean ====
section
/-! DEFINITION. The statements for the provers. -/

open Sys2Proof Sys2Proof.Machine

/-- A monitor trip in an active region below its ceiling and outside the 100 ns hold-off is counted and raises the code by one; a pacing interval with a trip halves admission again; MON_RECAL by a POWER hat opens a window on each region named; a drained window goes on to its search; the search puts the region on its new baseline, sets RECAL_DONE, closes the window and releases what it held; an idle calibration puts a region on its baseline and makes it active, or in a wake from off waits for the wake to end. (R46, R49, R51, R53, R43) -/
def Obligations.TimingCommands : Prop :=
  (∀ (r : Fin 16) (s : State), s.up → s.blk.regionOn r → s.blk.regionState r = 1 → s.blk.inHoldoff r = false →
      s.blk.regionCode r < s.blk.f (Reg.MON_TMG_REGION r) Fl.MON_TMG_REGION_CEILING →
    exec (.monitorTrip r) s = .next (s.did (.all [
      incSat (Reg.MON_TMG_REGION r) Fl.MON_TMG_REGION_TRIPS, modRegion r (fun x => { x with tripped := true }), raiseCode r]))) ∧
  (∀ (r : Fin 16) (s : State), s.up → (s.blk.region r).pace ≠ 0 → (s.blk.region r).tripped = true →
    exec (.pacingInterval r) s = .next (s.did (modRegion r fun x =>
      { x with pace := min 4 (x.pace + 1), tripped := false, quiet := 0 }))) ∧
  (∀ (hat mask : Nat) (s : State), s.up → s.blk.portAdmits hat → s.blk.holds hat Right.power →
    exec (.monRecal hat mask) s = .next (s.did (.each (setBits mask 16) openWindow))) ∧
  (∀ (r : Fin 16) (s : State), s.up → (s.blk.region r).phase = .draining → s.blk.regionDrained r →
    exec (.recalDrainDone r) s = .next (s.did (modRegion r fun x => { x with phase := .searching }))) ∧
  (∀ (r : Fin 16) (n : Fin 32) (s : State), s.up → (s.blk.region r).phase = .searching →
    exec (.recalSearchDone r n) s = .next (s.did (.all [
      setBaseline r n,
      setF (Reg.MON_TMG_REGION r) Fl.MON_TMG_REGION_STATE 1,
      setF (Reg.MON_TMG_REGION r) Fl.MON_TMG_REGION_RECAL_DONE 1,
      modRegion r (fun x => { x with phase := .closed, inside := [] }),
      modDom (regionDom r) (fun x => { x with codeFloor := none }),
      refreshFloor (regionDom r), releaseRegion r, kickDomain (regionDom r), unblockCommit]))) ∧
  (∀ (r : Fin 16) (n : Fin 32) (s : State), s.up → s.blk.regionOn r → s.blk.regionState r = 0 →
    exec (.idleCalibrationDone r (some n)) s = .next (s.did (.all [
      setBaseline r n, setF (Reg.MON_TMG_REGION r) Fl.MON_TMG_REGION_STATE 1]))) ∧
  (∀ (r : Fin 16) (n : Fin 32) (s : State), s.up → s.blk.regionOn r → s.blk.calibrates r →
    exec (.idleCalibrationDone r (some n)) s = .next (s.did (.all [setBaseline r n, modRegion r (fun x => { x with calibrated := true })])))

/-- A TARGET write by a POWER hat sets TARGET; a finished step makes the stepped-to OP the domain's OP; a band hold that ends makes the domain ON and releases what it held; the 100 microsecond sample updates NOW_W and the average and is measured against every cap; after ten quiet samples one action is undone (shown for pacing of the package); an unreachable cap is escalated once; every rail's answer is taken; a rail that misses three in a row is marked FAIL; the hottest sensor is shown, and each of the heat actions sets and clears at its own threshold; a hot domain loses one OP; the trip comparator asserts THERMTRIP_N, writes VDD_CORE to its minimum and stops every domain. (R450, R451, R452, R456, R459, R461, R455, R464, R465) -/
def Obligations.PowerCommands : Prop :=
  (∀ (hat : Nat) (d : Fin 20) (op : Fin 16) (s : State), s.up → s.blk.portAdmits hat → s.blk.holds hat Right.power →
    exec (.pwrTargetWrite hat d op) s = .next (s.did (.all [
      setF (Reg.PWR_DOM_CTL d) Fl.PWR_DOM_CTL_TARGET op,
      setF (Reg.PWR_DOM_STATUS d) Fl.PWR_DOM_STATUS_TIMING_OP op, kickDomain d]))) ∧
  (∀ (d : Fin 20) (t : Nat) (s : State), s.up → s.blk.domState d = 3 → (s.blk.domSt d).stepTo = some t →
    exec (.domainOpStepDone d) s = .next (s.did (.all [
      setF (Reg.PWR_DOM_STATUS d) Fl.PWR_DOM_STATUS_OP t,
      incSat (Reg.PWR_DOM_STATUS d) Fl.PWR_DOM_STATUS_STEPS,
      modDom d (fun x => { x with stepTo := none }),
      setF (Reg.PWR_DOM_STATUS d) Fl.PWR_DOM_STATUS_STATE
        (if (d.val < 12 ∨ d.val = 17 ∨ d.val = 18) ∧ opBand (s.blk.domOp d) ≠ opBand t then 4 else 0),
      writeVdd, kickDomain d]))) ∧
  (∀ (d : Fin 20) (s : State), s.up → s.blk.domState d = 4 →
    exec (.bandHoldDone d) s = .next (s.did (.all [setF (Reg.PWR_DOM_STATUS d) Fl.PWR_DOM_STATUS_STATE 0, kickDomain d,
      releaseRegion (if d.val < 12 then d else 16 + d)]))) ∧
  (∀ (est : List Nat) (s : State), s.up →
    exec (.powerSample est) s = .next (s.did (.all [
      modPwr (fun p => { p with samples := (s.blk.packageW est :: s.blk.pwr.samples).take 100 }),
      setF Reg.PWR_STATUS Fl.PWR_STATUS_NOW_W (s.blk.packageW est),
      setF Reg.PWR_STATUS Fl.PWR_STATUS_AVG_W (((s.blk.packageW est :: s.blk.pwr.samples).take 100).sum /
        ((s.blk.packageW est :: s.blk.pwr.samples).take 100).length),
      capSample 0 (s.blk.packageW est),
      .each (List.range 16) fun p => capSample (1 + p) (s.blk.f (Reg.PWR_PART p) Fl.PWR_PART_AVG_W)]))) ∧
  (∀ (s : State), s.up → 10 ≤ (s.blk.capSt 0).below → s.blk.capPace 0 ≠ 0 →
    exec (.capRelax 0) s = .next (s.did (.all [
      modCap 0 (fun c => { c with below := 0 }),
      setF Reg.PWR_STATUS Fl.PWR_STATUS_PACE (s.blk.capPace 0 - 1), refreshStage]))) ∧
  (∀ (s : State), s.up → s.blk.capUnreach 0 → (s.blk.capSt 0).escDone = false →
    exec .capEscalate s = .next (s.did (.all [
      raiseEsc, setF Reg.PWR_STATUS Fl.PWR_STATUS_ESCALATED 1, modCap 0 (fun c => { c with escDone := true })]))) ∧
  (∀ (answers : List (Option (Nat × Nat))) (s : State), s.up →
    exec (.railTelemetryRead answers) s = .next (s.did (.each (List.range 20) fun k => .read fun b =>
      match answers.getD k none with
      | some (mv, cur) => .all [
          setF (Reg.PWR_RAIL k) Fl.PWR_RAIL_MV mv, setF (Reg.PWR_RAIL k) Fl.PWR_RAIL_CURRENT cur,
          setF (Reg.PWR_RAIL k) Fl.PWR_RAIL_VALID 1,
          modPwr (fun p => { p with railMiss := Tbl.set (dflt 0) k 0 p.railMiss })]
      | none => .all [
          modPwr (fun p => { p with railMiss := Tbl.set (dflt 0) k (min 3 (Tbl.get (dflt 0) k b.pwr.railMiss + 1)) p.railMiss }),
          .when (decide (Tbl.get (dflt 0) k b.pwr.railMiss + 1 = 3)) (.all [
            setF (Reg.PWR_RAIL k) Fl.PWR_RAIL_FAIL 1, setF (Reg.PWR_RAIL k) Fl.PWR_RAIL_VALID 0,
            setF Reg.PWR_STATUS Fl.PWR_STATUS_TELEM_FAIL 1])]))) ∧
  (∀ (t0 t : Int) (rest : List Int) (k : Nat) (warn pace : Bool) (at_ : Nat → List Int) (hot : Nat → Bool) (s : State), s.up →
      hottest (t0 :: rest) 0 (0, t0) = (k, t) →
      warn = decide ((if s.blk.pwr.warnOn then 776 else 800) ≤ t) →
      pace = decide ((if s.blk.on Reg.PWR_TEMP Fl.PWR_TEMP_PACE then 856 else 880) ≤ t) →
      at_ = (fun d => (List.range (rest.length + 1)).filterMap fun i => if sensorDom i = d then some ((t0 :: rest).getD i 0) else none) →
      hot = (fun d => (at_ d).any fun x => decide ((if (s.blk.domSt d).hot then 816 else 840) ≤ x)) →
    exec (.junctionSensorRead (t0 :: rest)) s = .next (s.did (.all [
      setF Reg.PWR_TEMP Fl.PWR_TEMP_HOTTEST (wrapInt 16 t), setF Reg.PWR_TEMP Fl.PWR_TEMP_SENSOR k,
      .when (warn && !s.blk.pwr.warnOn) (.all [setF Reg.PWR_TEMP Fl.PWR_TEMP_WARN 1, raiseEsc]),
      modPwr (fun p => { p with warnOn := warn }),
      .each (List.range 20) (fun d => .when (hot d != (s.blk.domSt d).hot) (
        if hot d then .all [modDom d (fun x => { x with hot := true }), logEv St.thermalThrottle d]
        else .all [modDom d (fun x => { x with hot := false, hubHeat := 15 }), refreshHeat d])),
      setF Reg.PWR_TEMP Fl.PWR_TEMP_HEAT (b2n ((List.range 20).any hot)), setF Reg.PWR_TEMP Fl.PWR_TEMP_PACE (b2n pace)]))) ∧
  (∀ (d : Fin 20) (s : State), s.up → (s.blk.domSt d).hot = true → s.blk.domAsleep d = false →
    exec (.hubHeatStep d) s = .next (s.did (.all [
      modDom d (fun x => { x with hubHeat := s.blk.lowerLim d x.hubHeat }), refreshHeat d]))) ∧
  (∀ (s : State), s.blk.pwr.thermtrip = false →
    exec .thermtrip s = .next (s.did (.all [
      modPwr (fun p => { p with thermtrip := true, tripOwed := true }),
      setF (Reg.PWR_RAIL 0) Fl.PWR_RAIL_SET_MV 550, send (.avs 0 0 550),
      .each (List.range 20) fun d => .all [
        setF (Reg.PWR_DOM_STATUS d) Fl.PWR_DOM_STATUS_STATE 2, modDom d (fun x => { x with stepTo := none })],
      setF Reg.TST_LTEST_CTL Fl.TST_LTEST_CTL_BUSY 0, setF Reg.TST_LTEST_CTL Fl.TST_LTEST_CTL_MISSION 0, modSys (fun x => { x with ltest := {} })])))

/-- The attribution adds the package's energy to PWR_PKG_ENERGY and empties the activity counts; the hourly update writes the drift of each of the 16 regions and counts the hour. (R463, R466, R467) -/
def Obligations.EnergyAndWear : Prop :=
  (∀ (uj : Nat) (su du : List Nat) (s : State), s.up → ∃ s',
    exec (.energyAttribution uj su du) s = .next s' ∧
    s'.blk.f Reg.PWR_PKG_ENERGY Fl.PWR_PKG_ENERGY_UJ = (s.blk.f Reg.PWR_PKG_ENERGY Fl.PWR_PKG_ENERGY_UJ + uj) % 2 ^ Fl.PWR_PKG_ENERGY_UJ.width ∧
    s'.blk.pwr.activity = [] ∧ s'.blk.pwr.mspBytes = [] ∧ s'.pending = s.pending) ∧
  (∀ (em : List Nat) (hbm : Nat) (s : State), s.up → ∃ s',
    exec (.wearHourly em hbm) s = .next s' ∧
    (∀ r, r < 16 → s'.blk.f (Reg.MON_WEAR_REGION r) Fl.MON_WEAR_REGION_DRIFT = s.blk.drift r) ∧
    s'.blk.pwr.hours = s.blk.pwr.hours + 1 ∧ s'.pending = s.pending)

/-- A packet of each command that reads or writes memory, of each coherence request and of each atomic on either of its two codes, when it has reached a receiver that is awake: at a home bank the home takes it in (after the error its check words show, for the row that says one), at a pump the pump, at a host port the port, at a transport engine the span. (R93, R243, R262, R279, R290, R99) -/
def Obligations.MemoryRequestsAtTheirReceivers : Prop :=
  (∀ (p : Pkt) (err : HomeErr) (s : State), s.arrives p 0x00 →
      (∀ w k, p.dst = .bank w k → exec (.mrd64 p err) s = .next (s.did (.all [homeError p err, homeArrive p]))) ∧
      (∀ n, p.dst = .pump n → exec (.mrd64 p .clean) s = .next (s.did (.all [homeError p .clean, pumpRequest p]))) ∧
      (∀ q, p.dst = .host q → exec (.mrd64 p .clean) s = .next (s.did (.all [homeError p .clean, hostRequest q p]))) ∧
      (∀ e, p.dst = .spanEng e → exec (.mrd64 p .clean) s = .next (s.did (.all [homeError p .clean, spanRequest e p])))) ∧
  (∀ x ∈ [(Instr.mrd128, 0x01), (Instr.mrd32n, 0x02), (Instr.mwr64, 0x08), (Instr.mwr128, 0x09), (Instr.mwr32n, 0x0A),
      (Instr.rds, 0x20), (Instr.rdo, 0x21), (Instr.upg, 0x22), (Instr.own, 0x23), (Instr.wbk, 0x24), (Instr.evc, 0x25)],
    ∀ (p : Pkt) (s : State), s.arrives p x.2 →
      (∀ w k, p.dst = .bank w k → exec (x.1 p) s = .next (s.did (homeArrive p))) ∧
      (∀ n, p.dst = .pump n → exec (x.1 p) s = .next (s.did (pumpRequest p))) ∧
      (∀ q, p.dst = .host q → exec (x.1 p) s = .next (s.did (hostRequest q p))) ∧
      (∀ e, p.dst = .spanEng e → exec (x.1 p) s = .next (s.did (spanRequest e p)))) ∧
  (∀ x ∈ [(Instr.atomicAdd, 0), (Instr.atomicSwap, 1), (Instr.atomicCas, 2), (Instr.atomicAnd, 3), (Instr.atomicOr, 4),
      (Instr.atomicXor, 5), (Instr.atomicSmin, 6), (Instr.atomicSmax, 7), (Instr.atomicUmin, 8), (Instr.atomicUmax, 9),
      (Instr.atomicFadd, 10), (Instr.atomicBfadd, 11)],
    ∀ (p : Pkt) (s : State), (s.arrives p (0x40 + x.2) ∨ s.arrives p (0x50 + x.2)) →
      (∀ w k, p.dst = .bank w k → exec (x.1 p) s = .next (s.did (homeArrive p))) ∧
      (∀ e, p.dst = .spanEng e → exec (x.1 p) s = .next (s.did (spanRequest e p))))

/-- An answer to a memory request reaches the unit that asked, which takes it off the mesh; grants, data, errors and fence answers reach a site's glove; a snoop goes to the glove of its site; its answer goes to the home; a trough command is taken up by a trough unit or by the span; a trough unit's answer is taken up by the engine that contributes; an answer for a unit of a partition that is down is absorbed; a walker reads the entry it asked for; a reserved command code is completed with DESC_INVALID. (R93, R243, R262, R279, R283, R99) -/
def Obligations.AnswersAtTheirReceivers : Prop :=
  (∀ x ∈ [(Instr.mrsp, 0x18), (Instr.mack, 0x19)], ∀ (p : Pkt) (s : State), s.arrives p x.2 →
      (∀ q, s.blk.downUnit p.dst = some q → exec (x.1 p) s = .next (s.did (.all [takePkt p, logEv St.drainAbsorbed q]))) ∧
      (s.blk.downUnit p.dst = none →
      (∀ e, p.dst = .engine e → exec (x.1 p) s = .next (s.did (.all [takePkt p, engineMemRsp e p]))) ∧
      (∀ u, p.dst = .trough u → exec (x.1 p) s = .next (s.did (.all [takePkt p, troughMemRsp p]))) ∧
      (∀ n, p.dst = .pump n → exec (x.1 p) s = .next (s.did (.all [takePkt p, pumpMemRsp n p]))) ∧
      (∀ g k, p.dst = .glove g k → exec (x.1 p) s = .next (s.did (.all [gloveRsp g k p, prtWriteFailed g p]))) ∧
      (∀ q, p.dst = .host q → exec (x.1 p) s = .next (s.did (hostAnswer q p))) ∧
      (∀ w k, p.dst = .walker w → s.blk.walkAt w = some k → s.blk.entryRsp w k p →
        exec (x.1 p) s = .next (s.did (walkEntryReadDone w 0 0))) ∧
      (∀ e, p.dst = .spanEng e → exec (x.1 p) s = .next (s.did (spanAnswer e p))))) ∧
  (∀ x ∈ [(Instr.mack, 0x00, 0x20), (Instr.err, 0x20, 0x40), (Instr.aerr, 0x40, 0x60), (Instr.regAck, 0x80, 0xA0)],
    ∀ (p : Pkt) (s : State), s.arrives p p.cmd → spareCmd p.cmd → x.2.1 ≤ p.cmd → p.cmd < x.2.2 →
      exec (x.1 p) s = .next (s.did (.all [takePkt p, refuseReq p St.descInvalid]))) ∧
  (∀ x ∈ [(Instr.dats, 0x28), (Instr.date, 0x29), (Instr.datm, 0x2A), (Instr.gntm, 0x2B), (Instr.wack, 0x2C), (Instr.err, 0x2D),
      (Instr.arsp, 0x5E), (Instr.aerr, 0x5F), (Instr.fenceDone, 0x87)], ∀ (p : Pkt) (s : State), s.arrives p x.2 →
      (∀ g k, p.dst = .glove g k → exec (x.1 p) s = .next (s.did (gloveRsp g k p))) ∧
      (∀ e, p.dst = .spanEng e → exec (x.1 p) s = .next (s.did (spanAnswer e p)))) ∧
  (∀ x ∈ [(Instr.snps, 0x30), (Instr.snpo, 0x31), (Instr.snpi, 0x32), (Instr.snpd, 0x33)],
    ∀ (p : Pkt) (g k : Nat) (s : State), s.arrives p x.2 → p.dst = .glove g k →
      exec (x.1 p) s = .next (s.did (gloveSnoop g p))) ∧
  (∀ x ∈ [(Instr.sack, 0x38), (Instr.sdat, 0x39)], ∀ (p : Pkt) (w k : Nat) (s : State), s.arrives p x.2 → p.dst = .bank w k →
      exec (x.1 p) s = .next (s.did (homeSnoopRsp p))) ∧
  (∀ x ∈ [(Instr.trgOpen, 0x70, Machine.trgOpen), (Instr.trgAdd, 0x71, Machine.trgAdd), (Instr.trgClose, 0x72, Machine.trgClose),
      (Instr.trgAbort, 0x73, Machine.trgAbort), (Instr.trgFinish, 0x76, Machine.trgFinish)],
    ∀ (p : Pkt) (s : State), s.arrives p x.2.1 →
      (∀ u, p.dst = .trough u → exec (x.1 p) s = .next (s.did (if x.2.1 = 0x73 then x.2.2 p else atTrough p (x.2.2 p)))) ∧
      (∀ e, p.dst = .spanEng e → exec (x.1 p) s = .next (s.did (spanRequest e p)))) ∧
  (∀ x ∈ [(Instr.trgAck, 0x74, engineTrgAck), (Instr.trgStat, 0x75, engineTrgStat)],
    ∀ (p : Pkt) (s : State), s.arrives p x.2.1 →
      s.blk.downUnit p.dst = none →
      (∀ e, p.dst = .engine e → exec (x.1 p) s = .next (s.did (.all [takePkt p, x.2.2 e p]))) ∧
      (∀ e, p.dst = .spanEng e → exec (x.1 p) s = .next (s.did (spanAnswer e p))))

/-- A register read at a register endpoint answers REG_RSP with the status and the 8 bytes in their place, or poisoned when it is refused, unless it must wait; a register write writes under the packet's hat and answers REG_ACK with the status; both at a site's window go to the window; their answers reach the glove or host port that asked; a MESH_FENCE is answered FENCE_DONE once every earlier ORDERED packet between the same endpoints has completed. (R10, R31, R379, R387, R303, R93) -/
def Obligations.RegisterPacketsAndFences : Prop :=
  (∀ (p : Pkt) (q : Nat) (s : State), s.arrives p 0x80 → p.dst = .quadReg q ∨ p.dst = .wellReg q ∨ p.dst = .island q →
      s.blk.readWaits (s.blk.regOff p.addr) = false →
    (∀ v, (s.blk.unitAdmits p.hat || s.blk.portAdmits p.hat) = true → s.blk.regRead p.hat (s.blk.regOff p.addr) 8 = (0, v) →
      exec (.regRd p) s = .next (s.did (.all [
        takePkt p,
        sendPkt (p.reply 0x82 (statusAddr p 0) false [⟨slice (List.replicate (p.addr % 64) 0 ++ toBytesLE 8 v) 0 64, 2 ^ 64 - 1, false⟩])]))) ∧
    (∀ st, st = worst [if s.blk.unitAdmits p.hat || s.blk.portAdmits p.hat then St.ok else St.accessDenied,
        (s.blk.regRead p.hat (s.blk.regOff p.addr) 8).1] → st ≠ 0 →
      exec (.regRd p) s = .next (s.did (.all [takePkt p, sendPkt (p.reply 0x82 (statusAddr p st) true [poisonUnit])])))) ∧
  (∀ (p : Pkt) (q : Nat) (u : DUnit) (s : State), s.arrives p 0x81 → p.dst = .quadReg q ∨ p.dst = .wellReg q ∨ p.dst = .island q →
      p.units = [u] → u.pu = false → u.be / 2 ^ (p.addr % 64 / 8 * 8) % 256 = 0xFF → p.anyPois = false →
      (s.blk.unitAdmits p.hat || s.blk.portAdmits p.hat) = true →
    exec (.regWr p) s = .next (s.did (.all [
      takePkt p,
      modHats (fun x => { x with acting := some p.hat }),
      regWrite p.hat (s.blk.regOff p.addr) 8 (numAt u.data (p.addr % 64 / 8 * 8) 8),
      modHats (fun x => { x with acting := none }),
      sendPkt (p.reply 0x83 (statusAddr p
        (s.blk.regCode p.hat (s.blk.regOff p.addr) 8 (numAt u.data (p.addr % 64 / 8 * 8) 8))) false [])]))) ∧
  (∀ (p : Pkt) (g k : Nat) (s : State), p.dst = .glove g k →
    (s.arrives p 0x80 → exec (.regRd p) s = .next (s.did (windowRequest g p))) ∧
    (s.arrives p 0x81 → exec (.regWr p) s = .next (s.did (windowRequest g p)))) ∧
  (∀ x ∈ [(Instr.regRsp, 0x82), (Instr.regAck, 0x83)], ∀ (p : Pkt) (s : State), s.arrives p x.2 →
    (∀ g k, p.dst = .glove g k → exec (x.1 p) s = .next (s.did (gloveRsp g k p))) ∧
    (∀ q, p.dst = .host q → exec (x.1 p) s = .next (s.did (hostAnswer q p)))) ∧
  (∀ (p : Pkt) (s : State), s.arrives p 0x86 → s.blk.fenceClear p →
    exec (.meshFence p) s = .next (s.did (.all [takePkt p, sendPkt (p.reply 0x87 (statusAddr p St.ok) false [])])))

/-- PWR_OK rising starts time, records a cold reset and begins bring-up; PWR_OK or PKG_RST_N falling, REFCLK_CORE lost and a finished HUB_PKG_RESET each reset the package with their own cause, and bring-up begins again when what held it is gone; losing REFCLK_AON or the wellhead's link takes the wellhead off; the relink brings it back, without the STAGE and the loads that were under way; a chiplet's clock or the chiplet itself lost takes its ports down; the always-on rail going takes the package down first. (R468, R469, R483, R484, R511, R508) -/
def Obligations.ResetAndClocks : Prop :=
  (∀ s : State, s.blk.sys.pwrOk = false →
    exec .pwrOkAssert s = .next (s.did (.all [
      modSys (fun x => { x with pwrOk := true }), setR Reg.HUB_TIMESTAMP 0,
      setF Reg.HUB_RESET_CAUSE Fl.HUB_RESET_CAUSE_LAST 1, setF Reg.HUB_RESET_CAUSE Fl.HUB_RESET_CAUSE_COUNT 0, beginBringup]))) ∧
  (∀ s : State, s.blk.sys.pwrOk → exec .pwrOkDeassert s = .next (s.did (.all [
      modSys (fun x => { x with pwrOk := false }), packageReset 1]))) ∧
  (∀ s : State, s.blk.sys.pkgRstN → s.blk.sys.pwrOk → exec .pkgRstN s = .next (s.did (.all [
      modSys (fun x => { x with pkgRstN := false }), packageReset 2]))) ∧
  (∀ s : State, s.blk.sys.pkgRstN = false → exec .pkgRstNRelease s = .next (s.did (.all [
      modSys (fun x => { x with pkgRstN := true }), beginBringup]))) ∧
  (∀ (val : W64) (s : State), s.up → s.blk.portAdmits 0 → s.blk.i3cLimited = false → s.blk.sys.closing = false →
      getFld val Fl.HUB_PKG_RESET_GO = 1 → getFld val Fl.HUB_PKG_RESET_KEY = 0xA55A →
    exec (.hubPkgReset 0 val) s = .next (s.did (.all [
      .each s.blk.listedPeers closeSession, modSys (fun x => { x with closing := true })]))) ∧
  (∀ s : State, s.up → s.blk.sys.closing → exec .pkgResetCloseDone s = .next (s.did (.all [packageReset 3, beginBringup]))) ∧
  (∀ s : State, s.blk.sys.pwrOk → s.blk.sys.coreClk → exec .refclkCoreLoss s = .next (s.did (.all [
      modSys (fun x => { x with coreClk := false, faultN := true }), packageReset 5]))) ∧
  (∀ s : State, s.blk.sys.coreClk = false → exec .refclkCoreReturn s = .next (s.did (.all [
      modSys (fun x => { x with coreClk := true, faultN := false }), beginBringup]))) ∧
  (∀ s : State, exec .refclkAonLoss s = .next (s.did (.all [modSys (fun x => { x with aonClk := false }), wellheadLost]))) ∧
  (∀ s : State, exec .refclkAonReturn s = .next (s.did (modSys fun x => { x with aonClk := true }))) ∧
  (∀ s : State, s.up → exec .wellheadLinkLoss s = .next (s.did wellheadLost)) ∧
  (∀ s : State, s.up → s.blk.sys.aonClk → s.blk.sec.linkLost → exec .wellheadRelink s = .next (s.did (.all [
      modSec (fun x => { x with linkLost := false, upd := none, stageWait := none, loads := [] }),
      .when (decide (s.blk.updState = 1)) (.all [setF Reg.SEC_UPD_CTL Fl.SEC_UPD_CTL_BUSY 0, setUpd 0]),
      .each (s.blk.sec.loads.filter fun l => decide (s.blk.keyState l.slot = 1)) (fun l => setF (Reg.PMP_KEY l.slot) Fl.PMP_KEY_STATE 0),
      .each (0 :: ((s.blk.boundHat 0x100).filter (· ≠ 0)).toList) releaseSlotsOf]))) ∧
  (∀ (q : Fin 4) (s : State), s.up → exec (.hostRefclkLoss q) s = .next (s.did (declareRemoval q false))) ∧
  (∀ (c : Fin 2) (s : State), s.up → exec (.netRefclkLoss c) s = .next (s.did (netLoss c)) ∧
    exec (.networkChipletLoss c) s = .next (s.did (netLoss c))) ∧
  (∀ s : State, s.blk.sec.alwaysOn = false →
    exec .alwaysOnRailGood s = .next (s.did (modSec fun x => { x with alwaysOn := true }))) ∧
  (∀ s : State, s.blk.sec.alwaysOn → s.blk.sys.pwrOk →
    exec .alwaysOnRailRemoved s = .next (s.did (.all [
      .all [modSys (fun x => { x with pwrOk := false }), packageReset 1],
      modPwr (fun x => { x with thermtrip := false }),
      modSys (fun x => { x with romDone := false, begun := false }),
      modSec (fun x => { x with alwaysOn := false })])))

/-- Each step of bring-up, when the ones before it are done and none has failed, does what it says and shows the new step: fuses loaded; the hub image loaded switches off the domains of absent wells and of quadrants without a die; self test repairs what failed, counts what passed on a second run and starts training of the sites used; memory training takes failed channels out and shows the wells; the boot image is committed. The boot ROM reads the boot-control record and picks a slot: the pending one while tries are left, the active one, the other one; with none it enters recovery. A wellhead link not trained in time fails the step under way. (R470, R471, R473, R477, R480, R424, R426, R433) -/
def Obligations.BringUpSteps : Prop :=
  (∀ (act pend tries : Nat) (s : State), s.blk.sec.alwaysOn → s.blk.sys.pkgRstN → s.blk.sys.coreClk → s.blk.sys.romDone = false →
      s.blk.bringFailed = false → act = s.blk.f Reg.SEC_STATUS Fl.SEC_STATUS_ACTIVE_SLOT → pend = s.blk.f Reg.SEC_STATUS Fl.SEC_STATUS_PENDING →
      tries = s.blk.f Reg.SEC_STATUS Fl.SEC_STATUS_TRIES →
    exec .bootRomDone s = .next (s.did (.all [
      modSys (fun x => { x with romDone := true }),
      modPwr (fun x => { x with tripOwed := false }),
      .when s.blk.pwr.tripOwed (incSat Reg.PWR_TEMP Fl.PWR_TEMP_TRIPS),
      secSet Fl.SEC_STATUS_NO_CERTS (b2n (!(Config.leafMatches 1 && Config.leafMatches 2))),
      .when (decide (pend ≠ 0 ∧ tries ≠ 0)) (secSet Fl.SEC_STATUS_TRIES (tries - 1)),
      .when (decide (pend ≠ 0 ∧ tries = 0)) (secSet Fl.SEC_STATUS_PENDING 0),
      (if pend ≠ 0 ∧ tries ≠ 0 ∧ s.blk.slotValid (pend - 1) then runSlot (pend - 1) 3
       else if s.blk.slotValid act then runSlot act 0
       else .all [
         incSat Reg.SEC_COUNT Fl.SEC_COUNT_FALLBACKS,
         if s.blk.slotValid (1 - act) then runSlot (1 - act) 0
         else .all [setUpd 0, secSet Fl.SEC_STATUS_RECOVERY 1, bringFail 1 6]]), showStep]))) ∧
  (∀ s : State, s.up → s.blk.sys.begun → s.blk.bringFailed = false →
    (s.blk.sys.fuseDone = false →
      exec (.fuseLoadDone true) s = .next (s.did (.all [modSys (fun x => { x with fuseDone := true }), showStep])) ∧
      exec (.fuseLoadDone false) s = .next (s.did (.all [bringFail 2 1, showStep]))) ∧
    (s.blk.sys.imgDone = false →
      exec .wellheadLinkTrainTimeout s = .next (s.did (.all [bringFail s.blk.bringStep 2, showStep])) ∧
      (s.blk.sys.romDone → s.blk.sys.fuseDone →
        exec (.hubImageLoaded false) s = .next (s.did (.all [bringFail 3 7, showStep])) ∧
        exec (.hubImageLoaded true) s = .next (s.did (.all [
          .all [modSys (fun x => { x with imgDone := true }),
            .read fun b => .each ((List.range 20).filter fun d => !b.domThere d) fun d =>
              setF (Reg.PWR_DOM_STATUS d) Fl.PWR_DOM_STATUS_STATE 2],
          showStep])))) ∧
    (s.blk.sys.imgDone → s.blk.sys.testDone = false → ∀ l n,
      exec (.selfTestDone l n) s = .next (s.did (.all [
        .each (l ++ s.blk.sys.calFail.map fun r => ⟨FailCls.region, r⟩) (fun f => .read fun b => .when (!b.bringFailed) (repair f)),
        addSat Reg.HUB_REPAIR Fl.HUB_REPAIR_TRANSIENT n,
        .read fun b => .when (!b.bringFailed) (.all [
          modSys (fun x => { x with testDone := true, calFail := [] }),
          .each ((List.range 16).filter b.siteUsed) startTraining]),
        showStep]))) ∧
    (s.blk.sys.testDone → s.blk.sys.memDone = false → ∀ l,
      exec (.hbmTrainingDone l) s = .next (s.did (.all [
        .each (l.filter fun e => decide (e.1 < 12 ∧ e.2 < 16)) (fun e => .read fun b =>
          .when (!(b.f (Reg.WEL_CHAN e.1) Fl.WEL_CHAN_FUSED).testBit e.2) (
            if popCount (b.f (Reg.WEL_CHAN e.1) Fl.WEL_CHAN_FUSED) 16 < 4 then takeOff FailCls.channel (e.1 * 16 + e.2)
            else failChannel e.1 e.2)),
        modSys (fun x => { x with memDone := true }), showWells, showStep]))) ∧
    (s.blk.sys.memDone → s.blk.sitesSettled → s.blk.sys.cfgDone = false →
      exec .bootImageCommit s = .next (s.did (.all [bootCommit, modSys (fun x => { x with cfgDone := true }), showStep])))) ∧
  (∀ (t : Nat) (u : Bundle) (s : State), s.up → s.blk.sec.linkLost = false → s.blk.inRecovery = false → s.blk.sec.upd = some (t, u) →
    exec .secStageDone s = .next (s.did (.all [
      setFwSlot t (some u), modSec (fun x => { x with upd := none }),
      secSet Fl.SEC_STATUS_PENDING (t + 1), secSet Fl.SEC_STATUS_TRIES 3,
      setF Reg.SEC_UPD_CTL Fl.SEC_UPD_CTL_BUSY 0, setUpd 2, updEnd St.ok])))

/-- HUB_UNIT_RESET by hat 0 names the unit and with GO resets a vector engine or walker at once, starts the reset of a pump, or shows the code of a unit it may not reset; HUB_PART_RESET by hat 0 with GO starts the reset of an enabled partition in no commit, waits for the commit it is in, and shows DESC_INVALID for one that is not enabled; the steps after it: packets drained, sites flushed, flushes done, sites refitted, directory emptied. At its end the partition's DOWN, EVENT and CAUSE are cleared, the count of its resets rises and DONE is set. A drain bound that expires on a draining partition absorbs what is left and goes on. (R481, R482) -/
def Obligations.UnitAndPartitionResets : Prop :=
  (∀ (u kind : Nat) (val : W64) (s : State), s.up → s.blk.portAdmits 0 → s.blk.on Reg.HUB_UNIT_RESET Fl.HUB_UNIT_RESET_BUSY = false →
      getFld val Fl.HUB_UNIT_RESET_KIND = kind → getFld val Fl.HUB_UNIT_RESET_UNIT = u → getFld val Fl.HUB_UNIT_RESET_DONE = 0 →
      getFld val Fl.HUB_UNIT_RESET_GO = 1 →
    (∀ code, s.blk.unitRefused kind u = some code → exec (.hubUnitReset 0 val) s = .next (s.did (.all [
      setF Reg.HUB_UNIT_RESET Fl.HUB_UNIT_RESET_KIND kind, setF Reg.HUB_UNIT_RESET Fl.HUB_UNIT_RESET_UNIT u, unitCode code]))) ∧
    (s.blk.unitRefused kind u = none → kind = 0 → exec (.hubUnitReset 0 val) s = .next (s.did (.all [
      setF Reg.HUB_UNIT_RESET Fl.HUB_UNIT_RESET_KIND kind, setF Reg.HUB_UNIT_RESET Fl.HUB_UNIT_RESET_UNIT u,
      resetEngine u, unitCode St.ok]))) ∧
    (s.blk.unitRefused kind u = none → kind = 2 → exec (.hubUnitReset 0 val) s = .next (s.did (.all [
      setF Reg.HUB_UNIT_RESET Fl.HUB_UNIT_RESET_KIND kind, setF Reg.HUB_UNIT_RESET Fl.HUB_UNIT_RESET_UNIT u,
      resetWalker u, unitCode St.ok]))) ∧
    (s.blk.unitRefused kind u = none → kind = 1 → exec (.hubUnitReset 0 val) s = .next (s.did (.all [
      setF Reg.HUB_UNIT_RESET Fl.HUB_UNIT_RESET_KIND kind, setF Reg.HUB_UNIT_RESET Fl.HUB_UNIT_RESET_UNIT u,
      setF Reg.HUB_UNIT_RESET Fl.HUB_UNIT_RESET_BUSY 1, modSys (fun x => { x with unit := some (1, u) }), resetPump u, unitDone])))) ∧
  (∀ (k u : Nat) (s : State), s.up → s.blk.sys.unit = some (k, u) →
    exec (.drainBoundExpiry (.unit k u)) s = .next (s.did (.each (s.blk.workSlots u) fun x => .all [
      logEv St.drainAbsorbed u, finishDesc u x St.drainAbsorbed 1]))) ∧
  (∀ (p : Nat) (s : State), s.up → s.blk.partStep p = 2 →
    exec (.drainBoundExpiry (.part p)) s = .next (s.did (.all [absorbPart p, partFlush p]))) ∧
  (∀ (p : Nat) (val : W64) (s : State), s.up → s.blk.portAdmits 0 → getFld val Fl.HUB_PART_RESET_PART = p →
      getFld val Fl.HUB_PART_RESET_DONE = 0 → getFld val Fl.HUB_PART_RESET_GO = 1 → s.blk.partResetting p = false →
      s.blk.sys.partWait.contains p = false →
    exec (.hubPartReset 0 val) s = .next (s.did (.all [
      setF Reg.HUB_PART_RESET Fl.HUB_PART_RESET_PART p,
      if partEnabled s.blk.recs p = false then setF Reg.HUB_PART_RESET Fl.HUB_PART_RESET_CODE St.descInvalid
      else if s.blk.commitIn p then modSys (fun x => { x with partWait := x.partWait ++ [p] })
      else partResetStart p]))) ∧
  (∀ (p : Fin 16) (s : State), s.up →
    (s.blk.partStep p = 2 → s.blk.partQuiet p s.blk.noc.net → exec (.partResetDrainDone p) s = .next (s.did (partFlush p))) ∧
    (s.blk.partStep p = 3 → ((s.blk.partSites p).all fun g => decide ((s.blk.site g).flush = .none)) = true →
      ∀ r, s.blk.partRst p = some r →
      exec (.partResetFlushDone p) s = .next (s.did (.all [
        .each r.failed fun g => poisonOwned p fun d => decide (d.owner = g), partStep4 p]))) ∧
    (s.blk.partStep p = 5 → ((s.blk.partSites p).all fun g => decide ((s.blk.site g).rst = .none)) = true →
      exec (.partResetRefitDone p) s = .next (s.did (partStepTo p 6))) ∧
    (s.blk.partStep p = 6 → exec (.partResetDirectoryDone p) s = .next (s.did (.all [
      .edit (.dirKeep fun k => decide (s.blk.wellPart (keyWell k) ≠ some p.val)),
      .each (List.range 12) showDir, partStepTo p 7,
      andNotF Reg.HUB_PART_DOWN Fl.HUB_PART_DOWN_DOWN (2 ^ p.val), andNotF Reg.HUB_PART_DOWN Fl.HUB_PART_DOWN_EVENT (2 ^ p.val),
      setR (Reg.HUB_PART_CAUSE p) 0,
      modSec (fun x => { x with partResets := Tbl.upd 0 p (fun n => n + 1) x.partResets }),
      setPart p none,
      setF Reg.HUB_PART_RESET Fl.HUB_PART_RESET_CODE St.ok, setF Reg.HUB_PART_RESET Fl.HUB_PART_RESET_DONE 1,
      measured, releaseSites (2 ^ p.val),
      .each (s.blk.partSites p) fun g => modPrt g (fun x => { x with noRead := false }),
      openWaiting, releaseHeld, unblockCommit]))))

/-- CLAIM of an empty slot by a CONFIG hat makes it the hat's; the holder releases it, hat 0 releases any; DISCARD of a slot that is neither committing, loading nor checking leaves it CLAIMED without content; STAGE starts the copy of its source under the rights of its hat, or ends with the code that refuses it; a copy of what the source holds leaves STAGING, one that came bad leaves the claim alone; CHECK starts the check; a check without a fault leaves CHECKED with its touch word, one with a fault leaves STAGING with the rule and offset; a write of a staged field joins the content. (R63, R64, R65, R66, R68, R71) -/
def Obligations.CisternCommands : Prop :=
  (∀ (hat : Nat) (n : Fin 4) (s : State), s.may hat Right.config → s.blk.slotState n = SlotState.empty →
    exec (.claim hat n) s = .next (s.did (.all [
      setF (Reg.CFG_SLOT_STATUS n) Fl.CFG_SLOT_STATUS_OWNER hat, setSlot n SlotState.claimed]))) ∧
  (∀ (hat : Nat) (n : Fin 4) (s : State), s.up → s.blk.portAdmits hat → s.blk.slotHeld n hat →
    exec (.release hat n) s = .next (s.did (releaseSlot n)) ∧
    (s.blk.slotState n ≠ SlotState.committing → s.blk.slotState n ≠ SlotState.loading → (s.blk.slotSt n).checking = false →
      exec (.discard hat n) s = .next (s.did (.all [modSlot n (fun _ => {}), setSlot n SlotState.claimed, showCarry n])) ∧
      (s.blk.stageFault hat (s.blk.f (Reg.CFG_SLOT_SRC n) Fl.CFG_SLOT_SRC_ADDR * 8)
          (s.blk.f (Reg.CFG_SLOT_LEN n) Fl.CFG_SLOT_LEN_LEN) = 0 →
        exec (.stage hat n) s = .next (s.did (.all [
          modSlot n (fun _ => {
            content := some ⟨[], [], s.blk.gen⟩, copyLen := s.blk.f (Reg.CFG_SLOT_LEN n) Fl.CFG_SLOT_LEN_LEN,
            copySrc := s.blk.f (Reg.CFG_SLOT_SRC n) Fl.CFG_SLOT_SRC_ADDR * 8, copyRights := s.blk.rightsOf hat }),
          setSlot n SlotState.loading, showCarry n]))) ∧
      (∀ code, s.blk.stageFault hat (s.blk.f (Reg.CFG_SLOT_SRC n) Fl.CFG_SLOT_SRC_ADDR * 8)
          (s.blk.f (Reg.CFG_SLOT_LEN n) Fl.CFG_SLOT_LEN_LEN) = code → code ≠ 0 →
        exec (.stage hat n) s = .next (s.did (.all [
          .when (decide (s.blk.slotState n = SlotState.checked)) (uncheckSlot n), slotDone n code 0 0])))) ∧
    (s.blk.slotState n = SlotState.staging ∨ s.blk.slotState n = SlotState.checked → (s.blk.slotSt n).checking = false →
      exec (.checkCmd hat n) s = .next (s.did (modSlot n fun x => { x with checking := true })))) ∧
  (∀ (n : Fin 4) (s : State), s.up → s.blk.portAdmits 0 → exec (.forceRelease 0 n) s = .next (s.did (releaseSlot n))) ∧
  (∀ (n : Fin 4) (told read : ReadIn) (s : State), s.up → s.blk.slotState n = SlotState.loading →
      s.blk.sourced (s.blk.slotSt n).copyRights (s.blk.slotF n Fl.CFG_SLOT_STATUS_OWNER) (s.blk.slotSt n).copySrc
        (s.blk.slotSt n).copyLen told = read →
    (read.end_ = St.ok → exec (.stageCopyDone n told) s = .next (s.did (.all [
      modSlot n (fun x => { x with content := x.content.map fun c => { c with img := slice read.data 0 (s.blk.slotSt n).copyLen } }),
      setSlot n SlotState.staging, slotDone n St.ok 0 0]))) ∧
    (read.end_ ≠ St.ok → exec (.stageCopyDone n told) s = .next (s.did (.all [
      modSlot n (fun _ => {}), setSlot n SlotState.claimed, slotDone n read.end_ 0 0])))) ∧
  (∀ (n : Fin 4) (c : Content) (s : State), s.up → (s.blk.slotSt n).checking = true → (s.blk.slotSt n).content = some c →
    (firstFault (s.blk.faults c) = none → exec (.checkDone n) s = .next (s.did (.all [
      modSlot n (fun x => { x with checking := false }),
      setSlot n SlotState.checked, showTouch n (touchOf s.blk.recs (c.merged s.blk.recs)), slotDone n St.ok 0 0]))) ∧
    (∀ off rule, firstFault (s.blk.faults c) = some (off, rule) → exec (.checkDone n) s = .next (s.did (.all [
      modSlot n (fun x => { x with checking := false }),
      uncheckSlot n,
      slotDone n (if rule = 2 then St.digestMismatch else St.checkFailed) rule off])))) ∧
  (∀ (hat off be n : Nat) (val : W64) (c : Content) (s : State), s.up → s.blk.portAdmits hat → s.blk.stgStatus hat off = 0 →
      s.blk.stgVals [] off ≠ [] → s.blk.stgSlot hat = some n → s.blk.slotState n = SlotState.staging →
      (s.blk.slotSt n).content = some c →
    exec (.stgWrite hat off be val) s = .next (s.did (
      modSlot n fun x => { x with content := some (Content.stage s.blk (x.content.getD ⟨[], [], s.blk.gen⟩) off val be) })))

/-- COMMIT of a checked slot outside TEST_MODE makes it COMMITTING and starts the commit, or queues it behind the one under way, or fails it at once if it ties with that one; once every leaving site's flush is over and no touched partition has anything of its own outstanding the epoch is reached; when both banks hold the new state BUSY falls and the waiting commits start in turn; CFG_EXPORT by a CONFIG hat takes DST, and its GO writes the canonical image to memory from there on under the hat's rights at GO. (R73, R74, R75, R77, R78, R80) -/
def Obligations.CommitAndExport : Prop :=
  (∀ (hat : Nat) (n : Fin 4) (s : State), s.up → s.blk.portAdmits hat → s.blk.slotHeld n hat →
      s.blk.on Reg.TST_CTL Fl.TST_CTL_TEST_MODE = false → s.blk.slotState n = SlotState.checked →
    (s.blk.cis.commit.isSome = false →
      exec (.commit hat n) s = .next (s.did (.all [
        modSlot n (fun x => { x with checking := false }), setSlot n SlotState.committing, commitRun n]))) ∧
    (s.blk.tiedCommit n = true →
      exec (.commit hat n) s = .next (s.did (.all [
        modSlot n (fun x => { x with checking := false }), setSlot n SlotState.committing,
        slotDone n St.stageStale 0 0, settleSlot n false]))) ∧
    (s.blk.cis.commit.isSome = true → s.blk.tiedCommit n = false →
      exec (.commit hat n) s = .next (s.did (.all [
        modSlot n (fun x => { x with checking := false }), setSlot n SlotState.committing,
        modCis (fun x => { x with waiting := x.waiting ++ [n.val] })])))) ∧
  (∀ s : State, s.up → exec .commitDrainDone s = .next (s.did (.all [
    commitFlush,
    .read fun b => .for? b.cis.commit fun c =>
      .when (decide (c.phase = .draining) && (c.leaving.all fun g => decide ((b.site g).flush = .none)) &&
          (setBits c.touched 16).all fun p => b.partDown p || b.partQuiet p c.inside) (.all [
        .each (c.leaving.filter fun g => b.ownsLine g ||
            (b.siteRuns g && decide ((b.site g).flushFor = .commit) && !b.on (Reg.GLV_STATUS g) Fl.GLV_STATUS_FLUSHED)) fun g =>
          .for? (b.sitePart g) fun p => partitionDown p { cause := 7, site := g },
        commitEpoch c])]))) ∧
  (∀ (c : Commit) (s : State), s.up → s.blk.cis.commit = some c → c.phase = .copying →
    exec .commitBankCopyDone s = .next (s.did (.all [
      setF Reg.CFG_GEN Fl.CFG_GEN_BUSY 0,
      modCis (fun x => { x with commit := none }),
      .each s.blk.cis.waiting fun _ => nextCommit]))) ∧
  (∀ (hat : Nat) (val : W64) (s : State), s.may hat Right.config →
    exec (.cfgExport hat val) s = .next (s.did (.all [
      setF Reg.CFG_EXPORT Fl.CFG_EXPORT_DST (getFld val Fl.CFG_EXPORT_DST),
      .when (decide (getFld val Fl.CFG_EXPORT_GO ≠ 0) && !s.blk.on Reg.CFG_EXPORT Fl.CFG_EXPORT_EXP_BUSY) (.all [
        setF Reg.CFG_EXPORT Fl.CFG_EXPORT_EXP_BUSY 1,
        modCis (fun x => { x with exporter := hat, expRights := s.blk.rightsOf hat,
                                  expDst := getFld val Fl.CFG_EXPORT_DST * 8 })])]))) ∧
  (∀ s : State, s.up → s.blk.on Reg.CFG_EXPORT Fl.CFG_EXPORT_EXP_BUSY →
    exec .cfgExportDone s = .next (s.did (.all [
      .each (unitRuns s.blk.cis.expDst (s.blk.canonical.length / 64 + 2) s.blk.canonical)
        fun r => sendRecordBy s.blk.cis.expRights .commitLogic s.blk.cis.exporter r.1 r.2,
      setF Reg.CFG_EXPORT Fl.CFG_EXPORT_EXP_BUSY 0])))

/-- HAT_CMD at a vector engine drops what the hat does there; the unit that is idle of the hat is struck off what the hub waits for, and the hub goes on; a hat reset by hat 0, by the hat itself or by a HAT_ADMIN hat of its partition starts the reset of a hat and sets DENIED for hat 0; HAT_REMOVE takes its fields, and GO queues the removal set it names, or sets DENIED where it names none or eight wait; the end of a grace period queues the orphans that are still orphaned; a window's end restores every regulator's budget. (R382, R390, R391, R392, R393, R394, R397) -/
def Obligations.HatCommands : Prop :=
  (∀ (e h : Nat) (rm : Bool) (s : State), s.up → s.blk.noc.net.contains (hatCmdPkt (.engine e) h rm) →
    exec (.hatCmd (.engine e) h rm) s = .next (s.did (.all [takePkt (hatCmdPkt (.engine e) h rm), dropEngineHat e h]))) ∧
  (∀ (u : Ep) (h : Nat) (s : State), s.up → (s.blk.noc.net.any fun k => decide (k.cmd = 0x88 ∧ k.dst = u ∧ k.hat = h)) = false →
      s.blk.unitBusy u h = false →
    exec (.hatCmdDone u h) s = .next (s.did (.all [
      modHats (fun x => { x with
        resets := x.resets.map fun r => if r.1 = h then (r.1, r.2.erase u) else r,
        running := x.running.map fun r => { r with await := r.await.erase (u, h) } }),
      hubGoesOn]))) ∧
  (∀ s : State, s.up → exec .regulationWindow s = .next (s.did (modHats fun x => { x with
    reguls := x.reguls.filterMap s.blk.nextWindow }))) ∧
  (∀ (hat : Nat) (h : Fin 1024) (s : State), s.up → s.blk.portAdmits hat →
      hat = 0 ∨ hat = h.val ∨ (s.blk.holds hat Right.hatAdmin = true ∧ s.blk.inPart hat (some (s.blk.hatPart h)) = true) →
    exec (.hatReset hat h) s = .next (s.did (.all [
      if h.val = 0 then setF Reg.HAT_REMOVE Fl.HAT_REMOVE_DENIED 1 else startHatReset h, hubGoesOn]))) ∧
  (∀ (hat : Nat) (v : W64) (s : State), s.up → s.blk.portAdmits hat → hat = 0 ∨ s.blk.holds hat Right.hatAdmin = true →
    ∃ fields : Prog, fields = .all [
      .each [Fl.HAT_REMOVE_CLEAR, Fl.HAT_REMOVE_SCOPE, Fl.HAT_REMOVE_HAT, Fl.HAT_REMOVE_TENANT] (fun fl =>
        setF Reg.HAT_REMOVE fl (getFld v fl)),
      .each [Fl.HAT_REMOVE_DONE, Fl.HAT_REMOVE_DENIED] (fun fl => .when (decide (getFld v fl = 1)) (setF Reg.HAT_REMOVE fl 0))] ∧
    (getFld v Fl.HAT_REMOVE_GO ≠ 1 → exec (.hatRemove hat v) s = .next (s.did fields)) ∧
    (getFld v Fl.HAT_REMOVE_GO = 1 → s.blk.removeSet hat v = none ∨ 8 ≤ s.blk.hats.queue.length →
      exec (.hatRemove hat v) s = .next (s.did (.all [fields, setF Reg.HAT_REMOVE Fl.HAT_REMOVE_DENIED 1]))) ∧
    (∀ set, getFld v Fl.HAT_REMOVE_GO = 1 → s.blk.removeSet hat v = some set → s.blk.hats.queue.length < 8 →
      exec (.hatRemove hat v) s = .next (s.did (.all [fields,
        modHats (fun x => { x with queue := x.queue ++ [{ set := set, clear := decide (getFld v Fl.HAT_REMOVE_CLEAR = 1) }] }),
        showQueue, hubGoesOn])))) ∧
  (∀ (q : Fin 4) (set : List Nat) (rest : List (List Nat)) (s : State), s.up →
      Tbl.get (dflt []) q.val s.blk.hats.orphanOf = set :: rest →
    exec (.graceEnd q) s = .next (s.did (.all [
      modHats (fun x => { x with orphanOf := Tbl.set (dflt []) q.val rest x.orphanOf }),
      queueOrphans q set])))

/-- STAGE of a SECURITY hat waits for a source that is held, and otherwise copies: a bundle that passes its checks is written over the slot that is not active, in recovery over slot A; CANCEL, CONFIRM and COMMIT_SVN act in their update state and end with OK; REVOKE of a good image adds its revocations; region writes and erases of the sideband change the region; a report request that is allowed joins the queue; a report that is ready is sent when the random source is; a key that passes is stored and its slot made LOADED, a bad one ends with DIGEST_MISMATCH. (R424, R425, R426, R427, R428, R430, R431, R432, R435, R437, R438, R442) -/
def Obligations.TrustCommands : Prop :=
  (∀ (hat : Nat) (val : W64) (read : ReadIn) (s : State), s.up →
      s.blk.portAdmits hat = true ∨ (hat = 0 ∧ s.blk.i3cLimited = true) → s.blk.maySec hat →
    exec (.secStage hat val read) s = .next (s.did (.all [
      setF Reg.SEC_UPD_CTL Fl.SEC_UPD_CTL_LEN (getFld val Fl.SEC_UPD_CTL_LEN),
      .when (decide (getFld val Fl.SEC_UPD_CTL_DONE = 1)) (setF Reg.SEC_UPD_CTL Fl.SEC_UPD_CTL_DONE 0),
      if s.blk.updState ≠ 0 ∨ 0x400000 < getFld val Fl.SEC_UPD_CTL_LEN then updEnd St.descInvalid
      else if s.blk.updHeld then .all [
        setF Reg.SEC_UPD_CTL Fl.SEC_UPD_CTL_BUSY 1, setUpd 1,
        modSec (fun x => { x with stageWait := some (hat, getFld val Fl.SEC_UPD_CTL_LEN, read) })]
      else stageCopied hat (getFld val Fl.SEC_UPD_CTL_LEN) read]))) ∧
  (∀ (hat len : Nat) (read : ReadIn) (u : Bundle) (d : List Byte) (s : State),
      s.blk.stageBytes hat len read = (St.ok, d) → s.blk.readBundle d = (0, u) →
    s.did (stageCopied hat len read) = s.did (.all [
      setF Reg.SEC_UPD_CTL Fl.SEC_UPD_CTL_BUSY 1, setUpd 1,
      setFwSlot (if s.blk.inRecovery then 0 else 1 - s.blk.f Reg.SEC_STATUS Fl.SEC_STATUS_ACTIVE_SLOT) none,
      modSec (fun x => { x with
        upd := some (if s.blk.inRecovery then 0 else 1 - s.blk.f Reg.SEC_STATUS Fl.SEC_STATUS_ACTIVE_SLOT, u),
        stageWait := none })])) ∧
  (∀ (hat : Nat) (s : State), s.up → s.blk.portAdmits hat → s.blk.maySec hat → s.blk.i3cLimited = false →
    (s.blk.updState = 2 → exec (.cancel hat) s = .next (s.did (.all [secSet Fl.SEC_STATUS_PENDING 0, setUpd 0, updEnd St.ok]))) ∧
    (s.blk.updState = 3 → exec (.confirm hat) s = .next (s.did (.all [
      secSet Fl.SEC_STATUS_ACTIVE_SLOT (s.blk.f Reg.SEC_STATUS Fl.SEC_STATUS_RUN_SLOT), secSet Fl.SEC_STATUS_PENDING 0,
      incSat Reg.SEC_COUNT Fl.SEC_COUNT_UPDATES, setUpd 0, updEnd St.ok]))) ∧
    (s.blk.updState = 0 → exec (.commitSvn hat) s = .next (s.did (.all [
      secSet Fl.SEC_STATUS_SVN_FUSED (max (s.blk.f Reg.SEC_STATUS Fl.SEC_STATUS_SVN_FUSED)
        (s.blk.f Reg.SEC_STATUS Fl.SEC_STATUS_SVN_RUN)), updEnd St.ok]))) ∧
    (∀ (told read : ReadIn) (i : ImgRead), s.blk.updState = 0 →
      s.blk.updRead hat (s.blk.f Reg.SEC_UPD_CTL Fl.SEC_UPD_CTL_LEN) told = read → read.end_ = St.ok →
      s.blk.readImage (slice read.data 0 (s.blk.f Reg.SEC_UPD_CTL Fl.SEC_UPD_CTL_LEN)) = i →
      s.blk.revokeOk i (decide (i.size ≤ s.blk.f Reg.SEC_UPD_CTL Fl.SEC_UPD_CTL_LEN ∧
        s.blk.f Reg.SEC_UPD_CTL Fl.SEC_UPD_CTL_LEN ≤ 0x400000)) = true →
      exec (.revoke hat told) s = .next (s.did (.all [
        orF Reg.SEC_FUSE Fl.SEC_FUSE_REV_RSA (bits i.revoke 0 4), orF Reg.SEC_FUSE Fl.SEC_FUSE_REV_SLH (bits i.revoke 4 4),
        updEnd St.ok])))) ∧
  (∀ (off : Nat) (bytes : List Byte) (s : State), s.up →
    (regionFits 0x200000 off bytes → exec (.i3cRecoveryWrite off bytes) s = .next (s.did (
      modSec fun x => { x with recovery := Tbl.setRun (dflt 0xFF) off bytes x.recovery }))) ∧
    (regionFits 0x90000 off bytes → s.blk.i3cLimited = false → exec (.i3cBootRegionWrite off bytes) s = .next (s.did (
      modSec fun x => { x with boot := Tbl.setRun (dflt 0xFF) off bytes x.boot }))) ∧
    exec .i3cRecoveryErase s = .next (s.did (modSec fun x => { x with recovery := [] })) ∧
    (s.blk.i3cLimited = false → exec .i3cBootRegionErase s = .next (s.did (modSec fun x => { x with boot := [] }))) ∧
    exec .i3cReadRestart s = .next (s.did (modSec fun x => { x with readPos := 0 })) ∧
    (∀ len, exec (.i3cPrivateRead len) s = .next (s.did (i3cRead len)))) ∧
  (∀ (payload : List Byte) (s : State), s.up → s.blk.i3cLimited = false →
    exec (.i3cReportReq payload) s = .next (s.did (reportReq (some 0) .i3c payload)) ∧
    exec (.i3cKeyLoad payload) s = .next (s.did (keyLoad (some 0) .i3c payload))) ∧
  (∀ (q : Fin 4) (fn : Fin 64) (h : Nat) (payload : List Byte) (s : State), s.up → s.blk.hstUp q → s.blk.fnThere q fn →
      s.blk.fnHat q fn = some h →
    (s.blk.portAdmits h → payload.length = 36 → numAt payload 0 4 = 0 → s.blk.sec.queue = [] →
      exec (.reportReq q fn payload) s = .next (s.did (.all [
        modSec (fun x => { x with queue := x.queue ++ [⟨h, false, slice payload 4 32, .doe q fn⟩] }), beginReport]))) ∧
    (s.blk.keyAdmits h → s.blk.holds h Right.key → s.blk.inKeyRange h (numAt payload 0 1) → s.blk.keyGoing h (numAt payload 0 1) = false →
      payload.length = 1284 → numAt payload 1 3 = 0 → s.blk.keyState (numAt payload 0 1) = 0 →
      s.blk.blobOk (payload.drop 4) h (numAt payload 0 1) = true →
      exec (.keyLoad q fn payload) s = .next (s.did (.all [
        setF (Reg.PMP_KEY (numAt payload 0 1)) Fl.PMP_KEY_STATE 1,
        modSec (fun x => { x with loads := x.loads ++ [⟨numAt payload 0 1, .doe q fn, blobKey (payload.drop 4)⟩] })])))) ∧
  (∀ (r : RptReq) (rest : List RptReq) (s : State), s.up → s.blk.sec.queue = r :: rest → s.blk.on Reg.TRG_RNG Fl.TRG_RNG_READY →
      s.blk.sec.linkLost = false →
    exec .reportReady s = .next (s.did (withFree fun salt => .all [
      modSec (fun x => { x with queue := rest }),
      incSat Reg.SEC_RPT Fl.SEC_RPT_REPORTS,
      setF Reg.SEC_RPT Fl.SEC_RPT_LAST_LEN (s.blk.report r salt).length,
      beginReport,
      rptAnswer r.via St.ok (s.blk.report r salt)]))) ∧
  (∀ (k : Fin 256) (l : KeyLoad) (s : State), s.up → s.blk.sec.linkLost = false →
      (s.blk.sec.loads.filter fun x => decide (x.slot = k.val)) = [l] → s.blk.keyState k = 1 →
    (l.key = none → exec (.keyLoadDone k) s = .next (s.did (.all [
      modSec (fun x => { x with loads := x.loads.erase l }),
      setF (Reg.PMP_KEY k) Fl.PMP_KEY_STATE 0, keyAnswer l.via k St.digestMismatch]))) ∧
    (∀ key, l.key = some key → exec (.keyLoadDone k) s = .next (s.did (.all [
      modSec (fun x => { x with loads := x.loads.erase l }),
      modPmp (fun x => { x with keymat := Tbl.set (dflt 0) k.val key x.keymat }),
      setF (Reg.PMP_KEY k) Fl.PMP_KEY_STATE 2, setF (Reg.PMP_KEY k) Fl.PMP_KEY_PAGES 0,
      modSec (fun x => { x with keyLoads := x.keyLoads + 1 }),
      keyAnswer l.via k St.ok]))))

/-- Training that ends at a rate within the limit takes the modules that failed, leaves FITTING, sends the hub's record and brings the domain to its operating point, one that finds no rate refuses with reason 7; a capability chunk is kept, from a chiplet that woke without its state it starts a new fit; CAP_END with acceptable capabilities sends FIT, else refuses with the reason; FIT_ACK fits the site, a rejection or silence refuses with 8; silence before FIT refuses with 1; a failed module is replaced or taken out; a module's recalibration is counted and holds it; lock loss, adapter loss and silence lose the link; credits returned let waiting messages go, a credit slot with a reserved bit set is a violation; a keepalive takes a credit of its pool, restarts the silence time and returns the credit; an idle direction sends one. (R106, R107, R108, R111, R113, R114, R115, R116, R119, R120, R128, R129) -/
def Obligations.GloveLinkCommands : Prop :=
  (∀ (g : Fin 16) (s : State), s.up → s.blk.siteThere g → s.blk.gState g = SiteState.training →
    (∀ (r : Fin 3) (failed : Nat), r.val ≤ min 2 (s.blk.f (Reg.GLV_CTL g) Fl.GLV_CTL_MAX_RATE) →
      exec (.linkTrainingDone g (some r) failed) s = .next (s.did (.all [
        laneRepairs g, .each (setBits failed 5) fun m => moduleFail g m false,
        .read fun b => .when (decide (b.gState g = SiteState.training)) (.all [
          siteState g SiteState.fitting, setF (Reg.GLV_STATUS g) Fl.GLV_STATUS_RATE r,
          modGlv g (fun x => { x with linkUp := true, chunks := [], cap := [], fitSent := false }),
          sendHubRecord g, refreshFloor (12 + g.val / 4), kickDomain (12 + g.val / 4)])]))) ∧
    (∀ failed : Nat, exec (.linkTrainingDone g none failed) s = .next (s.did (.all [
        laneRepairs g, .each (setBits failed 5) fun m => moduleFail g m false,
        .read fun b => .when (decide (b.gState g = SiteState.training)) (refuseFit g 7)])))) ∧
  (∀ (g : Fin 16) (s : State), s.up → s.blk.gState g = SiteState.fitting →
    (s.blk.moduleHeld g 0 = false → ∀ (k : Fin 4) (bytes : List Byte),
      exec (.cap g k bytes) s = .next (s.did (modGlv g fun x => { x with
        chunks := x.chunks ++ [(k.val, s.blk.capBytes g k bytes)] }))) ∧
    ((s.blk.site g).fitSent = true →
      (s.blk.moduleHeld g 0 = false → exec (.fitAck g false) s = .next (s.did (fitDone g)) ∧
        exec (.fitAck g true) s = .next (s.did (refuseFit g 8))) ∧
      exec (.fitAckTimeout g) s = .next (s.did (refuseFit g 8))) ∧
    ((s.blk.site g).fitSent = false → exec (.capabilityTimeout g) s = .next (s.did (refuseFit g 1)))) ∧
  (∀ (g : Fin 16) (k : Fin 4) (bytes : List Byte) (s : State), s.up → s.blk.moduleHeld g 0 = false → s.blk.siteRuns g →
      s.blk.gState g ≠ SiteState.fitting → (s.blk.site g).woke = true →
    exec (.cap g k bytes) s = .next (s.did (.all [
      fenceSite g,
      modGlv g (fun x => { x with fitted := false, woke := false, chunks := [], cap := [], fitSent := false }),
      siteState g SiteState.fitting, sendHubRecord g,
      modGlv g (fun x => { x with chunks := x.chunks ++ [(k.val, s.blk.capBytes g k bytes)] })]))) ∧
  (∀ (g : Fin 16) (c0 c1 c2 c3 : List Byte) (reason : Nat) (s : State), s.up → s.blk.fitOpen g →
      (s.blk.site g).fitSent = false → (s.blk.site g).chunks = [(0, c0), (1, c1), (2, c2), (3, c3)] →
      s.blk.fitReason g (c0 ++ (c1 ++ (c2 ++ c3))) true (s.blk.f (Reg.GLV_STATUS g) Fl.GLV_STATUS_RATE) = reason →
    (reason = 0 → exec (.capEnd g) s = .next (s.did (.all [
      modGlv g (fun x => { x with cap := c0 ++ (c1 ++ (c2 ++ c3)), chunks := [] }),
      modGlv g (fun x => { x with
        agreed := s.blk.agree (c0 ++ (c1 ++ (c2 ++ c3))) (s.blk.f (Reg.GLV_STATUS g) Fl.GLV_STATUS_RATE), fitSent := true }),
      .read fun b => send (.msp g { Msp.ctl 0xC2 0 with dlen := 4, data := slice (b.fitRecord g 0 ((s.blk.site g).fitCount + 1)) 0 64 })]))) ∧
    (reason ≠ 0 → exec (.capEnd g) s = .next (s.did (.all [
      modGlv g (fun x => { x with cap := c0 ++ (c1 ++ (c2 ++ c3)), chunks := [] }), refuseFit g reason])))) ∧
  (∀ (g : Fin 16) (s : State), s.up → s.blk.siteRuns g →
    (∀ word, bits word.toNat 120 5 ≠ 0 → exec (.creditSlot g word) s = .next (s.did (violation g))) ∧
    (∀ word, bits word.toNat 120 5 = 0 → exec (.creditSlot g word) s = .next (s.did (.all [
      modGlv g (fun x => { x with toSite := [1, 2, 4, 5, 6, 7, 8, 9].foldl (fun t p =>
        Tbl.set credit0 p ((Tbl.get credit0 p t).add ⟨bits word.toNat (12 * p) 6, bits word.toNat (12 * p + 6) 6⟩) t) x.toSite }),
      pumpTx g]))) ∧
    (s.blk.moduleHeld g 0 = false →
      ((Tbl.get credit0 8 (s.blk.site g).fromSite).covers ⟨1, 0⟩ = false →
        exec (.keepalive g) s = .next (s.did (violation g))) ∧
      ((Tbl.get credit0 8 (s.blk.site g).fromSite).covers ⟨1, 0⟩ = true →
        exec (.keepalive g) s = .next (s.did (.all [
          modGlv g (fun x => { x with
            fromSite := Tbl.set credit0 8 ((Tbl.get credit0 8 (s.blk.site g).fromSite).sub ⟨1, 0⟩) x.fromSite }),
          ctlSeen g, .skip, .read fun b => .when (b.siteRuns g) (returnCredit g 8 ⟨1, 0⟩ false)])))) ∧
    exec (.keepaliveIdleSend g) s = .next (s.did (toSite g (Msp.ctl 0xC9 0))) ∧
    (s.blk.lossExpected g = false → s.blk.moduleHeld g 0 = false → exec (.ctlSilenceTimeout g) s = .next (s.did (linkLoss g 1)))) ∧
  (∀ (g : Fin 16) (m : Fin 5) (s : State), s.up →
    (s.blk.siteThere g → exec (.moduleFail g m) s = .next (s.did (moduleFail g m (s.blk.siteRuns g)))) ∧
    ((s.blk.inService g).testBit m = true → (s.blk.site g).linkUp = true → exec (.moduleRecalStart g m) s = .next (s.did (.all [
      modGlv g (fun x => { x with recal := setBit x.recal m }), incSat (Reg.GLV_ERR g) Fl.GLV_ERR_RECALS]))) ∧
    ((s.blk.site g).recal.testBit m = true → exec (.moduleRecalEnd g m) s = .next (s.did (.all [
      modGlv g (fun x => { x with recal := clearBit x.recal m }), laneRepairs g, ctlSeen g, pumpTx g])))) ∧
  (∀ (g : Fin 16) (s : State), s.up →
    (s.blk.lossExpected g = false → exec (.rxClockLockLoss g) s = .next (s.did (linkLoss g 1)) ∧
      exec (.adapterLinkDown g) s = .next (s.did (linkLoss g 1))) ∧
    ((s.blk.site g).hold ≠ 0 → exec (.linkRetrainTimeout g) s = .next (s.did (linkLoss g 1)) ∧
      exec (.spareRetrainDone g) s = .next (s.did (.all [
        modGlv g (fun x => { x with hold := 0 }), returnOwed g (fun k => !(s.blk.site g).withheld || decide (k ≠ 0)),
        ctlSeen g, pumpTx g]))))

/-- A message of a site whose link runs, as its slots carry it, takes its credit, does what its command says and returns the credit; a reset or flush by a hat with the right starts; FLUSH_DONE starts the directory query, silence ends the flush unflushed, the query, once no line of the site's has a transaction, takes unmodified lines from the site and ends the flush; the reset line is asserted after the notice and released into training; a link-local message takes a credit of pool 8, without one it is a violation, and returns it; a TEMP message shows the hottest sensor; a poll asks for one where the site does not send them; a DIGEST replaces its record's part; a change of throttle causes forms the level anew. (R121, R124, R126, R127, R130, R131, R132, R133, R134, R135, R136, R137) -/
def Obligations.GloveControlCommands : Prop :=
  (∀ (g : Fin 16) (raw m : Msp) (s : State), s.up → raw.carried = m → s.blk.domAsleep (12 + g.val / 4) = false → s.blk.siteRuns g →
      s.blk.moduleHeld g m.module = false → m.op < 0xC0 → m.chan ≠ 5 → m.chan ≠ 6 →
      s.blk.held? (s.blk.sitePart g) = false ∨ opPasses m.op = true → s.blk.badMsg g m = false →
      (Tbl.get credit0 (poolFromSite m) (s.blk.site g).fromSite).covers (creditOf m) →
    exec (.siteMeshMessage g raw) s = .next (s.did (.all [
      flitRetries g, countMsp g m, .when (decide (m.chan = 3)) (ctlSeen g),
      modGlv g (fun x => { x with fromSite := (Tbl.set credit0 (poolFromSite m)
        ((Tbl.get credit0 (poolFromSite m) (s.blk.site g).fromSite).sub (creditOf m)) x.fromSite) }),
      siteMessage g m,
      .read fun b => .when (b.siteRuns g) (returnCredit g (poolFromSite m) (creditOf m) (!opExempt m.op))]))) ∧
  (∀ (hat : Nat) (g : Fin 16) (s : State), s.up → s.blk.portAdmits hat → s.blk.mayGlove hat g → s.blk.gloveFree g →
    exec (.glvReset hat g) s = .next (s.did (startReset g false)) ∧
    exec (.glvResetForce hat g) s = .next (s.did (startReset g true)) ∧
    (s.blk.siteRuns g → exec (.glvFlush hat g) s = .next (s.did (startFlush g .software)))) ∧
  (∀ (g : Fin 16) (s : State), s.up →
    ((s.blk.site g).flush = .awaitDone →
      (s.blk.siteRuns g → s.blk.moduleHeld g 0 = false → (Tbl.get credit0 8 (s.blk.site g).fromSite).covers ⟨1, 0⟩ = true →
        exec (.flushDone g) s = .next (s.did (.all [
          modGlv g (fun x => { x with
            fromSite := Tbl.set credit0 8 ((Tbl.get credit0 8 (s.blk.site g).fromSite).sub ⟨1, 0⟩) x.fromSite }),
          ctlSeen g,
          modGlv g (fun x => if x.flush = .awaitDone then { x with flush := .query } else x),
          .read fun b => .when (b.siteRuns g) (returnCredit g 8 ⟨1, 0⟩ false)]))) ∧
      exec (.flushTimeout g) s = .next (s.did (flushEnd g false))) ∧
    ((s.blk.site g).flush = .query →
        ((s.blk.dir.filter fun e => decide (e.2.ds = .em ∧ e.2.owner = g.val)).all fun e => e.2.txn.isNone) = true →
      exec (.flushDirectoryQueryDone g) s = .next (s.did (.all [
      .each (s.blk.dir.filter fun e => decide (e.2.ds = .em ∧ e.2.owner = g.val)) fun e => setDir e.1 DirEnt.disown,
      .read fun b => flushEnd g (!b.ownsLine g)]))) ∧
    ((s.blk.site g).rst = .noticed → exec (.siteRstAssert g) s = .next (s.did (.all [
      modGlv g (fun x => { x with rst := .asserted, rstN := true, linkUp := false }), resetPrt g]))) ∧
    ((s.blk.site g).rst = .asserted → exec (.siteRstRelease g) s = .next (s.did (.all [
      modGlv g (fun x => { x with rst := .refitting }), startTraining g])))) ∧
  (∀ (g : Fin 16) (bytes : List Byte) (s : State), s.up → s.blk.siteRuns g →
    (numAt (s.blk.site g).cap 0x27 1 = 1 → s.blk.siteKind g ≠ 1 → s.blk.moduleHeld g 0 = false →
        (Tbl.get credit0 8 (s.blk.site g).fromSite).covers ⟨1, 1⟩ = true →
      exec (.temp g bytes) s = .next (s.did (.all [
        modGlv g (fun x => { x with
          fromSite := Tbl.set credit0 8 ((Tbl.get credit0 8 (s.blk.site g).fromSite).sub ⟨1, 1⟩) x.fromSite }),
        ctlSeen g,
        .all [modGlv g (fun x => { x with lastTemp := s.blk.now }),
          setF (Reg.GLV_TEMP g) Fl.GLV_TEMP_HOTTEST (wrapInt 16 (max (-32768) (signed 16 (numAt bytes 0 2))))],
        .read fun b => .when (b.siteRuns g) (returnCredit g 8 ⟨1, 1⟩ false)]))) ∧
    (s.blk.moduleHeld g 0 = false → (Tbl.get credit0 8 (s.blk.site g).fromSite).covers ⟨1, 1⟩ = false →
      exec (.temp g bytes) s = .next (s.did (violation g)) ∧ exec (.digest g bytes) s = .next (s.did (violation g))) ∧
    (s.blk.agreedFeature g 2 = false → exec (.tempPollTimer g) s = .next (s.did (toSite g (Msp.ctl 0xC7 0)))) ∧
    (s.blk.agreedFeature g 6 → numAt bytes 48 1 < numAt (s.blk.site g).cap 0x29 1 → s.blk.moduleHeld g 0 = false →
        (Tbl.get credit0 8 (s.blk.site g).fromSite).covers ⟨1, 1⟩ = true →
      exec (.digest g bytes) s = .next (s.did (.all [
        modGlv g (fun x => { x with
          fromSite := Tbl.set credit0 8 ((Tbl.get credit0 8 (s.blk.site g).fromSite).sub ⟨1, 1⟩) x.fromSite }),
        ctlSeen g,
        .all [modGlv g (fun x => { x with cap := (x.cap.take (0x40 + 48 * numAt bytes 48 1) ++ slice bytes 0 48 ++
          x.cap.drop (0x70 + 48 * numAt bytes 48 1)) }),
        editFit g (0x80 + 48 * numAt bytes 48 1) (slice bytes 0 48)],
        .read fun b => .when (b.siteRuns g) (returnCredit g 8 ⟨1, 1⟩ false)])))) ∧
  (∀ (g : Fin 16) (s : State), s.up → exec (.throttleCauseChange g) s = .next (s.did (refreshThrottle g)))

/-- A header that cannot be trusted is discarded, from the buffer of the packet it was, and logged; at the head of its buffer one that is the router's or that its source may inject, and that the arbiter grants its output, leaves its buffer: at its last router it is handed to its endpoint, elsewhere it goes to the next router. A link test that may run starts and ends with its counts, one with a partition enabled is refused. An idle domain that may sleep goes to the depth it may, a well that is to go off with lines listed recalls them first; a woken domain is ON, from off once its regions are calibrated and at its effective operating point, its floor is formed anew and what was held for it is delivered. (R86, R87, R88, R91, R96, R99, R104, R447, R449) -/
def Obligations.MeshAndSleepCommands : Prop :=
  (∀ (x : Fin 16) (y : Fin 12) (plane : Fin 6) (hdr : BitVec 128) (units : List DUnit) (f : Flight) (s : State), s.up →
      f = ⟨x, y, plane, hdr, units⟩ →
    (f.malformed = true → exec (.packetHop x y plane hdr units .clean) s =
      .next (s.did (.all [losePacket ((s.blk.struck f).getD f), badHeader f]))) ∧
    (exec (.packetHop x y plane hdr units .bad) s = .next (s.did (.all [losePacket ((s.blk.struck f).getD f), badHeader f]))) ∧
    (f.malformed = false → s.blk.atHead f = true → (s.blk.region (12 + quadAt x y)).phase ≠ .searching → s.blk.noc.flights.contains f = true ∨ (s.blk.mayInject f = true ∧ s.blk.bindsWaking f = none) →
        s.blk.granted f = true →
      (f.dst ≠ (x.val, y.val) →
        exec (.packetHop x y plane hdr units .clean) s = .next (s.did (.all [noteGrant f, leaveBuffer f, .skip,
          .all [activity f.hat Act.meshHop units.length, forward f]]))) ∧
      (f.dst = (x.val, y.val) →
        exec (.packetHop x y plane hdr units .corrected) s = .next (s.did (.all [noteGrant f, leaveBuffer f,
          incSat Reg.NOC_HDR_ERR Fl.NOC_HDR_ERR_CORRECTED, eject f]))))) ∧
  (∀ (hat : Nat) (eb ew : Nat) (s : State), s.may hat Right.test → s.blk.noc.ltest.running = true →
    exec (.nocLtestStop hat eb ew) s = .next (s.did (nocLtestOff eb ew)) ∧
    (s.blk.noc.ltest.forever = false → exec (.nocLtestEnd eb ew) s = .next (s.did (nocLtestOff eb ew)))) ∧
  (∀ (hat : Nat) (val : W64) (s : State), s.may hat Right.test → s.blk.noc.ltest.running = false → partitionsOf s.blk.recs = [] →
      getFld val Fl.NOC_LTEST_CTL_LEN ≤ 40 ∨ getFld val Fl.NOC_LTEST_CTL_LEN = 63 → getFld val Fl.NOC_LTEST_CTL_PATTERN ≤ 4 → getFld val Fl.NOC_LTEST_CTL_PLANE ≤ 5 →
      getFld val Fl.NOC_LTEST_CTL_Y ≤ 11 →
      (neighbour (getFld val Fl.NOC_LTEST_CTL_X) (getFld val Fl.NOC_LTEST_CTL_Y) (getFld val Fl.NOC_LTEST_CTL_DIR)).isNone = false →
    exec (.nocLtestGo hat val) s = .next (s.did (.all [
      .each [Fl.NOC_LTEST_CTL_LEN, Fl.NOC_LTEST_CTL_PATTERN, Fl.NOC_LTEST_CTL_PLANE, Fl.NOC_LTEST_CTL_DIR, Fl.NOC_LTEST_CTL_X,
        Fl.NOC_LTEST_CTL_Y] fun x => setF Reg.NOC_LTEST_CTL x (getFld val x),
      .all [setR Reg.NOC_LTEST_STAT 0, setF Reg.NOC_LTEST_CTL Fl.NOC_LTEST_CTL_BUSY 1,
        modNoc (fun n => { n with ltest := ⟨true, decide (getFld val Fl.NOC_LTEST_CTL_LEN = 63)⟩ })]]))) ∧
  (∀ (hat : Nat) (val : W64) (s : State), s.may hat Right.test → s.blk.noc.ltest.running = false → partitionsOf s.blk.recs ≠ [] →
    exec (.nocLtestGo hat val) s = .next (s.did (.all [
      .each [Fl.NOC_LTEST_CTL_LEN, Fl.NOC_LTEST_CTL_PATTERN, Fl.NOC_LTEST_CTL_PLANE, Fl.NOC_LTEST_CTL_DIR, Fl.NOC_LTEST_CTL_X,
        Fl.NOC_LTEST_CTL_Y] fun x => setF Reg.NOC_LTEST_CTL x (getFld val x),
      setF Reg.NOC_LTEST_CTL Fl.NOC_LTEST_CTL_REFUSED 1]))) ∧
  (∀ (d : Fin 20) (s : State), s.up → s.blk.maySleep d →
    (12 ≤ d.val ∨ s.blk.sleepDepth d = 1 ∨ s.blk.linesOf d = [] →
      exec (.domainIdleEntry d) s = .next (s.did (sleepAt d (s.blk.sleepDepth d)))) ∧
    (d.val < 12 → s.blk.sleepDepth d = 2 → s.blk.linesOf d ≠ [] →
      exec (.domainIdleEntry d) s = .next (s.did (.all [
        modDom d (fun x => { x with goingOff := true }), .each (s.blk.linesOf d) fun e => recallEntry e.1 e.2])))) ∧
  (∀ (d : Fin 20) (s : State), s.up → s.blk.domAsleep d = true → (s.blk.domSt d).waking = true → d.val < 12 →
      s.blk.domState d = 2 → ((domRegions d).all fun r => (s.blk.region r).calibrated) = true →
    exec (.domainWakeDone d) s = .next (s.did (.all [
      setF (Reg.PWR_DOM_STATUS d) Fl.PWR_DOM_STATUS_STATE 0,
      .each (domRegions d) fun r => .all [
        setF (Reg.MON_TMG_REGION r) Fl.MON_TMG_REGION_STATE 1, modRegion r fun x => { x with calibrated := false }],
      .skip, refreshFloor d,
      .read fun b => setF (Reg.PWR_DOM_STATUS d) Fl.PWR_DOM_STATUS_OP (b.effOp d),
      modDom d (fun x => { x with waking := false }), writeVdd, kickDomain d, deliverHeld d, .skip, hubGoesOn]))) ∧
  (∀ (d : Fin 20) (s : State), s.up → s.blk.domState d = 1 → (s.blk.domSt d).waking = true → d.val < 12 →
    exec (.domainWakeDone d) s = .next (s.did (.all [
      setF (Reg.PWR_DOM_STATUS d) Fl.PWR_DOM_STATUS_STATE 0,
      .each (domRegions d) fun r => .all [
        setF (Reg.MON_TMG_REGION r) Fl.MON_TMG_REGION_STATE 1, modRegion r fun x => { x with calibrated := false }],
      .skip, refreshFloor d, .skip, modDom d (fun x => { x with waking := false }), writeVdd, kickDomain d, deliverHeld d, .skip,
      hubGoesOn])))

/-- A buffer entry idle too long is drained; a cleared block leaves the list of pending ones; a failed channel leaves service; the scrub of populated memory counts what it corrects and poisons what it cannot; the stack's temperature sets its flags; a hot well loses one OP; stack corrections are added, for the wear gauges as well; WB_INV writes the cache's dirty sectors to the stack, empties it and sets DONE; a site that does not answer a snoop takes the partition down; a partition that is down ends its requests poisoned and empties its directory. (R259, R260, R267, R269, R270, R271, R273, R274, R276, R291, R292) -/
def Obligations.WellCommands : Prop :=
  (∀ (w : Fin 12) (key : Nat) (s : State), s.up → keyWell key = w → exec (.wcIdleTimeout w key) s = .next (s.did (drainLine key))) ∧
  (∀ (w : Fin 12) (k : Nat) (s : State), s.up → s.blk.domAsleep w = false → (s.blk.mem.clear.find? fun k => decide (k / 2 ^ 19 = w.val)) = some k →
    exec (.clearBlockDone w) s = .next (s.did (.all [modMem (fun m => { m with clear := removeNat k m.clear }), showClear w]))) ∧
  (∀ (w : Fin 12) (c : Fin 16) (s : State), s.up → bit (s.blk.f (Reg.WEL_CHAN w) Fl.WEL_CHAN_IN_SERVICE) c = true →
    exec (.channelFail w c) s = .next (s.did (.all [
      orF (Reg.WEL_CHAN w) Fl.WEL_CHAN_FAILED (2 ^ c.val), setF (Reg.WEL_STATUS w) Fl.WEL_STATUS_CH_FAIL 1]))) ∧
  (∀ (w : Fin 12) (line : Nat) (s : State), s.up → s.blk.on (Reg.WEL_CTL w) Fl.WEL_CTL_SCRUB_OFF = false → s.blk.populated w line →
    exec (.patrolScrub w line .clean) s = .next s ∧
    exec (.patrolScrub w line .corrected) s = .next (s.did (corrected (lineKey w line) none)) ∧
    exec (.patrolScrub w line .bad) s = .next (s.did (uncorrectable (lineKey w line) (line / 32 % 4) 3))) ∧
  (∀ (w : Fin 12) (t : Int) (s : State), s.up → s.blk.wellOn w → t < 744 → s.blk.on (Reg.WEL_STATUS w) Fl.WEL_STATUS_HEAT = false →
    exec (.stackTempRead w t) s = .next (s.did (.all [
      setF (Reg.WEL_STATUS w) Fl.WEL_STATUS_STACK_TEMP (wrapInt 16 t),
      setF (Reg.WEL_STATUS w) Fl.WEL_STATUS_REFRESH_2X 0, setF (Reg.WEL_STATUS w) Fl.WEL_STATUS_PACE 0]))) ∧
  (∀ (w : Fin 12) (t : Int) (s : State), s.up → s.blk.wellOn w → 840 ≤ t → s.blk.on (Reg.WEL_STATUS w) Fl.WEL_STATUS_HEAT = false →
    exec (.stackTempRead w t) s = .next (s.did (.all [
      setF (Reg.WEL_STATUS w) Fl.WEL_STATUS_STACK_TEMP (wrapInt 16 t),
      setF (Reg.WEL_STATUS w) Fl.WEL_STATUS_REFRESH_2X 1, setF (Reg.WEL_STATUS w) Fl.WEL_STATUS_PACE 1, wellHeat w true]))) ∧
  (∀ (w : Fin 12) (s : State), s.up → s.blk.on (Reg.WEL_STATUS w) Fl.WEL_STATUS_HEAT → s.blk.domAsleep w = false →
    exec (.wellHeatStep w) s = .next (s.did (.all [
      modDom w (fun x => { x with stackHeat := s.blk.lowerLim w x.stackHeat }), refreshHeat w]))) ∧
  (∀ (w : Fin 12) (n : Nat) (s : State), s.up →
    exec (.stackEcsRead w n) s = .next (s.did (.all [
      addSat (Reg.WEL_ERR w) Fl.WEL_ERR_STACK_CORR n,
      modPwr (fun x => { x with errs := Tbl.upd 0 w.val (fun k => k + n) x.errs })]))) ∧
  (∀ (hat : Nat) (w : Fin 12) (s : State), s.up → s.blk.portAdmits hat → s.blk.mayWell hat w → s.blk.wellOn w →
    exec (.wbInv hat w) s = .next (s.did (setF (Reg.WEL_CTL w) Fl.WEL_CTL_WB_BUSY 1))) ∧
  (∀ (w : Fin 12) (s : State), s.up → s.blk.on (Reg.WEL_CTL w) Fl.WEL_CTL_WB_BUSY →
    exec (.wbInvDone w) s = .next (s.did (.all [
      emptyCache w,
      setF (Reg.WEL_CTL w) Fl.WEL_CTL_WB_BUSY 0, setF (Reg.WEL_CTL w) Fl.WEL_CTL_WB_DONE 1]))) ∧
  (∀ (g : Fin 16) (line key : Nat) (d : DirEnt) (s : State), s.up →
      (s.blk.dir.find? fun e => decide (e.2.pa = line / 128 * 128) && (match e.2.txn with
        | some t => t.await.contains g.val && !(t.unsent.any fun u => decide (u.1 = g.val))
        | none => false)) = some (key, d) →
    exec (.snoopTimeout g line) s = .next (s.did (partitionDown (s.blk.linePart key) { cause := 4, site := g, well := keyWell key }))) ∧
  (∀ (p : Fin 16) (s : State), s.up → s.blk.partDown p → (s.blk.dir.filter fun e => decide (s.blk.wellPart (keyWell e.1) = some p.val)) = [] →
    exec (.partitionDownClearDone p) s = .next (s.did (.all [
      poisonOwned p fun _ => true,
      .edit (.dirKeep fun k => decide (s.blk.wellPart (keyWell k) ≠ some p.val)),
      .each (List.range 12) showDir])))

/-- A memory write or read of a function that takes them, within its BAR, is cut into its pieces and joins the port's queue, poisoned data counted and logged; to a function that takes none it is an Unsupported Request; a configuration request before READY is answered with a retry, to a function that is not there with an Unsupported Request, a write writes, a read answers the word; a completion answers the mesh request that waits for it, and its loss is logged and answered poisoned; an IRQ of a live hat goes to the host function or wellhead it is bound at, else it is counted as dropped. (R400, R402, R403, R404, R405, R406, R410, R388) -/
def Obligations.HostTraffic : Prop :=
  (∀ (q : Fin 4) (fn : Fin 64) (bar off : Nat) (data : List Byte) (ep : Bool) (s : State), s.up → s.blk.hstUp q →
      s.blk.fnResetting q fn = false →
    (s.blk.fnTakes q fn = false → exec (.hostMemWrite q fn bar off data ep) s = .next (s.did (unsupportedReq q fn))) ∧
    (s.blk.fnTakes q fn → off + data.length ≤ 2 ^ s.blk.barLog q fn bar → (bar = 0 ∨ bar = 2 ∨ bar = 4) →
      exec (.hostMemWrite q fn bar off data ep) s = .next (s.did (.all [
        .when ep (.all [incSat (Reg.HST_ERR q) Fl.HST_ERR_POISON_IN, aerLog q fn 12]),
        .each (s.blk.barPieces (ownMsix bar off) (s.blk.barAddr q fn bar off) data.length) fun pc => modPort q fun x => { x with
          posted := x.posted ++ [⟨fn, bar, ownMsix bar off, off + pc.1, pc.2, 0, slice data pc.1 pc.2, ep, false,
            x.freeTag, [], false, 0⟩] },
        hostKick q])))) ∧
  (∀ (q : Fin 4) (fn : Fin 64) (bar off len tag : Nat) (s : State), s.up → s.blk.hstUp q → s.blk.fnResetting q fn = false →
    (s.blk.fnTakes q fn = false → exec (.hostMemRead q fn bar off len tag) s = .next (s.did (.all [
      unsupportedReq q fn, send (.hostCpl q fn tag 1 [] false)]))) ∧
    (s.blk.fnTakes q fn → off + len ≤ 2 ^ s.blk.barLog q fn bar → (bar = 0 ∨ bar = 2 ∨ bar = 4) →
      exec (.hostMemRead q fn bar off len tag) s = .next (s.did (.all [
        .each (s.blk.barPieces (ownMsix bar off) (s.blk.barAddr q fn bar off) len) fun pc => modPort q fun x => { x with
          reads := x.reads ++ [⟨fn, bar, ownMsix bar off, off + pc.1, pc.2, tag, [], false, false, x.freeTag,
            ((s.blk.portSt q).posted.filter fun r => decide (r.fn = fn.val)).map HostReq.mtag, false, 0⟩] },
        hostKick q])))) ∧
  (∀ (q : Fin 4) (fn : Fin 64) (reg : Nat) (v : W64) (s : State), s.up → s.blk.on (Reg.HST_STATUS q) Fl.HST_STATUS_D3COLD = false →
      s.blk.on (Reg.HST_SLOT q) Fl.HST_SLOT_PWR_GOOD → s.blk.hstF q Fl.HST_STATUS_PERST = 0 →
    (s.blk.hstReady q = false → ∀ wr, exec (.configRequest q fn wr reg v) s = .next (s.did (send (.hostCpl q fn 0 2 [] false)))) ∧
    (s.blk.hstReady q → s.blk.fnThere q fn = false → ∀ wr,
      exec (.configRequest q fn wr reg v) s = .next (s.did (.all [aerLog q 0 20, send (.hostCpl q fn 0 1 [] false)]))) ∧
    (s.blk.hstReady q → s.blk.fnThere q fn →
      exec (.configRequest q fn true reg v) s = .next (s.did (.all [
        cfgWrite q fn (reg % 4096 / 4 * 4) (v.toNat % 2 ^ 32), send (.hostCpl q fn 0 0 [] false)])) ∧
      (∀ w, s.blk.cfgWord q fn (reg % 4096 / 4 * 4) = some w →
        exec (.configRequest q fn false reg v) s = .next (s.did (send (.hostCpl q fn 0 0 (toBytesLE 4 w) false)))) ∧
      (s.blk.cfgWord q fn (reg % 4096 / 4 * 4) = none → reg % 4096 / 4 * 4 ≠ 0 →
        exec (.configRequest q fn false reg v) s = .next (s.did (withFree fun x =>
          send (.hostCpl q fn 0 0 (toBytesLE 4 x) false)))))) ∧
  (∀ (q : Fin 4) (tag : Nat) (data : List Byte) (ep : Bool) (e : Nat × Pkt) (s : State), s.up →
      ((s.blk.portSt q).issued.find? fun e => decide (e.1 = tag)) = some e →
    (s.blk.hstUp q → exec (.hostCompletion q tag data ep) s = .next (s.did (.all [
      modPort q (fun x => { x with issued := x.issued.erase e }),
      .when ep (.all [incSat (Reg.HST_ERR q) Fl.HST_ERR_POISON_IN, aerLog q ((s.blk.hostFn e.2.hat q).getD 0) 12]),
      memAnswer e.2 (unitsSt (hostUnits e.2 data ep)) (hostUnits e.2 data ep)]))) ∧
    ((s.blk.fnSt q ((s.blk.hostFn e.2.hat q).getD 0)).cplOff = false →
      exec (.hostReadTimeout q tag) s = .next (s.did (.all [
        modPort q (fun x => { x with issued := x.issued.erase e }), incSat (Reg.HST_ERR q) Fl.HST_ERR_CPL_TIMEOUT,
        aerLog q ((s.blk.hostFn e.2.hat q).getD 0) 14, hostReadFails e.2 St.poisoned])))) ∧
  (∀ (p : Pkt) (s : State), s.up → s.blk.noc.net.contains p → p.cmd = 0x84 → p.hat < 1024 →
    (s.blk.hatState p.hat = HatState.orphaned → exec (.irq p) s = .next (s.did (.all [takePkt p, irqDropped p.hat]))) ∧
    (s.blk.hatState p.hat = HatState.active → p.addr % 2 ^ 11 < 2 ^ s.blk.f (Reg.HAT_INFO p.hat) Fl.HAT_INFO_VEC_LOG2 →
      (s.blk.hatPort p.hat = some 0x100 → exec (.irq p) s = .next (s.did (.all [takePkt p, send (.irqWellhead (p.addr % 2 ^ 11))]))) ∧
      (∀ k, s.blk.hatPort p.hat = some k → k < 256 → s.blk.fnThere (k / 64) (k % 64) →
        exec (.irq p) s = .next (s.did (.all [takePkt p, fnIrq (k / 64) (k % 64) p.hat (p.addr % 2 ^ 11)])))))

/-- FLR and VF control reset functions and their hats; PERST, hot reset, readiness, DL_Down, PME turn-off and link power states change the port's status; presence, the attention button, PWR_CMD and power good work the slot and tell the wellhead; a removal is declared surprise or orderly; a returned host's marked hats are bound again in one new epoch. (R402, R407, R408, R409, R411, R413, R414, R415, R416, R417, R419, R396) -/
def Obligations.HostPortEvents : Prop :=
  (∀ (q : Fin 4) (s : State), s.up → s.blk.hstReady q →
    (s.blk.fnThere q 0 → exec (.flr q 0) s = .next (s.did (.all [
      .all [.each (List.range 64) (resetFnHat q), portDefaults q], hubGoesOn]))) ∧
    (∀ fn : Fin 64, fn.val ≠ 0 → s.blk.fnThere q fn → exec (.flr q fn) s = .next (s.did (.all [
      .all [resetFnHat q fn, fnDefaults q fn], hubGoesOn]))) ∧
    (∀ (n : Nat) (vfEn : Bool), exec (.vfEnableClear q n vfEn) s = .next (s.did (.all [
      modPort q (fun x => { x with numVfs := min 63 n, vfEn := vfEn }),
      .each ((List.range 64).filter fun fn => decide ((if vfEn then min 63 n else 0) < fn ∧
          fn ≤ (if (s.blk.portSt q).vfEn then (s.blk.portSt q).numVfs else 0))) fun fn => .all [resetFnHat q fn, fnDefaults q fn],
      hubGoesOn])))) ∧
  (∀ (q : Fin 4) (s : State), s.up →
    (s.blk.hstF q Fl.HST_STATUS_PERST = 0 → (s.blk.portSt q).l2 = false →
      exec (.perstAssert q) s = .next (s.did (.all [hstSet q Fl.HST_STATUS_PERST 1, portReset q]))) ∧
    (s.blk.hstF q Fl.HST_STATUS_PERST = 0 → (s.blk.portSt q).l2 = true →
      exec (.perstAssert q) s = .next (s.did (.all [hstSet q Fl.HST_STATUS_PERST 1, .all [
        linkDown q, hstSet q Fl.HST_STATUS_D3COLD 1, dropTraffic q St.accessDenied,
        .each (List.range 64) fun fn => .all [fnDefaults q fn,
          .when (s.blk.fnSt q fn).pmeEn (modFn q fn fun x => { x with pmeEn := true })],
        modPort q (fun x => { x with vfEn := false, numVfs := 0 })]]))) ∧
    (s.blk.hstF q Fl.HST_STATUS_PERST = 1 →
      exec (.perstDeassert q) s = .next (s.did (.all [hstSet q Fl.HST_STATUS_PERST 0,
        .when (s.blk.on (Reg.HST_STATUS q) Fl.HST_STATUS_D3COLD) (.all [hstSet q Fl.HST_STATUS_D3COLD 0, portDefaults q]),
        modPort q (fun x => { x with l2 := false, wakeN := false })])))) ∧
  (∀ (q : Fin 4) (s : State), s.up → s.blk.hstUp q →
    exec (.hotReset q) s = .next (s.did (portReset q)) ∧
    (s.blk.hstF q Fl.HST_STATUS_PERST = 0 → exec (.dlDown q) s = .next (s.did (declareRemoval q false))) ∧
    exec (.pmeTurnOff q) s = .next (s.did (.all [
      modPort q (fun x => { x with l2 := true }), hstSet q Fl.HST_STATUS_LINK_UP 0, hstSet q Fl.HST_STATUS_PSTATE 5])) ∧
    (∀ p : Fin 8, p.val ≤ 4 → exec (.linkPowerStateChange q p) s = .next (s.did (hstSet q Fl.HST_STATUS_PSTATE p))) ∧
    (s.blk.on (Reg.HST_CTL q) Fl.HST_CTL_L0P_EN → s.blk.hstF q Fl.HST_STATUS_PSTATE = 0 → 1 < s.blk.hstF q Fl.HST_STATUS_WIDTH →
      exec (.l0pIdleTimer q) s = .next (s.did (hstSet q Fl.HST_STATUS_PSTATE 1)))) ∧
  (∀ (q : Fin 4) (rate : Nat) (flit : Bool) (s : State), s.up → s.blk.on (Reg.HST_SLOT q) Fl.HST_SLOT_PWR_GOOD →
      s.blk.sys.testDone = true → s.blk.hstF q Fl.HST_STATUS_PERST = 0 → s.blk.sys.offPort.contains q.val = false → s.blk.on Reg.TST_CTL Fl.TST_CTL_TEST_MODE = false →
      s.blk.on Reg.HUB_BRINGUP Fl.HUB_BRINGUP_FAILED = false → s.blk.hstReady q = false → rate ≤ 5 →
    ∀ width ∈ [1, 2, 4, 8, 16], exec (.portReady q rate width flit) s = .next (s.did (.all [
      hstSet q Fl.HST_STATUS_LINK_UP 1, hstSet q Fl.HST_STATUS_READY 1,
      hstSet q Fl.HST_STATUS_RATE rate, hstSet q Fl.HST_STATUS_WIDTH width, hstSet q Fl.HST_STATUS_FLIT (b2n flit),
      hstSet q Fl.HST_STATUS_PSTATE 0, modPort q (fun x => { x with removed := false, l2 := false }), pwrInd q 1]))) ∧
  (∀ (q : Fin 4) (s : State), s.up →
    (s.blk.hstF q Fl.HST_STATUS_PRSNT = 0 → s.blk.autoPwr q → exec (.presenceDebounce q true) s = .next (s.did (.all [
      hstSet q Fl.HST_STATUS_PRSNT 1, hostEvent q 3, .all [slotSet q Fl.HST_SLOT_PWR_CMD 1, pwrInd q 2]]))) ∧
    (s.blk.hstF q Fl.HST_STATUS_PRSNT = 1 → s.blk.autoPwr q → exec (.presenceDebounce q false) s = .next (s.did (.all [
      hstSet q Fl.HST_STATUS_PRSNT 0, hostEvent q 3, .all [declareRemoval q false,
        .all [slotSet q Fl.HST_SLOT_PWR_CMD 0, slotSet q Fl.HST_SLOT_PWR_GOOD 0, pwrInd q 0]]]))) ∧
    ((s.blk.portSt q).removed = false → s.blk.f (Reg.HAT_GRACE q) Fl.HAT_GRACE_ORPHANS = 0 → s.blk.autoPwr q → s.blk.hstUp q →
      (s.blk.portSt q).btn = false → exec (.attnButton q) s = .next (s.did (.all [
        hostEvent q 4, .all [modPort q (fun x => { x with btn := true }), slotSet q Fl.HST_SLOT_BTN_PENDING 1, pwrInd q 2]]))) ∧
    ((s.blk.portSt q).btn = true → exec (.attnButtonTimeout q) s = .next (s.did (declareRemoval q true))) ∧
    (s.blk.on (Reg.HST_SLOT q) Fl.HST_SLOT_PWR_CMD →
      exec (.pwrGoodRise q) s = .next (s.did (slotSet q Fl.HST_SLOT_PWR_GOOD 1)) ∧
      (s.blk.on (Reg.HST_SLOT q) Fl.HST_SLOT_PWR_GOOD → exec (.pwrGoodLoss q) s = .next (s.did (.all [
        slotSet q Fl.HST_SLOT_PWR_GOOD 0, hostEvent q 2, slotSet q Fl.HST_SLOT_ATTN_IND 1,
        declareRemoval q false]))))) ∧
  (∀ (hat : Nat) (q : Fin 4) (s : State), s.up → s.blk.portAdmits hat → s.blk.mayHst hat q →
    exec (.pwrCmdOn hat q) s = .next (s.did (slotSet q Fl.HST_SLOT_PWR_CMD 1)) ∧
    exec (.pwrCmdOff hat q) s = .next (s.did (pwrOff q))) ∧
  (∀ (q : Fin 4) (s : State), s.up → s.blk.hstReady q → s.blk.on (Reg.HST_CTL q) Fl.HST_CTL_AUTO_REBIND →
      (s.blk.portSt q).marks ≠ [] → s.blk.cis.commit = none → s.blk.on Reg.TST_CTL Fl.TST_CTL_TEST_MODE = false →
      s.blk.sec.linkLost = false → ∀ n, ((List.range 4).find? fun n => decide (s.blk.slotState n = SlotState.empty)) = some n →
    exec (.hatRebind q) s = .next (s.did (.all [
      epoch s.blk.recs (s.blk.gen + 1) (s.blk.portSt q).marks,
      modCis (fun x => { x with commit := some ⟨n, 0, false, s.blk.recs, [], .copying, true, [], s.blk.now⟩ })])))

/-- A write of 4 or 8 aligned bytes to a register that exists on a live unit, under a hat that its port admits, does what the register's unit says with the word as it would be afterwards; a write outside the allowed sizes, or to a unit that is absent, does nothing. The port's REGACC acts as the hat bound at index 0x101 and shifts the register's word out. The list, when it begins with its mark, is written register by register as hat 0, and bring-up becomes READY. (R8, R10, R11, R25, R379, R474, R489, R507) -/
def Obligations.RegisterCommands : Prop :=
  (∀ (hat off size : Nat) (val : W64) (d : RegDesc) (i : List Nat) (s : State), s.up → s.blk.portAdmits hat → goodAccess off size →
      s.blk.blank (off / 8 * 8) = false → (off / 8 * 8 < 0x2600000 ∨ 0x3200000 ≤ off / 8 * 8) → taskWin (off / 8 * 8) = none → Regs.find (off / 8 * 8) = some (d, i) →
    exec (.registerWrite hat off size val) s = .next (s.did (
      writeReg hat (off / 8 * 8) (Block.writeBE off size) d i
        (Block.writeWord d (s.blk.w (off / 8 * 8)) off size (val.toNat % 2 ^ (8 * size)))))) ∧
  (∀ (hat off size : Nat) (val : W64) (s : State), s.up → goodAccess off size = false ∨ s.blk.blank (off / 8 * 8) = true →
    exec (.registerWrite hat off size val) s = .next s) ∧
  (∀ (hat off : Nat) (val : W64) (s : State), s.up → s.blk.sys.pwrOk → (∀ b : Block, b = (loadIr 0x10).run s.blk →
      b.held = false ∧ b.sys.scanned = false ∧ b.boundHat 0x101 = some hat ∧ b.portAdmits hat = true ∧ b.readWaits off = false) →
    exec (.regacc false off val) s = .next (s.did (.all [
      loadIr 0x10,
      .read fun b => .all [
        modSys (fun x => { x with scan := toBytesLE 8 off ++ toBytesLE 8 (b.regRead hat off 8).2 }),
        send (.tdo (toBytesLE 8 off ++ toBytesLE 8 (b.regRead hat off 8).2))]])) ∧
    exec (.regacc true off val) s = .next (s.did (.all [
      loadIr 0x10,
      regWrite hat off 8 val.toNat,
      modSys (fun x => { x with scan := toBytesLE 8 off ++ toBytesLE 8 val.toNat }),
      send (.tdo (toBytesLE 8 off ++ toBytesLE 8 val.toNat))]))) ∧
  (∀ s : State, s.up → s.blk.sys.begun → s.blk.bringFailed = false → s.blk.bringStep = 8 →
      s.blk.on Reg.HUB_BRINGUP Fl.HUB_BRINGUP_READY = false → numAt (s.blk.bootBytes 0x80000 4) 0 4 = 0x54534C42 →
    exec .bootRegisterList s = .next (s.did (.all [
      .each s.blk.bootList fun e => regWrite 0 e.1 8 e.2,
      bringSet Fl.HUB_BRINGUP_LIST_APPLIED s.blk.bootList.length,
      bringSet Fl.HUB_BRINGUP_READY 1, bringSet Fl.HUB_BRINGUP_STEP 10,
      .read fun b => bringSet Fl.HUB_BRINGUP_READY_US (min (2 ^ 28 - 1) ((b.now - b.sys.start) / 1000))])))

/-- TEST_MODE is entered by a TEST hat of a quiet package and REFUSED otherwise; while the rails are good BYPASS shifts one bit, IDCODE shifts the package's code, SAMPLE shifts what the cells captured, and outside TEST_MODE the intrusive instructions act as BYPASS while inside EXTEST drives the cells, DIESEL picks a die and HUBSCAN leaves the hub undefined; Test-Logic-Reset selects IDCODE. A link test that may run, in TEST_MODE or of a spare not in use, starts with its counts zero and wakes its domain, STOP ends it with END 2, its length with END 1, and a mission test with bit errors marks its spare. (R485, R486, R488, R489, R490, R491, R493, R494) -/
def Obligations.TestPortCommands : Prop :=
  (∀ (hat : Nat) (s : State), s.up → s.blk.portAdmits hat → s.blk.inRecovery = false → testMode s.blk = false →
    (s.blk.holds hat Right.test → s.blk.quiet → exec (.testModeSet hat) s = .next (s.did enterTestMode)) ∧
    (s.blk.quiet = false → exec (.testModeSet hat) s = .next (s.did (setF Reg.TST_CTL Fl.TST_CTL_REFUSED 1)))) ∧
  (∀ s : State, s.blk.sys.pwrOk →
    (∀ tdi, exec (.bypass tdi) s = .next (s.did (.all [loadIr 0xFF, bypassShift 1 (b2n tdi)]))) ∧
    exec .idcode s = .next (s.did (.all [loadIr 0x01, .read fun b => send (.tdo (toBytesLE 4 b.idcode))])) ∧
    (∀ cells, exec (.samplePreload cells) s = .next (s.did (.all [loadIr 0x02, shiftCells cells]))) ∧
    exec .testLogicReset s = .next (s.did (modSys fun x => { x with ir := 0x01, scan := [], die := none })) ∧
    (testMode s.blk = true →
      (∀ cells, exec (.extest cells) s = .next (s.did (.all [loadIr 0x03, shiftCells cells]))) ∧
      (∀ die, exec (.diesel die) s = .next (s.did (.all [loadIr 0x11, modSys (fun x => { x with die := some die })]))) ∧
      (∀ chain, exec (.hubscan chain) s = .next (s.did (.all [
        loadIr 0x12, shiftCells chain, modSys (fun x => { x with scanned := true })])))) ∧
    (testMode s.blk = false →
      (∀ cells, exec (.extest cells) s = .next (s.did (.all [loadIr 0x03, bypassShift (8 * cells.length) (ofBytesLE cells)]))) ∧
      (∀ die, exec (.diesel die) s = .next (s.did (.all [loadIr 0x11, bypassShift 0 0]))) ∧
      (∀ chain, exec (.hubscan chain) s = .next (s.did (.all [loadIr 0x12, bypassShift (8 * chain.length) (ofBytesLE chain)]))))) ∧
  (∀ (hat : Nat) (val : W64) (s : State), s.may hat Right.test → s.blk.sys.ltest.running = false →
      testMode s.blk = true ∨ s.blk.ltestSpare (getFld val Fl.TST_LTEST_CTL_KIND) (getFld val Fl.TST_LTEST_CTL_INDEX)
        (getFld val Fl.TST_LTEST_CTL_SUB) = true →
      s.blk.ltestThere (getFld val Fl.TST_LTEST_CTL_KIND) (getFld val Fl.TST_LTEST_CTL_INDEX) (getFld val Fl.TST_LTEST_CTL_SUB) →
      getFld val Fl.TST_LTEST_CTL_LEN ≤ 40 ∨ getFld val Fl.TST_LTEST_CTL_LEN = 63 → getFld val Fl.TST_LTEST_CTL_PATTERN ≤ 4 →
    exec (.tstLtestGo hat val) s = .next (s.did (.all [
      .each [Fl.TST_LTEST_CTL_LEN, Fl.TST_LTEST_CTL_PATTERN, Fl.TST_LTEST_CTL_KIND, Fl.TST_LTEST_CTL_INDEX, Fl.TST_LTEST_CTL_SUB]
        fun x => setF Reg.TST_LTEST_CTL x (getFld val x),
      .all [setR Reg.TST_LTEST_STAT 0,
        setF Reg.TST_LTEST_CTL Fl.TST_LTEST_CTL_BUSY 1, setF Reg.TST_LTEST_CTL Fl.TST_LTEST_CTL_END 0,
        setF Reg.TST_LTEST_CTL Fl.TST_LTEST_CTL_MISSION (b2n (!testMode s.blk)),
        modSys (fun x => { x with ltest := ⟨true, decide (getFld val Fl.TST_LTEST_CTL_LEN = 63), getFld val Fl.TST_LTEST_CTL_KIND,
          getFld val Fl.TST_LTEST_CTL_INDEX, getFld val Fl.TST_LTEST_CTL_SUB⟩ }),
        startWake (if getFld val Fl.TST_LTEST_CTL_KIND = 0 then 12 + getFld val Fl.TST_LTEST_CTL_INDEX / 4
          else if getFld val Fl.TST_LTEST_CTL_KIND = 2 then getFld val Fl.TST_LTEST_CTL_INDEX
          else if getFld val Fl.TST_LTEST_CTL_KIND = 3 then 19 else 17 + getFld val Fl.TST_LTEST_CTL_INDEX)]]))) ∧
  (∀ (hat : Nat) (eb ew : Nat) (s : State), s.may hat Right.test → s.blk.sys.ltest.running →
    exec (.tstLtestStop hat eb ew) s = .next (s.did (tstLtestOff 2 eb ew)) ∧
    (s.blk.sys.ltest.forever = false → exec (.tstLtestEnd eb ew) s = .next (s.did (.all [
      tstLtestOff 1 eb ew,
      .when (s.blk.on Reg.TST_LTEST_CTL Fl.TST_LTEST_CTL_MISSION && decide (eb ≠ 0)) (
        if s.blk.sys.ltest.kind = 0 then orF Reg.TST_SPARE Fl.TST_SPARE_MOD_SUSPECT (2 ^ s.blk.sys.ltest.index)
        else orF Reg.TST_SPARE Fl.TST_SPARE_LANE_SUSPECT
          (2 ^ (2 * s.blk.sys.ltest.index + (s.blk.sys.ltest.sub - 48))))]))))

/-- A segment word written under a hat with the right is masked to its fields and its segment's MALFORMED formed anew; a read joins those that wait; a walk's entry, as its line holds it, leads on or ends the walk, an address that is not canonical ends it with fault 4; the head word, read again under the owner's rights, lets parked faults into the ring; the hold-off's end raises the interrupt that was owed; a bump starts, or waits for the one under way, and ends when every unit has acknowledged; RESUME and ABORT answer the open fault they name; contexts and fault queues are enabled and disabled. (R299, R303, R306, R309, R313, R315, R316, R317, R319, R320, R379) -/
def Obligations.TranslationCommands : Prop :=
  (∀ (hat off : Nat) (val : W64) (s : State), s.up → s.blk.portAdmits hat → off % 8 = 0 →
    (s.blk.maySeg hat off true → exec (.segmentWordWrite hat off val) s = .next (s.did (segWrite off val))) ∧
    (s.blk.maySeg hat off false → ∀ tag, exec (.segmentWordRead hat off tag) s = .next (s.did (.all [
      modXlt (fun x => { x with segRead := x.segRead ++ [(off, hat, tag)] }), releaseSegReads])))) ∧
  (∀ (w : Fin 32) (st : Nat) (e : W64) (k : Walk) (s : State), s.up → s.blk.windowAt (12 + w.val / 8) = false →
      s.blk.walkAt w = some k →
    (2 ^ 48 ≤ k.va → exec (.walkEntryReadDone w st e) s = .next (s.did (endWalk w k (.fault 4 0)))) ∧
    (∀ g : Status × List Byte, k.va < 2 ^ 48 → s.blk.walkGot w k st e = some g →
      ∃ got : Prog, got = .all [
        .each (s.blk.noc.net.filter (s.blk.entryRsp w k)) takePkt, activity k.hat Act.walker 1,
        modXlt (fun x => { x with line := Tbl.set (dflt none) w.val (some (k.for_, k.entryAddr / 64, g.2)) x.line })] ∧
      (∀ t, readLeaf s.blk.ownPkg k.level k.need g.1 (numAt g.2 (k.entryAddr % 64) 8) = .down t →
        exec (.walkEntryReadDone w st e) s = .next (s.did (.all [got,
          modXlt (fun x => { x with walks := Tbl.set (dflt none) w.val (some { k with level := k.level - 1, table := t }) x.walks }),
          readEntry w]))) ∧
      (∀ pa size perms, readLeaf s.blk.ownPkg k.level k.need g.1 (numAt g.2 (k.entryAddr % 64) 8) = .leaf pa size perms →
        exec (.walkEntryReadDone w st e) s = .next (s.did (.all [got, endWalk w k (.leaf pa size perms)]))) ∧
      (∀ r x, readLeaf s.blk.ownPkg k.level k.need g.1 (numAt g.2 (k.entryAddr % 64) 8) = .fault r x →
        exec (.walkEntryReadDone w st e) s = .next (s.did (.all [got, endWalk w k (.fault r x)]))))) ∧
  (∀ (q : Fin 16) (told read : ReadIn) (s : State), s.up → (s.blk.fq q).parked.length + (s.blk.fq q).asked.length ≠ 0 →
      s.blk.sourced (s.blk.rightsOf (s.blk.fqOwner q)) (s.blk.fqOwner q) (s.blk.fqHead q) 8 told = read →
    exec (.headWordReread q told) s = .next (s.did (.all [
      .when (decide (read.end_ = 0)) (modFq q (fun x => { x with head := numAt read.data 0 4 })),
      .all (List.replicate ((s.blk.fq q).parked.length + (s.blk.fq q).asked.length) (drainFault q)),
      .read fun b => .all [modFq q (fun x => { x with asked := [] }), .each (b.fq q).asked (parkFault q)],
      .each (List.range 4) serveWalks]))) ∧
  (∀ (q : Fin 16) (s : State), s.up → (s.blk.fq q).irqOwed = true → exec (.faultIrqHoldoff q) s = .next (s.did (.all [
    modFq q (fun x => { x with irqOff := false, irqOwed := false }), raiseFq q]))) ∧
  (∀ (hat : Nat) (x : Fin 256) (s : State), s.up → s.blk.portAdmits hat → s.blk.mayXctx hat x →
    (s.blk.on (Reg.XLT_CTX_EPOCH x) Fl.XLT_CTX_EPOCH_BUSY = false → exec (.xltBump hat x) s = .next (s.did (startBump x false))) ∧
    (s.blk.on (Reg.XLT_CTX_EPOCH x) Fl.XLT_CTX_EPOCH_BUSY = true → exec (.xltBump hat x) s = .next (s.did (
      modXctx x fun y => { y with more := y.more + 1 }))) ∧
    exec (.xltCtxDisable hat x) s = .next (s.did (disableXctx x)) ∧
    (∀ val, s.blk.on (Reg.XLT_CTX_CTL x) Fl.XLT_CTX_CTL_ENABLE = false → s.blk.hatRemoved (getFld val Fl.XLT_CTX_CTL_HAT) = false →
      exec (.xltCtxEnable hat x val) s = .next (s.did (.all [
        setF (Reg.XLT_CTX_CTL x) Fl.XLT_CTX_CTL_HAT (getFld val Fl.XLT_CTX_CTL_HAT),
        setF (Reg.XLT_CTX_CTL x) Fl.XLT_CTX_CTL_FQ (getFld val Fl.XLT_CTX_CTL_FQ),
        setF (Reg.XLT_CTX_CTL x) Fl.XLT_CTX_CTL_ENABLE 1])))) ∧
  (∀ (x : Fin 256) (u : Ep) (s : State), s.up → (s.blk.xctx x).acks = [u] → s.blk.bumpClear x u → (s.blk.xctx x).quiet = false →
      (s.blk.xctx x).more = 0 →
    exec (.xltBumpAck x u) s = .next (s.did (.all [
      modXctx x (fun y => { y with acks := [] }),
      setF (Reg.XLT_CTX_EPOCH x) Fl.XLT_CTX_EPOCH_BUSY 0, setF (Reg.XLT_CTX_EPOCH x) Fl.XLT_CTX_EPOCH_DONE 1]))) ∧
  (∀ (hat : Nat) (q : Fin 16) (s : State), s.up → s.blk.portAdmits hat → s.blk.mayFq hat q →
    (∀ fid r, ((s.blk.fq q).open_.find? fun r => decide (r.fid = fid)) = some r →
      exec (.resume hat q fid) s = .next (s.did (.all [
        modFq q (fun x => { x with open_ := x.open_.filter fun y => decide (y.fid ≠ fid) }), resumeFault r])) ∧
      exec (.abortCmd hat q fid) s = .next (s.did (.all [
        modFq q (fun x => { x with open_ := x.open_.filter fun y => decide (y.fid ≠ fid) }), abortFault r]))) ∧
    (∀ val, s.blk.on (Reg.XLT_FQ_CTL q) Fl.XLT_FQ_CTL_ENABLE = false → getFld val Fl.XLT_FQ_CTL_SIZE ≤ 8 →
      s.blk.hatRemoved (getFld val Fl.XLT_FQ_CTL_OWNER) = false → exec (.xltFqEnable hat q val) s = .next (s.did (.all [
        setF (Reg.XLT_FQ_CTL q) Fl.XLT_FQ_CTL_OWNER (getFld val Fl.XLT_FQ_CTL_OWNER),
        setF (Reg.XLT_FQ_CTL q) Fl.XLT_FQ_CTL_IRQ_VEC (getFld val Fl.XLT_FQ_CTL_IRQ_VEC),
        setF (Reg.XLT_FQ_CTL q) Fl.XLT_FQ_CTL_SIZE (getFld val Fl.XLT_FQ_CTL_SIZE),
        setF (Reg.XLT_FQ_CTL q) Fl.XLT_FQ_CTL_ENABLE 1,
        setF (Reg.XLT_FQ_STATUS q) Fl.XLT_FQ_STATUS_TAIL 0, modFq q (fun x => { x with head := 0 })]))) ∧
    ((∀ x < 256, s.blk.on (Reg.XLT_CTX_CTL x) Fl.XLT_CTX_CTL_ENABLE = false) →
      exec (.xltFqDisable hat q) s = .next (s.did (setF (Reg.XLT_FQ_CTL q) Fl.XLT_FQ_CTL_ENABLE 0))))

/-- Bytes written to an intake reach each slot they touch; a pump that runs and has a free place takes the oldest accepted descriptor of the intake whose turn it is, and one that is free but whose well sleeps wakes it; a piece of a COPY or FILL that may start takes its place, a COPY's with its reads asked for; a BARRIER that is first of its intake ends; a piece that has ended is counted; the hold-off's end raises the owed interrupt; an enabled intake takes its hat and pump and begins at SEQ 0, a disabled one closes; a loading or loaded key is revoked; a weight-set entry is cleared or bound; PMP_REMOVE removes a hat that is not 0 while no removal runs. (R322, R323, R325, R327, R328, R329, R333, R339, R340, R341, R342, R336) -/
def Obligations.PumpCommands : Prop :=
  (∀ (hat : Nat) (i : Fin 4096) (slot : Nat) (bytes : List Byte) (s : State), s.up → s.blk.portAdmits hat →
    exec (.intakeWrite hat i (slot * 64) bytes) s = .next (s.did (intakeBytes hat i (slot * 64) bytes))) ∧
  (∀ (p : Fin 48) (i : Fin 4096) (s : State), s.up → (∃ k < 64, s.blk.workAt (workKey p k) = none) → s.blk.admitTurn p i →
    (s.blk.pumpRuns p → exec (.descAdmit p i) s = .next (s.did (.all [noteAdmit p i, admitFirst p i]))) ∧
    (s.blk.pumpFree p → s.blk.pumpAsleep p → exec (.descAdmit p i) s = .next (s.did (packetWake (p / 4))))) ∧
  (∀ (p : Fin 48) (slot : Fin 64) (d : Desc) (n : Nat) (s : State), s.up → s.blk.workAt (workKey p slot) = some d → s.blk.pumpRuns p →
      d.xlat = 0 → d.stop = false → d.started < d.pieces → d.fault = none →
      (0 < d.started || (s.blk.earlierStarted p d && (!d.order || s.blk.firstOfIntake d))) → s.blk.piecePlace p = some n →
      (d.walksSrc || d.walksDst → d.epoch = s.blk.xepoch d.xctx) →
    (d.op = 1 → exec (.copy p slot) s = .next (s.did (.all [
      modDesc (workKey p slot) (fun x => { x with
        started := d.started + 1, pcs := x.pcs ++ [⟨d.started, n, [], [], [], false, [], false, false, false, []⟩] }),
      .all [
        .each (d.pieceUnits d.srcRun d.started).zipIdx fun u => pieceAsk p slot d.started u.2 u.1,
        .when (decide (d.crypto = 1)) (pieceAsk p slot d.started 254 ⟨0, d.tagAt d.started, 16⟩)],
      pieceRun p slot d.started, showPump p]))) ∧
    (d.op = 2 → exec (.fill p slot) s = .next (s.did (.all [
      modDesc (workKey p slot) (fun x => { x with
        started := d.started + 1, pcs := x.pcs ++ [⟨d.started, n, [], [], [], false, [], false, false, false, []⟩] }),
      pieceRun p slot d.started, showPump p])))) ∧
  (∀ (p : Fin 48) (slot : Fin 64) (d : Desc) (s : State), s.up → s.blk.workAt (workKey p slot) = some d →
    (d.op = 3 → s.blk.pumpRuns p → s.blk.firstOfIntake d → exec (.pumpBarrier p slot) s = .next (s.did (finishDesc p slot 0 0))) ∧
    (∀ (k : Nat) x, (d.pcs.find? fun x => decide (x.idx = k)) = some x → d.pieceEnded x →
      s.blk.windowAt (s.blk.pumpRegion p) = false → exec (.pieceDone p slot k) s = .next (s.did (.all [
        modDesc (workKey p slot) (fun y => { y with
          done := y.done + 1, moved := y.moved + (d.pieceHi k - d.pieceLo k), pcs := y.pcs.filter fun z => decide (z.idx ≠ k) }),
        addWrap (Reg.PMP_BYTES p) Fl.PMP_BYTES_BYTES (d.pieceHi k - d.pieceLo k),
        activity d.hat Act.pumpBytes (d.pieceHi k - d.pieceLo k),
        .when (decide (d.crypto ≠ 0)) (incSat (Reg.PMP_KEY d.key) Fl.PMP_KEY_PAGES),
        showPump p, endDesc p slot])))) ∧
  (∀ (i : Fin 4096) (s : State), s.up → (s.blk.intakeSt i).irqOwed = true →
    exec (.pmpIrqHoldoff i) s = .next (s.did (.all [modIntake i (fun x => { x with irqOff := false, irqOwed := false }), raiseIntake i]))) ∧
  (∀ (hat : Nat) (i : Fin 4096) (v val : W64) (s : State), s.up → s.blk.portAdmits hat → s.blk.intakeOn i = false →
      v = putFld val Fl.PMP_INTAKE_CTL_ENABLE 1 → getFld v Fl.PMP_INTAKE_CTL_ENABLE = 1 →
      s.blk.mayIntake hat (getFld v Fl.PMP_INTAKE_CTL_PUMP) → s.blk.hatRemoved (getFld v Fl.PMP_INTAKE_CTL_HAT) = false →
      getFld v Fl.PMP_INTAKE_CTL_PUMP < 48 → s.blk.pumpOn (getFld v Fl.PMP_INTAKE_CTL_PUMP) →
      s.blk.inPart (getFld v Fl.PMP_INTAKE_CTL_HAT) (s.blk.pumpPart (getFld v Fl.PMP_INTAKE_CTL_PUMP)) →
    exec (.intakeEnable hat i val) s = .next (s.did (.all [
      setF (Reg.PMP_INTAKE_CTL i) Fl.PMP_INTAKE_CTL_HAT (getFld v Fl.PMP_INTAKE_CTL_HAT),
      setF (Reg.PMP_INTAKE_CTL i) Fl.PMP_INTAKE_CTL_PUMP (getFld v Fl.PMP_INTAKE_CTL_PUMP),
      setF (Reg.PMP_INTAKE_CTL i) Fl.PMP_INTAKE_CTL_IRQ_VEC (getFld v Fl.PMP_INTAKE_CTL_IRQ_VEC),
      setF (Reg.PMP_INTAKE_CTL i) Fl.PMP_INTAKE_CTL_IRQ_HOLDOFF (getFld v Fl.PMP_INTAKE_CTL_IRQ_HOLDOFF),
      setF (Reg.PMP_INTAKE_CTL i) Fl.PMP_INTAKE_CTL_ENABLE 1,
      setF (Reg.PMP_INTAKE_STATUS i) Fl.PMP_INTAKE_STATUS_NEXT_SEQ 0]))) ∧
  (∀ (hat : Nat) (i : Fin 4096) (v : W64) (s : State), s.up → s.blk.portAdmits hat → s.blk.intakeOn i → s.blk.intakeClosing i = false →
      v = putFld (s.blk.w (Reg.PMP_INTAKE_CTL i)) Fl.PMP_INTAKE_CTL_ENABLE 0 → getFld v Fl.PMP_INTAKE_CTL_ENABLE = 0 →
      s.blk.mayIntake hat (s.blk.intakePump i) → s.blk.hatRemoved (s.blk.intakeHat i) = false →
    exec (.intakeDisable hat i) s = .next (s.did (.all [
      setF (Reg.PMP_INTAKE_CTL i) Fl.PMP_INTAKE_CTL_HAT (s.blk.intakeHat i),
      setF (Reg.PMP_INTAKE_CTL i) Fl.PMP_INTAKE_CTL_PUMP (s.blk.intakePump i),
      setF (Reg.PMP_INTAKE_CTL i) Fl.PMP_INTAKE_CTL_IRQ_VEC (getFld v Fl.PMP_INTAKE_CTL_IRQ_VEC),
      setF (Reg.PMP_INTAKE_CTL i) Fl.PMP_INTAKE_CTL_IRQ_HOLDOFF (getFld v Fl.PMP_INTAKE_CTL_IRQ_HOLDOFF),
      closeIntake i false]))) ∧
  (∀ (k w : Fin 256) (s : State), s.up → s.blk.portAdmits 0 →
    (s.blk.keyState k = 1 ∨ s.blk.keyState k = 2 → exec (.keyRevoke 0 k) s = .next (s.did (revokeKeys [k] none (s.blk.keyHats k)))) ∧
    (s.blk.f (Reg.PMP_WSET w) Fl.PMP_WSET_HAT = 0 → exec (.wsetReset 0 w) s = .next (s.did (clearWset w))) ∧
    (∀ val, s.blk.mayWset 0 (getFld val Fl.PMP_WSET_HAT) → s.blk.mayWset 0 (s.blk.f (Reg.PMP_WSET w) Fl.PMP_WSET_HAT) →
      s.blk.hatRemoved (getFld val Fl.PMP_WSET_HAT) = false → exec (.wsetBind 0 w val) s = .next (s.did (.all [
        setF (Reg.PMP_WSET w) Fl.PMP_WSET_VALID (getFld val Fl.PMP_WSET_VALID),
        setF (Reg.PMP_WSET w) Fl.PMP_WSET_HAT (getFld val Fl.PMP_WSET_HAT)]))) ∧
    (∀ val, getFld val Fl.PMP_REMOVE_GO = 1 → getFld val Fl.PMP_REMOVE_HAT ≠ 0 → s.blk.on Reg.PMP_REMOVE Fl.PMP_REMOVE_BUSY = false →
      exec (.pmpRemove 0 val) s = .next (s.did (pumpRemove (getFld val Fl.PMP_REMOVE_HAT)))))

/-- A frame with a bad check is counted and does nothing more but for the FEC count of its quads. Of frames that are taken in: DATA of a session takes the acknowledgement it carries, enters the window, is delivered as far as the window goes and is acknowledged; ACK takes its acknowledgement; CLOSE ends the session; HELLO at a port that is up keeps the path, ends a session of another incarnation, and asks a peer without one to OPEN; OPEN opens a session, unless it repeats the OPEN of one that nothing has come in, and is answered OPEN_ACK; OPEN_ACK opens the session asked for. (R346, R348, R349, R350, R352, R353, R364, R365, R367) -/
def Obligations.SpanFramesIn : Prop :=
  (∀ (e : Fin 8) (f : SpanFrame) (s : State), s.up → s.blk.domAsleep (netDom (e.val / 4)) = false →
    exec (.data e f false) s = .next (s.did (.all [fecSeen (e / 4) (engineQuads e), incSat Reg.SPN_DROP Fl.SPN_DROP_FCS])) ∧
    exec (.ack e f false) s = .next (s.did (.all [fecSeen (e / 4) (engineQuads e), incSat Reg.SPN_DROP Fl.SPN_DROP_FCS])) ∧
    exec (.close e f false) s = .next (s.did (.all [fecSeen (e / 4) (engineQuads e), incSat Reg.SPN_DROP Fl.SPN_DROP_FCS]))) ∧
  (∀ (e : Fin 8) (f : SpanFrame) (s : State), s.hears (e.val / 4) { f with type := 1 } → s.inSessionWith { f with type := 1 } →
    exec (.data e f true) s = .next (s.did (.all [fecSeen (e / 4) (engineQuads e), .all [
      takeAck f.srcPkg { f with type := 1 },
      .read fun b => .when
        (decide ((f.psn + 2 ^ 32 - (b.peerSt f.srcPkg).recvPsn % 2 ^ 32) % 2 ^ 32 ≤ 64) && !((b.peerSt f.srcPkg).window.any fun e =>
          decide (e.1 = (b.peerSt f.srcPkg).recvPsn + (f.psn + 2 ^ 32 - (b.peerSt f.srcPkg).recvPsn % 2 ^ 32) % 2 ^ 32)))
        (modPeer f.srcPkg fun x => { x with window :=
          (x.window ++ [((b.peerSt f.srcPkg).recvPsn + (f.psn + 2 ^ 32 - (b.peerSt f.srcPkg).recvPsn % 2 ^ 32) % 2 ^ 32, { f with type := 1 })]) }),
      .all (List.replicate 65 (deliverOne f.srcPkg)),
      modPeer f.srcPkg (fun x => { x with ackOwed := true }),
      injectAll f.srcPkg, transmit f.srcPkg]]))) ∧
  (∀ (e : Fin 8) (f : SpanFrame) (s : State), s.hears (e.val / 4) { f with type := 2 } → s.inSessionWith { f with type := 2 } →
    exec (.ack e f true) s = .next (s.did (.all [fecSeen (e / 4) (engineQuads e),
      .all [takeAck f.srcPkg { f with type := 2 }, transmit f.srcPkg]]))) ∧
  (∀ (e : Fin 8) (f : SpanFrame) (s : State), s.hears (e.val / 4) { f with type := 6 } → s.inSessionWith { f with type := 6 } →
    exec (.close e f true) s = .next (s.did (.all [fecSeen (e / 4) (engineQuads e), peerDown f.srcPkg]))) ∧
  (∀ (c : Fin 2) (port : Fin 48) (f : SpanFrame) (s : State), s.blk.spanPortUp c port →
    (s.hears c { f with type := 3 } →
      exec (.hello c port f true) s = .next (s.did (.all [fecSeen c [port / 4], .all [
        .when (s.blk.session f.srcPkg && decide (s.blk.f (Reg.SPN_PEER f.srcPkg) Fl.SPN_PEER_INCARN ≠ f.incarn)) (peerDown f.srcPkg),
        keepPath f.srcPkg ⟨c, port, f.srcPort, f.srcMac⟩,
        .read fun b => .when (!b.span.dup && decide (b.peerState f.srcPkg = PeerState.unknown ∨ b.peerState f.srcPkg = PeerState.down))
          (.all [takePath f.srcPkg ⟨c, port, f.srcPort, f.srcMac⟩, sendOpen f.srcPkg 1]),
        .read fun b => .when (!b.activeUp f.srcPkg) (
          if b.session f.srcPkg then movePath f.srcPkg
          else .when (decide (b.peerState f.srcPkg = PeerState.opening)) (takePath f.srcPkg ⟨c, port, f.srcPort, f.srcMac⟩))]]))) ∧
    (s.hears c { f with type := 4 } → s.blk.span.dup = false →
      (s.inSessionWith f → (s.blk.peerSt f.srcPkg).recvPsn = 0 → (s.blk.peerSt f.srcPkg).window = [] →
        exec (.openCmd c port f true) s = .next (s.did (.all [fecSeen c [port / 4], .all [
          keepPath f.srcPkg ⟨c, port, f.srcPort, f.srcMac⟩,
          .read fun b => frameOut c port { b.frameTo 5 f.srcPkg 0 [] with ackPsn := 0, sack := 0 }]]))) ∧
      (¬ (s.inSessionWith f ∧ (s.blk.peerSt f.srcPkg).recvPsn = 0 ∧ (s.blk.peerSt f.srcPkg).window = []) →
        exec (.openCmd c port f true) s = .next (s.did (.all [fecSeen c [port / 4], .all [
          .when (s.blk.session f.srcPkg) (peerDown f.srcPkg),
          keepPath f.srcPkg ⟨c, port, f.srcPort, f.srcMac⟩,
          .all [
            .when (decide (s.blk.peerState f.srcPkg ≠ PeerState.opening)) (takePath f.srcPkg ⟨c, port, f.srcPort, f.srcMac⟩),
            openSession f.srcPkg { f with type := 4 }],
          .read fun b => frameOut c port { b.frameTo 5 f.srcPkg 0 [] with ackPsn := 0, sack := 0 }]])))) ∧
    (s.hears c { f with type := 5 } → s.blk.span.dup = false → s.blk.peerState f.srcPkg = PeerState.opening →
      exec (.openAck c port f true) s = .next (s.did (.all [fecSeen c [port / 4], openSession f.srcPkg { f with type := 5 }]))))

/-- An owed acknowledgement is sent; an expiry without progress sends again, the second makes the peer suspect, and one that reaches the limit takes it down; HELLO goes out of a port that is up, to the group or to each listed peer; an OPEN without answer is repeated at twice the wait, at most 256 ms; silence takes a peer down; a request out of time is dropped; a trained port comes up and a lost one goes down; the handover gives the session to the new engine; a failed lane takes its port down; SPN_QUAD writes retrain the quad; clearing the cache's enable empties it; an acquire goes on to its home slice, and there raises its epoch and is answered, at once or when no line holds the value it returns to; a drain waits until it can be answered and its answer is struck off. (R344, R345, R347, R350, R353, R354, R356, R358, R359, R360, R363, R366) -/
def Obligations.SpanTimersAndPorts : Prop :=
  (∀ (n : Fin 1024) (s : State), s.up → s.blk.session n →
    ((s.blk.peerSt n).ackOwed = true → exec (.ackDelayTimer n) s = .next (s.did (.all [
      modPeer n (fun x => { x with ackOwed := false }), frameActive n (s.blk.frameTo 2 n 0 [])]))) ∧
    ((s.blk.peerSt n).unacked ≠ [] → s.blk.sideHeld n = false →
      ((s.blk.peerSt n).expiries + 1 < max 2 (s.blk.f Reg.SPN_CTL Fl.SPN_CTL_RETRY_MAX) →
        exec (.retransmitTimeout n) s = .next (s.did (.all [modPeer n (fun x => { x with expiries := x.expiries + 1 }),
          .when (decide ((s.blk.peerSt n).expiries + 1 = 2)) (.all [setPeer n PeerState.suspect, showDisc, movePath n]), retransmit n]))) ∧
      (max 2 (s.blk.f Reg.SPN_CTL Fl.SPN_CTL_RETRY_MAX) ≤ (s.blk.peerSt n).expiries + 1 →
        exec (.retransmitTimeout n) s = .next (s.did (peerDown n))))) ∧
  (∀ (n : Fin 1024) (s : State), s.up → s.blk.session n ∨ s.blk.peerState n = PeerState.opening →
    exec (.peerSilenceTimeout n) s = .next (s.did (peerDown n))) ∧
  (∀ (n : Fin 1024) (s : State), s.up → s.blk.peerState n = PeerState.opening → s.blk.span.dup = false →
    exec (.openRetryTimer n) s = .next (s.did (sendOpen n (min 256 (2 * (s.blk.peerSt n).backoff))))) ∧
  (∀ (c : Fin 2) (port : Fin 48) (s : State), s.up → s.blk.spanPortUp c port →
    (s.blk.on Reg.SPN_ID Fl.SPN_ID_VALID →
      ((identityOf s.blk.recs).2.2.1 % 2 = 0 → exec (.helloTimer c port) s = .next (s.did (
        frameOut c port { s.blk.frameTo 3 0x3FF 0 [] with ackPsn := 0, sack := 0, credit := 0, paths := 0 }))) ∧
      ((identityOf s.blk.recs).2.2.1 % 2 = 1 → exec (.helloTimer c port) s = .next (s.did (
        .each (s.blk.listedPeers.filter fun n => decide (n ≠ s.blk.ownPkg)) fun n =>
          frameOut c port { s.blk.frameTo 3 n 0 [] with ackPsn := 0, sack := 0, credit := 0 })))) ∧
    exec (.spanPortDown c port) s = .next (s.did (.all [
      andNotF (Reg.SPN_QUAD c (port.val / 4)) Fl.SPN_QUAD_UP (2 ^ (port.val % 4)),
      .each (s.blk.listedPeers.filter fun n => s.blk.session n && (match s.blk.pathOf n (s.blk.peerActive n) with
        | some p => decide (p.chiplet = c.val ∧ p.port = port.val)
        | none => false)) fun n => .all [setPeer n PeerState.suspect, movePath n, retransmit n],
      showDisc]))) ∧
  (∀ (stag : Nat) (r : SpanReq) (s : State), s.up → (s.blk.span.reqs.find? fun r => decide (r.stag = stag)) = some r → s.blk.sideHeld r.peer = false →
    (isRead r.req = true → exec (.spanReadTimeout stag) s = .next (s.did (dropReq r))) ∧
    (isRead r.req = false → exec (.spanWriteTimeout stag) s = .next (s.did (dropReq r)))) ∧
  (∀ (c : Fin 2) (port : Fin 48) (s : State), s.up → (quadPorts (s.blk.quadMode c (port.val / 4))).contains (port.val % 4) →
      s.blk.sys.offSpan.contains (portEngine c port) = false → s.blk.sys.netLost.contains c.val = false → s.blk.sys.cfgDone = true → s.blk.on Reg.HUB_BRINGUP Fl.HUB_BRINGUP_FAILED = false →
    exec (.spanPortUp c port) s = .next (s.did (.all [
      .each (s.blk.lanesOf c port) (mapSpare c),
      .read fun b => .when (!((b.lanesOf c port).any fun l => b.laneFailed c (b.physLane c l)))
        (orF (Reg.SPN_QUAD c (port.val / 4)) Fl.SPN_QUAD_UP (2 ^ (port.val % 4)))]))) ∧
  (∀ (n : Fin 1024) (p : Path) (s : State), s.up → (s.blk.peerSt n).moving = true → s.blk.pathOf n (s.blk.peerActive n) = some p →
    exec (.sessionHandoverDone n) s = .next (s.did (.all [
      modPeer n (fun x => { x with moving := false }),
      setF (Reg.SPN_PEER n) Fl.SPN_PEER_ENGINE (portEngine p.chiplet p.port),
      dropLines (fun l => decide (l.pkg = n.val ∧ l.slice = s.blk.spanEngOf n)), retransmit n, transmit n]))) ∧
  (∀ (c : Fin 2) (lane : Fin 50) (s : State), s.up → exec (.spanLaneFail c lane) s = .next (s.did (.all [
    orF (Reg.SPN_LANE c) Fl.SPN_LANE_FAILED (2 ^ lane.val),
    .for? ((List.range 48).find? fun l => decide (s.blk.physLane c l = lane.val)) fun l => .for? (s.blk.portOfLane c l) (spanPortDown c)]))) ∧
  (∀ (hat : Nat) (c : Fin 2) (q : Fin 12) (v : W64) (s : State), s.up → s.blk.portAdmits hat → s.blk.holds hat Right.span ∨ hat = 0 →
    (getFld v Fl.SPN_QUAD_MEDIA ≠ 3 →
      exec (.spnQuadWrite hat c q v) s = .next (s.did (.all [
        endMission 4 c 4, .each (List.range 4) (fun i => spanPortDown c (4 * q.val + i)),
        setF (Reg.SPN_QUAD c q) Fl.SPN_QUAD_MODE
          (if s.blk.on Reg.TST_CTL Fl.TST_CTL_TEST_MODE then 3 else getFld v Fl.SPN_QUAD_MODE),
        setF (Reg.SPN_QUAD c q) Fl.SPN_QUAD_MEDIA (getFld v Fl.SPN_QUAD_MEDIA)]))) ∧
    exec (.rlcDisable hat) s = .next (s.did (.all [setF Reg.SPN_CTL Fl.SPN_CTL_RLC_ENABLE 0, dropLines fun _ => true]))) ∧
  (∀ (e : Nat) (p : Pkt) (s : State), s.arrives p 0xA0 → p.dst = .spanEng e →
    (p.addr.testBit 0 = false → s.blk.spanEngOf (p.addr / 2 ^ 47 % 1024) ≠ e →
      exec (.spnAcq p) s = .next (s.did (.all [takePkt p, sendPkt { p with dst := .spanEng (s.blk.spanEngOf (p.addr / 2 ^ 47 % 1024)) }]))) ∧
    (p.addr.testBit 0 = true ∨ s.blk.spanEngOf (p.addr / 2 ^ 47 % 1024) = e →
      ((s.blk.span.rlc.any (s.blk.epochHeld e p) || s.blk.span.fills.any fun x => s.blk.epochHeld e p x.line) = true →
        exec (.spnAcq p) s = .next (s.did (.all [takePkt p, modSpan fun x => { x with acqWrap := x.acqWrap ++ [(e, p)] }]))) ∧
      ((s.blk.span.rlc.any (s.blk.epochHeld e p) || s.blk.span.fills.any fun x => s.blk.epochHeld e p x.line) = false →
        exec (.spnAcq p) s = .next (s.did (.all [takePkt p, acquire e p]))))) ∧
  (∀ (e : Fin 8) (a : Nat × Pkt) (s : State), s.up → (s.blk.span.acqWrap.find? fun a => decide (a.1 = e.val)) = some a →
    exec (.acquireInvalidateDone e) s = .next (s.did (.all [
      dropLines (s.blk.epochHeld e a.2), modSpan (fun x => { x with acqWrap := x.acqWrap.erase a }), acquire e a.2]))) ∧
  (∀ (p : Pkt) (s : State), s.arrives p 0xA1 → s.blk.downUnit p.dst = none →
    (∀ e, p.dst = .engine e → exec (.spnAcqDone p) s = .next (s.did (.all [takePkt p, engineAcqDone e p]))) ∧
    (∀ g k, p.dst = .glove g k → exec (.spnAcqDone p) s = .next (s.did (gloveRsp g k p)))) ∧
  (∀ (e : Fin 8) (h : Nat) (s : State), s.up →
    (s.blk.noc.net.contains (Pkt.bare 0xA2 0 0 h .commitLogic (.spanEng e)) → exec (.spnDrain e h) s = .next (s.did (.all [
      takePkt (Pkt.bare 0xA2 0 0 h .commitLogic (.spanEng e)),
      modSpan (fun x => { x with waitDrain := x.waitDrain ++ [(e.val, h)] }), answerDrains]))) ∧
    (s.blk.noc.net.contains (Pkt.bare 0xA3 0 0 h (.spanEng e) .commitLogic) → exec (.spnDrainDone e h) s = .next (s.did (.all [
      takePkt (Pkt.bare 0xA3 0 0 h (.spanEng e) .commitLogic),
      modSpan (fun x => { x with drains := x.drains.erase (e.val, h) }),
      modPmp (fun x => { x with revs := x.revs.map fun r => { r with await := r.await.erase (e.val, h) } }),
      progressRevokes]))))

/-- Of an administering hat, ARM of an idle trough and REARM of one whose round is over begin a new round, ABANDON ends an armed one, DISARM zeroises one whose round is over, and VALID 0 of a member ejects it while the trough is armed; FINISH by a member's hat completes that member; after zeroisation the trough is armed or idle; a free buffer goes to the oldest waiting open; an idle open is dropped; a closed contribution is added; the deadline decides; a release of noise ends with RELEASED; the entropy source's health shows; an accepted export takes its fields, goes out in pieces under the rights it was given with, and ends. What works on the accumulator does so while its well is ready. (R233, R234, R235, R237, R238, R239, R242, R243, R244, R246, R249) -/
def Obligations.TroughCommands : Prop :=
  (∀ (hat : Nat) (t : Fin 64) (s : State), s.up → s.blk.portAdmits hat → s.blk.mayTrough hat t →
    (s.blk.trgState t = TrgState.idle → exec (.arm hat t) s = .next (s.did (armTrg t))) ∧
    (s.blk.trgState t = TrgState.armed → exec (.abandon hat t) s = .next (s.did (.all [trgCode t 0, abandonTrg t]))) ∧
    (s.blk.on (Reg.TRG_EXPORT t) Fl.TRG_EXPORT_BUSY = false → s.blk.trgState t = TrgState.released ∨ s.blk.trgState t = TrgState.abandoned →
      exec (.rearm hat t) s = .next (s.did (armTrg t)) ∧
      exec (.disarm hat t) s = .next (s.did (.all [
        trgCode t 0, modTrg t (fun x => { x with toArmed := false }), setTrg t TrgState.zeroising]))) ∧
    (∀ k : Fin 64, s.blk.trgState t = TrgState.armed →
      exec (.memberEject hat t k) s = .next (s.did (.all [ejectMember t k, setF (Reg.TRG_MEMBER t k) Fl.TRG_MEMBER_VALID 0]))) ∧
    (∀ k : Fin 64, s.blk.trgState t = TrgState.idle →
      exec (.memberEject hat t k) s = .next (s.did (setF (Reg.TRG_MEMBER t k) Fl.TRG_MEMBER_VALID 0)))) ∧
  (∀ (hat : Nat) (t : Fin 64) (k : Nat) (s : State), s.up → s.blk.portAdmits hat → s.blk.memberOf t s.blk.ownPkg hat = some k →
      s.blk.trgState t = TrgState.armed → s.blk.memDone t k = false → s.blk.memOut t k = false →
    exec (.finish hat t) s = .next (s.did (.all [trgCode t 0, completeMember t k]))) ∧
  (∀ (t : Fin 64) (s : State), s.up → s.blk.trgState t = TrgState.zeroising → s.blk.accReady t →
    ((s.blk.trgSt t).toArmed = true → exec (.zeroisationDone t) s = .next (s.did (.all [
      modTrg t (fun x => { x with acc := [], adding := [] }), setTrg t TrgState.armed, decideTrg t false]))) ∧
    ((s.blk.trgSt t).toArmed = false → exec (.zeroisationDone t) s = .next (s.did (.all [
      modTrg t (fun x => { x with acc := [], adding := [] }), setTrg t TrgState.idle])))) ∧
  (∀ (u : Fin 8) (c : Contrib) (rest : List Contrib) (s : State), s.up → (s.blk.trgUnit u).waiting = c :: rest → s.blk.buffers u < 16 →
    exec (.trgOpenGrant u) s = .next (s.did (.all [modTrgU u (fun x => { x with waiting := rest }), grantOpen u c (c.openPkt u)]))) ∧
  (∀ (u : Fin 8) (i : Nat) (s : State), s.up →
    exec (.trgIdleAbort u i) s = .next (s.did (modTrgU u fun x => { x with opens := x.opens.eraseIdx i }))) ∧
  (∀ (t : Fin 64) (c : Contrib) (rest : List Contrib) (s : State), s.up → (s.blk.trgSt t).adding = c :: rest →
    (s.blk.accReady t = false → exec (.trgAccumulateDone t) s = .next (s.did (packetWake (s.blk.trgWell t)))) ∧
    (s.blk.accReady t → exec (.trgAccumulateDone t) s = .next (s.did (.all [activity c.hat Act.trough c.count, modTrg t fun x => { x with
      adding := rest
      acc := c.staged.foldl (fun a e =>
        Tbl.set (dflt 0) (c.base + e.1) (BitVec.ofNat 32 (fp32Sum (Tbl.get (dflt 0) (c.base + e.1) a).toNat e.2.toNat)) a) x.acc }])))) ∧
  (∀ (t : Fin 64) (s : State), s.up → 0 < s.blk.f (Reg.TRG_DEADLINE t) Fl.TRG_DEADLINE_TIME →
      s.blk.f (Reg.TRG_DEADLINE t) Fl.TRG_DEADLINE_TIME ≤ s.blk.now →
    exec (.trgDeadlineExpiry t) s = .next (s.did (decideTrg t true))) ∧
  (∀ (t : Fin 64) (s : State), s.up → s.blk.trgState t = TrgState.closing → (s.blk.trgSt t).adding = [] → s.blk.trough.healthy = true →
      s.blk.accReady t →
    (s.blk.f (Reg.TRG_PARAM t) Fl.TRG_PARAM_SIGMA % 2 ^ 31 = 0 → exec (.trgReleaseDone t) s = .next (s.did (.all [
      setF (Reg.TRG_CTL t) Fl.TRG_CTL_RNG_WAIT 0, addSat Reg.TRG_RNG Fl.TRG_RNG_RESEEDS 1, setTrg t TrgState.released]))) ∧
    (s.blk.f (Reg.TRG_PARAM t) Fl.TRG_PARAM_SIGMA % 2 ^ 31 ≠ 0 → exec (.trgReleaseDone t) s = .next (s.did (.all [
      setF (Reg.TRG_CTL t) Fl.TRG_CTL_RNG_WAIT 0,
      modTrg t (fun x => { x with acc := noisedAcc s.blk.free (s.blk.trgElems t) (s.blk.trgQexp t) x.acc }),
      withFree (fun n => addSat Reg.TRG_RNG Fl.TRG_RNG_RESEEDS n),
      addSat Reg.TRG_RNG Fl.TRG_RNG_RESEEDS 1, setTrg t TrgState.released])))) ∧
  (∀ (healthy : Bool) (s : State), s.up → exec (.entropyHealthChange healthy) s = .next (s.did (entropyChange healthy))) ∧
  (∀ (hat : Nat) (t : Fin 64) (v val : W64) (s : State), s.up → s.blk.portAdmits hat → v = putFld val Fl.TRG_EXPORT_GO 1 →
      s.blk.on (Reg.TRG_EXPORT t) Fl.TRG_EXPORT_BUSY = false →
      s.blk.exportCode hat t (getFld v Fl.TRG_EXPORT_FIRST) (getFld v Fl.TRG_EXPORT_COUNT) = 0 →
    exec (.trgExport hat t val) s = .next (s.did (.all [
      .all [
        setF (Reg.TRG_EXPORT t) Fl.TRG_EXPORT_FIRST (getFld v Fl.TRG_EXPORT_FIRST),
        setF (Reg.TRG_EXPORT t) Fl.TRG_EXPORT_COUNT (getFld v Fl.TRG_EXPORT_COUNT)],
      .all [
        setF (Reg.TRG_EXPORT t) Fl.TRG_EXPORT_BUSY 1,
        modTrg t (fun x => { x with exporting := some ⟨hat, s.blk.rightsOf hat,
          s.blk.f (Reg.TRG_EXPORT_DST t) Fl.TRG_EXPORT_DST_ADDR * 8, getFld v Fl.TRG_EXPORT_FIRST, getFld v Fl.TRG_EXPORT_COUNT⟩ }),
        exportRun t]]))) ∧
  (∀ (t : Fin 64) (s : State), s.up → s.blk.on (Reg.TRG_EXPORT t) Fl.TRG_EXPORT_BUSY → (s.blk.trgSt t).exportOut = 0 →
    ((s.blk.trgSt t).exporting = none → exec (.trgExportDone t) s = .next (s.did (exportEnd t (s.blk.trgSt t).exportSt))) ∧
    (∀ x, (s.blk.trgSt t).exporting = some x → s.blk.accReady t → exec (.trgExportDone t) s = .next (s.did (.all [
      modTrg t (fun y => { y with exporting := none }),
      .each (unitPieces (x.count + 1) x.dst 0 (4 * x.count)).zipIdx fun pc =>
        exportPiece x.rights x.hat t pc.2 (x.dst + pc.1.1)
          (slice (((List.range (pc.1.2 / 4 + 2)).flatMap fun i =>
            toBytesLE 4 (Tbl.get (dflt 0) (x.first + pc.1.1 / 4 + i) (s.blk.trgSt t).acc).toNat)) (pc.1.1 % 4) pc.1.2)]))))

/-- At a site with a working Prour tile: a write into a free slot of an enabled context keeps the bytes, and with VALID and the expected SEQ it submits the task; GO checks and begins a program's copy; a copy that was read is measured and runs; STOP ends the program; a disabled context is enabled, an enabled one disabled; the throttle level is taken up; a sensor sample shows the hottest of the eight sensors, the power within the limit of the level in force and the clock within its caps, pauses at 115 °C until it is below 110 °C, and lowers the clock above 105 °C, which it logs where it starts. (R152, R153, R155, R156, R157, R166, R167, R168) -/
def Obligations.ProurContexts : Prop :=
  (∀ (g c : Fin 16) (hat : Nat) (s : State), s.up → s.blk.portAdmits hat → s.blk.prtRuns g c → s.blk.prtReach hat g → s.blk.prtTakes hat g c →
    (∀ (slot : Fin 128) (off : Nat) (bytes new : List Byte), s.blk.prtState g c ≠ PrtState.off →
        (s.blk.prtCtx g c).stopping = false → (s.blk.prtCtx g c).busy slot = false →
        new = slice ((slice (Tbl.get (dflt []) slot.val (s.blk.prtCtx g c).slots) 0 128).take off ++ bytes ++
          (slice (Tbl.get (dflt []) slot.val (s.blk.prtCtx g c).slots) 0 128).drop (off + bytes.length)) 0 128 →
      (off + bytes.length ≤ 0x7F → exec (.prtTaskSubmit g c hat slot off bytes) s =
        .next (s.did (modPctx g c fun x => { x with slots := Tbl.set (dflt []) slot new x.slots }))) ∧
      (0x7F < off + bytes.length → (numAt new 0x7F 1).testBit 7 = true →
          s.blk.prtState g c = PrtState.idle ∨ s.blk.prtState g c = PrtState.running →
          numAt new 0x78 2 = s.blk.prtF g c Fl.PRT_CTX_STATUS_NEXT_SEQ → slot.val = s.blk.prtF g c Fl.PRT_CTX_STATUS_NEXT_SEQ % 128 →
        exec (.prtTaskSubmit g c hat slot off bytes) s = .next (s.did (.all [
          modPctx g c (fun x => { x with slots := Tbl.set (dflt []) slot new x.slots }),
          setF (Reg.PRT_CTX_STATUS g c) Fl.PRT_CTX_STATUS_NEXT_SEQ (s.blk.prtF g c Fl.PRT_CTX_STATUS_NEXT_SEQ + 1),
          modPctx g c (fun x => { x with tasks := x.tasks ++ [{ seq := numAt new 0x78 2, bytes := new, prog := false }] }),
          showCtx g c])))) ∧
    (∀ (val : W64) (p : Nat), s.blk.prtState g c = PrtState.idle ∨ s.blk.prtState g c = PrtState.running → s.blk.hatPos g (s.blk.prtHat g c) = some p →
        s.blk.segAllows (s.blk.segAt (Reg.XLT_GSEG_CTL g p (s.blk.f (Reg.PRT_CTX_PROG_ADDR g c) Fl.PRT_CTX_PROG_ADDR_SEG)) false) 1
          (s.blk.f (Reg.PRT_CTX_PROG_ADDR g c) Fl.PRT_CTX_PROG_ADDR_OFFSET) (128 * getFld val Fl.PRT_CTX_PROG_COUNT) →
        s.blk.f (Reg.PRT_CTX_PROG_ADDR g c) Fl.PRT_CTX_PROG_ADDR_OFFSET % 128 = 0 → getFld val Fl.PRT_CTX_PROG_COUNT ≠ 0 →
        getFld val Fl.PRT_CTX_PROG_COUNT ≤ (if s.blk.prtA2 g then 1024 else 4096) →
      exec (.prtProgGo g c hat val) s = .next (s.did (.all [
        .all [
          setF (Reg.PRT_CTX_PROG g c) Fl.PRT_CTX_PROG_COUNT (getFld val Fl.PRT_CTX_PROG_COUNT),
          setF (Reg.PRT_CTX_PROG g c) Fl.PRT_CTX_PROG_REPEAT (getFld val Fl.PRT_CTX_PROG_REPEAT)],
        .all [
          modPctx g c (fun x => { x with count := getFld val Fl.PRT_CTX_PROG_COUNT, again := getFld val Fl.PRT_CTX_PROG_REPEAT }),
          setR (Reg.PRT_CTX_PROG_RUN g c) 0, prtStat g c PrtState.loading, measured]]))) ∧
    exec (.prtProgStop g c hat) s = .next (s.did (progEnd g c)) ∧
    (∀ val : W64, exec (.prtCtxEnable g c hat val) s = .next (s.did (.all [
      setF (Reg.PRT_CTX_CTL g c) Fl.PRT_CTX_CTL_HAT (getFld val Fl.PRT_CTX_CTL_HAT),
      setF (Reg.PRT_CTX_CTL g c) Fl.PRT_CTX_CTL_IRQ_VEC (getFld val Fl.PRT_CTX_CTL_IRQ_VEC),
      prtEnable g c]))) ∧
    exec (.prtCtxDisable g c hat) s = .next (s.did (prtDisable g c))) ∧
  (∀ (g c : Fin 16) (told read : ReadIn) (n : Nat) (s : State), s.up → s.blk.prtRuns g c → s.blk.prtState g c = PrtState.loading →
      n = (s.blk.prtCtx g c).count →
      read = s.blk.prtSource g (s.blk.prtHat g c) (s.blk.f (Reg.PRT_CTX_PROG_ADDR g c) Fl.PRT_CTX_PROG_ADDR_SEG)
        (s.blk.f (Reg.PRT_CTX_PROG_ADDR g c) Fl.PRT_CTX_PROG_ADDR_OFFSET) (128 * n) told →
      completed read.status → read.pois = [] →
    exec (.prtProgLoaded g c told) s = .next (s.did (.all [
      modPctx g c (fun x => { x with prog := (List.range n).map fun i => slice (slice read.data 0 (128 * n)) (128 * i) 128 }),
      .each (List.range 6) (fun k => setR (Reg.PRT_CTX_PROG_DIGEST g c k) (BitVec.ofNat 64 (bits
        (Config.sha384 (slice read.data 0 (128 * n))) (64 * k) 64))),
      measured, prtStat g c PrtState.program, progFeed g c, showCtx g c]))) ∧
  (∀ (g : Fin 16) (level : Fin 8) (s : State), s.up → s.blk.prtRuns g 0 →
    exec (.throttle g level) s = .next (s.did (.all [
      modPrt g (fun s => { s with level := level }), setF (Reg.PRT_POWER g) Fl.PRT_POWER_LEVEL level,
      .when (decide (level ≠ 0)) (markThrottled g)]))) ∧
  (∀ (g : Fin 16) (temps : List Int) (power clock : Nat) (hot : Int) (slow : Bool) (cap lower : Nat) (s : State), s.up → s.blk.prtHas g 0 →
      hot = (temps.take 8).foldl max (-32768) → slow = (decide (840 < hot) || ((s.blk.prtSt g).slow && decide (840 ≤ hot))) →
      cap = min (if (s.blk.prtSt g).ctx.any (fun e => e.2.tasks.any fun t => t.begun && !t.ran && decide (t.kind = 1)) then 1907 else 2100)
        (max 800 (min 2100 (s.blk.f (Reg.PRT_CLK g) Fl.PRT_CLK_CAP_MHZ))) →
      lower = (if slow ∧ s.blk.f (Reg.PRT_CLK g) Fl.PRT_CLK_NOW_MHZ ≠ 0 then min cap (s.blk.f (Reg.PRT_CLK g) Fl.PRT_CLK_NOW_MHZ - 1) else cap) →
    exec (.prtSensorSample g temps power clock) s = .next (s.did (.all [
      setF (Reg.PRT_POWER g) Fl.PRT_POWER_HOTTEST (wrapInt 16 hot),
      setF (Reg.PRT_POWER g) Fl.PRT_POWER_POWER (min power (prtLimit (s.blk.prtSt g).level)),
      setF (Reg.PRT_CLK g) Fl.PRT_CLK_NOW_MHZ (max 800 (min clock lower)),
      .when (decide (920 ≤ hot)) (setF (Reg.PRT_POWER g) Fl.PRT_POWER_HOT 1),
      modPrt g (fun s => { s with
        hotNow := decide (920 ≤ hot) || (s.hotNow && decide (880 ≤ hot)), slow := slow, temps := (temps.take 8).map (wrapInt 16) }),
      .when slow (markThrottled g),
      .when (slow && decide (signed 16 (s.blk.f (Reg.PRT_POWER g) Fl.PRT_POWER_HOTTEST) ≤ 840)) (logEv St.thermalThrottle g)])))

/-- A task that is next and is not refused begins; a begun MATMUL shows what its reads of memory brought, finishes tiles and sends as many as there is credit for; a begun LOAD fills its buffer; EVICT frees one; a BARRIER ends once it is the oldest; a refused task ends with the status and without effect; a task done leaves the list with its record, or DENIED where that may not be written, and the interrupt it asks for. (R158, R159, R160, R161, R162, R163, R164, R165) -/
def Obligations.ProurTasks : Prop :=
  (∀ (g c : Fin 16) (i : Nat) (t : Task) (s : State), s.up → s.blk.prtRuns g c → (s.blk.prtCtx g c).next = some (i, t) → t.begun = true →
    (∀ (a b sa sb a' b' sa' sb' : ReadIn) (used : List ReadIn), t.kind = 1 →
        a' = s.blk.elemSource g (s.blk.taskHat g c t) t.m t.k t.fmtA (!t.aTrans) t.refA a →
        b' = s.blk.elemSource g (s.blk.taskHat g c t) t.nn t.k t.fmtB t.bTrans t.refB b →
        sa' = s.blk.scaleSource g (s.blk.taskHat g c t) t.m t.k t.scaleA sa → sb' = s.blk.scaleSource g (s.blk.taskHat g c t) t.nn t.k t.scaleB sb →
        used = (if t.refA.res then [] else a' :: if prtMx t.fmtA then [sa'] else []) ++
          (if t.refB.res then [] else b' :: if prtMx t.fmtB then [sb'] else []) →
        (s.blk.prtSt g).hotNow = false → (used.isEmpty || t.halt || !(s.blk.prtSt g).noRead) →
      exec (.matmul g c a b sa sb) s = .next (s.did (.all [
        .when (!t.halt && decide (t.made < t.gridTiles)) (readsSeen g c i used),
        .each (List.range 24) fun _ => .all [
          makeTile g c i
            (fun k t => match t.refA.res, t.bufA <|> k.prtBuf g t.refA.buf with
              | true, some u => u.opnd t.k
              | _, _ => memOpnd t.m t.k t.fmtA (!t.aTrans) t.refA.stride t.scaleA.stride a' sa')
            (fun k t => match t.refB.res, t.bufB <|> k.prtBuf g t.refB.buf with
              | true, some u => u.opnd t.k
              | _, _ => memOpnd t.nn t.k t.fmtB t.bTrans t.refB.stride t.scaleB.stride b' sb'),
          sendTile g c i]]))) ∧
    (∀ (src scale src' scale' : ReadIn) (used : List ReadIn) (o : Opnd), t.kind = 2 → (s.blk.prtSt g).noRead = false →
        src' = s.blk.elemSource g (s.blk.taskHat g c t) t.loadLanes t.k t.loadFmt t.loadByLane t.refA src →
        scale' = s.blk.scaleSource g (s.blk.taskHat g c t) t.loadLanes t.k t.loadScale scale →
        used = src' :: (if prtMx t.loadFmt then [scale'] else []) →
        o = memOpnd t.loadLanes t.k t.loadFmt t.loadByLane t.refA.stride t.loadScale.stride src' scale' →
      exec (.loadCmd g c src scale) s = .next (s.did (.all [
        readsSeen g c i used,
        setBuf g t.refB.buf (some {
          ctx := c, roleB := t.roleB, rows := if t.roleB then t.k else t.m, cols := if t.roleB then t.nn else t.k,
          fmt := t.loadFmt, kib := t.loadKib,
          codes := (List.range t.loadLanes).flatMap fun l => (List.range t.k).map (o.code l),
          scales := if prtMx t.loadFmt then
            (List.range t.loadLanes).flatMap fun l => (List.range (t.k / 32)).map fun j => o.scale l (32 * j) else [],
          pois := (List.range t.loadLanes).filter fun l => (used.any fun r => rejected r.status) || o.pois l }),
        modTask g c i (fun t => { t with ran := true })])))) ∧
  (∀ (g c : Fin 16) (i : Nat) (t : Task) (s : State), s.up → s.blk.prtRuns g c → (s.blk.prtCtx g c).next = some (i, t) → t.begun = false →
    (∀ st a b sa sb, st ≠ 0 →
      (t.kind = 1 → st = worst [s.blk.recordFault g c t, s.blk.matmulFault g c t] → exec (.matmul g c a b sa sb) s = .next (s.did (
        modTask g c i fun t => { t with
          begun := true, start := s.blk.now, status := st, ran := true,
          flags := if (s.blk.prtSt g).level ≠ 0 ∨ (s.blk.prtSt g).slow then 16 else 0 }))) ∧
      (t.kind = 2 → st = worst [s.blk.recordFault g c t, s.blk.loadFault g c t] → exec (.loadCmd g c a b) s = .next (s.did (
        modTask g c i fun t => { t with
          begun := true, start := s.blk.now, status := st, ran := true,
          flags := if (s.blk.prtSt g).level ≠ 0 ∨ (s.blk.prtSt g).slow then 16 else 0 })))) ∧
    (∀ st, t.kind = 3 → st = worst [s.blk.recordFault g c t, s.blk.evictFault g c t] →
      (st = 0 → exec (.evict g c) s = .next (s.did (.all [
        modTask g c i (fun t => { t with
          begun := true, start := s.blk.now, status := 0, ran := false,
          flags := if (s.blk.prtSt g).level ≠ 0 ∨ (s.blk.prtSt g).slow then 16 else 0 }),
        setBuf g t.refB.buf none, modTask g c i (fun t => { t with ran := true })]))) ∧
      (st ≠ 0 → exec (.evict g c) s = .next (s.did (
        modTask g c i fun t => { t with
          begun := true, start := s.blk.now, status := st, ran := true,
          flags := if (s.blk.prtSt g).level ≠ 0 ∨ (s.blk.prtSt g).slow then 16 else 0 })))) ∧
    (t.kind = 4 → worst [s.blk.recordFault g c t, 0] = 0 → exec (.taskBarrier g c) s = .next (s.did (.all [
        modTask g c i (fun t => { t with
          begun := true, start := s.blk.now, status := 0, ran := false,
          flags := if (s.blk.prtSt g).level ≠ 0 ∨ (s.blk.prtSt g).slow then 16 else 0 }),
        modTask g c i (fun t => { t with ran := true })])))) ∧
  (∀ (g c : Fin 16) (t : Task) (rest : List Task) (irq : Msp) (s : State), s.up → s.blk.prtRuns g c → (s.blk.prtCtx g c).tasks = t :: rest →
      t.ran = true → s.blk.siteSends g (s.blk.doneMsg g c t) →
      irq = { Msp.ctl 0x84 0 with
        hat := s.blk.taskHat g c t, label := s.blk.hatLabel (s.blk.taskHat g c t), addr := s.blk.taskVec g c t } →
      (t.irq → s.blk.siteSends g irq) →
    exec (.prtTaskComplete g c) s = .next (s.did (.all [
      modPctx g c (fun x => { x with tasks := rest }),
      if s.blk.doneRefused g c t (s.blk.doneMsg g c t) then prtDenied g c else siteMeshMessage g (s.blk.doneMsg g c t),
      .when t.irq (siteMeshMessage g irq), progFeed g c, showCtx g c])))

/-- Each control instruction that issues has the effect the spec gives it: SETVL sets VL, the width and the tail policy; BR goes where IMM32 says when COND holds; JAL and JR link and jump; DBNZ and VLOOP count and branch while the count is not 0; LI and LIH load immediates; FLAGS reads and clears sticky flags; RDTS reads the timestamp; HALT ends the kernel with s1 as its exit code and an interrupt. (R172, R180, R182, R203, R210, R211, R212, R228) -/
def Obligations.ControlInstructions : Prop :=
  ∀ (e : Fin 24) (c : Fin 4) (s : State) (x : VecCtx) (w : Nat), x = s.blk.vctx (ctxKey e c) → w = s.blk.ctxWord e c →
    (s.issues e c 0x01 [] [] false → jOk w false false false false → exec (.nop e c) s = .next (s.retires e c false .skip)) ∧
    (s.issues e c 0x02 [.s 1] [] (x.isPois (.s 1)) → jOk w false false false false → (x.pend.any fun p => p.write) = false →
        x.badSt = false →
      exec (.halt e c) s = .next (s.retires e c (x.isPois (.s 1)) (.all [
        abortHandles e c, modCtx (ctxKey e c) (fun x => { x with pend := [] }),
        setF (Reg.VEC_CTX_STATUS e c) Fl.VEC_CTX_STATUS_EXIT (x.sc 1).toNat,
        setF (Reg.VEC_CTX_STATUS e c) Fl.VEC_CTX_STATUS_STATE 1, setF (Reg.VEC_CTX_STATUS e c) Fl.VEC_CTX_STATUS_DONE 1,
        raiseIrq (.engine e) (s.blk.ctxHat e c) (s.blk.f (Reg.VEC_CTX_CTL e c) Fl.VEC_CTX_CTL_IRQ_VEC)]))) ∧
    (∀ ew vl, s.issues e c 0x03 [.s (Ins.jb w)] [.s (Ins.ja w)] (x.isPois (.s (Ins.jb w))) → jOk w false true true true → Ins.imm32 w < 8 →
        (Ins.imm32 w % 4 = 0 ∧ ew = 32) ∨ (Ins.imm32 w % 4 = 1 ∧ ew = 16) ∨ (Ins.imm32 w % 4 = 2 ∧ ew = 8) →
        vl = min (x.sc (Ins.jb w)).toNat (8192 / ew) →
      exec (.setvl e c) s = .next (s.retires e c (x.isPois (.s (Ins.jb w))) (.all [
        modCtx (ctxKey e c) (fun x => { x with vl := vl, ew := ew, tailZ := (Ins.imm32 w).testBit 2 }),
        putA e c w (BitVec.ofNat 64 vl) (x.isPois (.s (Ins.jb w)))]))) ∧
    (∀ p, p = (x.isPois (.s (Ins.ja w)) || x.isPois (.s (Ins.jb w))) → s.issues e c 0x04 [.s (Ins.ja w), .s (Ins.jb w)] [] p →
        jOk w true true true true → Ins.cond w ≤ 6 →
      (condHolds (Ins.cond w) (x.sc (Ins.ja w)) (x.sc (Ins.jb w)) = true →
        exec (.br e c) s = .next (s.retires e c p (setPc e c (s.blk.ctxPc e c + Ins.jump w)))) ∧
      (condHolds (Ins.cond w) (x.sc (Ins.ja w)) (x.sc (Ins.jb w)) = false → exec (.br e c) s = .next (s.retires e c p .skip))) ∧
    (s.issues e c 0x05 [] [.s (Ins.ja w)] false → jOk w false true false true →
      exec (.jal e c) s = .next (s.retires e c false (.all [
        putA e c w (BitVec.ofNat 64 (s.blk.ctxPc e c + 1)) false, setPc e c (s.blk.ctxPc e c + Ins.jump w)]))) ∧
    (s.issues e c 0x06 [.s (Ins.ja w)] [] (x.isPois (.s (Ins.ja w))) → jOk w false true false false →
      exec (.jr e c) s = .next (s.retires e c (x.isPois (.s (Ins.ja w))) (setPc e c (bits (x.sc (Ins.ja w)).toNat 0 15)))) ∧
    (∀ v : W64, jOk w false true false true →
      (s.issues e c 0x07 [.s (Ins.ja w)] [.s (Ins.ja w)] (x.isPois (.s (Ins.ja w))) → v = x.sc (Ins.ja w) - 1 →
        exec (.dbnz e c) s = .next (s.retires e c (x.isPois (.s (Ins.ja w))) (.all [
          putA e c w v (x.isPois (.s (Ins.ja w))),
          .when (decide (Ins.ja w ≠ 0 ∧ v ≠ 0)) (setPc e c (s.blk.ctxPc e c + Ins.jump w))]))) ∧
      (s.issues e c 0x08 [.s (Ins.ja w)] [.s (Ins.ja w)] (x.isPois (.s (Ins.ja w))) →
          v = (if (x.sc (Ins.ja w)).toNat < x.vl then 0 else x.sc (Ins.ja w) - BitVec.ofNat 64 x.vl) →
        exec (.vloop e c) s = .next (s.retires e c (x.isPois (.s (Ins.ja w))) (.all [
          putA e c w v (x.isPois (.s (Ins.ja w))),
          .when (decide (Ins.ja w ≠ 0 ∧ v ≠ 0)) (setPc e c (s.blk.ctxPc e c + Ins.jump w))])))) ∧
    (s.issues e c 0x09 [] [.s (Ins.ja w)] false → jOk w false true false true →
      exec (.li e c) s = .next (s.retires e c false (putA e c w (BitVec.ofInt 64 (Ins.jump w)) false))) ∧
    (s.issues e c 0x0A [.s (Ins.ja w)] [.s (Ins.ja w)] (x.isPois (.s (Ins.ja w))) → jOk w false true false true →
      exec (.lih e c) s = .next (s.retires e c (x.isPois (.s (Ins.ja w))) (putA e c w
        (BitVec.ofNat 64 ((x.sc (Ins.ja w)).toNat % 2 ^ 32 + Ins.imm32 w * 2 ^ 32)) (x.isPois (.s (Ins.ja w)))))) ∧
    (s.issues e c 0x0B [] [.s (Ins.ja w)] false → jOk w false true false true → Ins.imm32 w < 256 →
        ((Tbl.get (dflt []) e.val s.blk.vec.red).any fun j => decide (j.ctx = c.val)) = false →
      exec (.flags e c) s = .next (s.retires e c false (.all [
        putA e c w (BitVec.ofNat 64 (s.blk.f (Reg.VEC_CTX_FLAGS e c) flagBits)) false,
        andNotF (Reg.VEC_CTX_FLAGS e c) flagBits (Ins.imm32 w)]))) ∧
    (s.issues e c 0x0C [] [.s (Ins.ja w)] false → jOk w false true false false →
      exec (.rdts e c) s = .next (s.retires e c false (putA e c w (BitVec.ofNat 64 s.blk.now) false)))

/-- Each scalar instruction that issues writes sD with its operation on sA and B (a scalar or the immediate), 64 bits with wrap-around for integers, the low 32 bits as FP32 with the rounding in force for floats, whose flags are set. (R203, R204, R208, R209, R213) -/
def Obligations.ScalarInstructions : Prop :=
  (∀ r ∈ ([(.add, 0x10, fun a b => a + b), (.sub, 0x11, fun a b => a - b), (.mul, 0x12, fun a b => a * b),
      (.mulhu, 0x13, fun a b => BitVec.ofNat 64 (a.toNat * b.toNat / 2 ^ 64)), (.andCmd, 0x14, fun a b => a &&& b),
      (.orCmd, 0x15, fun a b => a ||| b), (.xor, 0x16, fun a b => a ^^^ b), (.sll, 0x17, fun a b => a <<< (b.toNat % 64)),
      (.srl, 0x18, fun a b => a >>> (b.toNat % 64)), (.sra, 0x19, fun a b => a.sshiftRight (b.toNat % 64)),
      (.min, 0x1A, fun a b => if b.toInt < a.toInt then b else a), (.max, 0x1B, fun a b => if a.toInt < b.toInt then b else a),
      (.slt, 0x1C, fun a b => if a.toInt < b.toInt then 1 else 0), (.sltu, 0x1D, fun a b => if a.toNat < b.toNat then 1 else 0)] :
      List ((Fin 24 → Fin 4 → Instr) × Nat × (W64 → W64 → W64))),
    ∀ (e : Fin 24) (c : Fin 4) (s : State) (x : VecCtx) (w : Nat) (p : Bool), x = s.blk.vctx (ctxKey e c) → w = s.blk.ctxWord e c →
      p = (scalarReads true false w).any x.isPois → s.issues e c r.2.1 (scalarReads true false w) [.s (Ins.d w)] p → scalarOk true false w →
    exec (r.1 e c) s = .next (s.retires e c p (modCtx (ctxKey e c) fun y =>
      y.putS (Ins.d w) (r.2.2 (x.sc (Ins.a w)) (scalarB x false w)) p))) ∧
  (∀ r ∈ ([(.fadd, 0x20, true, false, fun md u a b _ => FFmt.fp32.add md u (FFmt.fp32.decode a) (FFmt.fp32.decode b)),
      (.fsub, 0x21, true, false, fun md u a b _ => FFmt.fp32.add md u (FFmt.fp32.decode a) (FFmt.fp32.decode b).flip),
      (.fmul, 0x22, true, false, fun md u a b _ => FFmt.fp32.mul md u (FFmt.fp32.decode a) (FFmt.fp32.decode b)),
      (.fdiv, 0x23, true, false, fun md u a b _ => FFmt.fp32.div md u (FFmt.fp32.decode a) (FFmt.fp32.decode b)),
      (.fsqrt, 0x24, false, false, fun md u a _ _ => FFmt.fp32.sqrt md u (FFmt.fp32.decode a)),
      (.fma, 0x25, true, true, fun md u a b k => FFmt.fp32.fma md u (FFmt.fp32.decode a) (FFmt.fp32.decode b) (FFmt.fp32.decode k)),
      (.fmin, 0x26, true, false, fun _ _ a b _ => FFmt.fp32.minmax false a b),
      (.fmax, 0x27, true, false, fun _ _ a b _ => FFmt.fp32.minmax true a b)] :
      List ((Fin 24 → Fin 4 → Instr) × Nat × Bool × Bool × (Nat → Nat → Nat → Nat → Nat → FRes))),
    ∀ (e : Fin 24) (c : Fin 4) (s : State) (x : VecCtx) (w : Nat) (l : List VReg) (p : Bool) (f : FRes),
      x = s.blk.vctx (ctxKey e c) → w = s.blk.ctxWord e c → l = scalarReads r.2.2.1 r.2.2.2.1 w → p = l.any x.isPois →
      s.issues e c r.2.1 l [.s (Ins.d w)] p → scalarOk r.2.2.1 r.2.2.2.1 w →
      f = r.2.2.2.2 (x.modeOf (Ins.rm w)) (srDraw s.blk 0) ((x.sc (Ins.a w)).toNat % 2 ^ 32) ((scalarB x true w).toNat % 2 ^ 32)
        ((x.sc (Ins.c w)).toNat % 2 ^ 32) →
    exec (r.1 e c) s = .next (s.retires e c p (.all [
      modCtx (ctxKey e c) (fun y => y.putS (Ins.d w) (BitVec.ofNat 64 f.val) p), setFlags e c f.flags, drew (x.modeOf (Ins.rm w))])))

/-- Each elementwise instruction that issues writes vD: every active element with the operation on its operands in the format of FMT, the tail as the policy says, the flags of the elements set; a compare writes the mask mD, and LT and LE set NV on a NaN. (R173, R203, R204, R206, R208, R209, R214, R215) -/
def Obligations.VectorArithmetic : Prop :=
  (∀ r ∈ ([(.vadd, 0x30, shapeFI2, fun i => if i.isF then i.ff.add i.mode i.u i.va i.vb else i.wrap (i.int i.a + i.int i.b)),
      (.vsub, 0x31, shapeFI2, fun i => if i.isF then i.ff.add i.mode i.u i.va i.vb.flip else i.wrap (i.int i.a - i.int i.b)),
      (.vmul, 0x32, shapeFI2, fun i => if i.isF then i.ff.mul i.mode i.u i.va i.vb else i.wrap (i.int i.a * i.int i.b)),
      (.vmin, 0x33, shapeFI2, fun i => if i.isF then i.ff.minmax false i.a i.b else minInt false i),
      (.vmax, 0x34, shapeFI2, fun i => if i.isF then i.ff.minmax true i.a i.b else minInt true i),
      (.vabs, 0x35, shapeFI1, fun i => if i.isF then ⟨i.a % i.signBit, 0⟩ else i.absInt),
      (.vneg, 0x36, shapeFI1, fun i => if i.isF then ⟨i.a ^^^ i.signBit, 0⟩ else i.negInt),
      (.vdiv, 0x37, shapeF2, fun i => i.ff.div i.mode i.u i.va i.vb), (.vsqrt, 0x38, shapeF1, fun i => i.ff.sqrt i.mode i.u i.va),
      (.vfma, 0x39, shapeF3, fun i => i.ff.fma i.mode i.u i.va i.vb i.vc),
      (.vfms, 0x3A, shapeF3, fun i => i.ff.fma i.mode i.u i.va i.vb i.vc.flip),
      (.vfnma, 0x3B, shapeF3, fun i => i.ff.fma i.mode i.u i.va.flip i.vb i.vc),
      (.vscalb, 0x3C, shapeScalb, fun i => i.ff.scalb i.mode i.u i.va (signed i.w i.b)),
      (.vgetexp, 0x3D, shapeF1, fun i => i.ff.getExp i.mode i.u i.va), (.vgetmant, 0x3E, shapeF1, fun i => i.ff.getMant i.a),
      (.vand, 0x40, shapeI2, fun i => ⟨i.a &&& i.b, 0⟩), (.vor, 0x41, shapeI2, fun i => ⟨i.a ||| i.b, 0⟩),
      (.vxor, 0x42, shapeI2, fun i => ⟨i.a ^^^ i.b, 0⟩), (.vandn, 0x43, shapeI2, fun i => ⟨i.a &&& (i.b ^^^ (2 ^ i.w - 1)), 0⟩),
      (.vsll, 0x44, shapeI2, fun i => ⟨i.a * 2 ^ (i.b % i.w) % 2 ^ i.w, 0⟩), (.vsrl, 0x45, shapeI2, fun i => ⟨i.a / 2 ^ (i.b % i.w), 0⟩),
      (.vsra, 0x46, shapeI2, fun i => i.wrap (signed i.w i.a / 2 ^ (i.b % i.w))),
      (.vsadd, 0x47, shapeSat, fun i => i.saturate (i.int i.a + i.int i.b)),
      (.vssub, 0x48, shapeSat, fun i => i.saturate (i.int i.a - i.int i.b)),
      (.vmulh, 0x49, shapeI2, fun i => i.wrap (i.int i.a * i.int i.b / 2 ^ i.w))] :
      List ((Fin 24 → Fin 4 → Instr) × Nat × ArithShape × (ElemIn → FRes))),
    ∀ (e : Fin 24) (c : Fin 4) (s : State) (x : VecCtx) (w : Nat) (l : List VReg) (p : Bool) (res : List (Nat × FRes)),
      x = s.blk.vctx (ctxKey e c) → w = s.blk.ctxWord e c → l = vecReads r.2.2.1 w → p = l.any x.isPois →
      s.issues e c r.2.1 l [.v (Ins.d w)] p → arithOk r.2.2.1 x w → rmOk (Ins.rm w) →
      res = (x.active (Ins.mask w)).map (fun i => (i, r.2.2.2 {
        fmt := Ins.fmt w, mode := x.modeOf (Ins.rm w), u := srDraw s.blk i, free := Config.freeElem s.blk.free i,
        a := x.elem (fmtWidth (Ins.fmt w)) (Ins.a w) i, b := x.bElem (Ins.fmt w) r.2.2.1.intB w i,
        c := x.elem (fmtWidth (Ins.fmt w)) (Ins.c w) i })) →
    exec (r.1 e c) s = .next (s.retires e c p (.all [
      modCtx (ctxKey e c) (fun y => y.putV (fmtWidth (Ins.fmt w)) (Ins.mask w) (Ins.d w) (res.map fun t => (t.1, t.2.val)) p),
      setFlags e c (res.foldl (fun n t => n ||| t.2.flags) 0), .edit .free]))) ∧
  (∀ r ∈ ([(.vcmpeq, 0x4A, true, elemEq), (.vcmpne, 0x4B, true, fun f a b => !elemEq f a b), (.vcmplt, 0x4C, false, elemLt),
      (.vcmple, 0x4D, false, fun f a b => !elemNan f a b && !elemLt f b a)] :
      List ((Fin 24 → Fin 4 → Instr) × Nat × Bool × (Nat → Nat → Nat → Bool))),
    ∀ (e : Fin 24) (c : Fin 4) (s : State) (x : VecCtx) (w : Nat) (l : List VReg) (p : Bool) (ab : List (Nat × Nat × Nat)),
      x = s.blk.vctx (ctxKey e c) → w = s.blk.ctxWord e c → l = vecReads shapeFI2 w → p = l.any x.isPois →
      s.issues e c r.2.1 l [] p → arithOk shapeFI2 x w → Ins.rm w = 0 → Ins.d w < 8 →
      ab = (x.active (Ins.mask w)).map (fun i => (i, x.elem (fmtWidth (Ins.fmt w)) (Ins.a w) i, x.bElem (Ins.fmt w) false w i)) →
    exec (r.1 e c) s = .next (s.retires e c p (.all [
      modCtx (ctxKey e c) (fun y => y.putM (Ins.d w) (ab.map fun t => (t.1, r.2.2.2 (Ins.fmt w) t.2.1 t.2.2))),
      setFlags e c (if !r.2.2.1 && ab.any (fun t => elemNan (Ins.fmt w) t.2.1 t.2.2) then Flag.nv else 0)])))

/-- Each movement that issues writes what the spec says for every active element; VMOVVS and VMOVSV move one element; VCVT converts between formats of one or two widths, VCVTMX to MX blocks with their scales, VUNMX back; mask instructions combine, count, find, copy and set masks below VL. (R172, R203, R204, R216, R217, R218, R219, R220, R221) -/
def Obligations.VectorMovesAndMasks : Prop :=
  (∀ r ∈ ([(.vsel, 0x4E, fun _ w => decide (Ins.mask w = 0 ∧ Ins.c w < 8) && bOk true 64 w, fun w => .v (Ins.a w) :: bReg w,
        fun x w i => some (if (x.mreg (Ins.c w)).testBit i then x.elem x.ew (Ins.a w) i else x.bElem (Ins.fmt w) false w i)),
      (.vmov, 0x4F, fun _ w => decide (Ins.a w = 0 ∧ Ins.c w = 0) && bOk true 64 w, bReg, fun x w i => some (x.bElem (Ins.fmt w) false w i)),
      (.vid, 0x50, fun _ w => fmtInt (Ins.fmt w) && decide (Ins.a w = 0 ∧ Ins.c w = 0) && noB w, fun _ => [], fun _ _ i => some i),
      (.vslidedn, 0x51, fun _ w => decide (Ins.c w = 0) && bScalar w, fun w => [.v (Ins.a w), .s (Ins.b w)],
        fun x w i => some (elemOr0 x w (i + (x.sc (Ins.b w)).toNat))),
      (.vslideup, 0x52, fun _ w => decide (Ins.c w = 0) && bScalar w, fun w => [.v (Ins.a w), .s (Ins.b w)],
        fun x w i => if (x.sc (Ins.b w)).toNat ≤ i then some (x.elem x.ew (Ins.a w) (i - (x.sc (Ins.b w)).toNat)) else none),
      (.vperm, 0x53, fun _ w => decide (Ins.c w = 0) && bOk true 64 w, fun w => .v (Ins.a w) :: bReg w,
        fun x w i => some (elemOr0 x w (x.bElem (Ins.fmt w) false w i)))] :
      List ((Fin 24 → Fin 4 → Instr) × Nat × (VecCtx → Nat → Bool) × (Nat → List VReg) × (VecCtx → Nat → Nat → Option Nat))),
    ∀ (e : Fin 24) (c : Fin 4) (s : State) (x : VecCtx) (w : Nat) (l : List VReg) (p : Bool),
      x = s.blk.vctx (ctxKey e c) → w = s.blk.ctxWord e c → l = r.2.2.2.1 w → p = l.any x.isPois →
      s.issues e c r.2.1 l [.v (Ins.d w)] p → moveFmt x w → r.2.2.1 x w →
    exec (r.1 e c) s = .next (s.retires e c p (modCtx (ctxKey e c) fun y => y.putV x.ew (Ins.mask w) (Ins.d w)
      ((x.active (Ins.mask w)).filterMap fun i => (r.2.2.2.2 x w i).map fun v => (i, v)) p))) ∧
  (∀ (e : Fin 24) (c : Fin 4) (s : State) (x : VecCtx) (w : Nat) (l : List VReg) (p : Bool),
      x = s.blk.vctx (ctxKey e c) → w = s.blk.ctxWord e c → p = l.any x.isPois →
    (l = [.v (Ins.a w), .s (Ins.b w)] → s.issues e c 0x54 l [.s (Ins.d w)] p → moveFmt x w → bScalar w →
        Ins.mask w = 0 → Ins.c w = 0 → Ins.d w < 32 →
      exec (.vmovvs e c) s = .next (s.retires e c p (modCtx (ctxKey e c) fun y =>
        y.putS (Ins.d w) (BitVec.ofNat 64 (elemOr0 x w (x.sc (Ins.b w)).toNat)) (x.isPois (.v (Ins.a w)))))) ∧
    (l = [.s (Ins.a w), .s (Ins.b w)] → s.issues e c 0x55 l [.v (Ins.d w)] p → moveFmt x w → bScalar w →
        Ins.mask w = 0 → Ins.c w = 0 → Ins.a w < 32 →
      exec (.vmovsv e c) s = .next (s.retires e c p (.when (decide ((x.sc (Ins.b w)).toNat < vlmax x.ew)) (modCtx (ctxKey e c) fun y =>
        { y with v := putElem x.ew (Ins.d w) y.v (x.sc (Ins.b w)).toNat (x.sc (Ins.a w)).toNat,
                 vPois := putBit y.vPois (Ins.d w) (x.isPois (.v (Ins.d w)) || x.isPois (.s (Ins.a w))) })))) ∧
    (∀ res : List (Nat × FRes), l = [.v (Ins.a w)] → s.issues e c 0x60 l [.v (Ins.d w)] p → cvtSrc w ≤ 7 → Ins.fmt w ≤ 7 →
        max (fmtWidth (cvtSrc w)) (fmtWidth (Ins.fmt w)) = x.ew →
        cvtPart w < x.ew / min (fmtWidth (cvtSrc w)) (fmtWidth (Ins.fmt w)) → Ins.c w = 0 → cvtRest w → rmOk (Ins.rm w) →
        res = (x.active (Ins.mask w)).map (fun i => (i, cvtElem (cvtSrc w) (Ins.fmt w) (x.modeOf (Ins.rm w)) (srDraw s.blk i)
          (Config.freeElem s.blk.free i) (cvtSat w) (x.elem (fmtWidth (cvtSrc w)) (Ins.a w)
            ((if fmtWidth (cvtSrc w) < x.ew then cvtPart w * vlmax x.ew else 0) + i)))) →
      exec (.vcvt e c) s = .next (s.retires e c p (.all [
        modCtx (ctxKey e c) (fun y =>
          if fmtWidth (Ins.fmt w) < x.ew then
            { y with v := res.foldl (fun t r => putElem (fmtWidth (Ins.fmt w)) (Ins.d w) t (cvtPart w * vlmax x.ew + r.1) r.2.val) y.v,
                     vPois := putBit y.vPois (Ins.d w) (p || x.isPois (.v (Ins.d w))) }
          else y.putV x.ew (Ins.mask w) (Ins.d w) (res.map fun r => (r.1, r.2.val)) p),
        setFlags e c (res.foldl (fun n r => n ||| r.2.flags) 0), .edit .free]))) ∧
    (∀ (val : Nat → Nat) (blocks : List Nat) (res : List FRes), l = [.v (Ins.a w)] → s.issues e c 0x61 l [.v (Ins.d w), .s (Ins.c w)] p →
        fmtMx (Ins.fmt w) → rmOk (Ins.rm w) → cvtRest w → x.ew = 32 → x.vl % 32 = 0 → x.vl ≤ 256 → Ins.c w < 32 → cvtSrc w = 0 →
        cvtPart w = 0 → val = (fun i => if (x.mreg (Ins.mask w)).testBit i then x.elem 32 (Ins.a w) i else 0) →
        blocks = (List.range (x.vl / 32)).map (fun j => mxScale (Ins.fmt w) (Config.freeElem s.blk.free (1024 + j))
          ((List.range 32).map fun k => val (32 * j + k))) →
        res = (List.range x.vl).map (fun i => if (x.mreg (Ins.mask w)).testBit i then
          mxElem (Ins.fmt w) (x.modeOf (Ins.rm w)) (srDraw s.blk i) (Config.freeElem s.blk.free (2048 + i)) (blocks.getD (i / 32) 0) (cvtSat w) (val i)
          else ⟨0, 0⟩) →
      ∃ t, exec (.vcvtmx e c) s = .next t ∧ t = s.retires e c p (.all [
        modCtx (ctxKey e c) (fun y =>
          let nb := x.vl * fmtWidth (Ins.fmt w) / 8
          let word := ((List.range x.vl).zip res).foldl (fun n r => n + r.2.val * 2 ^ (fmtWidth (Ins.fmt w) * r.1)) 0
          let v1 := ((List.range nb).zip (toBytesLE nb word)).foldl (fun t q => putElem 8 (Ins.d w) t q.1 q.2.toNat) y.v
          { y with
            v := if y.tailZ then ((List.range 1024).filter fun i => nb ≤ i).foldl (fun t i => putElem 8 (Ins.d w) t i 0) v1 else v1,
            vPois := putBit y.vPois (Ins.d w) (p || (!y.tailZ && decide (nb < 1024) && x.isPois (.v (Ins.d w)))) }),
        modCtx (ctxKey e c) (fun y => y.putS (Ins.c w) (BitVec.ofNat 64 (ofBytesLE (blocks.map (BitVec.ofNat 8)))) p),
        setFlags e c (res.foldl (fun n r => n ||| r.flags)
          (if (List.range x.vl).any (fun i => (FFmt.fp32.decode (val i)).signals) then Flag.nv else 0)),
        .edit .free])) ∧
    (∀ res : List (Nat × FRes), l = [.v (Ins.a w), .s (Ins.c w)] → s.issues e c 0x62 l [.v (Ins.d w)] p → rmOk (Ins.rm w) → cvtRest w →
        fmtMx (cvtSrc w) → x.ew = 32 → Ins.fmt w = 0 → Ins.c w < 32 → cvtPart w = 0 → cvtSat w = false →
        res = (x.active (Ins.mask w)).map (fun i => (i,
          if bits (x.sc (Ins.c w)).toNat (8 * (i / 32)) 8 = 0xFF then FFmt.fp32.nanRes false
          else FFmt.fp32.scalb (x.modeOf (Ins.rm w)) (srDraw s.blk i)
            ((fmtOf (cvtSrc w)).decode (x.bitsAt (Ins.a w) (fmtWidth (cvtSrc w) * i) (fmtWidth (cvtSrc w))))
            ((bits (x.sc (Ins.c w)).toNat (8 * (i / 32)) 8 : Int) - 127))) →
      exec (.vunmx e c) s = .next (s.retires e c p (.all [
        modCtx (ctxKey e c) (fun y => y.putV 32 (Ins.mask w) (Ins.d w) (res.map fun r => (r.1, r.2.val)) p),
        setFlags e c (res.foldl (fun n r => n ||| r.2.flags) 0), .edit .free])))) ∧
  (∀ r ∈ ([(.mand, 0x70, true, fun a b => a && b), (.mor, 0x71, true, fun a b => a || b), (.mxor, 0x72, true, fun a b => a != b),
      (.mandn, 0x73, true, fun a b => a && !b), (.mnot, 0x74, false, fun a _ => !a)] :
      List ((Fin 24 → Fin 4 → Instr) × Nat × Bool × (Bool → Bool → Bool))),
    ∀ (e : Fin 24) (c : Fin 4) (s : State) (x : VecCtx) (w : Nat), x = s.blk.vctx (ctxKey e c) → w = s.blk.ctxWord e c →
      s.issues e c r.2.1 [] [] false → maskRest w → Ins.d w < 8 → Ins.a w < 8 → Ins.b w < (if r.2.2.1 then 8 else 1) →
    exec (r.1 e c) s = .next (s.retires e c false (modCtx (ctxKey e c) fun y => y.putM (Ins.d w)
      ((List.range x.vl).map fun i => (i, r.2.2.2 ((x.mreg (Ins.a w)).testBit i) ((x.mreg (Ins.b w)).testBit i)))))) ∧
  (∀ (e : Fin 24) (c : Fin 4) (s : State) (x : VecCtx) (w : Nat), x = s.blk.vctx (ctxKey e c) → w = s.blk.ctxWord e c → maskRest w → Ins.b w = 0 →
    (∀ l : List Nat, l = (List.range x.vl).filter (fun i => (x.mreg (Ins.a w)).testBit i) → Ins.d w < 32 → Ins.a w < 8 →
      (s.issues e c 0x75 [] [.s (Ins.d w)] false → exec (.mpopc e c) s =
        .next (s.retires e c false (modCtx (ctxKey e c) fun y => y.putS (Ins.d w) (BitVec.ofNat 64 l.length) false))) ∧
      (s.issues e c 0x76 [] [.s (Ins.d w)] false → exec (.mfirst e c) s =
        .next (s.retires e c false (modCtx (ctxKey e c) fun y => y.putS (Ins.d w) ((l.head?.map (BitVec.ofNat 64)).getD (BitVec.ofInt 64 (-1))) false)))) ∧
    (Ins.d w < 8 → Ins.a w < 32 →
      (s.issues e c 0x77 [.s (Ins.a w)] [] (x.isPois (.s (Ins.a w))) → exec (.mfroms e c) s =
        .next (s.retires e c (x.isPois (.s (Ins.a w))) (.when (decide (Ins.d w ≠ 0)) (modCtx (ctxKey e c) fun y =>
          { y with m := Tbl.set (dflt 0) (Ins.d w) (x.sc (Ins.a w)).toNat y.m })))) ∧
      (s.issues e c 0x78 [.s (Ins.a w)] [] (x.isPois (.s (Ins.a w))) → exec (.mset e c) s =
        .next (s.retires e c (x.isPois (.s (Ins.a w))) (.when (decide (Ins.d w ≠ 0)) (modCtx (ctxKey e c) fun y =>
          { y with m := Tbl.set (dflt 0) (Ins.d w) (2 ^ min (x.sc (Ins.a w)).toNat 1024 - 1) y.m }))))))

/-- A load or store that issues and is not refused goes through the context's LDM window at once, or claims its destination and sends one access for each data unit through its segment. (R182, R203, R222, R223, R224) -/
def Obligations.VectorMemoryAccess : Prop :=
  ∀ r ∈ ([(.vld, 0x80, .unit, false), (.vlds, 0x81, .stride, false), (.vldx, 0x82, .index, false), (.vst, 0x88, .unit, true),
      (.vsts, 0x89, .stride, true), (.vstx, 0x8A, .index, true), (.lds, 0x90, .scalar, false), (.sts, 0x91, .scalar, true)] :
      List ((Fin 24 → Fin 4 → Instr) × Nat × MemKind × Bool)),
    ∀ (e : Fin 24) (c : Fin 4) (s : State) (x : VecCtx) (w : Nat) (k : MemKind) (reads : List VReg) (p : Bool),
      x = s.blk.vctx (ctxKey e c) → w = s.blk.ctxWord e c → k = r.2.2.1 →
      reads = k.addrRegs w ++ (if r.2.2.2 then [k.dreg w] else []) → p = reads.any x.isPois →
      s.issues e c r.2.1 reads (if r.2.2.2 then [] else [k.dreg w]) p → k.legal x w → k.refuse r.2.2.2 s.blk e c x w = none →
    (Ins.ldm w = true → exec (r.1 e c) s = .next (s.retires e c p (
      if r.2.2.2 then k.ldmStore s.blk e c x w else k.ldmLoad s.blk e c x w ((k.addrRegs w).any x.isPois)))) ∧
    (Ins.ldm w = false → memReady x (k.accesses r.2.2.2 s.blk e c x w) →
      exec (r.1 e c) s = .next (s.retires e c p (k.issue r.2.2.2 s.blk e c x w ((k.addrRegs w).any x.isPois))))

/-- Of a tile register the context may use and whose tile has landed: TRD and TRDC read rows and a column, TWR and TWRC write them, TFREE frees or zeroes it, TZERO zeroes it, TINFO reads its register; a reduction joins the engine's queue and its tile registers gain a reader; the oldest job writes its result, sets its flags and is counted. (R192, R194, R195, R196, R197, R198, R199, R225, R226) -/
def Obligations.TilesAndReductions : Prop :=
  (∀ (e : Fin 24) (c : Fin 4) (s : State) (x : VecCtx) (w k : Nat), x = s.blk.vctx (ctxKey e c) → w = s.blk.ctxWord e c →
      k = tregKey e (Ins.tile w) → tileRest x w → s.blk.tregBad e c (Ins.tile w) = false → s.blk.tregWaits e (Ins.tile w) = false →
      (s.blk.tregSt k).readers = 0 →
    (∀ p, p = (x.isPois (.s (Ins.a w)) || rowPois s.blk e x w) → s.issues e c 0xA0 [.s (Ins.a w)] [.v (Ins.d w)] p →
        Ins.timm w ≤ 1 → Ins.d w < 64 → Ins.a w < 32 → pairAligned x w →
      exec (.trd e c) s = .next (s.retires e c p (modCtx (ctxKey e c) fun y => { y with
        v := (putLanes y (Ins.d w) 0 (((List.range 128).map fun i => s.blk.cell e (Ins.tile w) (tileIdx x w) i) ++
          if tilePair w then (List.range 128).map fun i => s.blk.cell e (Ins.tile w) (tileIdx x w + 1) i else [])),
        vPois := putBit y.vPois (Ins.d w) (rowPois s.blk e x w),
        bad := if tilePair w then y.bad.filter fun t => ¬ (t.1 = false ∧ t.2.1 = Ins.d w) else y.bad }))) ∧
    (∀ p, p = (x.isPois (.s (Ins.a w)) || decide ((s.blk.tregSt k).pois ≠ 0)) → s.issues e c 0xA1 [.s (Ins.a w)] [.v (Ins.d w)] p →
        Ins.timm w = 0 → Ins.d w < 64 → Ins.a w < 32 →
      exec (.trdc e c) s = .next (s.retires e c p (modCtx (ctxKey e c) fun y => { y with
        v := putLanes y (Ins.d w) 0 ((List.range 128).map fun r => s.blk.cell e (Ins.tile w) r (tileIdx x w)),
        vPois := putBit y.vPois (Ins.d w) (decide ((s.blk.tregSt k).pois ≠ 0)) }))) ∧
    (∀ p q, p = (x.isPois (.s (Ins.a w)) || x.isPois (.v (Ins.d w))) → q = x.isPois (.v (Ins.d w)) → Ins.d w < 64 → Ins.a w < 32 →
      (∀ m, m = putBit (s.blk.tregSt k).pois (tileIdx x w) q → s.issues e c 0xA2 [.s (Ins.a w), .v (Ins.d w)] [] p → Ins.timm w ≤ 1 →
          pairAligned x w →
        exec (.twr e c) s = .next (s.retires e c p (.all [
          modTreg k (fun y => { y with
            cells := Tbl.setRun (dflt 0) (tileIdx x w * 128)
              ((List.range (if tilePair w then 256 else 128)).map fun i => x.lane (Ins.d w) i) y.cells }),
          setTregPois e (Ins.tile w) (if tilePair w then putBit m (tileIdx x w + 1) q else m)]))) ∧
      (s.issues e c 0xA3 [.s (Ins.a w), .v (Ins.d w)] [] p → Ins.timm w = 0 →
        exec (.twrc e c) s = .next (s.retires e c p (.all [
          modTreg k (fun y => { y with
            cells := (List.range 128).foldl
              (fun t r => Tbl.set (dflt 0) (r * 128 + tileIdx x w) (x.lane (Ins.d w) r) t) y.cells }),
          setTregPois e (Ins.tile w) (if q then 2 ^ 128 - 1 else 0)])))) ∧
    (Ins.timm w = 0 → Ins.a w = 0 →
      (Ins.d w = 0 → s.issues e c 0xA4 [] [] false →
        (s.blk.tregBkt e (Ins.tile w) = true → exec (.tfree e c) s = .next (s.retires e c false (freeTreg e (Ins.tile w)))) ∧
        (s.blk.tregBkt e (Ins.tile w) = false → exec (.tfree e c) s = .next (s.retires e c false (zeroTreg e (Ins.tile w))))) ∧
      (Ins.d w = 0 → s.issues e c 0xA5 [] [] false → exec (.tzero e c) s = .next (s.retires e c false (zeroTreg e (Ins.tile w)))) ∧
      (Ins.d w < 32 → s.issues e c 0xA6 [] [.s (Ins.d w)] false →
        exec (.tinfo e c) s = .next (s.retires e c false (modCtx (ctxKey e c) fun y =>
          y.putS (Ins.d w) (s.blk.w (Reg.VEC_TREG e (Ins.tile w))) false))))) ∧
  (∀ r ∈ ([(.rsum, 0xB0, 0), (.rsumsq, 0xB1, 1), (.rmax, 0xB2, 2), (.rmin, 0xB3, 3), (.ramax, 0xB4, 4)] :
      List ((Fin 24 → Fin 4 → Instr) × Nat × Nat)),
    ∀ (e : Fin 24) (c : Fin 4) (s : State) (x : VecCtx) (w : Nat) (p : Bool) (j : RedJob), x = s.blk.vctx (ctxKey e c) →
      w = s.blk.ctxWord e c → p = ((redReads w).any x.isPois || redPois e c s.blk w) → s.issues e c r.2.1 (redReads w) (redWrites w) p →
      redOk x w → (Tbl.get (dflt []) e.val s.blk.vec.red).length < 8 → redRefuse e c s.blk w = none →
      (redAxis w ≠ 3 → s.blk.tregWaits e (Ins.tile w) = false ∧ (redPair w = true → s.blk.tregWaits (otherEngine e) (redU w) = false)) →
      j = { ctx := c, op := r.2.2, axis := redAxis w, reg := Ins.tile w, reg2 := if redPair w then some (redU w) else none,
            dst := Ins.d w, isInt := decide (redFmt w = 5), tailZ := x.tailZ, rmode := x.rmode,
            vals := if redAxis w = 3 then (x.active (Ins.mask w)).map fun i => x.lane (Ins.a w) i else [], pois := p } →
    exec (r.1 e c) s = .next (s.retires e c p (.all [setJobs e (Tbl.get (dflt []) e.val s.blk.vec.red ++ [j]), jobReaders e j true]))) ∧
  (∀ (e : Fin 24) (j : RedJob) (rest : List RedJob) (res : List FRes) (s : State), s.up → Tbl.get (dflt []) e.val s.blk.vec.red = j :: rest →
      s.blk.windowAt (e / 2) = false → res = (s.blk.jobGroups e j).zipIdx.map (fun l => if s.blk.shapesAgree e j then
          reduce (Config.freeElem s.blk.free l.2) j.op j.isInt j.rmode l.1
        else ⟨Config.freeElem s.blk.free l.2 % 2 ^ 32, 0⟩) →
    exec (.reducerJobDone e) s = .next (s.did (.all [
      modCtx (ctxKey e j.ctx) (fun y => if j.axis < 2 then y.putResults j.tailZ j.dst (res.map FRes.val) j.pois
        else y.putS j.dst (BitVec.ofNat 64 (res.foldl (fun _ r => r.val) 0)) j.pois),
      setFlags e j.ctx (res.foldl (fun n r => n ||| r.flags) 0), .edit .free, setJobs e rest, jobReaders e j false,
      incSat (Reg.VEC_RED (e / 2)) Fl.VEC_RED_JOBS, activity (s.blk.ctxHat e j.ctx) Act.reducer 1])))

/-- TRGOPEN takes a closed handle and asks for the trough its sA names; TRGADD sends the elements of an open handle; TRGCLOSE asks for the outcome once every TRGADD is acknowledged; TRGABORT gives a handle up; TRGFIN finishes a membership; FENCE waits for every access, SREL for stores towards other packages; SACQ asks the span slices and waits. (R227, R228, R229, R237, R239, R240, R362, R370) -/
def Obligations.TroughInstructionsAndFences : Prop :=
  ∀ (e : Fin 24) (c : Fin 4) (s : State) (x : VecCtx) (w h : Nat) (y : Handle), x = s.blk.vctx (ctxKey e c) → w = s.blk.ctxWord e c →
      h = Ins.imm20 w → y = x.handle h →
    (∀ p n count, p = (x.isPois (.s (Ins.a w)) || x.isPois (.s (Ins.b w))) → s.issues e c 0xC0 [.s (Ins.a w), .s (Ins.b w)] [.s (Ins.d w)] p →
        trgOk w true true true false true → y.state = 0 → n = trgName s.blk (x.sc (Ins.a w)).toNat → n.good = true →
        count = min (x.sc (Ins.b w)).toNat 0xFFFFFFFF →
      exec (.trgopen e c) s = .next (s.retires e c p (.all [
        modHandle e c h (fun _ => ⟨1, n.trough, n.pkg, n.base, count, St.descInvalid, [], Ins.d w, x.meshTag c⟩),
        takeTag e c,
        sendPkt (s.blk.trgPkt e c h 0x70 n.pkg n.trough n.base (x.meshTag c) [⟨slice (toBytesLE 4 count) 0 64, 0xF, false⟩])]))) ∧
    (∀ p pk, p = (x.isPois (.v (Ins.a w)) || x.isPois (.s (Ins.b w))) → s.issues e c 0xC1 [.v (Ins.a w), .s (Ins.b w)] [] p →
        trgOk (w - Ins.a w * 2 ^ 34) false false true true true → x.ew = 32 → x.addsOut < 8 → y.state = 1 ∨ y.state = 2 →
        pk = packUnits 16 0 (addUnits x (Ins.a w) (Ins.mask w) (x.isPois (.v (Ins.a w)))) → pk ≠ [] →
      exec (.trgadd e c) s = .next (s.retires e c p (.all [
        modHandle e c h (fun y => { y with adds := y.adds ++ [pk.length] }),
        .each pk fun q => sendPkt (s.blk.trgPkt e c h 0x71 y.pkg y.trough (contribIdx (x.sc (Ins.b w)).toNat (16 * q.1)) y.tag q.2)]))) ∧
    (s.issues e c 0xC2 [] [.s (Ins.d w)] false → trgOk w true false false false true →
      (y.state = 2 → exec (.trgclose e c) s = .next (s.retires e c false (.all [
        modHandle e c h (fun y => { y with state := 4, sd := Ins.d w }), .when y.adds.isEmpty (sendClose e c h)]))) ∧
      (y.state = 3 → exec (.trgclose e c) s = .next (s.retires e c false (.all [dropHandle e c h, putStatus e c (Ins.d w) y.status])))) ∧
    (s.issues e c 0xC3 [] [] false → trgOk w false false false false true →
      exec (.trgabort e c) s = .next (s.retires e c false (.all [handleAbort e c h y, dropHandle e c h]))) ∧
    (∀ n, s.issues e c 0xC4 [.s (Ins.a w)] [.s (Ins.d w)] (x.isPois (.s (Ins.a w))) → trgOk w true true false false false → x.finish = none →
        n = trgName s.blk (x.sc (Ins.a w)).toNat → n.good = true → n.base = 0 →
      exec (.trgfin e c) s = .next (s.retires e c (x.isPois (.s (Ins.a w))) (.all [
        modCtx (ctxKey e c) (fun y => { y with finish := some (Ins.d w, x.meshTag c) }), takeTag e c,
        sendPkt (s.blk.trgPkt e c 0 0x76 n.pkg n.trough 0 (x.meshTag c) [])]))) ∧
    (x.badSt = false →
      (s.issues e c 0xC8 [] [] false → fenceOk w false false → x.pend = [] → exec (.fence e c) s = .next (s.retires e c false .skip)) ∧
      (s.issues e c 0xCA [] [] false → fenceOk w false false →
          (x.pend.any fun p => p.write && (p.walk.isSome || decide (p.pa / 2 ^ 47 % 1024 ≠ s.blk.ownPkg))) = false → exec (.srel e c) s = .next (s.retires e c false .skip)) ∧
      (∀ all pkg, s.issues e c 0xC9 [.s (Ins.ja w)] [] (x.isPois (.s (Ins.ja w))) → fenceOk w true true → s.blk.held? (s.blk.enginePart e) = false → all = (Ins.imm32 w).testBit 0 →
          pkg = bits (x.sc (Ins.ja w)).toNat 0 10 → s.blk.acqSlices pkg all ≠ [] →
        exec (.sacq e c) s = .next (s.retires e c (x.isPois (.s (Ins.ja w))) (.all [
          takeTag e c, modCtx (ctxKey e c) (fun y => { y with acq := some ((s.blk.acqSlices pkg all).length, x.meshTag c) }),
          .each (s.blk.acqSlices pkg all) fun k =>
            sendPkt (Pkt.bare 0xA0 (pkg * 2 ^ 47 + b2n all) (x.meshTag c) (s.blk.ctxHat e c) (.engine e) (.spanEng k))]))))

/-- An accepted kernel load begins and marks its entry invalid, its end makes the entry valid with its digest, FREE clears an entry no context runs; a context is enabled, started with its arguments, disabled, and cleared at the end of its stop; a tile register's binding takes effect or waits for the tile under way; the first chunk of a tile for an ARMED register lands, a credit goes on to the site, a returned credit frees its register. (R174, R178, R179, R180, R185, R188, R190, R192, R193, R195, R200) -/
def Obligations.EngineCommands : Prop :=
  (∀ (hat : Nat) (e : Fin 24) (val : W64) (s : State), s.up → s.blk.portAdmits hat → s.blk.mayEngine hat e → s.blk.engineOn e →
      s.blk.on (Reg.VEC_KLOAD e) Fl.VEC_KLOAD_BUSY = false →
    (∀ k len base, k = getFld val Fl.VEC_KLOAD_ENTRY → len = getFld val Fl.VEC_KLOAD_LEN → base = getFld val Fl.VEC_KLOAD_BASE →
        s.blk.kernelRuns e k = false →
      (0 < len → base + len ≤ 32768 → s.blk.kernelOverlap e k base len = false →
        exec (.vecKloadGo hat e val) s = .next (s.did (.all [
          kloadFields e val, setF (Reg.VEC_KLOAD e) Fl.VEC_KLOAD_BUSY 1, setF (Reg.VEC_KERNEL e k) Fl.VEC_KERNEL_VALID 0, setDigest e k 0,
          modVec (fun v => { v with kload := Tbl.set (dflt none) e (some ⟨hat, k, len, base, s.blk.f (Reg.VEC_KLOAD_SRC e) Fl.VEC_KLOAD_SRC_ADDR * 8, s.blk.rightsOf hat⟩) v.kload })]))) ∧
      exec (.vecKloadFree hat e val) s = .next (s.did (.all [kloadFields e val, freeKernel e k, kloadEnd e 0])))) ∧
  (∀ (e : Fin 24) (told read : ReadIn) (j : Kload) (bytes : List Byte) (s : State), s.up → Tbl.get (dflt none) e.val s.blk.vec.kload = some j →
      read = s.blk.sourced j.rights j.hat j.src (8 * j.len) told → bytes = slice read.data 0 (8 * j.len) →
    (read.end_ = 0 → exec (.vecKloadDone e told) s = .next (s.did (.all [
      modVec (fun v => { v with kload := Tbl.set (dflt none) e none v.kload }),
      .edit (.imem (e * 32768 + j.base) (wordsOf bytes j.len)),
      setF (Reg.VEC_KERNEL e j.entry) Fl.VEC_KERNEL_HAT j.hat, setF (Reg.VEC_KERNEL e j.entry) Fl.VEC_KERNEL_LEN j.len,
      setF (Reg.VEC_KERNEL e j.entry) Fl.VEC_KERNEL_BASE j.base, setF (Reg.VEC_KERNEL e j.entry) Fl.VEC_KERNEL_VALID 1,
      incSat (Reg.VEC_KERNEL e j.entry) Fl.VEC_KERNEL_LOADS, setDigest e j.entry (Config.sha384 bytes), measured, kloadEnd e 0]))) ∧
    (read.end_ ≠ 0 → exec (.vecKloadDone e told) s = .next (s.did (.all [
      modVec (fun v => { v with kload := Tbl.set (dflt none) e none v.kload }), kloadEnd e read.end_])))) ∧
  (∀ (hat : Nat) (e : Fin 24) (c : Fin 4) (v val : W64) (s : State), s.up → s.blk.portAdmits hat → s.blk.engineOn e → s.blk.mayCtx hat e c →
    (v = putFld val Fl.VEC_CTX_CTL_ENABLE 1 → getFld v Fl.VEC_CTX_CTL_ENABLE = 1 → s.blk.on (Reg.VEC_CTX_CTL e c) Fl.VEC_CTX_CTL_ENABLE = false →
        s.blk.ldmClash e c (getFld v Fl.VEC_CTX_CTL_HAT) (getFld v Fl.VEC_CTX_CTL_LDM_BASE) (getFld v Fl.VEC_CTX_CTL_LDM_SIZE) = false →
        s.blk.hatRemoved (getFld v Fl.VEC_CTX_CTL_HAT) = false → s.blk.ctxState e c = 0 →
      exec (.vecCtxEnable hat e c val) s = .next (s.did (.all [
        .each [Fl.VEC_CTX_CTL_HAT, Fl.VEC_CTX_CTL_IRQ_VEC, Fl.VEC_CTX_CTL_POISON_TRAP, Fl.VEC_CTX_CTL_TAIL, Fl.VEC_CTX_CTL_RMODE,
          Fl.VEC_CTX_CTL_LDM_SIZE, Fl.VEC_CTX_CTL_LDM_BASE, Fl.VEC_CTX_CTL_ENABLE] (fun fl => setF (Reg.VEC_CTX_CTL e c) fl (getFld v fl)),
        setF (Reg.VEC_CTX_STATUS e c) Fl.VEC_CTX_STATUS_STATE 1, setCtxOn e c true]))) ∧
    (v = putFld (s.blk.w (Reg.VEC_CTX_CTL e c)) Fl.VEC_CTX_CTL_ENABLE 0 → getFld v Fl.VEC_CTX_CTL_ENABLE = 0 →
        s.blk.on (Reg.VEC_CTX_CTL e c) Fl.VEC_CTX_CTL_ENABLE = true →
      exec (.vecCtxDisable hat e c) s = .next (s.did (.all [
        setF (Reg.VEC_CTX_CTL e c) Fl.VEC_CTX_CTL_HAT (s.blk.ctxHat e c),
        .each [Fl.VEC_CTX_CTL_IRQ_VEC, Fl.VEC_CTX_CTL_POISON_TRAP, Fl.VEC_CTX_CTL_TAIL, Fl.VEC_CTX_CTL_RMODE,
          Fl.VEC_CTX_CTL_LDM_SIZE, Fl.VEC_CTX_CTL_LDM_BASE, Fl.VEC_CTX_CTL_ENABLE] (fun fl => setF (Reg.VEC_CTX_CTL e c) fl (getFld v fl)),
        setF (Reg.VEC_CTX_STATUS e c) Fl.VEC_CTX_STATUS_STATE 4]))) ∧
    (∀ k entry, v = putFld val Fl.VEC_CTX_START_GO 1 → getFld v Fl.VEC_CTX_START_GO = 1 → k = getFld v Fl.VEC_CTX_START_KERNEL →
        entry = getFld v Fl.VEC_CTX_START_ENTRY → s.blk.startCode e c k entry = 0 →
      exec (.vecCtxStart hat e c val) s = .next (s.did (.all [
        setF (Reg.VEC_CTX_START e c) Fl.VEC_CTX_START_KERNEL k, setF (Reg.VEC_CTX_START e c) Fl.VEC_CTX_START_ENTRY entry,
        setF (Reg.VEC_CTX_STATUS e c) Fl.VEC_CTX_STATUS_CODE 0, dropJobs e c, modCtx (ctxKey e c) (s.blk.startCtx e c k),
        setF (Reg.VEC_CTX_STATUS e c) Fl.VEC_CTX_STATUS_PC (s.blk.f (Reg.VEC_KERNEL e k) Fl.VEC_KERNEL_BASE + entry),
        setF (Reg.VEC_CTX_STATUS e c) Fl.VEC_CTX_STATUS_FAULT 0, setF (Reg.VEC_CTX_STATUS e c) Fl.VEC_CTX_STATUS_STATE 2, .edit .free])))) ∧
  (∀ (e : Fin 24) (c : Fin 4) (s : State), s.up → s.blk.ctxState e c = 4 → exec (.vecCtxStopDone e c) s = .next (s.did (clearCtx e c))) ∧
  (∀ (hat : Nat) (e : Fin 24) (t : Fin 16) (val : W64) (s : State), s.up → s.blk.portAdmits hat → s.blk.mayEngine hat e → s.blk.engineOn e →
      getFld val Fl.VEC_TREG_SITE / 4 = e / 6 → (s.blk.sitePart (getFld val Fl.VEC_TREG_SITE)).isSome →
      s.blk.sitePart (getFld val Fl.VEC_TREG_SITE) = s.blk.enginePart e → s.blk.hatRemoved (getFld val Fl.VEC_TREG_HAT) = false →
    (s.blk.tregWaits e t = false ∨ bindChanges (s.blk.w (Reg.VEC_TREG e t)) val = false → exec (.tregBindWrite hat e t val) s = .next (s.did (applyBind e t val))) ∧
    (s.blk.tregWaits e t = true → bindChanges (s.blk.w (Reg.VEC_TREG e t)) val = true →
      exec (.tregBindWrite hat e t val) s = .next (s.did (.all [
        modTreg (tregKey e t) (fun x => { x with wr := some val }), setF (Reg.VEC_TREG e t) Fl.VEC_TREG_PENDING 1])))) ∧
  (∀ (p : Pkt) (e : Nat) (h : BktHdr) (s : State), p.dst = .engine e → h = bktHdr p.addr →
    (s.arrives p 0x60 → p.hat = s.blk.tregF e h.treg Fl.VEC_TREG_HAT →
      (h.chunk = 0 → s.blk.tregState e h.treg = 2 → exec (.bktTile p) s = .next (s.did (.all [
        takePkt p, modTreg (tregKey e h.treg) (fun x => { x with cells := [], pois := 0 }), landChunk e h p]))) ∧
      (h.chunk ≠ 0 → h.chunk = (s.blk.tregSt (tregKey e h.treg)).next → s.blk.tregState e h.treg = 3 →
        exec (.bktTile p) s = .next (s.did (.all [takePkt p, landChunk e h p])))) ∧
    (s.arrives p 0x62 → s.blk.tregState e h.treg = 2 → exec (.bktReturn p) s = .next (s.did (.all [takePkt p, freeTreg e h.treg])))) ∧
  (∀ (p : Pkt) (g k : Nat) (h : BktHdr) (s : State), s.arrives p 0x61 → p.dst = .glove g k → h = bktHdr p.addr → s.blk.siteRuns g →
    exec (.bktCredit p) s = .next (s.did (.all [takePkt p,
      modGlv g (fun s => { s with tcredit := (h.eng, h.treg, p.hat) :: s.tcredit.filter fun c => ¬ (c.1 = h.eng ∧ c.2.1 = h.treg) }),
      toSite g { Msp.ctl 0x61 0 with chan := 2, lane := k, hat := p.hat, tag := p.tag, addr := p.addr }])))

/-- For every command c and state s, the step of s with c at the front of its queue is exec of c on s with the queue's rest. (spec/00_scope.md How rules are worded, spec/95_what_each_step_holds.md) -/
def Obligations.StepRunsFront : Prop :=
  ∀ (c : Instr) (rest : List Instr) (s : State),
    step { s with pending := c :: rest } = exec c { s with pending := rest }

/-- The model's choice of notes/assumptions/5.md: on an empty queue the step is a tick. HUB_TIMESTAMP counts one while PWR_OK and REFCLK_CORE hold, nothing is refused, and the queue stays empty; without them nothing changes. (R40, R507) -/
def Obligations.IdleTick : Prop :=
  (∀ s : State, s.pending = [] → ∃ t, step s = .next t ∧ t.pending = []) ∧
  (∀ s : State, s.pending = [] → s.blk.sys.pwrOk = true → s.blk.sys.coreClk = true → s.blk.held = true →
    step s = .next (s.did (addWrap Reg.HUB_TIMESTAMP Fl.HUB_TIMESTAMP_COUNT 1))) ∧
  (∀ s : State, s.pending = [] → s.blk.sys.pwrOk = false → step s = .next s)

/-- After reset nothing waits, the error log is empty, every register reads the reset value of its table, CFG_GEN reads 0, no partition is enabled, every trough is IDLE, no context of an engine runs, package memory reads 0 and holds no poison, and no line is cached anywhere. That the committed state carries the two records of hat 0 is DEDUCED in notes/assumptions/20.md. (R11, R56, R171, R234, R261, R280) -/
def Obligations.ResetState : Prop :=
  State.reset.pending = [] ∧ State.reset.blk.logs = [] ∧ (∀ a, State.reset.blk.w a = resetVal a) ∧
  State.reset.blk.w Reg.CFG_GEN = 0 ∧ partitionsOf State.reset.blk.recs = [] ∧
  (∀ t, t < 64 → State.reset.blk.trgState t = TrgState.idle) ∧
  (∀ e < 24, ∀ c < 4, State.reset.blk.ctxState e c = 0) ∧
  (∀ k, State.reset.blk.byteAt k = 0) ∧ State.reset.blk.pois = [] ∧ (∀ l, State.reset.blk.dirEnt l = {})

/-- Every table of the state after reset, package memory among them, is in its canonical form. (R9, R261) -/
def Obligations.ResetCanonical : Prop :=
  State.reset.blk.canonicalForm = true ∧ Memory.wf State.reset.blk = true

/-- In every state whose tables are in canonical form (keys rising, no entry equal to what an unlisted key reads as), the step answers a next state whose tables are in canonical form: registers, package memory and its poison, directory, contexts, tile registers, instruction and data memory, troughs, slots, gloves, intakes, peers, ports. (R9, R10, R261, R280) -/
def Obligations.StepKeepsCanonical : Prop :=
  ∀ s : State, s.blk.canonicalForm = true → ∃ t, step s = .next t ∧ t.blk.canonicalForm = true

/-- Every command answers a next state in every state, whatever its operands: the spec gives every event an effect, and one whose condition does not hold changes nothing (log entry 4); the queue is what it was. (R29, R31, R374) -/
def Obligations.ExecAnswersNext : Prop :=
  ∀ (c : Instr) (s : State), ∃ t, exec c s = .next t ∧ t.pending = s.pending

/-- While the package is held in reset, every command but those of power, clocks, reset, the trip comparator and the test access port leaves the whole state as it is; after scan has left the hub undefined, so does every command but these and the wellhead's. (R469, R490, R508, R511) -/
def Obligations.HeldNothing : Prop :=
  (∀ (c : Instr) (s : State), s.blk.held = true → worksHeld c = false → exec c s = .next s) ∧
  (∀ (c : Instr) (s : State), s.blk.sys.scanned = true → worksScanned c = false → exec c s = .next s)

/-- A register command from a port with no hat that may command (no record, ORPHANED, REMOVING, REMOVED), on whose behalf no unit acts, leaves the whole state as it is; in recovery over I3C, so does one of any hat but hat 0. (R374, R375) -/
def Obligations.NotAdmittedNothing : Prop :=
  ∀ (hat n : Nat) (v : W64) (r : ReadIn) (bs : List Byte) (s : State) (q : Fin 4) (g c : Fin 16) (e : Fin 24) (k : Fin 4) (t m : Fin 64)
    (x : Fin 256) (i : Fin 4096) (h : Fin 1024) (w : Fin 12) (d : Fin 20),
    s.blk.portAdmits hat = false → s.blk.hats.acting = none → (s.blk.i3cLimited = false ∨ hat ≠ 0) →
    ∀ j ∈ ([.claim hat q, .release hat q, .discard hat q, .stage hat q, .checkCmd hat q, .commit hat q, .forceRelease hat q,
      .stgWrite hat n n v, .cfgExport hat v, .glvReset hat g, .glvResetForce hat g, .glvFlush hat g, .hatReset hat h, .hatRemove hat v,
      .pwrCmdOn hat q, .pwrCmdOff hat q, .hubUnitReset hat v, .hubPartReset hat v, .pwrTargetWrite hat d c, .prtProgGo g c hat v,
      .prtProgStop g c hat, .prtCtxEnable g c hat v, .prtCtxDisable g c hat, .intakeEnable hat i v, .intakeDisable hat i,
      .intakeWrite hat i n bs, .keyRevoke hat x, .pmpRemove hat v, .wsetReset hat x, .wsetBind hat x v, .testModeSet hat,
      .tstLtestGo hat v, .tstLtestStop hat n n, .monRecal hat n, .arm hat t, .abandon hat t, .rearm hat t, .disarm hat t, .finish hat t,
      .memberEject hat t m, .trgExport hat t v, .secStage hat v r, .cancel hat, .confirm hat, .commitSvn hat, .revoke hat r,
      .vecKloadGo hat e v, .vecKloadFree hat e v, .vecCtxEnable hat e k v, .vecCtxDisable hat e k, .vecCtxStart hat e k v,
      .tregBindWrite hat e c v, .wbInv hat w, .resume hat c n, .abortCmd hat c n, .xltBump hat x, .xltCtxEnable hat x v,
      .xltCtxDisable hat x, .xltFqEnable hat c v, .xltFqDisable hat c, .segmentWordWrite hat n v, .registerWrite hat n n v] : List Instr),
    exec j s = .next s

/-- A written byte reads as written and every other byte as before, for a run of any length at any key, and the poison of one 32-byte half is set and cleared without touching another's. (R9, R256, R261) -/
def Obligations.MemoryReadBack : Prop :=
  (∀ (b : Block) (k : Nat) (l : List Byte) (j : Nat),
    ((Edit.bytes k l).apply b).byteAt j = if j < k then b.byteAt j else (l[j - k]?).getD (b.byteAt j)) ∧
  (∀ (b : Block) (lo hi j : Nat), ((Edit.bytesDrop lo hi).apply b).byteAt j = if lo ≤ j ∧ j < hi then 0 else b.byteAt j) ∧
  (∀ (b : Block) (h : Nat) (on : Bool) (j : Nat),
    ((Edit.pois h on).apply b).pois.contains j = if j = h then on else b.pois.contains j)

/-- For every register of the map: an RW field takes the written value, a W1C field loses the bits written 1, a W1S field gains them, a field of any other code keeps its value, and a bit in no field keeps its value whatever is written to it. (R9, R11) -/
def Obligations.RegisterWriteRule : Prop :=
  ∀ d ∈ Regs.table, ∀ (old val : W64),
    (∀ f ∈ d.flds,
      (f.acc = .rw → getFld (writeFields d.flds old val) f.fld = getFld val f.fld) ∧
      (f.acc = .w1c → ∀ i, (getFld (writeFields d.flds old val) f.fld).testBit i =
        ((getFld old f.fld).testBit i && !(getFld val f.fld).testBit i)) ∧
      (f.acc = .w1s → ∀ i, (getFld (writeFields d.flds old val) f.fld).testBit i =
        ((getFld old f.fld).testBit i || (getFld val f.fld).testBit i)) ∧
      (f.acc ≠ .rw → f.acc ≠ .w1c → f.acc ≠ .w1s → getFld (writeFields d.flds old val) f.fld = getFld old f.fld)) ∧
    (∀ i, i < 64 → (∀ f ∈ d.flds, ¬ (f.fld.lo ≤ i ∧ i < f.fld.lo + f.fld.width)) →
      (writeFields d.flds old val).getLsbD i = old.getLsbD i)

/-- Every record whose fields fit the widths of R62 is spelt by its payload: reading the payload under the record's type gives the record, and its length is one R62 allows. (R58, R60, R62) -/
def Obligations.RecordRoundTrip : Prop :=
  ∀ r : Rec, r.fits = true →
    Rec.ofPayload r.type r.payload = some r ∧ r.payload.length ∈ recLengths r.type ∧ r.bytes.length = roundUp8 (4 + r.payload.length)

/-- For every list of records that fit, in the order of R60 and within the image length's 32 bits, reading the canonical image gives exactly those records in that order, and its sections end exactly at the image's end. (R57, R58, R59, R60) -/
def Obligations.ImageRoundTrip : Prop :=
  ∀ (rev grade gen : Nat) (l : List Rec), (∀ r ∈ l, r.fits = true) → l.Pairwise (fun a b => a.before b = true) →
    (canonicalImage rev grade gen l).length < 2 ^ 32 →
    imageRecs (canonicalImage rev grade gen l) = l ∧ (imageSecs (canonicalImage rev grade gen l)).2 = true

/-- BR with COND 0 to 6 goes to PC + IMM32 exactly when the table of R212 says that sA and sB satisfy it: always, equal, not equal, less and not less, signed and unsigned; otherwise it goes on; a reserved COND, 7 to 15, faults with code 1. (R210, R212) -/
def Obligations.CondTable : Prop :=
  (∀ a b : W64, condHolds 0 a b = true ∧ (condHolds 1 a b = true ↔ a = b) ∧ (condHolds 2 a b = true ↔ a ≠ b) ∧
    (condHolds 3 a b = true ↔ a.slt b = true) ∧ (condHolds 4 a b = true ↔ a.slt b = false) ∧
    (condHolds 5 a b = true ↔ a < b) ∧ (condHolds 6 a b = true ↔ b ≤ a)) ∧
  (∀ (e : Fin 24) (c : Fin 4) (s : State) (x : VecCtx) (w : Nat) (p : Bool), x = s.blk.vctx (ctxKey e c) → w = s.blk.ctxWord e c →
      p = (x.isPois (.s (Ins.ja w)) || x.isPois (.s (Ins.jb w))) → s.issues e c 0x04 [.s (Ins.ja w), .s (Ins.jb w)] [] p →
      jOk w true true true true → Ins.cond w ≤ 6 →
    exec (.br e c) s = .next (s.retires e c p
      (.when (condHolds (Ins.cond w) (x.sc (Ins.ja w)) (x.sc (Ins.jb w))) (setPc e c (s.blk.ctxPc e c + Ins.jump w))))) ∧
  (∀ (e : Fin 24) (c : Fin 4) (s : State), s.up → s.blk.ctxRuns e c → s.blk.issueTurn e c → s.blk.pcInKernel e c →
      Ins.op (s.blk.ctxWord e c) = 0x04 →
      7 ≤ Ins.cond (s.blk.ctxWord e c) → exec (.br e c) s = .next (s.did (faultCtx e c 1 none)))

/-- SETVL with a request n and width w sets VL to the lower of n and 256 × 32 / w, sets the width, and returns VL in its destination scalar; element i of width w is read from lane i div (32 / w) at bits w × (i mod (32 / w)) upward, for every width, register and index. (R172) -/
def Obligations.SetvlRule : Prop :=
  (∀ (e : Fin 24) (c : Fin 4) (s : State) (x : VecCtx) (i ew : Nat), x = s.blk.vctx (ctxKey e c) → i = s.blk.ctxWord e c →
      s.issues e c 0x03 [.s (Ins.jb i)] [.s (Ins.ja i)] (x.isPois (.s (Ins.jb i))) → jOk i false true true true → Ins.imm32 i < 8 →
      (Ins.imm32 i % 4 = 0 ∧ ew = 32) ∨ (Ins.imm32 i % 4 = 1 ∧ ew = 16) ∨ (Ins.imm32 i % 4 = 2 ∧ ew = 8) →
    ∃ t, exec (.setvl e c) s = .next t ∧
      (t.blk.vctx (ctxKey e c)).vl = min (x.sc (Ins.jb i)).toNat (256 * 32 / ew) ∧
      (t.blk.vctx (ctxKey e c)).ew = ew ∧ (t.blk.vctx (ctxKey e c)).tailZ = (Ins.imm32 i).testBit 2 ∧
      (t.blk.vctx (ctxKey e c)).v = x.v ∧ (t.blk.vctx (ctxKey e c)).m = x.m ∧
      (∀ n, (t.blk.vctx (ctxKey e c)).sc n =
        if n = Ins.ja i ∧ n ≠ 0 then BitVec.ofNat 64 (min (x.sc (Ins.jb i)).toNat (256 * 32 / ew)) else x.sc n)) ∧
  vlmax 32 = 256 ∧ vlmax 16 = 512 ∧ vlmax 8 = 1024 ∧
  (∀ (x : VecCtx) (w r i : Nat), w = 32 ∨ w = 16 ∨ w = 8 → i < 256 * 32 / w → ∀ k, k < w →
    (x.elem w r i).testBit k =
      (Tbl.get (dflt 0) (r * 256 + i / (32 / w)) x.v).getLsbD (w * (i % (32 / w)) + k))

/-- For every elementwise arithmetic operation: an active element of the destination becomes its result, a tail element becomes 0 under the zeroed policy, every other element keeps its value, whatever the other registers; the destination is poisoned as its sources are, or as it was where an element was left unchanged; no other vector, no scalar and no mask register changes; and mask bits at VL and above are never looked at. (R173, R204, R206, R214) -/
def Obligations.ElementwiseDestination : Prop :=
  (∀ (x : VecCtx) (w mask d : Nat) (res : List (Nat × Nat)) (pois : Bool), w = 32 ∨ w = 16 ∨ w = 8 → x.vl ≤ vlmax w → d < 64 →
      res.map Prod.fst = x.active mask → ∀ y, y = x.putV w mask d res pois →
    (∀ i, i < vlmax w →
      y.elem w d i =
        match res.find? (fun e => decide (e.1 = i)) with
        | some e => e.2 % 2 ^ w
        | none => if x.tailZ = true ∧ x.vl ≤ i then 0 else x.elem w d i) ∧
    (∀ r i, r < 64 → r ≠ d → i < vlmax w → y.elem w r i = x.elem w r i) ∧
    y.vPois.testBit d = (pois ||
      (((!x.tailZ && decide (x.vl < vlmax w)) || decide ((x.active mask).length < x.vl)) && x.vPois.testBit d)) ∧
    (∀ r, r ≠ d → y.vPois.testBit r = x.vPois.testBit r) ∧ y.s = x.s ∧ y.m = x.m ∧ y.sPois = x.sPois) ∧
  (∀ (x y : VecCtx) (mask : Nat), x.vl = y.vl → (∀ i, i < x.vl → (x.mreg mask).testBit i = (y.mreg mask).testBit i) →
    x.active mask = y.active mask) ∧
  (∀ (e c op : Nat) (h : ArithShape) (g : ElemIn → FRes) (s : State) (x : VecCtx) (w : Nat), x = s.blk.vctx (ctxKey e c) →
      w = s.blk.ctxWord e c → s.issues e c op (vecReads h w) [.v (Ins.d w)] ((vecReads h w).any x.isPois) →
      assignedOp op → arithOk h x w → rmOk (Ins.rm w) →
    ∃ t res, s.run (vecArith e c op h g) = .next t ∧ res.map Prod.fst = x.active (Ins.mask w) ∧
      (t.blk.vctx (ctxKey e c)).v = (x.putV x.ew (Ins.mask w) (Ins.d w) res ((vecReads h w).any x.isPois)).v ∧
      (t.blk.vctx (ctxKey e c)).vPois = (x.putV x.ew (Ins.mask w) (Ins.d w) res ((vecReads h w).any x.isPois)).vPois ∧
      (t.blk.vctx (ctxKey e c)).s = x.s ∧ (t.blk.vctx (ctxKey e c)).m = x.m)

/-- Whatever way such an instruction goes (it retires, faults, waits, or is not the one at PC): outside its own context it changes nothing. Of the registers only STATUS and FLAGS of its context may change, no other context changes, package memory, local and instruction memory, tile registers, troughs and every other unit stay as they are, and packets are only added to the mesh. (R171, R180, R181, R184, R203) -/
def Obligations.EngineInstructionFrame : Prop :=
  ∀ (e : Fin 24) (c : Fin 4) (s t : State), ∀ i ∈ ([
      .nop e c, .halt e c, .setvl e c, .br e c, .jal e c, .jr e c, .dbnz e c, .vloop e c, .li e c, .lih e c, .flags e c, .rdts e c,
      .add e c, .sub e c, .mul e c, .mulhu e c, .andCmd e c, .orCmd e c, .xor e c, .sll e c, .srl e c, .sra e c, .min e c, .max e c,
      .slt e c, .sltu e c, .fadd e c, .fsub e c, .fmul e c, .fdiv e c, .fsqrt e c, .fma e c, .fmin e c, .fmax e c,
      .vadd e c, .vsub e c, .vmul e c, .vmin e c, .vmax e c, .vabs e c, .vneg e c, .vdiv e c, .vsqrt e c, .vfma e c, .vfms e c,
      .vfnma e c, .vscalb e c, .vgetexp e c, .vgetmant e c, .vand e c, .vor e c, .vxor e c, .vandn e c, .vsll e c, .vsrl e c,
      .vsra e c, .vsadd e c, .vssub e c, .vmulh e c, .vcmpeq e c, .vcmpne e c, .vcmplt e c, .vcmple e c,
      .vsel e c, .vmov e c, .vid e c, .vslidedn e c, .vslideup e c, .vperm e c, .vmovvs e c, .vmovsv e c, .vcvt e c, .vcvtmx e c,
      .vunmx e c, .mand e c, .mor e c, .mxor e c, .mandn e c, .mnot e c, .mpopc e c, .mfirst e c, .mfroms e c,
      .mset e c] : List Instr), exec i s = .next t → s.blk.ownContextOnly e c t.blk ∧ t.pending = s.pending

/-- Loads, stores, tile, reduction and trough instructions, fences and span acquires act on other units only by the packets they put on the mesh: every byte of package memory, its poison, the directory, the committed records, the gloves, the troughs, the pumps, the ports, the peers, trust, timing and power are unchanged by them, whichever way they go. (R180, R223, R225, R227, R240) -/
def Obligations.EngineLeavesPackageAlone : Prop :=
  ∀ (e : Fin 24) (c : Fin 4) (s t : State), ∀ i ∈ ([
      .vld e c, .vlds e c, .vldx e c, .vst e c, .vsts e c, .vstx e c, .lds e c, .sts e c, .trd e c, .trdc e c, .twr e c, .twrc e c,
      .tfree e c, .tzero e c, .tinfo e c, .rsum e c, .rsumsq e c, .rmax e c, .rmin e c, .ramax e c, .trgopen e c, .trgadd e c,
      .trgclose e c, .trgabort e c, .trgfin e c, .fence e c, .sacq e c, .srel e c] : List Instr),
    exec i s = .next t → s.blk.beyondEngines t.blk ∧ (∀ k, t.blk.byteAt k = s.blk.byteAt k) ∧ t.pending = s.pending

/-- Monitors, recalibration windows, pacing, samples, caps, rails, operating points, heat, energy and wear never change package memory or its poison, the directory, engine contexts, tile registers, local memories, troughs, cistern slots, intakes, descriptors, translation, peers, host ports or hats. (R46, R49, R450, R456, R461, R466) -/
def Obligations.TimingAndPowerFrame : Prop :=
  ∀ (s t : State) (r : Fin 16) (k : Fin 17) (b : Fin 32) (ob : Option (Fin 32)) (n m : Nat) (l l' : List Nat) (hat : Nat) (d : Fin 20) (op : Fin 16)
    (temps : List Int) (rails : List (Option (Nat × Nat))),
    ∀ i ∈ ([.monRecal hat n, .recalDrainDone r, .recalSearchDone r b, .idleCalibrationDone r ob, .pwrTargetWrite hat d op,
      .domainOpStepDone d, .bandHoldDone d, .powerSample l, .capRelax k, .capEscalate, .railTelemetryRead rails,
      .junctionSensorRead temps, .hubHeatStep d, .energyAttribution n l l', .wearHourly l m, .thermtrip] : List Instr),
    exec i s = .next t →
      t.blk.bytes = s.blk.bytes ∧ t.blk.pois = s.blk.pois ∧ t.blk.dir = s.blk.dir ∧ t.blk.mem = s.blk.mem ∧ t.blk.ctx = s.blk.ctx ∧
      t.blk.treg = s.blk.treg ∧ t.blk.imem = s.blk.imem ∧ t.blk.ldm = s.blk.ldm ∧ t.blk.vec = s.blk.vec ∧ t.blk.trg = s.blk.trg ∧
      t.blk.trgU = s.blk.trgU ∧ t.blk.trough = s.blk.trough ∧ t.blk.slot = s.blk.slot ∧ t.blk.intake = s.blk.intake ∧
      t.blk.work = s.blk.work ∧ t.blk.pmp = s.blk.pmp ∧ t.blk.xlt = s.blk.xlt ∧ t.blk.peer = s.blk.peer ∧ t.blk.span = s.blk.span ∧
      t.blk.port = s.blk.port ∧ t.blk.hats = s.blk.hats ∧ t.pending = s.pending

/-- The commands to a trough and the commands and packets of a round never change a byte of package memory, the directory, the instruction and data memories of engines, records and slots, gloves, tiles, host ports, timing, pumps, translation, or power but the activity counted; and, but for a packet at a span engine, which it hands to the span, hats or peers. (R233, R234, R238, R242, R247) -/
def Obligations.TroughFrame : Prop :=
  ∀ (s t : State) (hat : Nat) (q m : Fin 64) (p : Pkt) (u : Fin 8) (n : Nat) (v : Bool),
    ∀ i ∈ ([.arm hat q, .abandon hat q, .rearm hat q, .disarm hat q, .finish hat q, .memberEject hat q m, .zeroisationDone q,
      .trgOpen p, .trgOpenGrant u, .trgAdd p, .trgClose p, .trgAbort p, .trgAck p, .trgStat p, .trgFinish p, .trgIdleAbort u n,
      .trgAccumulateDone q, .trgDeadlineExpiry q, .trgReleaseDone q, .entropyHealthChange v] : List Instr),
    exec i s = .next t →
      t.blk.bytes = s.blk.bytes ∧ t.blk.pois = s.blk.pois ∧ t.blk.dir = s.blk.dir ∧ t.blk.imem = s.blk.imem ∧ t.blk.ldm = s.blk.ldm ∧
      t.blk.cis = s.blk.cis ∧ t.blk.slot = s.blk.slot ∧ t.blk.glv = s.blk.glv ∧ t.blk.prt = s.blk.prt ∧
      t.blk.port = s.blk.port ∧ t.blk.tmg = s.blk.tmg ∧ t.blk.pwr = { s.blk.pwr with activity := t.blk.pwr.activity } ∧
      t.blk.work = s.blk.work ∧ t.blk.intake = s.blk.intake ∧ t.blk.pmp = s.blk.pmp ∧ t.blk.xlt = s.blk.xlt ∧
      ((∀ g, p.dst ≠ .spanEng g) →
        t.blk.hats = s.blk.hats ∧ t.blk.peer = s.blk.peer ∧ t.blk.span = s.blk.span) ∧ t.pending = s.pending

/-- From any router towards any router: after as many hops as the columns differ by, the packet is in its destination column and has never left its row; after as many more as the rows differ by it is at its destination and has not left that column; no hop ever turns from the column back to the row. (R83, R86) -/
def Obligations.XYRouting : Prop :=
  ∀ x y dx dy n : Nat, ∀ pos : Nat → Nat × Nat, pos 0 = (x, y) → (∀ k, pos (k + 1) = nextRouter (pos k).1 (pos k).2 (dx, dy)) →
    (n ≤ (dx - x) + (x - dx) → (pos n).2 = y ∧ ((pos n).1 - dx) + (dx - (pos n).1) + n = (dx - x) + (x - dx)) ∧
    ((dx - x) + (x - dx) ≤ n → n ≤ (dx - x) + (x - dx) + ((dy - y) + (y - dy)) → (pos n).1 = dx) ∧
    pos ((dx - x) + (x - dx) + ((dy - y) + (y - dy))) = (dx, dy)

/-- A raise that reaches a function asserts the port's WAKE_N exactly when D3cold holds and finds PME_En set; otherwise WAKE_N is as it was; PERST_N deasserting releases it. (R413) -/
def Obligations.WakeN : Prop :=
  (∀ (q fn h v : Nat) (s : State),
    (((s.did (fnIrq q fn h v)).blk.portSt q).wakeN =
      if s.blk.on (Reg.HST_STATUS q) Fl.HST_STATUS_D3COLD = true ∧ (s.blk.fnSt q fn).pmeEn = true then true
      else (s.blk.portSt q).wakeN)) ∧
  (∀ (q : Fin 4) (s : State), s.up → s.blk.f (Reg.HST_STATUS q) Fl.HST_STATUS_PERST = 1 →
    ∃ t, exec (.perstDeassert q) s = .next t ∧ (t.blk.portSt q).wakeN = false ∧ t.blk.f (Reg.HST_STATUS q) Fl.HST_STATUS_PERST = 0)

/-- Bit i of the home bank is the exclusive or of bits 7 + i, 10 + i and 13 + i of the physical address; a source that may reach an address of package memory addresses the bank of that number in the well that the interleave gives, or, with that well fused off, ends the access itself with FUSED_OFF; all bytes of a line have one bank, and the eight lines of an aligned kilobyte have eight different ones. (R257) -/
def Obligations.HomeBank : Prop :=
  (∀ pa i, i < 3 → (homeBank pa).testBit i = ((pa.testBit (7 + i)).xor (pa.testBit (10 + i))).xor (pa.testBit (13 + i))) ∧
  (∀ pa, homeBank pa < 8) ∧
  (∀ (b : Block) (hat pa p w wl : Nat), b.place pa = .mem p w wl → b.memRight hat p = true →
    b.route hat pa = if b.wellOn w then .inr (.bank w (homeBank pa)) else .inl St.fusedOff) ∧
  (∀ pa o, o < 128 → homeBank (pa / 128 * 128 + o) = homeBank pa) ∧
  (∀ k i j, i < 8 → j < 8 → homeBank (1024 * k + 128 * i) = homeBank (1024 * k + 128 * j) → i = j)

/-- While the entropy source fails its tests, a trough in CLOSING shows RNG_WAIT and stays in CLOSING, and its release changes nothing; once it passes, with nothing left to accumulate and its well ready, the release adds the noise and the trough is RELEASED. (R242, R244) -/
def Obligations.NoReleaseWithoutNoise : Prop :=
  (∀ (t : Fin 64) (s : State), s.up → s.blk.trgState t = TrgState.closing →
    ∃ s', exec (.entropyHealthChange false) s = .next s' ∧ s'.blk.trgState t = TrgState.closing ∧
      s'.blk.f (Reg.TRG_CTL t) Fl.TRG_CTL_RNG_WAIT = 1 ∧ exec (.trgReleaseDone t) s' = .next s') ∧
  (∀ (t : Fin 64) (s : State), s.up → s.blk.trgState t = TrgState.closing → (s.blk.trgSt t).adding = [] → s.blk.trough.healthy = true →
      s.blk.accReady t →
    ∃ s', exec (.trgReleaseDone t) s = .next s' ∧ s'.blk.trgState t = TrgState.released ∧
      s'.blk.f (Reg.TRG_CTL t) Fl.TRG_CTL_RNG_WAIT = 0 ∧
      (s'.blk.trgSt t).acc =
        if s.blk.f (Reg.TRG_PARAM t) Fl.TRG_PARAM_SIGMA % 2 ^ 31 = 0 then (s.blk.trgSt t).acc
        else noisedAcc s.blk.free (s.blk.trgElems t) (s.blk.trgQexp t) (s.blk.trgSt t).acc)

/-- A packet whose turn it is not stays where it is and changes nothing. A packet that is granted an output to a neighbour finds room there: fewer than four packets of its plane and class in that input, on a DAT plane with at most four data units between them and its own. No request is granted while a response competes and fewer than eight responses in a row have passed one, no response after eight while a request competes; a grant never makes the count more than eight. Where packets compete one of them is granted. (R54, R55, R87, R88) -/
def Obligations.RouterArbitration : Prop :=
  (∀ (x : Fin 16) (y : Fin 12) (plane : Fin 6) (hdr : BitVec 128) (units : List DUnit) (f : Flight) (s : State), s.up →
      f = ⟨x, y, plane, hdr, units⟩ → s.blk.noc.flights.contains f = true → f.malformed = false → s.blk.granted f = false →
    exec (.packetHop x y plane hdr units .clean) s = .next s) ∧
  (∀ (b : Block) (f g : Flight), b.granted f = true → f.dst ≠ (f.x, f.y) →
      g = { f with x := (nextRouter f.x f.y f.dst).1, y := (nextRouter f.x f.y f.dst).2 } →
    (b.buffered.filter (b.sameBuffer g)).length < 4 ∧
    (2 ≤ f.plane → ((b.buffered.filter (b.sameBuffer g)).map Flight.count).sum + f.count ≤ 4)) ∧
  (∀ (b : Block) (f g : Flight), f ∈ b.rivals g → f.isResp = true → g.isResp = false → (b.arbOf g).resp < 8 → b.granted g = false) ∧
  (∀ (b : Block) (f g : Flight), f ∈ b.rivals g → f.isResp = false → g.isResp = true → 8 ≤ (b.arbOf g).resp → b.granted g = false) ∧
  (∀ (b : Block) (f : Flight), b.granted f = true → (b.arbOf f).resp ≤ 8 → (((noteGrant f).run b).arbOf f).resp ≤ 8) ∧
  (∀ (b : Block) (f : Flight), f ∈ b.noc.flights → b.rivals f ≠ [] → ∃ g ∈ b.rivals f, b.granted g = true)
end

