-- ==== Sys2Proof/Laws/Bits.lean ====
section
/-! SUPPORT. Fields of a register word, bits of a number, bytes of a number. -/

namespace Sys2Proof.Machine

theorem testBit_getFld (w : W64) (f : Fld) (i : Nat) :
    (getFld w f).testBit i = (decide (i < f.width) && w.getLsbD (f.lo + i)) := by
  simp [getFld, Nat.testBit_mod_two_pow, BitVec.testBit_toNat]

theorem getLsbD_mask (f : Fld) (i : Nat) (h : i < 64) :
    f.mask.getLsbD i = (decide (f.lo ≤ i) && decide (i < f.lo + f.width)) := by
  simp only [Fld.mask, BitVec.getLsbD_ofNat, h, decide_true, Bool.true_and, Nat.testBit_mul_two_pow, Nat.testBit_two_pow_sub_one]
  by_cases h1 : f.lo ≤ i
  · simp only [h1, decide_true, Bool.true_and, decide_eq_decide]; omega
  · simp [h1]

/-- The bits of a word with one field replaced. -/
theorem getLsbD_putFld (w : W64) (f : Fld) (v i : Nat) (h : i < 64) :
    (putFld w f v).getLsbD i =
      if f.lo ≤ i ∧ i < f.lo + f.width then (v % 2 ^ f.width).testBit (i - f.lo) else w.getLsbD i := by
  simp only [putFld, BitVec.getLsbD_or, BitVec.getLsbD_and, BitVec.getLsbD_not, getLsbD_mask f i h, h, decide_true, Bool.true_and,
    BitVec.getLsbD_shiftLeft, BitVec.getLsbD_ofNat]
  by_cases h1 : f.lo ≤ i
  · by_cases h2 : i < f.lo + f.width
    · have h3 : i - f.lo < 64 := by omega
      simp [h1, h2, h3]
    · have h3 : ¬ i - f.lo < f.width := by omega
      simp [h1, h2, Nat.testBit_mod_two_pow, h3]
  · have h3 : i < f.lo := by omega
    simp [h1, h3]

/-- A field just written reads as written, cut to its width. -/
theorem getFld_putFld (w : W64) (v : Nat) {f : Fld} (h : f.lo + f.width ≤ 64) : getFld (putFld w f v) f = v % 2 ^ f.width := by
  apply Nat.eq_of_testBit_eq
  intro i
  rw [testBit_getFld]
  by_cases hi : i < f.width
  · rw [getLsbD_putFld _ _ _ _ (by omega), if_pos (by omega)]
    simp [hi]
  · simp [hi, Nat.testBit_mod_two_pow]

/-- A field beside the one written reads as before. -/
theorem getFld_putFld_other (w : W64) (v : Nat) {f g : Fld} (h : g.lo + g.width ≤ f.lo ∨ f.lo + f.width ≤ g.lo) :
    getFld (putFld w f v) g = getFld w g := by
  apply Nat.eq_of_testBit_eq
  intro i
  rw [testBit_getFld, testBit_getFld]
  by_cases hi : i < g.width
  · by_cases h64 : g.lo + i < 64
    · rw [getLsbD_putFld _ _ _ _ h64, if_neg (by omega)]
    · rw [BitVec.getLsbD_of_ge _ _ (by omega), BitVec.getLsbD_of_ge _ _ (by omega)]
  · simp [hi]

theorem length_toBytesLE (k n : Nat) : (toBytesLE k n).length = k := by
  induction k generalizing n with
  | zero => rfl
  | succ k ih => simp [toBytesLE, ih]

/-- The number that the bytes of a number spell. -/
theorem ofBytesLE_toBytesLE (k n : Nat) : ofBytesLE (toBytesLE k n) = n % 256 ^ k := by
  induction k generalizing n with
  | zero => simp [toBytesLE, ofBytesLE, Nat.mod_one]
  | succ k ih =>
    simp only [toBytesLE, ofBytesLE, ih, BitVec.toNat_ofNat]
    rw [show (256 : Nat) ^ (k + 1) = 256 * 256 ^ k by rw [Nat.pow_succ, Nat.mul_comm], Nat.mod_mul]

end Sys2Proof.Machine
end

