-- ==== Sys2Proof/Laws/Tbl.lean ====
section
/-! SUPPORT. Sparse tables: a read after a write, and the canonical form, which every operation keeps. -/

namespace Sys2Proof.Machine

variable {V : Type} {d : Nat → V}

/-- The bound below which keys rise, as a proposition. -/
theorem Tbl.rising_cons (lo : Option Nat) (k : Nat) (v : V) (t : Tbl V) :
    Tbl.rising lo ((k, v) :: t) = true ↔ (∀ l, lo = some l → l < k) ∧ Tbl.rising (some k) t = true := by
  cases lo <;> simp [Tbl.rising]

theorem Tbl.rising_mono {lo : Option Nat} {l : Nat} {t : Tbl V} (h : Tbl.rising (some l) t = true)
    (hl : ∀ x, lo = some x → x ≤ l) : Tbl.rising lo t = true := by
  cases t with
  | nil => rfl
  | cons e t =>
    obtain ⟨k, v⟩ := e
    rw [Tbl.rising_cons] at h ⊢
    exact ⟨fun x hx => Nat.lt_of_le_of_lt (hl x hx) (h.1 l rfl), h.2⟩

theorem Tbl.get_put (j k : Nat) (v : V) (t : Tbl V) :
    Tbl.get d j (Tbl.put k v t) = if j = k then v else Tbl.get d j t := by
  induction t with
  | nil => rfl
  | cons e t ih =>
    obtain ⟨k', v'⟩ := e
    simp only [Tbl.put]
    repeat' split
    all_goals simp only [Tbl.get]
    all_goals repeat' split
    all_goals first | rfl | omega | simp_all

theorem Tbl.get_del (j k : Nat) (t : Tbl V) : Tbl.get d j (Tbl.del k t) = if j = k then d k else Tbl.get d j t := by
  induction t with
  | nil => simp only [Tbl.del, List.filter_nil, Tbl.get]; split <;> simp_all
  | cons e t ih =>
    obtain ⟨k', v'⟩ := e
    simp only [Tbl.del] at ih
    simp only [Tbl.del, List.filter_cons, ne_eq, decide_not, Tbl.get]
    by_cases h : k' = k
    · subst h
      simp only [decide_true, Bool.not_true, Bool.false_eq_true, if_false]
      simp only [ne_eq, decide_not] at ih
      rw [ih]; split <;> rfl
    · simp only [h, decide_false, Bool.not_false, if_true, Tbl.get]
      simp only [ne_eq, decide_not] at ih
      rw [ih]
      by_cases hj : j = k
      · subst hj; rw [if_neg (fun h' => h h'.symm), if_pos rfl, if_pos rfl]
      · rw [if_neg hj, if_neg hj]

/-- A read after a write: the written key reads as written, every other key as before. -/
theorem Tbl.get_set [DecidableEq V] (j k : Nat) (v : V) (t : Tbl V) :
    Tbl.get d j (Tbl.set d k v t) = if j = k then v else Tbl.get d j t := by
  simp only [Tbl.set]
  split
  · subst_vars; rw [Tbl.get_del]
  · rw [Tbl.get_put]

theorem Tbl.rising_put {lo : Option Nat} {t : Tbl V} (h : Tbl.rising lo t = true) (k : Nat) (v : V)
    (hk : ∀ l, lo = some l → l < k) : Tbl.rising lo (Tbl.put k v t) = true := by
  induction t generalizing lo with
  | nil => simp only [Tbl.put]; rw [Tbl.rising_cons]; exact ⟨hk, rfl⟩
  | cons e t ih =>
    obtain ⟨k', v'⟩ := e
    have hr := (Tbl.rising_cons _ _ _ _).1 h
    simp only [Tbl.put]
    split
    · rw [Tbl.rising_cons, Tbl.rising_cons]
      exact ⟨hk, fun l hl => by cases hl; assumption, hr.2⟩
    · split
      · subst_vars; rw [Tbl.rising_cons]; exact ⟨hk, hr.2⟩
      · rw [Tbl.rising_cons]
        exact ⟨hr.1, ih hr.2 fun l hl => by cases hl; omega⟩

theorem Tbl.rising_filter {lo : Option Nat} {t : Tbl V} (h : Tbl.rising lo t = true) (p : Nat × V → Bool) :
    Tbl.rising lo (t.filter p) = true := by
  induction t generalizing lo with
  | nil => rfl
  | cons e t ih =>
    obtain ⟨k, v⟩ := e
    have hr := (Tbl.rising_cons _ _ _ _).1 h
    simp only [List.filter]
    split
    · rw [Tbl.rising_cons]; exact ⟨hr.1, ih hr.2⟩
    · exact ih (Tbl.rising_mono hr.2 fun x hx => Nat.le_of_lt (hr.1 x hx))

theorem Tbl.rising_del {lo : Option Nat} {t : Tbl V} (h : Tbl.rising lo t = true) (k : Nat) :
    Tbl.rising lo (Tbl.del k t) = true := Tbl.rising_filter h _

theorem Tbl.mem_put {e : Nat × V} {k : Nat} {v : V} {t : Tbl V} (h : e ∈ Tbl.put k v t) : e = (k, v) ∨ e ∈ t := by
  induction t with
  | nil => simpa [Tbl.put] using h
  | cons x t ih =>
    obtain ⟨k', v'⟩ := x
    simp only [Tbl.put] at h
    split at h
    · simpa using h
    · split at h
      · simp only [List.mem_cons] at h ⊢; exact h.imp id Or.inr
      · simp only [List.mem_cons] at h ⊢
        exact h.elim (fun h => Or.inr (Or.inl h)) fun h => (ih h).imp id Or.inr

theorem Tbl.mem_del {e : Nat × V} {k : Nat} {t : Tbl V} (h : e ∈ Tbl.del k t) : e ∈ t := (List.mem_filter.1 h).1

/-- Writing a key keeps the canonical form. -/
theorem Tbl.wf_set [DecidableEq V] {t : Tbl V} (h : Tbl.wf d t = true) (k : Nat) (v : V) :
    Tbl.wf d (Tbl.set d k v t) = true := by
  simp only [Tbl.wf, Bool.and_eq_true, List.all_eq_true, decide_eq_true_eq] at h ⊢
  simp only [Tbl.set]
  split
  · exact ⟨Tbl.rising_del h.1 k, fun e he => h.2 e (Tbl.mem_del he)⟩
  · refine ⟨Tbl.rising_put h.1 k v (by simp), fun e he => ?_⟩
    rcases Tbl.mem_put he with rfl | he
    · assumption
    · exact h.2 e he

/-- Writing a run of keys keeps it. -/
theorem Tbl.wf_setRun [DecidableEq V] (l : List V) {t : Tbl V} (h : Tbl.wf d t = true) (k : Nat) :
    Tbl.wf d (Tbl.setRun d k l t) = true := by
  induction l generalizing k t with
  | nil => exact h
  | cons v l ih => exact ih (Tbl.wf_set h k v) (k + 1)

/-- Dropping entries keeps it. -/
theorem Tbl.wf_filter [DecidableEq V] {t : Tbl V} (h : Tbl.wf d t = true) (p : Nat × V → Bool) :
    Tbl.wf d (t.filter p) = true := by
  simp only [Tbl.wf, Bool.and_eq_true, List.all_eq_true, decide_eq_true_eq] at h ⊢
  exact ⟨Tbl.rising_filter h.1 p, fun e he => h.2 e (List.mem_filter.1 he).1⟩

theorem Tbl.wf_clearRange [DecidableEq V] {t : Tbl V} (h : Tbl.wf d t = true) (lo hi : Nat) :
    Tbl.wf d (Tbl.clearRange lo hi t) = true := Tbl.wf_filter h _

theorem Tbl.wf_keep [DecidableEq V] {t : Tbl V} (h : Tbl.wf d t = true) (p : Nat → Bool) :
    Tbl.wf d (Tbl.keep p t) = true := Tbl.wf_filter h _

/-- A read after a run of writes. -/
theorem Tbl.get_setRun [DecidableEq V] (l : List V) (j k : Nat) (t : Tbl V) :
    Tbl.get d j (Tbl.setRun d k l t) = if h : k ≤ j ∧ j - k < l.length then l[j - k]'h.2 else Tbl.get d j t := by
  induction l generalizing k t with
  | nil => simp [Tbl.setRun]
  | cons v l ih =>
    simp only [Tbl.setRun, ih, Tbl.get_set, List.length_cons]
    by_cases hj : j = k
    · subst hj; simp only [Nat.not_succ_le_self, false_and, dite_false, if_true, Nat.sub_self]; rw [dif_pos (by omega)]; rfl
    · by_cases hk : k + 1 ≤ j ∧ j - (k + 1) < l.length
      · have : j - k = j - (k + 1) + 1 := by omega
        rw [dif_pos hk, dif_pos (by omega)]
        simp [this]
      · rw [dif_neg hk, if_neg hj, dif_neg (by omega)]

end Sys2Proof.Machine
end

