-- ==== Sys2Proof/Laws/Canonical.lean ====
section
/-! SUPPORT. The canonical form: the state after reset has it, and every edit, so every program of edits, keeps it. -/

namespace Sys2Proof.Machine

theorem risingNats_cons (x : Nat) (l : List Nat) :
    risingNats (x :: l) = true ↔ (∀ y ∈ l, x < y) ∧ risingNats l = true := by
  induction l generalizing x with
  | nil => simp [risingNats]
  | cons y l ih =>
    simp only [risingNats, Bool.and_eq_true, decide_eq_true_eq, List.mem_cons, forall_eq_or_imp]
    rw [ih y]
    exact ⟨fun h => ⟨⟨h.1, fun z hz => Nat.lt_trans h.1 (h.2.1 z hz)⟩, h.2⟩, fun h => ⟨h.1.1, h.2⟩⟩

theorem mem_insertNat {n y : Nat} {l : List Nat} (h : y ∈ insertNat n l) : y = n ∨ y ∈ l := by
  induction l with
  | nil => simpa [insertNat] using h
  | cons x l ih =>
    simp only [insertNat] at h
    split at h
    · simpa using h
    · split at h
      · exact Or.inr h
      · simp only [List.mem_cons] at h ⊢
        exact h.elim (fun h => Or.inr (Or.inl h)) fun h => (ih h).imp id Or.inr

theorem risingNats_insertNat (n : Nat) {l : List Nat} (h : risingNats l = true) : risingNats (insertNat n l) = true := by
  induction l with
  | nil => rfl
  | cons x l ih =>
    have hx := (risingNats_cons x l).1 h
    simp only [insertNat]
    split
    · rw [risingNats_cons]
      refine ⟨fun y hy => ?_, h⟩
      rcases List.mem_cons.1 hy with rfl | hy
      · assumption
      · have := hx.1 y hy; omega
    · split
      · exact h
      · rw [risingNats_cons]
        refine ⟨fun y hy => ?_, ih hx.2⟩
        rcases mem_insertNat hy with rfl | hy
        · omega
        · exact hx.1 y hy

theorem risingNats_filter (p : Nat → Bool) {l : List Nat} (h : risingNats l = true) : risingNats (l.filter p) = true := by
  induction l with
  | nil => rfl
  | cons x l ih =>
    have hx := (risingNats_cons x l).1 h
    simp only [List.filter]
    split
    · rw [risingNats_cons]
      exact ⟨fun y hy => hx.1 y (List.mem_filter.1 hy).1, ih hx.2⟩
    · exact ih hx.2

theorem Tbl.wf_upd {V : Type} [DecidableEq V] {v0 : V} {t : Tbl V} (h : Tbl.wf (dflt v0) t = true) (k : Nat) (g : V → V) :
    Tbl.wf (dflt v0) (Tbl.upd v0 k g t) = true := Tbl.wf_set h k _

/-- A read after an update of one record. -/
theorem Tbl.get_upd {V : Type} [DecidableEq V] {v0 : V} (t : Tbl V) (j k : Nat) (g : V → V) :
    Tbl.get (dflt v0) j (Tbl.upd v0 k g t) = if j = k then g (Tbl.get (dflt v0) k t) else Tbl.get (dflt v0) j t :=
  Tbl.get_set j k _ t

/-- Every edit of the memory, of the registers and of any other table keeps the canonical form. -/
theorem Edit.apply_canonical (e : Edit) {b : Block} (h : b.canonicalForm = true) : (e.apply b).canonicalForm = true := by
  simp only [Block.canonicalForm, Block.regsWf, Memory.wf, Bool.and_eq_true] at h ⊢
  obtain ⟨⟨⟨⟨⟨⟨⟨⟨⟨⟨⟨⟨⟨⟨⟨⟨⟨⟨h0, h1, h1'⟩, h2⟩, h3⟩, h4⟩, h5⟩, h6⟩, h7⟩, h8⟩, h9⟩, h10⟩, h11⟩, h12⟩, h13⟩, h14⟩, h15⟩, h16⟩, h17⟩, h18⟩ := h
  cases e
  case pois half on =>
    refine ⟨⟨⟨⟨⟨⟨⟨⟨⟨⟨⟨⟨⟨⟨⟨⟨⟨⟨h0, h1, ?_⟩, h2⟩, h3⟩, h4⟩, h5⟩, h6⟩, h7⟩, h8⟩, h9⟩, h10⟩, h11⟩, h12⟩, h13⟩, h14⟩, h15⟩, h16⟩, h17⟩, h18⟩
    simp only [Edit.apply]
    split
    · exact risingNats_insertNat _ h1'
    · exact risingNats_filter _ h1'
  case poisDrop lo hi =>
    exact ⟨⟨⟨⟨⟨⟨⟨⟨⟨⟨⟨⟨⟨⟨⟨⟨⟨⟨h0, h1, risingNats_filter _ h1'⟩, h2⟩, h3⟩, h4⟩, h5⟩, h6⟩, h7⟩, h8⟩, h9⟩, h10⟩, h11⟩, h12⟩, h13⟩, h14⟩, h15⟩, h16⟩, h17⟩, h18⟩
  case fresh =>
    exact ⟨⟨⟨⟨⟨⟨⟨⟨⟨⟨⟨⟨⟨⟨⟨⟨⟨⟨h0, h1, h1'⟩, h2⟩, rfl⟩, rfl⟩, rfl⟩, rfl⟩, rfl⟩, rfl⟩, rfl⟩, rfl⟩, rfl⟩, rfl⟩, rfl⟩, rfl⟩, rfl⟩, rfl⟩, rfl⟩, rfl⟩
  all_goals
    simp only [Edit.apply]
    refine ⟨⟨⟨⟨⟨⟨⟨⟨⟨⟨⟨⟨⟨⟨⟨⟨⟨⟨?_, ?_, ?_⟩, ?_⟩, ?_⟩, ?_⟩, ?_⟩, ?_⟩, ?_⟩, ?_⟩, ?_⟩, ?_⟩, ?_⟩, ?_⟩, ?_⟩, ?_⟩, ?_⟩, ?_⟩, ?_⟩, ?_⟩ <;>
      first
        | with_reducible assumption
        | exact Tbl.wf_upd (by assumption) _ _
        | exact Tbl.wf_set (by assumption) _ _
        | exact Tbl.wf_setRun _ (by assumption) _
        | exact Tbl.wf_clearRange (by assumption) _ _
        | exact Tbl.wf_keep (by assumption) _

/-- So does every program of edits. -/
theorem Prog.run_canonical (p : Prog) {b : Block} (h : b.canonicalForm = true) : (p.run b).canonicalForm = true := by
  induction p generalizing b with
  | skip => exact h
  | edit e => exact e.apply_canonical h
  | seq p q ihp ihq => exact ihq (ihp h)
  | read k ih => exact ih b h

/-- Package memory alone: every edit keeps its canonical form. -/
theorem Edit.apply_memory (e : Edit) {b : Block} (h : Memory.wf b = true) : Memory.wf (e.apply b) = true := by
  simp only [Memory.wf, Bool.and_eq_true] at h ⊢
  cases e
  case pois half on =>
    refine ⟨h.1, ?_⟩
    simp only [Edit.apply]
    split
    · exact risingNats_insertNat _ h.2
    · exact risingNats_filter _ h.2
  case poisDrop lo hi => exact ⟨h.1, risingNats_filter _ h.2⟩
  case bytes k l => exact ⟨Tbl.wf_setRun _ h.1 _, h.2⟩
  case bytesDrop lo hi => exact ⟨Tbl.wf_clearRange h.1 _ _, h.2⟩
  all_goals exact h

/-- So does every program of edits. -/
theorem Prog.run_memory (p : Prog) {b : Block} (h : Memory.wf b = true) : Memory.wf (p.run b) = true := by
  induction p generalizing b with
  | skip => exact h
  | edit e => exact e.apply_memory h
  | seq p q ihp ihq => exact ihq (ihp h)
  | read k ih => exact ih b h

/-- Package memory of a block in canonical form is in canonical form. -/
theorem Memory.wf_of_canonical {b : Block} (h : b.canonicalForm = true) : Memory.wf b = true := by
  simp only [Block.canonicalForm, Bool.and_eq_true] at h
  simp [h]

/-- The memory after reset lists nothing and is in canonical form. -/
theorem Memory.wf_reset : Memory.wf State.reset.blk = true := rfl

end Sys2Proof.Machine
end

