-- ==== Sys2Proof/Laws/Run.lean ====
section
/-! SUPPORT. Running programs of edits: one equation per way of building a program, and the step of a meaning in a block that
works. -/

namespace Sys2Proof.Machine

@[simp] theorem Prog.run_skip (b : Block) : Prog.skip.run b = b := rfl
@[simp] theorem Prog.run_edit (e : Edit) (b : Block) : (Prog.edit e).run b = e.apply b := rfl
@[simp] theorem Prog.run_seq (p q : Prog) (b : Block) : (Prog.seq p q).run b = q.run (p.run b) := rfl
@[simp] theorem Prog.run_read (k : Block → Prog) (b : Block) : (Prog.read k).run b = (k b).run b := rfl
@[simp] theorem Prog.run_all_nil (b : Block) : (Prog.all []).run b = b := rfl
@[simp] theorem Prog.run_all_cons (p : Prog) (l : List Prog) (b : Block) : (Prog.all (p :: l)).run b = (Prog.all l).run (p.run b) := rfl
@[simp] theorem Prog.run_each_nil {α : Type} (k : α → Prog) (b : Block) : (Prog.each [] k).run b = b := rfl
@[simp] theorem Prog.run_each_cons {α : Type} (x : α) (l : List α) (k : α → Prog) (b : Block) :
    (Prog.each (x :: l) k).run b = (Prog.each l k).run ((k x).run b) := rfl
@[simp] theorem Prog.when_true (p : Prog) : Prog.when true p = p := rfl
@[simp] theorem Prog.when_false (p : Prog) : Prog.when false p = Prog.skip := rfl
@[simp] theorem Prog.for?_some {α : Type} (x : α) (k : α → Prog) : Prog.for? (some x) k = k x := rfl
@[simp] theorem Prog.for?_none {α : Type} (k : α → Prog) : Prog.for? none k = Prog.skip := rfl

/-- A meaning in a block that works does its program. -/
theorem State.run_up {s : State} (h : s.up = true) (p : Prog) : s.run p = .next (s.did p) := by
  simp only [State.up, Bool.and_eq_true] at h
  simp [State.run, State.runWell, State.runRaw, State.did, h.1, h.2]

/-- A meaning of the wellhead's, while the package is not held in reset. -/
theorem State.runWell_up {s : State} (h : s.blk.held = false) (p : Prog) : s.runWell p = .next (s.did p) := by
  simp [State.runWell, State.runRaw, State.did, h]

theorem State.up_held {s : State} (h : s.up = true) : s.blk.held = false := by
  simp only [State.up, Bool.and_eq_true, Bool.not_eq_true'] at h; exact h.1

theorem State.runRaw_did (s : State) (p : Prog) : s.runRaw p = .next (s.did p) := rfl

/-- A program that reads does what its reading chooses. -/
theorem State.did_read (s : State) (k : Block → Prog) : s.did (.read k) = s.did (k s.blk) := rfl

theorem State.did_skip (s : State) : s.did .skip = s := rfl

/-- A hat that its port admits does what it commands. -/
theorem State.did_underHat {s : State} {h : Nat} (p : Prog) (hp : s.blk.portAdmits h = true) :
    s.did (underHat h p) = s.did p := by
  simp [underHat, State.did_read, hp]

theorem State.arrives_up {s : State} {p : Pkt} {c : Nat} (h : s.arrives p c = true) : s.up = true := by
  simp only [State.arrives, Bool.and_eq_true] at h
  exact h.1.1.1

/-- A packet that has arrived is taken up. -/
theorem State.did_onPkt {s : State} {p : Pkt} {c : Nat} (k : Prog) (h : s.arrives p c = true) : s.did (onPkt p c k) = s.did k := by
  simp only [State.arrives, Bool.and_eq_true, decide_eq_true_eq] at h
  obtain ⟨⟨⟨-, h1⟩, h2⟩, h3⟩ := h
  rw [onPkt, State.did_read]
  simp only [h1, h2, decide_true, Bool.and_self, Prog.when_true]
  revert h3
  cases s.blk.epDom p.dst with
  | none => intro; rfl
  | some d => intro h3; simp only [Bool.and_eq_true, Bool.not_eq_true'] at h3; simp [h3.1, h3.2]

theorem State.may_up {s : State} {h r : Nat} (m : s.may h r = true) : s.up = true := by
  simp only [State.may, Bool.and_eq_true] at m; exact m.1.1
theorem State.may_admits {s : State} {h r : Nat} (m : s.may h r = true) : s.blk.portAdmits h = true := by
  simp only [State.may, Bool.and_eq_true] at m; exact m.1.2
theorem State.may_holds {s : State} {h r : Nat} (m : s.may h r = true) : s.blk.holds h r = true := by
  simp only [State.may, Bool.and_eq_true] at m; exact m.2

theorem State.hears_up {s : State} {c : Nat} {f : SpanFrame} (h : s.hears c f = true) : s.up = true := by
  simp only [State.hears, Bool.and_eq_true] at h
  exact h.1.1.1.1.1.1.1

/-- A frame that is taken in does what it asks, after the count of its quads' FEC. -/
theorem State.did_frameIn {s : State} {c : Nat} {f : SpanFrame} (quads : List Nat) (k : Prog) (h : s.hears c f = true) :
    s.did (frameIn c quads f true k) = s.did (.all [fecSeen c quads, k]) := by
  simp only [State.hears, Bool.and_eq_true, Bool.or_eq_true, decide_eq_true_eq, Bool.not_eq_true'] at h
  obtain ⟨⟨⟨⟨⟨⟨⟨-, h1⟩, h2⟩, h3⟩, h4⟩, h5⟩, h6⟩, h7⟩ := h
  rw [frameIn, State.did_read]
  have h8 : ¬ (f.dstPkg ≠ s.blk.ownPkg ∧ ¬ (f.type = 3 ∧ f.dstPkg = 0x3FF)) := fun hc => h4.elim hc.1 hc.2
  have h9 : (s.blk.boundHat (0x400 + f.srcPkg)).isNone = false := by simpa [Option.isNone_iff_eq_none, Option.isSome_iff_ne_none] using h7
  simp only [h1, h2, h3, h8, h5, h6, h9, not_true, Bool.not_true, decide_false, Bool.or_self, Bool.false_eq_true, if_false, ne_eq]

theorem State.did_inSession {s : State} {f : SpanFrame} (k : Prog) (h : s.inSessionWith f = true) :
    s.did (inSession f k) = s.did k := by
  simp only [State.inSessionWith, Bool.and_eq_true, decide_eq_true_eq] at h
  rw [inSession, State.did_read]
  simp [h.1, h.2]

/-- What a program does whose reading is settled. -/
theorem State.did_when_true {s : State} {c : Bool} (p : Prog) (h : c = true) : s.did (.when c p) = s.did p := by simp [h]

/-- An instruction that issues, legal, ready and not refused, retires with its effect. -/
theorem State.run_vecIssue {s : State} {e c : Nat} {o : VecOp} {x : VecCtx} {w : Nat}
    (hx : x = s.blk.vctx (ctxKey e c)) (hw : w = s.blk.ctxWord e c)
    (h : s.issues e c o.op (o.reads w) (o.writes w) (o.poisoned s.blk x w) = true) (ha : assignedOp o.op = true)
    (hl : o.legal s.blk x w = true) (hr : o.ready s.blk x w = true) (hf : o.refuse s.blk x w = none) :
    s.run (vecIssue e c o) = .next (s.retires e c (o.poisoned s.blk x w) (o.body s.blk x w)) := by
  subst hx hw
  simp only [State.issues, Bool.and_eq_true, decide_eq_true_eq, Bool.not_eq_true'] at h
  obtain ⟨⟨⟨⟨⟨⟨⟨⟨hu, hc⟩, hi⟩, hp⟩, ho⟩, hq⟩, hb⟩, hbad⟩, ht⟩ := h
  rw [State.run_up hu, vecIssue, State.did_read]
  simp only [Option.isNone_iff_eq_none] at hq hbad
  simp only [hc, hi, hp, ho, ha, hl, hr, hf, hq, hb, hbad, ht, State.retires, Bool.not_true, Bool.false_eq_true, ↓reduceIte, ne_eq,
    not_true_eq_false, Option.isSome_none, Bool.or_false]

end Sys2Proof.Machine
end

