-- ==== Sys2Proof/Laws/Frame.lean ====
section
/-! SUPPORT. What a program of edits leaves alone.  A relation between blocks that is reflexive and transitive holds between the
block before a program and the block after it, once it holds across each of the program's edits. -/

namespace Sys2Proof.Machine

/-- A relation that composes: what an empty program and two programs in turn keep. -/
structure Frame (R : Block → Block → Prop) : Prop where
  refl  : ∀ b, R b b
  trans : ∀ a b c, R a b → R b c → R a c

/-- The relation holds across the program, from whatever block it starts. -/
def Prog.Within (R : Block → Block → Prop) (p : Prog) : Prop := ∀ b, R b (p.run b)

variable {R : Block → Block → Prop}

theorem Prog.within_skip (h : Frame R) : Prog.Within R .skip := fun b => h.refl b
theorem Prog.within_edit {e : Edit} (h : ∀ b, R b (e.apply b)) : Prog.Within R (.edit e) := h
theorem Prog.within_seq (h : Frame R) {p q : Prog} (hp : Prog.Within R p) (hq : Prog.Within R q) : Prog.Within R (.seq p q) :=
  fun b => h.trans _ _ _ (hp b) (hq _)
theorem Prog.within_read {k : Block → Prog} (hk : ∀ b, Prog.Within R (k b)) : Prog.Within R (.read k) := fun b => hk b b
theorem Prog.within_all_nil (h : Frame R) : Prog.Within R (.all []) := fun b => h.refl b
theorem Prog.within_all_cons (h : Frame R) {p : Prog} {l : List Prog} (hp : Prog.Within R p) (hl : Prog.Within R (.all l)) :
    Prog.Within R (.all (p :: l)) := Prog.within_seq h hp hl
theorem Prog.within_each (h : Frame R) {α : Type} (l : List α) {k : α → Prog} (hk : ∀ x, Prog.Within R (k x)) :
    Prog.Within R (.each l k) := by
  induction l with
  | nil => exact Prog.within_skip h
  | cons x l ih => exact Prog.within_seq h (hk x) ih
theorem Prog.within_when (h : Frame R) {c : Bool} {p : Prog} (hp : c = true → Prog.Within R p) : Prog.Within R (.when c p) := by
  cases c
  · exact Prog.within_skip h
  · exact hp rfl
theorem Prog.within_for? (h : Frame R) {α : Type} (o : Option α) {k : α → Prog} (hk : ∀ x, Prog.Within R (k x)) :
    Prog.Within R (.for? o k) := by
  cases o
  · exact Prog.within_skip h
  · exact hk _
theorem Prog.within_ite {c : Prop} [Decidable c] {p q : Prog} (hp : c → Prog.Within R p) (hq : ¬ c → Prog.Within R q) :
    Prog.Within R (if c then p else q) := by
  split
  · exact hp ‹_›
  · exact hq ‹_›

/-- A part of the block that every edit of a program leaves alone is the same after it. -/
theorem Frame.of_eq {α : Type} (f : Block → α) : Frame fun b b' => f b' = f b :=
  ⟨fun _ => rfl, fun _ _ _ h h' => h'.trans h⟩

/-- Two relations that compose do so together. -/
theorem Frame.and {R' : Block → Block → Prop} (h : Frame R) (h' : Frame R') : Frame fun b b' => R b b' ∧ R' b b' :=
  ⟨fun b => ⟨h.refl b, h'.refl b⟩, fun _ _ _ x y => ⟨h.trans _ _ _ x.1 y.1, h'.trans _ _ _ x.2 y.2⟩⟩

/-- A step of a meaning relates the block before it to the block after it as its program does. -/
theorem State.run_within (hf : Frame R) {s t : State} {p : Prog} (hp : Prog.Within R p) (h : s.run p = .next t) : R s.blk t.blk := by
  simp only [State.run, State.runWell, State.runRaw, Host.Outcome.next.injEq] at h
  subst h
  exact Prog.within_read (k := fun b => .when (!b.held) (.read fun b => .when (!b.sys.scanned) p))
    (fun _ => Prog.within_when hf fun _ => Prog.within_read fun _ => Prog.within_when hf fun _ => hp) s.blk

theorem State.runRaw_within {s t : State} {p : Prog} (hp : Prog.Within R p) (h : s.runRaw p = .next t) : R s.blk t.blk := by
  simp only [State.runRaw, Host.Outcome.next.injEq] at h
  subst h; exact hp s.blk

theorem State.runWell_within (hf : Frame R) {s t : State} {p : Prog} (hp : Prog.Within R p) (h : s.runWell p = .next t) :
    R s.blk t.blk :=
  State.runRaw_within (Prog.within_read fun _ => Prog.within_when hf fun _ => hp) h

/-- A step of a meaning leaves the queue alone. -/
theorem State.run_pending {s t : State} {p : Prog} (h : s.run p = .next t) : t.pending = s.pending := by
  simp only [State.run, State.runWell, State.runRaw, Host.Outcome.next.injEq] at h
  subst h; rfl

end Sys2Proof.Machine
end

