-- ==== Sys2Proof/Laws/State.lean ====
section
/-! SUPPORT. The state: what each edit does to it, one equation an edit, so that no later proof unfolds an update; what a register, a
field, a record and a byte read as after an edit; and the queue, which no program of edits touches. -/

namespace Sys2Proof.Machine

/-! ### One equation an edit -/

@[simp] theorem Edit.apply_reg (b : Block) (a : Nat) (v : W64) : (Edit.reg a v).apply b = { b with regs := Tbl.set resetVal a v b.regs } := rfl
@[simp] theorem Edit.apply_fld (b : Block) (a : Nat) (fl : Fld) (v : Nat) : (Edit.fld a fl v).apply b = { b with regs := Tbl.set resetVal a (putFld (Tbl.get resetVal a b.regs) fl v) b.regs } := rfl
@[simp] theorem Edit.apply_wipe (b : Block) (keep : Nat → Bool) : (Edit.wipe keep).apply b = { b with regs := Tbl.keep keep b.regs } := rfl
@[simp] theorem Edit.apply_free (b : Block) : (Edit.free).apply b = { b with free := b.free + 1 } := rfl
@[simp] theorem Edit.apply_log (b : Block) (code subject : Nat) : (Edit.log code subject).apply b = { b with logs := b.logs ++ [(code, subject)] } := rfl
@[simp] theorem Edit.apply_out (b : Block) (o : Out) : (Edit.out o).apply b = { b with outs := b.outs ++ [o] } := rfl
@[simp] theorem Edit.apply_outs (b : Block) (g : List Out → List Out) : (Edit.outs g).apply b = { b with outs := g b.outs } := rfl
@[simp] theorem Edit.apply_tmg (b : Block) (r : Nat) (g : RegionSt → RegionSt) : (Edit.tmg r g).apply b = { b with tmg := Tbl.upd {} r g b.tmg } := rfl
@[simp] theorem Edit.apply_dom (b : Block) (d : Nat) (g : DomSt → DomSt) : (Edit.dom d g).apply b = { b with dom := Tbl.upd {} d g b.dom } := rfl
@[simp] theorem Edit.apply_cap (b : Block) (k : Nat) (g : CapSt → CapSt) : (Edit.cap k g).apply b = { b with cap := Tbl.upd {} k g b.cap } := rfl
@[simp] theorem Edit.apply_pwr (b : Block) (g : PwrSt → PwrSt) : (Edit.pwr g).apply b = { b with pwr := g b.pwr } := rfl
@[simp] theorem Edit.apply_slot (b : Block) (n : Nat) (g : Slot → Slot) : (Edit.slot n g).apply b = { b with slot := Tbl.upd {} n g b.slot } := rfl
@[simp] theorem Edit.apply_cis (b : Block) (g : CisSt → CisSt) : (Edit.cis g).apply b = { b with cis := g b.cis } := rfl
@[simp] theorem Edit.apply_noc (b : Block) (g : NocSt → NocSt) : (Edit.noc g).apply b = { b with noc := g b.noc } := rfl
@[simp] theorem Edit.apply_glv (b : Block) (s : Nat) (g : GloveSt → GloveSt) : (Edit.glv s g).apply b = { b with glv := Tbl.upd {} s g b.glv } := rfl
@[simp] theorem Edit.apply_prt (b : Block) (s : Nat) (g : PrtSt → PrtSt) : (Edit.prt s g).apply b = { b with prt := Tbl.upd {} s g b.prt } := rfl
@[simp] theorem Edit.apply_ctx (b : Block) (k : Nat) (g : VecCtx → VecCtx) : (Edit.ctx k g).apply b = { b with ctx := Tbl.upd {} k g b.ctx } := rfl
@[simp] theorem Edit.apply_treg (b : Block) (k : Nat) (g : Treg → Treg) : (Edit.treg k g).apply b = { b with treg := Tbl.upd {} k g b.treg } := rfl
@[simp] theorem Edit.apply_imem (b : Block) (k : Nat) (l : List W64) : (Edit.imem k l).apply b = { b with imem := Tbl.setRun (dflt 0) k l b.imem } := rfl
@[simp] theorem Edit.apply_ldm (b : Block) (k : Nat) (l : List Byte) : (Edit.ldm k l).apply b = { b with ldm := Tbl.setRun (dflt 0) k l b.ldm, vec := { b.vec with ldmPois := b.vec.ldmPois.filter fun i => decide (i < k ∨ k + l.length ≤ i) } } := rfl
@[simp] theorem Edit.apply_ldmDrop (b : Block) (lo hi : Nat) : (Edit.ldmDrop lo hi).apply b = { b with ldm := Tbl.clearRange lo hi b.ldm, vec := { b.vec with ldmPois := b.vec.ldmPois.filter fun i => decide (i < lo ∨ hi ≤ i) } } := rfl
@[simp] theorem Edit.apply_imemDrop (b : Block) (lo hi : Nat) : (Edit.imemDrop lo hi).apply b = { b with imem := Tbl.clearRange lo hi b.imem } := rfl
@[simp] theorem Edit.apply_vec (b : Block) (g : VecSt → VecSt) : (Edit.vec g).apply b = { b with vec := g b.vec } := rfl
@[simp] theorem Edit.apply_trg (b : Block) (t : Nat) (g : TrgSt → TrgSt) : (Edit.trg t g).apply b = { b with trg := Tbl.upd {} t g b.trg } := rfl
@[simp] theorem Edit.apply_trgU (b : Block) (u : Nat) (g : TrgUnit → TrgUnit) : (Edit.trgU u g).apply b = { b with trgU := Tbl.upd {} u g b.trgU } := rfl
@[simp] theorem Edit.apply_trough (b : Block) (g : TroughSt → TroughSt) : (Edit.trough g).apply b = { b with trough := g b.trough } := rfl
@[simp] theorem Edit.apply_bytes (b : Block) (k : Nat) (l : List Byte) : (Edit.bytes k l).apply b = { b with bytes := Tbl.setRun memDefault k l b.bytes } := rfl
@[simp] theorem Edit.apply_bytesDrop (b : Block) (lo hi : Nat) : (Edit.bytesDrop lo hi).apply b = { b with bytes := Tbl.clearRange lo hi b.bytes } := rfl
@[simp] theorem Edit.apply_pois (b : Block) (half : Nat) (on : Bool) : (Edit.pois half on).apply b = { b with pois := if on then insertNat half b.pois else removeNat half b.pois } := rfl
@[simp] theorem Edit.apply_poisDrop (b : Block) (lo hi : Nat) : (Edit.poisDrop lo hi).apply b = { b with pois := b.pois.filter fun h => h < lo || hi ≤ h } := rfl
@[simp] theorem Edit.apply_mem (b : Block) (g : MemSt → MemSt) : (Edit.mem g).apply b = { b with mem := g b.mem } := rfl
@[simp] theorem Edit.apply_dir (b : Block) (k : Nat) (g : DirEnt → DirEnt) : (Edit.dir k g).apply b = { b with dir := Tbl.upd Block.dirDefault k g b.dir } := rfl
@[simp] theorem Edit.apply_dirKeep (b : Block) (p : Nat → Bool) : (Edit.dirKeep p).apply b = { b with dir := Tbl.keep p b.dir } := rfl
@[simp] theorem Edit.apply_xlt (b : Block) (g : XltSt → XltSt) : (Edit.xlt g).apply b = { b with xlt := g b.xlt } := rfl
@[simp] theorem Edit.apply_intake (b : Block) (i : Nat) (g : IntakeSt → IntakeSt) : (Edit.intake i g).apply b = { b with intake := Tbl.upd {} i g b.intake } := rfl
@[simp] theorem Edit.apply_work (b : Block) (k : Nat) (d : Option Desc) : (Edit.work k d).apply b = { b with work := Tbl.set (dflt none) k d b.work } := rfl
@[simp] theorem Edit.apply_pmp (b : Block) (g : PmpSt → PmpSt) : (Edit.pmp g).apply b = { b with pmp := g b.pmp } := rfl
@[simp] theorem Edit.apply_peer (b : Block) (n : Nat) (g : PeerSt → PeerSt) : (Edit.peer n g).apply b = { b with peer := Tbl.upd {} n g b.peer } := rfl
@[simp] theorem Edit.apply_span (b : Block) (g : SpanSt → SpanSt) : (Edit.span g).apply b = { b with span := g b.span } := rfl
@[simp] theorem Edit.apply_hats (b : Block) (g : HatSt → HatSt) : (Edit.hats g).apply b = { b with hats := g b.hats } := rfl
@[simp] theorem Edit.apply_port (b : Block) (q : Nat) (g : PortSt → PortSt) : (Edit.port q g).apply b = { b with port := Tbl.upd {} q g b.port } := rfl
@[simp] theorem Edit.apply_sec (b : Block) (g : SecSt → SecSt) : (Edit.sec g).apply b = { b with sec := g b.sec } := rfl
@[simp] theorem Edit.apply_sys (b : Block) (g : SysSt → SysSt) : (Edit.sys g).apply b = { b with sys := g b.sys } := rfl
@[simp] theorem Edit.apply_fresh (b : Block) : (Edit.fresh).apply b = { Block.reset with regs := b.regs, free := b.free, outs := b.outs, bytes := b.bytes, pois := b.pois, pwr := b.pwr, sec := b.sec, sys := b.sys, tmg := b.tmg } := rfl

/-! ### The queue -/

@[simp] theorem State.did_pending (s : State) (p : Prog) : (s.did p).pending = s.pending := rfl
@[simp] theorem State.did_blk (s : State) (p : Prog) : (s.did p).blk = p.run s.blk := rfl

/-! ### Reading after an edit -/

theorem Block.w_reg (b : Block) (a j : Nat) (v : W64) : ((Edit.reg a v).apply b).w j = if j = a then v else b.w j :=
  Tbl.get_set j a v b.regs

theorem Block.w_fld (b : Block) (a j : Nat) (fl : Fld) (v : Nat) :
    ((Edit.fld a fl v).apply b).w j = if j = a then putFld (b.w a) fl v else b.w j :=
  Tbl.get_set j a _ b.regs

/-- A field just written reads as written, cut to its width. -/
theorem Block.f_fld (b : Block) (a : Nat) (fl : Fld) (v : Nat) (h : fl.lo + fl.width ≤ 64) :
    ((Edit.fld a fl v).apply b).f a fl = v % 2 ^ fl.width := by
  simp only [Block.f, Block.w_fld, if_true, getFld_putFld _ _ h]

/-- A field of another register, or a field beside the one written, reads as before. -/
theorem Block.f_fld_other (b : Block) (a j : Nat) (fl f2 : Fld) (v : Nat)
    (h : j ≠ a ∨ f2.lo + f2.width ≤ fl.lo ∨ fl.lo + fl.width ≤ f2.lo) : ((Edit.fld a fl v).apply b).f j f2 = b.f j f2 := by
  simp only [Block.f, Block.w_fld]
  split
  · subst_vars
    rcases h with h | h
    · exact absurd rfl h
    · rw [getFld_putFld_other _ _ h]
  · rfl

theorem Block.vctx_ctx (b : Block) (k j : Nat) (g : VecCtx → VecCtx) :
    ((Edit.ctx k g).apply b).vctx j = if j = k then g (b.vctx k) else b.vctx j := Tbl.get_upd b.ctx j k g

theorem Block.site_glv (b : Block) (k j : Nat) (g : GloveSt → GloveSt) :
    ((Edit.glv k g).apply b).site j = if j = k then g (b.site k) else b.site j := Tbl.get_upd b.glv j k g

theorem Block.domSt_dom (b : Block) (k j : Nat) (g : DomSt → DomSt) :
    ((Edit.dom k g).apply b).domSt j = if j = k then g (b.domSt k) else b.domSt j := Tbl.get_upd b.dom j k g

theorem Block.region_tmg (b : Block) (k j : Nat) (g : RegionSt → RegionSt) :
    ((Edit.tmg k g).apply b).region j = if j = k then g (b.region k) else b.region j := Tbl.get_upd b.tmg j k g

theorem Block.slotSt_slot (b : Block) (k j : Nat) (g : Slot → Slot) :
    ((Edit.slot k g).apply b).slotSt j = if j = k then g (b.slotSt k) else b.slotSt j := Tbl.get_upd b.slot j k g

theorem Block.trgSt_trg (b : Block) (k j : Nat) (g : TrgSt → TrgSt) :
    ((Edit.trg k g).apply b).trgSt j = if j = k then g (b.trgSt k) else b.trgSt j := Tbl.get_upd b.trg j k g

theorem Block.portSt_port (b : Block) (k j : Nat) (g : PortSt → PortSt) :
    ((Edit.port k g).apply b).portSt j = if j = k then g (b.portSt k) else b.portSt j := Tbl.get_upd b.port j k g

/-- Package memory after a run of bytes is written. -/
theorem Block.byteAt_bytes (b : Block) (k j : Nat) (l : List Byte) :
    ((Edit.bytes k l).apply b).byteAt j = if h : k ≤ j ∧ j - k < l.length then l[j - k]'h.2 else b.byteAt j :=
  Tbl.get_setRun l j k b.bytes

end Sys2Proof.Machine
end

