-- ==== Sys2Proof/Laws/Vector.lean ====
section
/-! SUPPORT. What the issue of a vector instruction may change, once for every instruction. -/

namespace Sys2Proof.Machine

/-- A fault changes the context's STATUS, the context, and puts packets on the mesh. -/
theorem Prog.within_faultCtx {R : Block → Block → Prop} (h : Frame R) (e c code : Nat) (st : Option Status)
  (hreg : ∀ (fl : Fld) (v : Nat) b, R b ((Edit.fld (Reg.VEC_CTX_STATUS e c) fl v).apply b))
  (hctx : ∀ g b, R b ((Edit.ctx (ctxKey e c) g).apply b))
  (hsend : ∀ p b, R b ((Edit.noc fun n => { n with net := n.net ++ [p] }).apply b)) : Prog.Within R (faultCtx e c code st) := by
  have hs : ∀ p, Prog.Within R (sendPkt p) := fun p => Prog.within_edit (hsend p)
  refine Prog.within_read fun b => ?_
  refine Prog.within_all_cons h (Prog.within_read fun b => ?_) ?_
  · refine Prog.within_all_cons h (Prog.within_each h _ fun kv => Prog.within_read fun b => Prog.within_when h fun _ => hs _) ?_
    exact Prog.within_all_cons h (Prog.within_edit (hctx _)) (Prog.within_all_nil h)
  refine Prog.within_all_cons h (Prog.within_edit (hreg _ _)) ?_
  refine Prog.within_all_cons h (Prog.within_for? h _ fun _ => Prog.within_edit (hreg _ _)) ?_
  refine Prog.within_all_cons h (Prog.within_edit (hreg _ _)) ?_
  refine Prog.within_all_cons h (Prog.within_edit (hctx _)) ?_
  refine Prog.within_all_cons h (Prog.within_read fun b => hs _) (Prog.within_all_nil h)

/-- An instruction, whichever way it goes, changes what a fault changes, FLAGS, the issue slot, and what its effect changes. -/
theorem Prog.within_vecIssue {R : Block → Block → Prop} (h : Frame R) (e c : Nat) (o : VecOp)
  (hreg : ∀ (fl : Fld) (v : Nat) b, R b ((Edit.fld (Reg.VEC_CTX_STATUS e c) fl v).apply b))
  (hflag : ∀ (v : Nat) b, R b ((Edit.fld (Reg.VEC_CTX_FLAGS e c) flagBits v).apply b))
  (hctx : ∀ g b, R b ((Edit.ctx (ctxKey e c) g).apply b))
  (hsend : ∀ p b, R b ((Edit.noc fun n => { n with net := n.net ++ [p] }).apply b))
  (hturn : Prog.Within R (tookTurn e c)) (hbody : ∀ b x w, Prog.Within R (o.body b x w)) : Prog.Within R (vecIssue e c o) := by
  have hf := fun code st => Prog.within_faultCtx h e c code st hreg hctx hsend
  refine Prog.within_read fun b => ?_
  refine Prog.within_ite (fun _ => Prog.within_skip h) fun _ => ?_
  refine Prog.within_ite (fun _ => hf _ _) fun _ => ?_
  refine Prog.within_ite (fun _ => hf _ _) fun _ => ?_
  refine Prog.within_ite (fun _ => Prog.within_skip h) fun _ => ?_
  refine Prog.within_ite (fun _ => hf _ _) fun _ => ?_
  refine Prog.within_ite (fun _ => Prog.within_skip h) fun _ => ?_
  split
  · exact hf _ _
  refine Prog.within_ite (fun _ => hf _ _) fun _ => ?_
  split
  · exact hf _ _
  refine Prog.within_all_cons h hturn ?_
  refine Prog.within_all_cons h (Prog.within_when h fun _ => Prog.within_when h fun _ => Prog.within_read fun b => Prog.within_edit (hflag _)) ?_
  refine Prog.within_all_cons h ?_ (Prog.within_all_cons h (hbody _ _ _) (Prog.within_all_nil h))
  exact Prog.within_all_cons h (Prog.within_edit (hreg _ _)) (Prog.within_all_cons h (Prog.within_edit (hctx _)) (Prog.within_all_nil h))

end Sys2Proof.Machine
end

