-- ==== Sys2Proof/Tests/Slice0.lean ====
section
/-! SUPPORT. Tests: ill-formed commands that WellFormed refuses, single steps on small states, and for every obligation with
hypotheses a state and operands that meet them. -/

set_option maxRecDepth 10000

namespace Sys2Proof.Tests

open Sys2Proof.Machine

/-- A small state: what a few edits make of the reset state. -/
def st (l : List Prog) : State := State.reset.did (.all l)

/-- A frame from package 7 to package 0. -/
def frame7 : SpanFrame := ⟨1, false, 0, 0, 7, 0, 0, 0, 0, 0, 0, 0, 0, [], 0⟩

/-- A span with an identity, package 7 listed, and every port of the last quad and the first of chiplet 1 up. -/
def spanUp : List Prog := [
  setF Reg.SPN_ID Fl.SPN_ID_VALID 1, setF (Reg.HAT_PORT 0x407) Fl.HAT_PORT_VALID 1,
  modCis fun x => { x with committed := [.spanIdentity 0 0x88B5 0 0 0, .spanPeer 7 0] },
  setF (Reg.SPN_QUAD 1 11) Fl.SPN_QUAD_UP 0xF, setF (Reg.SPN_QUAD 1 0) Fl.SPN_QUAD_UP 0xF]

/-- A walk of walker 31 and the answer to its entry's read. -/
def walk31 : Walk := { for_ := .pump 0 0 0 0, xctx := 0, hat := 0, va := 0, need := 1, epoch := 0, level := 0, table := 0, extent := 0 }
def walkRsp : Pkt := Pkt.bare 0x18 0 0 0 (.bank 0 0) (.walker 31)

/-- Partition 0 with every site, well and trough. -/
def allIn0 : Prog := modCis fun x => { x with committed := [.partition 0 1 0xFFFF 0xFFF 0xFFFFFFFFFFFFFFFF, .region 0 12 0xFFF 0 0x100000] }

/-- A working tile with 16 contexts at a site, its link with credits. -/
def tile (g : Nat) : List Prog := [
  allIn0, siteState g SiteState.fitted, setF Reg.HUB_POPULATION Fl.HUB_POPULATION_SITE_KIND 0x55555555,
  setF (Reg.PRT_ID g) Fl.PRT_ID_CONTEXTS 16,
  modGlv g fun x => { x with
    fitted := true, linkUp := true, rstN := false,
    fromSite := (List.range 10).foldl (fun t p => Tbl.set credit0 p ⟨8, 8⟩ t) [] }]

def prour15 : List Prog := tile 15
def prour0 : List Prog := tile 0

/-- Hat 0 in the hat set of site 15, with a segment over the first MiB. -/
def segment15 : Prog := .all [
  setR (Reg.GLV_HATSET 15 0) 0x8000,
  setF (Reg.XLT_GSEG_CTL 15 0 0) Fl.XLT_VSEG_CTL_VALID 1, setF (Reg.XLT_GSEG_CTL 15 0 0) Fl.XLT_VSEG_CTL_R 1,
  setF (Reg.XLT_GSEG_CTL 15 0 0) Fl.XLT_VSEG_CTL_W 1, setF (Reg.XLT_GSEG_CTL 15 0 0 + 16) Fl.XLT_VSEG_LIMIT_LIMIT 256]

/-- A record that gives only its kind. -/
def task (kind : Nat) (begun : Bool) : Task := { seq := 0, bytes := [BitVec.ofNat 8 kind], prog := false, begun := begun }

/-- A record of a kind whose B reference names resident buffer 63. -/
def taskRes (kind : Nat) : Task := { seq := 0, bytes := [BitVec.ofNat 8 kind] ++ List.replicate 0x33 0 ++ [0xBF], prog := false }

/-- Resident buffer 63 of tile 15, of context 15. -/
def buffer15 : Prog := setBuf 15 63 (some ⟨15, true, 0, 0, 1, 0, [], [], []⟩)

/-- An open contribution of an engine's context 0 to trough 63. -/
def contrib0 : Contrib := ⟨.engine 0, 0, 0, 63, 0, 5, none, 0, 0, 1, [], [], 0, false, false⟩

/-- Hat 5 of partition 0 with every right, and trough 63 released with four elements. -/
def tenant5 : List Prog := [
  allIn0, setF (Reg.HAT_CTL 5) Fl.HAT_CTL_STATE 1, setF (Reg.HAT_INFO 5) Fl.HAT_INFO_PARTITION 0,
  setF (Reg.HAT_INFO 5) Fl.HAT_INFO_RIGHTS 0x3FFFF, setTrg 63 TrgState.released, setF (Reg.TRG_CFG 63) Fl.TRG_CFG_ELEMS 4]

/-- A context that runs a kernel of one word: context 3 of engine 23, and context 0 of engine 0. -/
def runOne (e c w : Nat) : State := st [
  .edit (.imem (e * 32768) [BitVec.ofNat 64 w]), setF (Reg.VEC_KERNEL e 0) Fl.VEC_KERNEL_LEN 1,
  setF (Reg.VEC_CTX_STATUS e c) Fl.VEC_CTX_STATUS_STATE 2]

def run23 (w : Nat) : State := runOne 23 3 w
def run0 (w : Nat) : State := runOne 0 0 w

/-- The same context with VL 2, an LDM window of 4 KiB and a segment over the first MiB of partition 0. -/
def mem23 (w : Nat) : State := (run23 w).did (.all [
  allIn0, modCtx 95 fun x => { x with vl := 2 }, setF (Reg.VEC_CTX_CTL 23 3) Fl.VEC_CTX_CTL_LDM_SIZE 1,
  setF (Reg.XLT_VSEG_CTL 23 3 0) Fl.XLT_VSEG_CTL_VALID 1, setF (Reg.XLT_VSEG_CTL 23 3 0) Fl.XLT_VSEG_CTL_R 1,
  setF (Reg.XLT_VSEG_CTL 23 3 0) Fl.XLT_VSEG_CTL_W 1, setF (Reg.XLT_VSEG_CTL 23 3 0 + 16) Fl.XLT_VSEG_LIMIT_LIMIT 256])

/-- The same context with scratch tile registers 0 and 15. -/
def tile23 (w : Nat) : State := (run23 w).did (.each [0, 15] fun t => .all [
  setF (Reg.VEC_TREG 23 t) Fl.VEC_TREG_BIND 1, setF (Reg.VEC_TREG 23 t) Fl.VEC_TREG_CTX 3, setTreg 23 t 1])

/-! ### Witnesses -/


/-- A response and a request for package column 15 that wait at router (3, 3) on DAT0. -/
def rivalry : List Prog := [modNoc fun n => { n with
  flights := [⟨3, 3, 2, 0x203CC01800#128, []⟩, ⟨3, 3, 2, 0x323CC01800#128, []⟩] }]
theorem test_witness_TimingCommands :
  (∃ s : State, s.up = true ∧ s.blk.regionOn 3 = true ∧ s.blk.regionState 3 = 1 ∧ s.blk.inHoldoff 3 = false ∧
    s.blk.regionCode 3 < s.blk.f (Reg.MON_TMG_REGION 3) Fl.MON_TMG_REGION_CEILING) ∧
  (∃ s : State, s.up = true ∧ (s.blk.region 3).pace ≠ 0 ∧ (s.blk.region 3).tripped = true) ∧
  (∃ s : State, s.up = true ∧ s.blk.portAdmits 0 = true ∧ s.blk.holds 0 Right.power = true) ∧
  (∃ s : State, s.up = true ∧ (s.blk.region 15).phase = .draining ∧ s.blk.regionDrained 15 = true) ∧
  (∃ s : State, s.up = true ∧ (s.blk.region 15).phase = .searching) ∧
  (∃ s : State, s.up = true ∧ s.blk.regionOn 0 = true ∧ s.blk.regionState 0 = 0) ∧
  (∃ s : State, s.up = true ∧ s.blk.regionOn 0 = true ∧ s.blk.calibrates 0 = true) :=
  ⟨⟨st [setF (Reg.MON_TMG_REGION 3) Fl.MON_TMG_REGION_STATE 1, setF (Reg.MON_TMG_REGION 3) Fl.MON_TMG_REGION_CEILING 9], by decide⟩,
   ⟨st [modRegion 3 fun x => { x with pace := 1, tripped := true }], by decide⟩,
   ⟨st [], by decide⟩,
   ⟨st [modRegion 15 fun x => { x with phase := .draining }], by decide⟩,
   ⟨st [modRegion 15 fun x => { x with phase := .searching }], by decide⟩,
   ⟨st [], by decide⟩,
   ⟨st [setF (Reg.MON_TMG_REGION 0) Fl.MON_TMG_REGION_STATE 5, setF (Reg.PWR_DOM_STATUS 0) Fl.PWR_DOM_STATUS_STATE 2,
     modDom 0 fun x => { x with waking := true }], by decide⟩⟩

theorem test_witness_PowerCommands :
  (∃ s : State, s.up = true ∧ s.blk.portAdmits 0 = true ∧ s.blk.holds 0 Right.power = true) ∧
  (∃ s : State, s.up = true ∧ s.blk.domState 16 = 3 ∧ (s.blk.domSt 16).stepTo = some 8) ∧
  (∃ s : State, s.up = true ∧ s.blk.domState 19 = 4) ∧
  (∃ s : State, s.up = true ∧ 10 ≤ (s.blk.capSt 0).below ∧ s.blk.capPace 0 ≠ 0) ∧
  (∃ s : State, s.up = true ∧ s.blk.capUnreach 0 = true ∧ (s.blk.capSt 0).escDone = false) ∧
  (∃ s : State, s.up = true ∧ hottest [839, 840] 0 (0, 839) = (1, 840)) ∧
  (∃ s : State, s.up = true ∧ (s.blk.domSt 0).hot = true ∧ s.blk.domAsleep 0 = false) ∧
  (∃ s : State, s.blk.pwr.thermtrip = false) :=
  ⟨⟨st [], by decide⟩,
   ⟨st [setF (Reg.PWR_DOM_STATUS 16) Fl.PWR_DOM_STATUS_STATE 3, modDom 16 fun x => { x with stepTo := some 8 }], by decide⟩,
   ⟨st [setF (Reg.PWR_DOM_STATUS 19) Fl.PWR_DOM_STATUS_STATE 4], by decide⟩,
   ⟨st [modCap 0 fun c => { c with below := 10 }, setF Reg.PWR_STATUS Fl.PWR_STATUS_PACE 2], by decide⟩,
   ⟨st [setF Reg.PWR_STATUS Fl.PWR_STATUS_CAP_UNREACHABLE 1], by decide⟩,
   ⟨st [], by decide⟩,
   ⟨st [modDom 0 fun x => { x with hot := true }], by decide⟩,
   ⟨st [], by decide⟩⟩

theorem test_witness_EnergyAndWear :
  (∃ s : State, s.up = true) :=
  ⟨st [], by decide⟩

theorem test_witness_MemoryRequestsAtTheirReceivers :
  (∃ (p : Pkt) (s : State), s.arrives p 0x00 = true ∧ p.dst = .bank 11 7) ∧
  (∃ (p : Pkt) (s : State), s.arrives p 0x25 = true ∧ p.dst = .bank 0 0) ∧
  (∃ (p : Pkt) (s : State), s.arrives p 0x08 = true ∧ p.dst = .pump 47) ∧
  (∃ (p : Pkt) (s : State), s.arrives p 0x08 = true ∧ p.dst = .host 3) ∧
  (∃ (p : Pkt) (s : State), s.arrives p 0x01 = true ∧ p.dst = .spanEng 7) ∧
  (∃ (p : Pkt) (s : State), s.arrives p 0x40 = true ∧ p.dst = .bank 0 0) ∧
  (∃ (p : Pkt) (s : State), s.arrives p 0x5B = true ∧ p.dst = .spanEng 0) :=
  ⟨⟨Pkt.bare 0x00 0 0 0 (.engine 0) (.bank 11 7), st [sendPkt (Pkt.bare 0x00 0 0 0 (.engine 0) (.bank 11 7))], by decide⟩,
   ⟨Pkt.bare 0x25 0 0 0 (.glove 0 0) (.bank 0 0), st [sendPkt (Pkt.bare 0x25 0 0 0 (.glove 0 0) (.bank 0 0))], by decide⟩,
   ⟨Pkt.bare 0x08 0 0 0 (.host 0) (.pump 47), st [sendPkt (Pkt.bare 0x08 0 0 0 (.host 0) (.pump 47))], by decide⟩,
   ⟨Pkt.bare 0x08 0 0 0 (.engine 0) (.host 3), st [sendPkt (Pkt.bare 0x08 0 0 0 (.engine 0) (.host 3))], by decide⟩,
   ⟨Pkt.bare 0x01 0 0 0 (.engine 0) (.spanEng 7), st [sendPkt (Pkt.bare 0x01 0 0 0 (.engine 0) (.spanEng 7))], by decide⟩,
   ⟨Pkt.bare 0x40 0 0 0 (.engine 0) (.bank 0 0), st [sendPkt (Pkt.bare 0x40 0 0 0 (.engine 0) (.bank 0 0))], by decide⟩,
   ⟨Pkt.bare 0x5B 0 0 0 (.engine 0) (.spanEng 0), st [sendPkt (Pkt.bare 0x5B 0 0 0 (.engine 0) (.spanEng 0))], by decide⟩⟩

theorem test_witness_AnswersAtTheirReceivers :
  (∃ (p : Pkt) (s : State), s.arrives p 0x18 = true ∧ p.dst = .engine 23 ∧ s.blk.downUnit p.dst = none) ∧
  (∃ (p : Pkt) (s : State), s.arrives p 0x19 = true ∧ s.blk.downUnit p.dst = some 0) ∧
  (∃ (p : Pkt) (k : Walk) (s : State), s.arrives p 0x18 = true ∧ p.dst = .walker 31 ∧ s.blk.walkAt 31 = some k ∧ s.blk.entryRsp 31 k p = true) ∧
  (∃ (p : Pkt) (s : State), s.arrives p p.cmd = true ∧ spareCmd p.cmd = true ∧ 0x80 ≤ p.cmd ∧ p.cmd < 0xA0) ∧
  (∃ (p : Pkt) (s : State), s.arrives p 0x87 = true ∧ p.dst = .glove 0 0) ∧
  (∃ (p : Pkt) (s : State), s.arrives p 0x33 = true ∧ p.dst = .glove 15 3) ∧
  (∃ (p : Pkt) (s : State), s.arrives p 0x38 = true ∧ p.dst = .bank 0 0) ∧
  (∃ (p : Pkt) (s : State), s.arrives p 0x76 = true ∧ p.dst = .trough 7) ∧
  (∃ (p : Pkt) (s : State), s.arrives p 0x75 = true ∧ p.dst = .engine 0) :=
  ⟨⟨Pkt.bare 0x18 0 0 0 (.bank 0 0) (.engine 23), st [sendPkt (Pkt.bare 0x18 0 0 0 (.bank 0 0) (.engine 23))], by decide⟩,
   ⟨Pkt.bare 0x19 0 0 0 (.bank 0 0) (.engine 0), st [modCis fun x => { x with committed := [.partition 0 1 0xFFFF 0xFFF 0 , .region 0 12 0xFFF 0 0x100000] },
     setF Reg.HUB_PART_DOWN Fl.HUB_PART_DOWN_DOWN 1, sendPkt (Pkt.bare 0x19 0 0 0 (.bank 0 0) (.engine 0))], by decide⟩,
   ⟨walkRsp, walk31, st [modXlt fun x => { x with walks := [(31, some walk31)] }, sendPkt walkRsp], by decide⟩,
   ⟨Pkt.bare 0x85 0 0 0 (.engine 0) (.quadReg 0), st [sendPkt (Pkt.bare 0x85 0 0 0 (.engine 0) (.quadReg 0))], by decide⟩,
   ⟨Pkt.bare 0x87 0 0 0 (.bank 0 0) (.glove 0 0), st [sendPkt (Pkt.bare 0x87 0 0 0 (.bank 0 0) (.glove 0 0))], by decide⟩,
   ⟨Pkt.bare 0x33 0 0 0 (.bank 0 0) (.glove 15 3), st [sendPkt (Pkt.bare 0x33 0 0 0 (.bank 0 0) (.glove 15 3))], by decide⟩,
   ⟨Pkt.bare 0x38 0 0 0 (.glove 0 0) (.bank 0 0), st [sendPkt (Pkt.bare 0x38 0 0 0 (.glove 0 0) (.bank 0 0))], by decide⟩,
   ⟨Pkt.bare 0x76 0 0 0 (.engine 0) (.trough 7), st [sendPkt (Pkt.bare 0x76 0 0 0 (.engine 0) (.trough 7))], by decide⟩,
   ⟨Pkt.bare 0x75 0 0 0 (.trough 0) (.engine 0), st [sendPkt (Pkt.bare 0x75 0 0 0 (.trough 0) (.engine 0))], by decide⟩⟩

theorem test_witness_RegisterPacketsAndFences :
  (∃ (p : Pkt) (s : State), s.arrives p 0x80 = true ∧ p.dst = .quadReg 0 ∧ s.blk.readWaits (s.blk.regOff p.addr) = false ∧
    (s.blk.unitAdmits p.hat || s.blk.portAdmits p.hat) = true ∧ (∃ v, s.blk.regRead p.hat (s.blk.regOff p.addr) 8 = (0, v))) ∧
  (∃ (p : Pkt) (s : State), s.arrives p 0x80 = true ∧ p.dst = .wellReg 0 ∧ s.blk.readWaits (s.blk.regOff p.addr) = false ∧
    worst [if s.blk.unitAdmits p.hat || s.blk.portAdmits p.hat then St.ok else St.accessDenied,
        (s.blk.regRead p.hat (s.blk.regOff p.addr) 8).1] ≠ 0) ∧
  (∃ (p : Pkt) (u : DUnit) (s : State), s.arrives p 0x81 = true ∧ p.dst = .quadReg 0 ∧ p.units = [u] ∧ u.pu = false ∧
    u.be / 2 ^ (p.addr % 64 / 8 * 8) % 256 = 0xFF ∧ p.anyPois = false ∧ (s.blk.unitAdmits p.hat || s.blk.portAdmits p.hat) = true) ∧
  (∃ (p : Pkt) (s : State), s.arrives p 0x81 = true ∧ p.dst = .glove 15 3) ∧
  (∃ (p : Pkt) (s : State), s.arrives p 0x82 = true ∧ p.dst = .host 3) ∧
  (∃ (p : Pkt) (s : State), s.arrives p 0x86 = true ∧ s.blk.fenceClear p = true) :=
  ⟨⟨Pkt.bare 0x80 0x500000000000 0 0 (.host 0) (.quadReg 0), st [sendPkt (Pkt.bare 0x80 0x500000000000 0 0 (.host 0) (.quadReg 0))],
      by decide, by decide, by decide, by decide, _, rfl⟩,
   ⟨Pkt.bare 0x80 0x500003FFFFF8 0 0 (.host 0) (.wellReg 0), st [sendPkt (Pkt.bare 0x80 0x500003FFFFF8 0 0 (.host 0) (.wellReg 0))], by decide⟩,
   ⟨{ Pkt.bare 0x81 0x500000000000 0 0 (.host 0) (.quadReg 0) with units := [⟨[], 0xFF, false⟩] }, ⟨[], 0xFF, false⟩,
     st [sendPkt { Pkt.bare 0x81 0x500000000000 0 0 (.host 0) (.quadReg 0) with units := [⟨[], 0xFF, false⟩] }], by decide⟩,
   ⟨Pkt.bare 0x81 0 0 0 (.engine 0) (.glove 15 3), st [sendPkt (Pkt.bare 0x81 0 0 0 (.engine 0) (.glove 15 3))], by decide⟩,
   ⟨Pkt.bare 0x82 0 0 0 (.quadReg 0) (.host 3), st [sendPkt (Pkt.bare 0x82 0 0 0 (.quadReg 0) (.host 3))], by decide⟩,
   ⟨Pkt.bare 0x86 0 0 0 (.glove 0 0) (.bank 0 0), st [sendPkt (Pkt.bare 0x86 0 0 0 (.glove 0 0) (.bank 0 0))], by decide⟩⟩

theorem test_witness_ResetAndClocks :
  (∃ s : State, s.blk.sys.pwrOk = false) ∧
  (∃ s : State, s.blk.sys.pwrOk = true ∧ s.blk.sys.pkgRstN = true ∧ s.blk.sys.coreClk = true ∧ s.blk.sec.alwaysOn = true) ∧
  (∃ s : State, s.blk.sys.pkgRstN = false) ∧
  (∃ (val : W64) (s : State), s.up = true ∧ s.blk.portAdmits 0 = true ∧ s.blk.i3cLimited = false ∧ s.blk.sys.closing = false ∧
    getFld val Fl.HUB_PKG_RESET_GO = 1 ∧ getFld val Fl.HUB_PKG_RESET_KEY = 0xA55A) ∧
  (∃ s : State, s.up = true ∧ s.blk.sys.closing = true) ∧
  (∃ s : State, s.blk.sys.coreClk = false) ∧
  (∃ s : State, s.up = true ∧ s.blk.sys.aonClk = true ∧ s.blk.sec.linkLost = true) ∧
  (∃ s : State, s.blk.sec.alwaysOn = false) :=
  ⟨⟨st [modSys fun x => { x with pwrOk := false }], by decide⟩,
   ⟨st [modSec fun x => { x with alwaysOn := true }], by decide⟩,
   ⟨st [modSys fun x => { x with pkgRstN := false }], by decide⟩,
   ⟨putFld (putFld 0 Fl.HUB_PKG_RESET_GO 1) Fl.HUB_PKG_RESET_KEY 0xA55A,
     st [setF Reg.HUB_BRINGUP Fl.HUB_BRINGUP_STEP 9, modSys fun x => { x with begun := true, romDone := true, fuseDone := true, imgDone := true, testDone := true, memDone := true, cfgDone := true }], by decide⟩,
   ⟨st [modSys fun x => { x with closing := true }], by decide⟩,
   ⟨st [modSys fun x => { x with coreClk := false }], by decide⟩,
   ⟨st [modSec fun x => { x with linkLost := true }], by decide⟩,
   ⟨st [modSec fun x => { x with alwaysOn := false }], by decide⟩⟩

theorem test_witness_BringUpSteps :
  (∃ s : State, s.blk.sec.alwaysOn = true ∧ s.blk.sys.pkgRstN = true ∧ s.blk.sys.coreClk = true ∧ s.blk.sys.romDone = false ∧
    s.blk.bringFailed = false) ∧
  (∃ s : State, s.up = true ∧ s.blk.sys.begun = true ∧ s.blk.bringFailed = false ∧ s.blk.sys.fuseDone = false) ∧
  (∃ s : State, s.up = true ∧ s.blk.sys.begun = true ∧ s.blk.bringFailed = false ∧ s.blk.sys.imgDone = false ∧
    s.blk.sys.romDone = true ∧ s.blk.sys.fuseDone = true) ∧
  (∃ s : State, s.up = true ∧ s.blk.sys.begun = true ∧ s.blk.bringFailed = false ∧ s.blk.sys.imgDone = true ∧
    s.blk.sys.testDone = false) ∧
  (∃ s : State, s.up = true ∧ s.blk.sys.begun = true ∧ s.blk.bringFailed = false ∧ s.blk.sys.testDone = true ∧
    s.blk.sys.memDone = false) ∧
  (∃ s : State, s.up = true ∧ s.blk.sys.begun = true ∧ s.blk.bringFailed = false ∧ s.blk.sys.memDone = true ∧
    s.blk.sitesSettled = true ∧ s.blk.sys.cfgDone = false) ∧
  (∃ (t : Nat) (u : Bundle) (s : State), s.up = true ∧ s.blk.sec.linkLost = false ∧ s.blk.inRecovery = false ∧
    s.blk.sec.upd = some (t, u)) :=
  ⟨⟨st [modSec fun x => { x with alwaysOn := true }], by decide⟩,
   ⟨st [modSys fun x => { x with begun := true }], by decide⟩,
   ⟨st [modSys fun x => { x with begun := true, romDone := true, fuseDone := true }], by decide⟩,
   ⟨st [modSys fun x => { x with begun := true, imgDone := true }], by decide⟩,
   ⟨st [modSys fun x => { x with begun := true, testDone := true }], by decide⟩,
   ⟨st [modSys fun x => { x with begun := true, testDone := true, memDone := true }, setF Reg.HUB_POPULATION Fl.HUB_POPULATION_SITE_EN 0], by decide⟩,
   ⟨1, {}, st [modSec fun x => { x with upd := some (1, {}) }], by decide⟩⟩

theorem test_witness_UnitAndPartitionResets :
  (∃ (val : W64) (s : State), s.up = true ∧ s.blk.portAdmits 0 = true ∧ s.blk.on Reg.HUB_UNIT_RESET Fl.HUB_UNIT_RESET_BUSY = false ∧
    getFld val Fl.HUB_UNIT_RESET_KIND = 0 ∧ getFld val Fl.HUB_UNIT_RESET_DONE = 0 ∧ getFld val Fl.HUB_UNIT_RESET_GO = 1) ∧
  (∃ s : State, s.up = true ∧ s.blk.partStep 15 = 2) ∧
  (∃ s : State, s.up = true ∧ s.blk.partStep 0 = 3 ∧ ((s.blk.partSites 0).all fun g => decide ((s.blk.site g).flush = .none)) = true ∧
    s.blk.partQuiet 0 s.blk.noc.net = true) ∧
  (∃ s : State, s.up = true ∧ s.blk.partStep 0 = 5 ∧ ((s.blk.partSites 0).all fun g => decide ((s.blk.site g).rst = .none)) = true) ∧
  (∃ s : State, s.up = true ∧ s.blk.partStep 15 = 6) :=
  ⟨⟨putFld 0 Fl.HUB_UNIT_RESET_GO 1, st [], by decide⟩,
   ⟨st [setPart 15 (some { step := 2 })], by decide⟩,
   ⟨st [setPart 0 (some { step := 3 })], by decide⟩,
   ⟨st [setPart 0 (some { step := 5 })], by decide⟩,
   ⟨st [setPart 15 (some { step := 6 })], by decide⟩⟩

theorem test_witness_CisternCommands :
  (∃ s : State, s.may 0 Right.config = true ∧ s.blk.slotState 3 = SlotState.empty) ∧
  (∃ s : State, s.up = true ∧ s.blk.portAdmits 0 = true ∧ s.blk.slotHeld 0 0 = true ∧ s.blk.slotState 0 = SlotState.checked ∧
    (s.blk.slotSt 0).checking = false) ∧
  (∃ s : State, s.up = true ∧ s.blk.slotState 3 = SlotState.loading) ∧
  (∃ (c : Content) (s : State), s.up = true ∧ (s.blk.slotSt 0).checking = true ∧ (s.blk.slotSt 0).content = some c) :=
  ⟨⟨st [], by decide⟩,
   ⟨st [setSlot 0 SlotState.checked], by decide⟩,
   ⟨st [setSlot 3 SlotState.loading], by decide⟩,
   ⟨⟨[], [], 0⟩, st [modSlot 0 fun x => { x with checking := true, content := some ⟨[], [], 0⟩ }], by decide⟩⟩

theorem test_witness_CommitAndExport :
  (∃ s : State, s.up = true ∧ s.blk.portAdmits 0 = true ∧ s.blk.slotHeld 3 0 = true ∧
    s.blk.on Reg.TST_CTL Fl.TST_CTL_TEST_MODE = false ∧ s.blk.slotState 3 = SlotState.checked) ∧
  (∃ (c : Commit) (s : State), s.up = true ∧ s.blk.cis.commit = some c ∧ c.phase = .copying) ∧
  (∃ (val : W64) (s : State), s.may 0 Right.config = true ∧ s.blk.on Reg.CFG_EXPORT Fl.CFG_EXPORT_EXP_BUSY = false ∧
    getFld val Fl.CFG_EXPORT_GO ≠ 0) ∧
  (∃ s : State, s.up = true ∧ s.blk.on Reg.CFG_EXPORT Fl.CFG_EXPORT_EXP_BUSY = true) :=
  ⟨⟨st [setSlot 3 SlotState.checked], by decide⟩,
   ⟨⟨0, 0, false, [], [], .copying, false, [], 0⟩, st [modCis fun x => { x with commit := some ⟨0, 0, false, [], [], .copying, false, [], 0⟩ }], by decide⟩,
   ⟨putFld 0 Fl.CFG_EXPORT_GO 1, st [], by decide⟩,
   ⟨st [setF Reg.CFG_EXPORT Fl.CFG_EXPORT_EXP_BUSY 1], by decide⟩⟩

theorem test_witness_HatCommands :
  (∃ s : State, s.up = true ∧ s.blk.noc.net.contains (hatCmdPkt (.engine 23) 5 false) = true) ∧
  (∃ s : State, s.up = true ∧ (s.blk.noc.net.any fun k => decide (k.cmd = 0x88 ∧ k.dst = .engine 0 ∧ k.hat = 5)) = false ∧
    s.blk.unitBusy (.engine 0) 5 = false) ∧
  (∃ (v : W64) (s : State), s.up = true ∧ s.blk.portAdmits 0 = true ∧ getFld v Fl.HAT_REMOVE_GO = 1 ∧
    getFld v Fl.HAT_REMOVE_DONE = 0 ∧ getFld v Fl.HAT_REMOVE_DENIED = 0 ∧ s.blk.hats.queue.length < 8 ∧
    (s.blk.removeSet 0 v).isSome = true) ∧
  (∃ s : State, s.up = true ∧ Tbl.get (dflt []) 3 s.blk.hats.orphanOf = [[7]]) :=
  ⟨⟨st [sendPkt (hatCmdPkt (.engine 23) 5 false)], by decide⟩,
   ⟨st [], by decide⟩,
   ⟨putFld (putFld 0 Fl.HAT_REMOVE_GO 1) Fl.HAT_REMOVE_HAT 5, st [setF (Reg.HAT_CTL 5) Fl.HAT_CTL_STATE 1], by decide⟩,
   ⟨st [modHats fun x => { x with orphanOf := [(3, [[7]])] }], by decide⟩⟩

theorem test_witness_TrustCommands :
  (∃ s : State, s.up = true ∧ s.blk.portAdmits 0 = true ∧ s.blk.maySec 0 = true ∧ s.blk.i3cLimited = false ∧ s.blk.updState = 0) ∧
  (∃ s : State, s.up = true ∧ s.blk.portAdmits 0 = true ∧ s.blk.maySec 0 = true ∧ s.blk.i3cLimited = false ∧ s.blk.updState = 3) ∧
  (regionFits 0x200000 0x1FFFFF [0] = true ∧ regionFits 0x90000 0x8FFFFF [0] = false ∧ regionFits 0x90000 0x8FFFF [0] = true) ∧
  (∃ (r : RptReq) (s : State), s.up = true ∧ s.blk.sec.queue = [r] ∧ s.blk.on Reg.TRG_RNG Fl.TRG_RNG_READY = true ∧
    s.blk.sec.linkLost = false) ∧
  (∃ (l : KeyLoad) (s : State), s.up = true ∧ s.blk.sec.linkLost = false ∧
    (s.blk.sec.loads.filter fun x => decide (x.slot = 255)) = [l] ∧ s.blk.keyState 255 = 1) :=
  ⟨⟨st [modSys fun x => { x with romDone := true }], by decide⟩,
   ⟨st [setUpd 3], by decide⟩,
   ⟨by decide, by decide, by decide⟩,
   ⟨⟨0, false, [], .i3c⟩, st [modSec fun x => { x with queue := [⟨0, false, [], .i3c⟩] }, setF Reg.TRG_RNG Fl.TRG_RNG_READY 1], by decide⟩,
   ⟨⟨255, .i3c, none⟩, st [modSec fun x => { x with loads := [⟨255, .i3c, none⟩] }, setF (Reg.PMP_KEY 255) Fl.PMP_KEY_STATE 1], by decide⟩⟩

theorem test_witness_GloveLinkCommands :
  (∃ s : State, s.up = true ∧ s.blk.siteThere 15 = true ∧ s.blk.gState 15 = SiteState.training) ∧
  (∃ s : State, s.up = true ∧ s.blk.gState 0 = SiteState.fitting ∧ s.blk.moduleHeld 0 0 = false ∧ (s.blk.site 0).fitSent = true) ∧
  (∃ s : State, s.up = true ∧ s.blk.moduleHeld 15 0 = false ∧ s.blk.siteRuns 15 = true ∧ s.blk.gState 15 ≠ SiteState.fitting ∧
    (s.blk.site 15).woke = true) ∧
  (∃ s : State, s.up = true ∧ s.blk.fitOpen 0 = true ∧ (s.blk.site 0).fitSent = false ∧
    (s.blk.site 0).chunks = [(0, []), (1, []), (2, []), (3, [])]) ∧
  (∃ s : State, s.up = true ∧ s.blk.siteRuns 15 = true ∧ s.blk.lossExpected 15 = false ∧ s.blk.moduleHeld 15 0 = false ∧
    (Tbl.get credit0 8 (s.blk.site 15).fromSite).covers ⟨1, 0⟩ = true) ∧
  (∃ s : State, s.up = true ∧ (s.blk.inService 15).testBit 0 = true ∧ (s.blk.site 15).linkUp = true) ∧
  (∃ s : State, s.up = true ∧ (s.blk.site 0).recal.testBit 4 = true) ∧
  (∃ s : State, s.up = true ∧ (s.blk.site 0).hold ≠ 0) :=
  ⟨⟨st [siteState 15 SiteState.training], by decide⟩,
   ⟨st [siteState 0 SiteState.fitting, modGlv 0 fun x => { x with fitSent := true }], by decide⟩,
   ⟨st [siteState 15 SiteState.fitted, modGlv 15 fun x => { x with fitted := true, linkUp := true, woke := true }], by decide⟩,
   ⟨st [siteState 0 SiteState.fitting, modGlv 0 fun x => { x with chunks := [(0, []), (1, []), (2, []), (3, [])] }], by decide⟩,
   ⟨st [siteState 15 SiteState.fitted, modGlv 15 fun x => { x with fitted := true, linkUp := true, rstN := false, fromSite := hubCredits }], by decide⟩,
   ⟨st [modGlv 15 fun x => { x with linkUp := true }], by decide⟩,
   ⟨st [modGlv 0 fun x => { x with recal := 16 }], by decide⟩,
   ⟨st [modGlv 0 fun x => { x with hold := 1 }], by decide⟩⟩

theorem test_witness_GloveControlCommands :
  (∃ (m : Msp) (s : State), s.up = true ∧ m.carried = m ∧ s.blk.domAsleep 12 = false ∧ s.blk.siteRuns 0 = true ∧
    s.blk.moduleHeld 0 m.module = false ∧ m.op < 0xC0 ∧ m.chan ≠ 5 ∧ m.chan ≠ 6 ∧ s.blk.held? (s.blk.sitePart 0) = false ∧ s.blk.badMsg 0 m = false ∧
    (Tbl.get credit0 (poolFromSite m) (s.blk.site 0).fromSite).covers (creditOf m) = true) ∧
  (∃ s : State, s.up = true ∧ s.blk.portAdmits 0 = true ∧ s.blk.mayGlove 0 15 = true ∧ s.blk.gloveFree 15 = true ∧ s.blk.siteRuns 15 = true) ∧
  (∃ s : State, s.up = true ∧ (s.blk.site 0).flush = .awaitDone ∧ s.blk.siteRuns 0 = true ∧ s.blk.moduleHeld 0 0 = false ∧
    (Tbl.get credit0 8 (s.blk.site 0).fromSite).covers ⟨1, 0⟩ = true) ∧
  (∃ s : State, s.up = true ∧ (s.blk.site 15).flush = .query) ∧
  (∃ s : State, s.up = true ∧ (s.blk.site 0).rst = .noticed) ∧
  (∃ s : State, s.up = true ∧ (s.blk.site 0).rst = .asserted) ∧
  (∃ (bytes : List Byte) (s : State), s.up = true ∧ s.blk.siteRuns 0 = true ∧ s.blk.agreedFeature 0 6 = true ∧
    numAt bytes 48 1 < numAt (s.blk.site 0).cap 0x29 1 ∧ s.blk.moduleHeld 0 0 = false ∧
    (Tbl.get credit0 8 (s.blk.site 0).fromSite).covers ⟨1, 1⟩ = true) ∧
  (∃ s : State, s.up = true ∧ s.blk.siteRuns 0 = true ∧ numAt (s.blk.site 0).cap 0x27 1 = 1 ∧ s.blk.siteKind 0 ≠ 1 ∧
    s.blk.moduleHeld 0 0 = false ∧ (Tbl.get credit0 8 (s.blk.site 0).fromSite).covers ⟨1, 1⟩ = true) :=
  ⟨⟨{ Msp.ctl 0 0 with chan := 0 }, st [siteState 0 SiteState.fitted, modGlv 0 fun x => { x with fitted := true, linkUp := true, agreed := { x.agreed with channels := 31 }, fromSite := (List.range 10).foldl (fun t p => Tbl.set credit0 p ⟨8, 8⟩ t) [] }], by decide⟩,
   ⟨st [modGlv 15 fun x => { x with fitted := true, linkUp := true }, siteState 15 SiteState.fitted], by decide⟩,
   ⟨st [siteState 0 SiteState.flushing, modGlv 0 fun x => { x with fitted := true, linkUp := true, flush := .awaitDone, fromSite := hubCredits }], by decide⟩,
   ⟨st [modGlv 15 fun x => { x with flush := .query }], by decide⟩,
   ⟨st [modGlv 0 fun x => { x with rst := .noticed }], by decide⟩,
   ⟨st [modGlv 0 fun x => { x with rst := .asserted }], by decide⟩,
   ⟨List.replicate 49 0, st [siteState 0 SiteState.fitted, modGlv 0 fun x => { x with fitted := true, linkUp := true, agreed := { x.agreed with features := 64 }, cap := List.replicate 64 1, fromSite := hubCredits }], by decide⟩,
   ⟨st [siteState 0 SiteState.fitted, setF Reg.HUB_POPULATION Fl.HUB_POPULATION_SITE_KIND 2, modGlv 0 fun x => { x with fitted := true, linkUp := true, cap := List.replicate 64 1, fromSite := hubCredits }], by decide⟩⟩

theorem test_witness_MeshAndSleepCommands :
  (∃ (f : Flight) (s : State), s.up = true ∧ s.blk.atHead f = true ∧ f.malformed = false ∧ s.blk.noc.flights.contains f = true ∧
    s.blk.granted f = true ∧ f.dst = (15, 11) ∧ f.x = 15 ∧ f.y = 11 ∧ (s.blk.region 15).phase ≠ .searching) ∧
  (∃ (f : Flight) (s : State), s.up = true ∧ s.blk.atHead f = true ∧ f.malformed = false ∧ s.blk.mayInject f = true ∧
    s.blk.bindsWaking f = none ∧ s.blk.granted f = true ∧ f.dst = (15, 11) ∧ f.x = 0 ∧ f.y = 0) ∧
  (∃ (f : Flight) (s : State), s.up = true ∧ f.malformed = true) ∧
  (∃ s : State, s.may 0 Right.test = true ∧ s.blk.noc.ltest.running = false ∧ partitionsOf s.blk.recs ≠ []) ∧
  (∃ s : State, s.may 0 Right.test = true ∧ s.blk.noc.ltest.running = true) ∧
  (∃ (val : W64) (s : State), s.may 0 Right.test = true ∧ s.blk.noc.ltest.running = false ∧ partitionsOf s.blk.recs = [] ∧
    getFld val Fl.NOC_LTEST_CTL_LEN ≤ 40 ∧ getFld val Fl.NOC_LTEST_CTL_PATTERN ≤ 4 ∧ getFld val Fl.NOC_LTEST_CTL_PLANE ≤ 5 ∧
    getFld val Fl.NOC_LTEST_CTL_Y ≤ 11 ∧ (neighbour (getFld val Fl.NOC_LTEST_CTL_X) (getFld val Fl.NOC_LTEST_CTL_Y)
      (getFld val Fl.NOC_LTEST_CTL_DIR)).isNone = false) ∧
  (∃ s : State, s.up = true ∧ s.blk.domState 11 = 1 ∧ (s.blk.domSt 11).waking = true) ∧
  (∃ s : State, s.up = true ∧ s.blk.domAsleep 0 = true ∧ (s.blk.domSt 0).waking = true ∧ s.blk.domState 0 = 2 ∧
    ((domRegions 0).all fun r => (s.blk.region r).calibrated) = true) :=
  ⟨⟨⟨15, 11, 0, 0x3EC00000#128, []⟩, st [modNoc fun n => { n with flights := [⟨15, 11, 0, 0x3EC00000#128, []⟩] }], by decide⟩,
   ⟨⟨0, 0, 0, 0x3EC00000#128, []⟩, st [], by decide⟩,
   ⟨⟨0, 0, 0, 0x200000000#128, []⟩, st [], by decide⟩,
   ⟨st [modCis fun x => { x with committed := [.partition 0 1 1 1 0] }], by decide⟩,
   ⟨st [modNoc fun n => { n with ltest := ⟨true, false⟩ }], by decide⟩,
   ⟨putFld 0 Fl.NOC_LTEST_CTL_DIR 1, st [], by decide⟩,
   ⟨st [setF (Reg.PWR_DOM_STATUS 11) Fl.PWR_DOM_STATUS_STATE 1, modDom 11 fun x => { x with waking := true }], by decide⟩,
   ⟨st [setF (Reg.PWR_DOM_STATUS 0) Fl.PWR_DOM_STATUS_STATE 2, modDom 0 fun x => { x with waking := true }, modRegion 0 fun x => { x with calibrated := true }], by decide⟩⟩

theorem test_witness_WellCommands :
  (∃ s : State, s.up = true ∧ s.blk.domAsleep 11 = false ∧ (s.blk.mem.clear.find? fun k => decide (k / 2 ^ 19 = 11)) = some (11 * 2 ^ 19)) ∧
  (∃ s : State, s.up = true ∧ bit (s.blk.f (Reg.WEL_CHAN 11) Fl.WEL_CHAN_IN_SERVICE) 15 = true) ∧
  (∃ s : State, s.up = true ∧ s.blk.on (Reg.WEL_CTL 0) Fl.WEL_CTL_SCRUB_OFF = false ∧ s.blk.populated 0 0 = true ∧ s.blk.wellOn 0 = true ∧
    s.blk.on (Reg.WEL_STATUS 0) Fl.WEL_STATUS_HEAT = false ∧ s.blk.portAdmits 0 = true ∧ s.blk.mayWell 0 0 = true) ∧
  (∃ s : State, s.up = true ∧ s.blk.on (Reg.WEL_STATUS 11) Fl.WEL_STATUS_HEAT = true ∧ s.blk.domAsleep 11 = false) ∧
  (∃ s : State, s.up = true ∧ s.blk.on (Reg.WEL_CTL 11) Fl.WEL_CTL_WB_BUSY = true) ∧
  (∃ (d : DirEnt) (s : State), s.up = true ∧ (s.blk.dir.find? fun e => decide (e.2.pa = 0) && (match e.2.txn with
        | some t => t.await.contains 15 && !(t.unsent.any fun u => decide (u.1 = 15))
        | none => false)) = some (0, d)) ∧
  (∃ s : State, s.up = true ∧ s.blk.partDown 15 = true) :=
  ⟨⟨st [modMem fun m => { m with clear := [11 * 2 ^ 19] }], by decide⟩,
   ⟨st [setF (Reg.WEL_CHAN 11) Fl.WEL_CHAN_IN_SERVICE 0xFFFF], by decide⟩,
   ⟨st [modCis fun x => { x with committed := [.region 0 0 1 0 0x100000] }], by decide⟩,
   ⟨st [setF (Reg.WEL_STATUS 11) Fl.WEL_STATUS_HEAT 1], by decide⟩,
   ⟨st [setF (Reg.WEL_CTL 11) Fl.WEL_CTL_WB_BUSY 1], by decide⟩,
   ⟨{ txn := some ⟨Pkt.bare 0x20 0 0 0 (.glove 0 0) (.bank 0 0), [15], [], .serve, none, 0, false, false⟩ },
     st [modDir 0 fun d => { d with txn := some ⟨Pkt.bare 0x20 0 0 0 (.glove 0 0) (.bank 0 0), [15], [], .serve, none, 0, false, false⟩ }],
     by decide⟩,
   ⟨st [setF Reg.HUB_PART_DOWN Fl.HUB_PART_DOWN_DOWN 0x8000], by decide⟩⟩

theorem test_witness_HostTraffic :
  (∃ s : State, s.up = true ∧ s.blk.hstUp 3 = true ∧ s.blk.fnResetting 3 0 = false ∧ s.blk.fnResetting 3 63 = false ∧
    s.blk.fnTakes 3 0 = true ∧ s.blk.fnTakes 3 63 = false) ∧
  (∃ s : State, s.up = true ∧ s.blk.on (Reg.HST_STATUS 0) Fl.HST_STATUS_D3COLD = false ∧
    s.blk.on (Reg.HST_SLOT 0) Fl.HST_SLOT_PWR_GOOD = true ∧ s.blk.hstF 0 Fl.HST_STATUS_PERST = 0 ∧ s.blk.hstReady 0 = true ∧
    s.blk.fnThere 0 0 = true ∧ s.blk.fnThere 0 1 = false) ∧
  (∃ (e : Nat × Pkt) (s : State), s.up = true ∧ ((s.blk.portSt 3).issued.find? fun e => decide (e.1 = 7)) = some e ∧
    s.blk.hstUp 3 = true ∧ (s.blk.fnSt 3 ((s.blk.hostFn e.2.hat 3).getD 0)).cplOff = false) ∧
  (∃ (p : Pkt) (s : State), s.up = true ∧ s.blk.noc.net.contains p = true ∧ p.cmd = 0x84 ∧ p.hat < 1024 ∧
    s.blk.hatState p.hat = HatState.active ∧ p.addr % 2 ^ 11 < 2 ^ s.blk.f (Reg.HAT_INFO p.hat) Fl.HAT_INFO_VEC_LOG2 ∧
    s.blk.hatPort p.hat = some 0x100) ∧
  (∃ (p : Pkt) (s : State), s.up = true ∧ s.blk.noc.net.contains p = true ∧ p.cmd = 0x84 ∧ p.hat < 1024 ∧
    s.blk.hatState p.hat = HatState.orphaned) :=
  ⟨⟨st [hstSet 3 Fl.HST_STATUS_LINK_UP 1, hstSet 3 Fl.HST_STATUS_READY 1, modPort 3 fun x => { x with fn := [(0, { memEn := true })] }], by decide⟩,
   ⟨st [hstSet 0 Fl.HST_STATUS_PERST 0, slotSet 0 Fl.HST_SLOT_PWR_GOOD 1, hstSet 0 Fl.HST_STATUS_READY 1, hstSet 0 Fl.HST_STATUS_LINK_UP 1], by decide⟩,
   ⟨(7, Pkt.bare 0 0 0 0 (.engine 0) (.host 3)), st [hstSet 3 Fl.HST_STATUS_LINK_UP 1, hstSet 3 Fl.HST_STATUS_READY 1,
     modPort 3 fun x => { x with issued := [(7, Pkt.bare 0 0 0 0 (.engine 0) (.host 3))] }], by decide⟩,
   ⟨Pkt.bare 0x84 0 0 0 (.engine 0) .wellhead, st [sendPkt (Pkt.bare 0x84 0 0 0 (.engine 0) .wellhead)], by decide⟩,
   ⟨Pkt.bare 0x84 0 0 1023 (.engine 0) .wellhead, st [sendPkt (Pkt.bare 0x84 0 0 1023 (.engine 0) .wellhead),
     setF (Reg.HAT_CTL 1023) Fl.HAT_CTL_STATE 3], by decide⟩⟩

theorem test_witness_HostPortEvents :
  (∃ s : State, s.up = true ∧ s.blk.hstReady 3 = true ∧ s.blk.fnThere 3 0 = true ∧ s.blk.fnThere 3 63 = true ∧
    (s.blk.portSt 3).vfEn = true ∧ (s.blk.portSt 3).numVfs = 63) ∧
  (∃ s : State, s.up = true ∧ s.blk.hstF 0 Fl.HST_STATUS_PERST = 0 ∧ (s.blk.portSt 0).l2 = true) ∧
  (∃ s : State, s.up = true ∧ s.blk.hstF 0 Fl.HST_STATUS_PERST = 0 ∧ (s.blk.portSt 0).l2 = false) ∧
  (∃ s : State, s.up = true ∧ s.blk.hstF 0 Fl.HST_STATUS_PERST = 1 ∧ s.blk.on (Reg.HST_STATUS 0) Fl.HST_STATUS_D3COLD = false) ∧
  (∃ s : State, s.up = true ∧ s.blk.hstUp 3 = true ∧ s.blk.hstF 3 Fl.HST_STATUS_PERST = 0 ∧
    s.blk.on (Reg.HST_CTL 3) Fl.HST_CTL_L0P_EN = true ∧ s.blk.hstF 3 Fl.HST_STATUS_PSTATE = 0 ∧ 1 < s.blk.hstF 3 Fl.HST_STATUS_WIDTH) ∧
  (∃ s : State, s.up = true ∧ s.blk.on (Reg.HST_SLOT 3) Fl.HST_SLOT_PWR_GOOD = true ∧ s.blk.hstF 3 Fl.HST_STATUS_PERST = 0 ∧
    s.blk.sys.testDone = true ∧ s.blk.sys.offPort.contains 3 = false ∧ s.blk.on Reg.TST_CTL Fl.TST_CTL_TEST_MODE = false ∧
    s.blk.on Reg.HUB_BRINGUP Fl.HUB_BRINGUP_FAILED = false ∧ s.blk.hstReady 3 = false) ∧
  (∃ s : State, s.up = true ∧ s.blk.hstF 3 Fl.HST_STATUS_PRSNT = 0 ∧ s.blk.autoPwr 3 = true) ∧
  (∃ s : State, s.up = true ∧ (s.blk.portSt 3).removed = false ∧ s.blk.f (Reg.HAT_GRACE 3) Fl.HAT_GRACE_ORPHANS = 0 ∧
    s.blk.autoPwr 3 = true ∧ s.blk.hstUp 3 = true ∧ (s.blk.portSt 3).btn = false) ∧
  (∃ s : State, s.up = true ∧ s.blk.on (Reg.HST_SLOT 3) Fl.HST_SLOT_PWR_CMD = true ∧ s.blk.on (Reg.HST_SLOT 3) Fl.HST_SLOT_PWR_GOOD = true) ∧
  (∃ s : State, s.up = true ∧ s.blk.portAdmits 0 = true ∧ s.blk.mayHst 0 3 = true) ∧
  (∃ s : State, s.up = true ∧ s.blk.hstReady 3 = true ∧ s.blk.on (Reg.HST_CTL 3) Fl.HST_CTL_AUTO_REBIND = true ∧
    (s.blk.portSt 3).marks ≠ [] ∧ s.blk.cis.commit = none ∧ s.blk.on Reg.TST_CTL Fl.TST_CTL_TEST_MODE = false ∧
    s.blk.sec.linkLost = false ∧ ((List.range 4).find? fun n => decide (s.blk.slotState n = SlotState.empty)) = some 0) :=
  ⟨⟨st [hstSet 3 Fl.HST_STATUS_READY 1, hstSet 3 Fl.HST_STATUS_LINK_UP 1, modPort 3 fun x => { x with vfEn := true, numVfs := 63 }], by decide⟩,
   ⟨st [hstSet 0 Fl.HST_STATUS_PERST 0, modPort 0 fun x => { x with l2 := true }], by decide⟩,
   ⟨st [hstSet 0 Fl.HST_STATUS_PERST 0], by decide⟩,
   ⟨st [hstSet 0 Fl.HST_STATUS_PERST 1], by decide⟩,
   ⟨st [hstSet 3 Fl.HST_STATUS_PERST 0, hstSet 3 Fl.HST_STATUS_READY 1, hstSet 3 Fl.HST_STATUS_LINK_UP 1, hstSet 3 Fl.HST_STATUS_WIDTH 16, hstSet 3 Fl.HST_STATUS_PSTATE 0,
     setF (Reg.HST_CTL 3) Fl.HST_CTL_L0P_EN 1], by decide⟩,
   ⟨st [hstSet 3 Fl.HST_STATUS_PERST 0, slotSet 3 Fl.HST_SLOT_PWR_GOOD 1, modSys fun x => { x with testDone := true }], by decide⟩,
   ⟨st [hstSet 3 Fl.HST_STATUS_PRSNT 0, setF (Reg.HST_CTL 3) Fl.HST_CTL_AUTO_PWR 1], by decide⟩,
   ⟨st [hstSet 3 Fl.HST_STATUS_READY 1, hstSet 3 Fl.HST_STATUS_LINK_UP 1, setF (Reg.HST_CTL 3) Fl.HST_CTL_AUTO_PWR 1], by decide⟩,
   ⟨st [slotSet 3 Fl.HST_SLOT_PWR_CMD 1, slotSet 3 Fl.HST_SLOT_PWR_GOOD 1], by decide⟩,
   ⟨st [], by decide⟩,
   ⟨st [hstSet 3 Fl.HST_STATUS_READY 1, hstSet 3 Fl.HST_STATUS_LINK_UP 1, setF (Reg.HST_CTL 3) Fl.HST_CTL_AUTO_REBIND 1,
     modPort 3 fun x => { x with marks := [5] }], by decide⟩⟩

theorem test_witness_RegisterCommands :
  (∃ (d : RegDesc) (i : List Nat) (s : State), s.up = true ∧ s.blk.portAdmits 0 = true ∧ goodAccess Reg.HUB_PART_RESET 8 = true ∧
    s.blk.blank (Reg.HUB_PART_RESET / 8 * 8) = false ∧ taskWin (Reg.HUB_PART_RESET / 8 * 8) = none ∧ Regs.find (Reg.HUB_PART_RESET / 8 * 8) = some (d, i)) ∧
  (∃ s : State, s.up = true ∧ goodAccess 4 8 = false) ∧
  (∃ (hat : Nat) (s : State), s.up = true ∧ s.blk.sys.pwrOk = true ∧ ((loadIr 0x10).run s.blk).held = false ∧
    ((loadIr 0x10).run s.blk).sys.scanned = false ∧ ((loadIr 0x10).run s.blk).boundHat 0x101 = some hat ∧
    ((loadIr 0x10).run s.blk).portAdmits hat = true ∧ ((loadIr 0x10).run s.blk).readWaits 0 = false) ∧
  (∃ s : State, s.up = true ∧ s.blk.sys.begun = true ∧ s.blk.bringFailed = false ∧ s.blk.bringStep = 8 ∧
    s.blk.on Reg.HUB_BRINGUP Fl.HUB_BRINGUP_READY = false ∧ numAt (s.blk.bootBytes 0x80000 4) 0 4 = 0x54534C42) :=
  ⟨⟨_, _, st [], by decide, by decide, by decide, by decide, by decide, rfl⟩,
   ⟨st [], by decide⟩,
   ⟨0, st [setF (Reg.HAT_PORT 0x101) Fl.HAT_PORT_VALID 1], by decide⟩,
   ⟨st [setF Reg.HUB_POPULATION Fl.HUB_POPULATION_SITE_EN 0, modSys fun x => { x with begun := true, romDone := true, fuseDone := true, imgDone := true, testDone := true, memDone := true, cfgDone := true },
     modSec fun x => { x with boot := Tbl.setRun (dflt 0xFF) 0x80000 [0x42, 0x4C, 0x53, 0x54] [] }], by decide⟩⟩

theorem test_witness_TestPortCommands :
  (∃ s : State, s.up = true ∧ s.blk.portAdmits 0 = true ∧ s.blk.inRecovery = false ∧ testMode s.blk = false ∧
    s.blk.holds 0 Right.test = true ∧ s.blk.quiet = true) ∧
  (∃ s : State, s.up = true ∧ s.blk.portAdmits 0 = true ∧ s.blk.inRecovery = false ∧ testMode s.blk = false ∧ s.blk.quiet = false) ∧
  (∃ s : State, s.blk.sys.pwrOk = true ∧ testMode s.blk = true) ∧
  (∃ (val : W64) (s : State), s.may 0 Right.test = true ∧ s.blk.sys.ltest.running = false ∧ testMode s.blk = true ∧
      s.blk.ltestThere (getFld val Fl.TST_LTEST_CTL_KIND) (getFld val Fl.TST_LTEST_CTL_INDEX) (getFld val Fl.TST_LTEST_CTL_SUB) = true ∧
      getFld val Fl.TST_LTEST_CTL_LEN ≤ 40 ∧ getFld val Fl.TST_LTEST_CTL_PATTERN ≤ 4) ∧
  (∃ s : State, s.may 0 Right.test = true ∧ s.blk.sys.ltest.running = true ∧ s.blk.sys.ltest.forever = false) :=
  ⟨⟨st [setF Reg.HUB_BRINGUP Fl.HUB_BRINGUP_READY 1], by decide⟩,
   ⟨st [setF (Reg.TRG_CTL 63) Fl.TRG_CTL_STATE 1], by decide⟩,
   ⟨st [setF Reg.TST_CTL Fl.TST_CTL_TEST_MODE 1], by decide⟩,
   ⟨0, st [setF Reg.TST_CTL Fl.TST_CTL_TEST_MODE 1], by decide⟩,
   ⟨st [modSys fun x => { x with ltest := ⟨true, false, 0, 0, 0⟩ }], by decide⟩⟩

theorem test_witness_TranslationCommands :
  (∃ (off : Nat) (s : State), s.up = true ∧ s.blk.portAdmits 0 = true ∧ off % 8 = 0 ∧ s.blk.maySeg 0 off true = true) ∧
  (∃ (k : Walk) (s : State), s.up = true ∧ s.blk.windowAt 15 = false ∧ s.blk.walkAt 31 = some k ∧ k.va < 2 ^ 48 ∧
    (s.blk.walkGot 31 k 0 0).isSome = true) ∧
  (∃ s : State, s.up = true ∧ (s.blk.fq 15).parked.length + (s.blk.fq 15).asked.length ≠ 0) ∧
  (∃ s : State, s.up = true ∧ (s.blk.fq 15).irqOwed = true) ∧
  (∃ s : State, s.up = true ∧ s.blk.portAdmits 0 = true ∧ s.blk.mayXctx 0 255 = true ∧
    s.blk.on (Reg.XLT_CTX_EPOCH 255) Fl.XLT_CTX_EPOCH_BUSY = false) ∧
  (∃ (u : Ep) (s : State), s.up = true ∧ (s.blk.xctx 255).acks = [u] ∧ s.blk.bumpClear 255 u = true ∧ (s.blk.xctx 255).quiet = false ∧
    (s.blk.xctx 255).more = 0) ∧
  (∃ (r : FaultRec) (s : State), s.up = true ∧ s.blk.portAdmits 0 = true ∧ s.blk.mayFq 0 15 = true ∧
    ((s.blk.fq 15).open_.find? fun r => decide (r.fid = 3)) = some r) :=
  ⟨⟨0x1A20000, st [], by decide⟩,
   ⟨⟨.engine 0 0 0, 0, 0, 0, 1, 0, 4, 0, 0⟩, st [modXlt fun x => { x with walks := [(31, some ⟨.engine 0 0 0, 0, 0, 0, 1, 0, 4, 0, 0⟩)] }], by decide⟩,
   ⟨st [modFq 15 fun x => { x with parked := [⟨⟨.engine 0 0 0, 0, 0, 0, 1, 0, 4, 0, 0⟩, 1, 0, 3, 0⟩] }], by decide⟩,
   ⟨st [modFq 15 fun x => { x with irqOwed := true }], by decide⟩,
   ⟨st [], by decide⟩,
   ⟨.host 3, st [modXctx 255 fun x => { x with acks := [.host 3] }], by decide⟩,
   ⟨⟨⟨.engine 0 0 0, 0, 0, 0, 1, 0, 4, 0, 0⟩, 1, 0, 3, 0⟩, st [modFq 15 fun x => { x with open_ := [⟨⟨.engine 0 0 0, 0, 0, 0, 1, 0, 4, 0, 0⟩, 1, 0, 3, 0⟩] }], by decide⟩⟩

theorem test_witness_PumpCommands :
  (∃ s : State, s.up = true ∧ s.blk.pumpRuns 47 = true ∧ (∃ k < 64, s.blk.workAt (workKey 47 k) = none) ∧ s.blk.admitTurn 47 4095 = true) ∧
  (∃ s : State, s.up = true ∧ s.blk.pumpRuns 47 = true ∧ s.blk.intakeOn 4095 = true ∧ s.blk.intakePump 4095 = 47 ∧
    s.blk.unitAdmits (s.blk.intakeHat 4095) = true ∧ s.blk.intakeClosing 4095 = false ∧ s.blk.mayIntake 0 (s.blk.intakePump 4095) = true ∧
    s.blk.hatRemoved (s.blk.intakeHat 4095) = false) ∧
  (∃ (d : Desc) (n : Nat) (s : State), s.up = true ∧ s.blk.workAt (workKey 47 63) = some d ∧ s.blk.pumpRuns 47 = true ∧ d.xlat = 0 ∧
    d.stop = false ∧ d.started < d.pieces ∧ d.fault = none ∧
    (decide (0 < d.started) || (s.blk.earlierStarted 47 d && (!d.order || s.blk.firstOfIntake d))) = true ∧
    s.blk.piecePlace 47 = some n ∧ ((d.walksSrc || d.walksDst) = true → d.epoch = s.blk.xepoch d.xctx) ∧ d.op = 1) ∧
  (∃ (d : Desc) (s : State), s.up = true ∧ s.blk.workAt (workKey 0 0) = some d ∧ d.op = 3 ∧ s.blk.pumpRuns 0 = true ∧
    s.blk.firstOfIntake d = true) ∧
  (∃ s : State, s.up = true ∧ (s.blk.intakeSt 4095).irqOwed = true) ∧
  (∃ (v : W64) (s : State), s.up = true ∧ s.blk.portAdmits 0 = true ∧ s.blk.intakeOn 0 = false ∧ getFld v Fl.PMP_INTAKE_CTL_ENABLE = 1 ∧
      s.blk.mayIntake 0 (getFld v Fl.PMP_INTAKE_CTL_PUMP) = true ∧ s.blk.hatRemoved (getFld v Fl.PMP_INTAKE_CTL_HAT) = false ∧
      getFld v Fl.PMP_INTAKE_CTL_PUMP < 48 ∧ s.blk.pumpOn (getFld v Fl.PMP_INTAKE_CTL_PUMP) = true ∧
      s.blk.inPart (getFld v Fl.PMP_INTAKE_CTL_HAT) (s.blk.pumpPart (getFld v Fl.PMP_INTAKE_CTL_PUMP)) = true) ∧
  (∃ s : State, s.up = true ∧ s.blk.portAdmits 0 = true ∧ s.blk.keyState 255 = 2 ∧ s.blk.f (Reg.PMP_WSET 255) Fl.PMP_WSET_HAT = 0 ∧
    s.blk.mayWset 0 0 = true ∧ s.blk.hatRemoved 0 = false ∧ s.blk.on Reg.PMP_REMOVE Fl.PMP_REMOVE_BUSY = false) :=
  ⟨⟨st [modCis fun x => { x with committed := [.partition 0 1 0xFFFF 0xFFF 0] }, setF (Reg.PMP_INTAKE_CTL 4095) Fl.PMP_INTAKE_CTL_ENABLE 1,
      setF (Reg.PMP_INTAKE_CTL 4095) Fl.PMP_INTAKE_CTL_PUMP 47, modIntake 4095 fun x => { x with busy := [0], held := [0] }],
      by decide, by decide, ⟨0, by decide, by decide⟩, by decide⟩,
   ⟨st [modCis fun x => { x with committed := [.partition 0 1 0xFFFF 0xFFF 0] }, setF (Reg.PMP_INTAKE_CTL 4095) Fl.PMP_INTAKE_CTL_ENABLE 1,
      setF (Reg.PMP_INTAKE_CTL 4095) Fl.PMP_INTAKE_CTL_PUMP 47], by decide⟩,
   ⟨{ bytes := [1, 0, 0, 0, 0, 0, 0, 0, 0, 0x20, 0, 0], started := 1 }, _, st [modCis fun x => { x with committed := [.partition 0 1 0xFFFF 0xFFF 0] },
      setWork (workKey 47 63) (some { bytes := [1, 0, 0, 0, 0, 0, 0, 0, 0, 0x20, 0, 0], started := 1 })],
      by decide, by decide, by decide, by decide, by decide, by decide, by decide, by decide, rfl, by decide⟩,
   ⟨{ bytes := [3] }, st [modCis fun x => { x with committed := [.partition 0 1 0xFFFF 0xFFF 0] }, setWork (workKey 0 0) (some { bytes := [3] })], by decide⟩,
   ⟨st [modIntake 4095 fun x => { x with irqOwed := true }], by decide⟩,
   ⟨putFld (putFld (putFld 0 Fl.PMP_INTAKE_CTL_ENABLE 1) Fl.PMP_INTAKE_CTL_PUMP 47) Fl.PMP_INTAKE_CTL_HAT 5,
     st [modCis fun x => { x with committed := [.partition 0 1 0xFFFF 0xFFF 0] }, setF (Reg.HAT_CTL 5) Fl.HAT_CTL_STATE 1,
       setF (Reg.HAT_INFO 5) Fl.HAT_INFO_PARTITION 0], by decide⟩,
   ⟨st [setF (Reg.PMP_KEY 255) Fl.PMP_KEY_STATE 2], by decide⟩⟩

theorem test_witness_SpanFramesIn :
  (∃ s : State, s.up = true ∧ s.blk.domAsleep (netDom 1) = false) ∧
  (∃ (f : SpanFrame) (s : State), s.hears 1 { f with type := 1 } = true ∧ s.inSessionWith { f with type := 1 } = true) ∧
  (∃ (f : SpanFrame) (s : State), s.hears 0 { f with type := 6 } = true ∧ s.inSessionWith { f with type := 6 } = true) ∧
  (∃ (f : SpanFrame) (s : State), s.hears 1 { f with type := 3 } = true ∧ s.blk.spanPortUp 1 47 = true) ∧
  (∃ (f : SpanFrame) (s : State), s.hears 1 { f with type := 4 } = true ∧ s.blk.spanPortUp 1 47 = true ∧ s.blk.span.dup = false ∧
    s.inSessionWith f = true ∧ (s.blk.peerSt f.srcPkg).recvPsn = 0 ∧ (s.blk.peerSt f.srcPkg).window = []) ∧
  (∃ (f : SpanFrame) (s : State), s.hears 1 { f with type := 4 } = true ∧ s.blk.spanPortUp 1 47 = true ∧ s.blk.span.dup = false ∧
    s.blk.session f.srcPkg = false) ∧
  (∃ (f : SpanFrame) (s : State), s.hears 1 { f with type := 5 } = true ∧ s.blk.spanPortUp 1 0 = true ∧ s.blk.span.dup = false ∧
    s.blk.peerState f.srcPkg = PeerState.opening) :=
  ⟨⟨st [], by decide⟩,
   ⟨frame7, st (spanUp ++ [setF (Reg.SPN_PEER 7) Fl.SPN_PEER_STATE PeerState.up]), by decide⟩,
   ⟨frame7, st (spanUp ++ [setF (Reg.SPN_PEER 7) Fl.SPN_PEER_STATE PeerState.suspect]), by decide⟩,
   ⟨frame7, st (spanUp ++ [setF (Reg.SPN_PEER 7) Fl.SPN_PEER_STATE PeerState.up]), by decide⟩,
   ⟨frame7, st (spanUp ++ [setF (Reg.SPN_PEER 7) Fl.SPN_PEER_STATE PeerState.up]), by decide⟩,
   ⟨frame7, st (spanUp ++ [setF (Reg.SPN_PEER 7) Fl.SPN_PEER_STATE PeerState.down]), by decide⟩,
   ⟨frame7, st (spanUp ++ [setF (Reg.SPN_PEER 7) Fl.SPN_PEER_STATE PeerState.opening]), by decide⟩⟩

theorem test_witness_SpanTimersAndPorts :
  (∃ s : State, s.up = true ∧ s.blk.session 1023 = true ∧ (s.blk.peerSt 1023).ackOwed = true ∧ (s.blk.peerSt 1023).unacked ≠ [] ∧
    s.blk.sideHeld 1023 = false ∧ (s.blk.peerSt 1023).expiries + 1 < max 2 (s.blk.f Reg.SPN_CTL Fl.SPN_CTL_RETRY_MAX)) ∧
  (∃ s : State, s.up = true ∧ s.blk.session 0 = true ∧ (s.blk.peerSt 0).unacked ≠ [] ∧ s.blk.sideHeld 0 = false ∧
    max 2 (s.blk.f Reg.SPN_CTL Fl.SPN_CTL_RETRY_MAX) ≤ (s.blk.peerSt 0).expiries + 1) ∧
  (∃ s : State, s.up = true ∧ s.blk.peerState 1023 = PeerState.opening ∧ s.blk.span.dup = false) ∧
  (∃ s : State, s.up = true ∧ s.blk.spanPortUp 1 47 = true ∧ s.blk.on Reg.SPN_ID Fl.SPN_ID_VALID = true ∧ (identityOf s.blk.recs).2.2.1 % 2 = 0) ∧
  (∃ (r : SpanReq) (s : State), s.up = true ∧ (s.blk.span.reqs.find? fun r => decide (r.stag = 5)) = some r ∧ s.blk.sideHeld r.peer = false ∧ isRead r.req = true) ∧
  (∃ (r : SpanReq) (s : State), s.up = true ∧ (s.blk.span.reqs.find? fun r => decide (r.stag = 5)) = some r ∧ s.blk.sideHeld r.peer = false ∧ isRead r.req = false) ∧
  (∃ s : State, s.up = true ∧ (quadPorts (s.blk.quadMode 1 11)).contains 0 = true ∧ s.blk.sys.offSpan.contains (portEngine 1 44) = false ∧
    s.blk.sys.netLost.contains 1 = false ∧ s.blk.sys.cfgDone = true ∧ s.blk.on Reg.HUB_BRINGUP Fl.HUB_BRINGUP_FAILED = false) ∧
  (∃ (p : Path) (s : State), s.up = true ∧ (s.blk.peerSt 1023).moving = true ∧ s.blk.pathOf 1023 (s.blk.peerActive 1023) = some p) ∧
  (∃ (p : Pkt) (s : State), s.arrives p 0xA0 = true ∧ p.dst = .spanEng 7 ∧ p.addr.testBit 0 = true ∧
    (s.blk.span.rlc.any (s.blk.epochHeld 7 p) || s.blk.span.fills.any fun x => s.blk.epochHeld 7 p x.line) = false) ∧
  (∃ (a : Nat × Pkt) (s : State), s.up = true ∧ (s.blk.span.acqWrap.find? fun a => decide (a.1 = 7)) = some a) ∧
  (∃ (p : Pkt) (s : State), s.arrives p 0xA1 = true ∧ p.dst = .engine 23 ∧ s.blk.downUnit p.dst = none) ∧
  (∃ s : State, s.up = true ∧ s.blk.noc.net.contains (Pkt.bare 0xA2 0 0 1023 .commitLogic (.spanEng 7)) = true) :=
  ⟨⟨st [setF (Reg.SPN_PEER 1023) Fl.SPN_PEER_STATE PeerState.up, modPeer 1023 fun x => { x with ackOwed := true, unacked := [frame7] },
      setF Reg.SPN_CTL Fl.SPN_CTL_RETRY_MAX 8], by decide⟩,
   ⟨st [setF (Reg.SPN_PEER 0) Fl.SPN_PEER_STATE PeerState.suspect, modPeer 0 fun x => { x with expiries := 7, unacked := [frame7] },
      setF Reg.SPN_CTL Fl.SPN_CTL_RETRY_MAX 8], by decide⟩,
   ⟨st [setF (Reg.SPN_PEER 1023) Fl.SPN_PEER_STATE PeerState.opening], by decide⟩,
   ⟨st spanUp, by decide⟩,
   ⟨⟨5, 7, Pkt.bare 0 0 0 0 (.engine 0) (.spanEng 0)⟩, st [modSpan fun x => { x with reqs := [⟨5, 7, Pkt.bare 0 0 0 0 (.engine 0) (.spanEng 0)⟩] }], by decide⟩,
   ⟨⟨5, 7, Pkt.bare 8 0 0 0 (.engine 0) (.spanEng 0)⟩, st [modSpan fun x => { x with reqs := [⟨5, 7, Pkt.bare 8 0 0 0 (.engine 0) (.spanEng 0)⟩] }], by decide⟩,
   ⟨st [setF (Reg.SPN_QUAD 1 11) Fl.SPN_QUAD_MODE 0, modSys fun x => { x with cfgDone := true }], by decide⟩,
   ⟨⟨1, 47, 0, 0⟩, st [modPeer 1023 fun x => { x with moving := true, paths := [⟨1, 47, 0, 0⟩] }], by decide⟩,
   ⟨Pkt.bare 0xA0 1 0 0 (.engine 0) (.spanEng 7), st [sendPkt (Pkt.bare 0xA0 1 0 0 (.engine 0) (.spanEng 7))], by decide⟩,
   ⟨(7, Pkt.bare 0xA0 1 0 0 (.engine 0) (.spanEng 7)), st [modSpan fun x => { x with acqWrap := [(7, Pkt.bare 0xA0 1 0 0 (.engine 0) (.spanEng 7))] }], by decide⟩,
   ⟨Pkt.bare 0xA1 0 0 0 (.spanEng 0) (.engine 23), st [sendPkt (Pkt.bare 0xA1 0 0 0 (.spanEng 0) (.engine 23))], by decide⟩,
   ⟨st [sendPkt (Pkt.bare 0xA2 0 0 1023 .commitLogic (.spanEng 7))], by decide⟩⟩

theorem test_witness_TroughCommands :
  (∃ s : State, s.up = true ∧ s.blk.portAdmits 0 = true ∧ s.blk.mayTrough 0 63 = true ∧ s.blk.trgState 63 = TrgState.idle) ∧
  (∃ s : State, s.up = true ∧ s.blk.portAdmits 0 = true ∧ s.blk.mayTrough 0 0 = true ∧ s.blk.trgState 0 = TrgState.armed) ∧
  (∃ s : State, s.up = true ∧ s.blk.portAdmits 0 = true ∧ s.blk.mayTrough 0 5 = true ∧
    s.blk.on (Reg.TRG_EXPORT 5) Fl.TRG_EXPORT_BUSY = false ∧ s.blk.trgState 5 = TrgState.abandoned) ∧
  (∃ (hat k : Nat) (s : State), s.up = true ∧ s.blk.portAdmits hat = true ∧ s.blk.memberOf 63 s.blk.ownPkg hat = some k ∧
    s.blk.trgState 63 = TrgState.armed ∧ s.blk.memDone 63 k = false ∧ s.blk.memOut 63 k = false) ∧
  (∃ s : State, s.up = true ∧ s.blk.trgState 63 = TrgState.zeroising ∧ s.blk.accReady 63 = true ∧ (s.blk.trgSt 63).toArmed = true) ∧
  (∃ s : State, s.up = true ∧ s.blk.trgState 0 = TrgState.zeroising ∧ s.blk.accReady 0 = true ∧ (s.blk.trgSt 0).toArmed = false) ∧
  (∃ (c : Contrib) (rest : List Contrib) (s : State), s.up = true ∧ (s.blk.trgUnit 7).waiting = c :: rest ∧ s.blk.buffers 7 < 16) ∧
  (∃ (c : Contrib) (rest : List Contrib) (s : State), s.up = true ∧ (s.blk.trgSt 63).adding = c :: rest ∧ s.blk.accReady 63 = true) ∧
  (∃ s : State, s.up = true ∧ 0 < s.blk.f (Reg.TRG_DEADLINE 63) Fl.TRG_DEADLINE_TIME ∧
    s.blk.f (Reg.TRG_DEADLINE 63) Fl.TRG_DEADLINE_TIME ≤ s.blk.now) ∧
  (∃ s : State, s.up = true ∧ s.blk.trgState 63 = TrgState.closing ∧ (s.blk.trgSt 63).adding = [] ∧ s.blk.trough.healthy = true ∧ s.blk.accReady 63 = true ∧
    s.blk.f (Reg.TRG_PARAM 63) Fl.TRG_PARAM_SIGMA % 2 ^ 31 = 0) ∧
  (∃ s : State, s.up = true ∧ s.blk.trgState 63 = TrgState.closing ∧ (s.blk.trgSt 63).adding = [] ∧ s.blk.trough.healthy = true ∧ s.blk.accReady 63 = true ∧
    s.blk.f (Reg.TRG_PARAM 63) Fl.TRG_PARAM_SIGMA % 2 ^ 31 ≠ 0) ∧
  (∃ (hat : Nat) (v val : W64) (s : State), s.up = true ∧ s.blk.portAdmits hat = true ∧ v = putFld val Fl.TRG_EXPORT_GO 1 ∧
    s.blk.on (Reg.TRG_EXPORT 63) Fl.TRG_EXPORT_BUSY = false ∧
    s.blk.exportCode hat 63 (getFld v Fl.TRG_EXPORT_FIRST) (getFld v Fl.TRG_EXPORT_COUNT) = 0) ∧
  (∃ s : State, s.up = true ∧ s.blk.on (Reg.TRG_EXPORT 63) Fl.TRG_EXPORT_BUSY = true ∧ (s.blk.trgSt 63).exportOut = 0 ∧ (s.blk.trgSt 63).exporting = none) ∧
  (∃ x s, State.up s = true ∧ s.blk.on (Reg.TRG_EXPORT 63) Fl.TRG_EXPORT_BUSY = true ∧ (s.blk.trgSt 63).exportOut = 0 ∧
    (s.blk.trgSt 63).exporting = some x ∧ s.blk.accReady 63 = true) :=
  ⟨⟨st [], by decide⟩,
   ⟨st [setTrg 0 TrgState.armed], by decide⟩,
   ⟨st [setTrg 5 TrgState.abandoned], by decide⟩,
   ⟨0, 63, st [setTrg 63 TrgState.armed, setF (Reg.TRG_MEMBER 63 63) Fl.TRG_MEMBER_VALID 1], by decide⟩,
   ⟨st [setTrg 63 TrgState.zeroising, modTrg 63 fun x => { x with toArmed := true }], by decide⟩,
   ⟨st [setTrg 0 TrgState.zeroising, modTrg 0 fun x => { x with toArmed := false }], by decide⟩,
   ⟨contrib0, [], st [modTrgU 7 fun x => { x with waiting := [contrib0] }], by decide⟩,
   ⟨contrib0, [], st [modTrg 63 fun x => { x with adding := [contrib0] }], by decide⟩,
   ⟨st [setF (Reg.TRG_DEADLINE 63) Fl.TRG_DEADLINE_TIME 1, setR Reg.HUB_TIMESTAMP 1], by decide⟩,
   ⟨st [setTrg 63 TrgState.closing, modTrough fun x => { x with healthy := true }, setF (Reg.TRG_PARAM 63) Fl.TRG_PARAM_SIGMA 0], by decide⟩,
   ⟨st [setTrg 63 TrgState.closing, modTrough fun x => { x with healthy := true }, setF (Reg.TRG_PARAM 63) Fl.TRG_PARAM_SIGMA 0x3F800000], by decide⟩,
   ⟨5, _, putFld 0 Fl.TRG_EXPORT_COUNT 4, st tenant5, by decide, by decide, rfl, by decide, by decide⟩,
   ⟨st [setF (Reg.TRG_EXPORT 63) Fl.TRG_EXPORT_BUSY 1], by decide⟩,
   ⟨⟨5, 0, 0, 0, 4⟩, st [setF (Reg.TRG_EXPORT 63) Fl.TRG_EXPORT_BUSY 1, modTrg 63 fun x => { x with exporting := some ⟨5, 0, 0, 0, 4⟩ }],
     by decide⟩⟩

theorem test_witness_ProurContexts :
  (∃ (bytes new : List Byte) (s : State), s.up = true ∧ s.blk.portAdmits 0 = true ∧ s.blk.prtRuns 15 15 = true ∧ s.blk.prtReach 0 15 = true ∧
    s.blk.prtTakes 0 15 15 = true ∧ s.blk.prtState 15 15 = PrtState.idle ∧ (s.blk.prtCtx 15 15).stopping = false ∧
    (s.blk.prtCtx 15 15).busy 127 = false ∧ 0x7F < 120 + bytes.length ∧ (numAt new 0x7F 1).testBit 7 = true ∧
    new = slice ((slice (Tbl.get (dflt []) 127 (s.blk.prtCtx 15 15).slots) 0 128).take 120 ++ bytes ++
      (slice (Tbl.get (dflt []) 127 (s.blk.prtCtx 15 15).slots) 0 128).drop (120 + bytes.length)) 0 128 ∧
    numAt new 0x78 2 = s.blk.prtF 15 15 Fl.PRT_CTX_STATUS_NEXT_SEQ ∧ 127 = s.blk.prtF 15 15 Fl.PRT_CTX_STATUS_NEXT_SEQ % 128) ∧
  (∃ (val : W64) (p : Nat) (s : State), s.up = true ∧ s.blk.portAdmits 0 = true ∧ s.blk.prtRuns 15 15 = true ∧ s.blk.prtReach 0 15 = true ∧
    s.blk.prtTakes 0 15 15 = true ∧ s.blk.prtState 15 15 = PrtState.idle ∧ s.blk.hatPos 15 (s.blk.prtHat 15 15) = some p ∧
    s.blk.segAllows (s.blk.segAt (Reg.XLT_GSEG_CTL 15 p (s.blk.f (Reg.PRT_CTX_PROG_ADDR 15 15) Fl.PRT_CTX_PROG_ADDR_SEG)) false) 1
          (s.blk.f (Reg.PRT_CTX_PROG_ADDR 15 15) Fl.PRT_CTX_PROG_ADDR_OFFSET) (128 * getFld val Fl.PRT_CTX_PROG_COUNT) = true ∧
    s.blk.f (Reg.PRT_CTX_PROG_ADDR 15 15) Fl.PRT_CTX_PROG_ADDR_OFFSET % 128 = 0 ∧ getFld val Fl.PRT_CTX_PROG_COUNT ≠ 0 ∧
    getFld val Fl.PRT_CTX_PROG_COUNT ≤ (if s.blk.prtA2 15 then 1024 else 4096)) ∧
  (∃ (told read : ReadIn) (s : State), s.up = true ∧ s.blk.prtRuns 15 15 = true ∧ s.blk.prtState 15 15 = PrtState.loading ∧
    read = s.blk.prtSource 15 (s.blk.prtHat 15 15) (s.blk.f (Reg.PRT_CTX_PROG_ADDR 15 15) Fl.PRT_CTX_PROG_ADDR_SEG)
      (s.blk.f (Reg.PRT_CTX_PROG_ADDR 15 15) Fl.PRT_CTX_PROG_ADDR_OFFSET) (128 * (s.blk.prtCtx 15 15).count) told ∧
    completed read.status = true ∧ read.pois = []) ∧
  (∃ s : State, s.up = true ∧ s.blk.prtHas 0 0 = true) :=
  ⟨⟨[127, 0, 0, 0, 0, 0, 0, 0x80], _, st (prour15 ++ [prtStat 15 15 PrtState.idle,
      setF (Reg.PRT_CTX_STATUS 15 15) Fl.PRT_CTX_STATUS_NEXT_SEQ 127]),
      by decide, by decide, by decide, by decide, by decide, by decide, by decide, by decide, by decide, by decide, rfl, by decide, by decide⟩,
   ⟨putFld 0 Fl.PRT_CTX_PROG_COUNT 4096, 0, st (prour15 ++ [prtStat 15 15 PrtState.idle, segment15]), by decide⟩,
   ⟨⟨0, [], []⟩, _, st (prour15 ++ [prtStat 15 15 PrtState.loading]), by decide, by decide, by decide, rfl, by decide, by decide⟩,
   ⟨st prour0, by decide⟩⟩

theorem test_witness_ProurTasks :
  (∃ (i : Nat) (t : Task) (s : State), s.up = true ∧ s.blk.prtRuns 15 15 = true ∧ (s.blk.prtCtx 15 15).next = some (i, t) ∧ t.begun = true ∧
    t.kind = 1 ∧ (s.blk.prtSt 15).hotNow = false ∧ (s.blk.prtSt 15).noRead = false) ∧
  (∃ (i : Nat) (t : Task) (s : State), s.up = true ∧ s.blk.prtRuns 0 0 = true ∧ (s.blk.prtCtx 0 0).next = some (i, t) ∧ t.begun = true ∧
    t.kind = 2 ∧ (s.blk.prtSt 0).noRead = false) ∧
  (∃ (i : Nat) (t : Task) (s : State), s.up = true ∧ s.blk.prtRuns 15 15 = true ∧ (s.blk.prtCtx 15 15).next = some (i, t) ∧ t.begun = false ∧
    t.kind = 3 ∧ worst [s.blk.recordFault 15 15 t, s.blk.evictFault 15 15 t] ≠ 0) ∧
  (∃ (i : Nat) (t : Task) (s : State), s.up = true ∧ s.blk.prtRuns 15 15 = true ∧ (s.blk.prtCtx 15 15).next = some (i, t) ∧ t.begun = false ∧
    t.kind = 3 ∧ worst [s.blk.recordFault 15 15 t, s.blk.evictFault 15 15 t] = 0) ∧
  (∃ (i : Nat) (t : Task) (s : State), s.up = true ∧ s.blk.prtRuns 15 15 = true ∧ (s.blk.prtCtx 15 15).next = some (i, t) ∧ t.begun = false ∧
    t.kind = 4 ∧ worst [s.blk.recordFault 15 15 t, 0] = 0) ∧
  (∃ (t : Task) (rest : List Task) (s : State), s.up = true ∧ s.blk.prtRuns 15 15 = true ∧ (s.blk.prtCtx 15 15).tasks = t :: rest ∧
    t.ran = true ∧ t.irq = false ∧ s.blk.siteSends 15 (s.blk.doneMsg 15 15 t) = true ∧
    s.blk.doneRefused 15 15 t (s.blk.doneMsg 15 15 t) = false) :=
  ⟨⟨0, task 1 true, st (prour15 ++ [modPctx 15 15 fun x => { x with tasks := [task 1 true] }]), by decide⟩,
   ⟨0, task 2 true, st (prour0 ++ [modPctx 0 0 fun x => { x with tasks := [task 2 true] }]), by decide⟩,
   ⟨0, task 3 false, st (prour15 ++ [modPctx 15 15 fun x => { x with tasks := [task 3 false] }]), by decide⟩,
   ⟨0, taskRes 3, st (prour15 ++ [segment15, buffer15, modPctx 15 15 fun x => { x with tasks := [taskRes 3] }]), by decide⟩,
   ⟨0, task 4 false, st (prour15 ++ [segment15, modPctx 15 15 fun x => { x with tasks := [task 4 false] }]), by decide⟩,
   ⟨{ task 4 false with ran := true }, [], st (prour15 ++ [segment15,
      modPctx 15 15 fun x => { x with tasks := [{ task 4 false with ran := true }] }]), by decide⟩⟩

theorem test_witness_ControlInstructions :
  (∀ r ∈ ([(0x01, 0), (0x05, 5), (0x09, 0xFFFFFFFF), (0x0B, 0xFF), (0x0C, 0)] : List (Nat × Nat)), ∃ s : State,
    s.issues 23 3 r.1 [] [.s (Ins.ja (s.blk.ctxWord 23 3))] false = true ∧ jOk (s.blk.ctxWord 23 3) false true false true = true) ∧
  (∃ s : State, s.issues 0 0 0x02 [.s 1] [] ((s.blk.vctx (ctxKey 0 0)).isPois (.s 1)) = true ∧
    jOk (s.blk.ctxWord 0 0) false false false false = true ∧ ((s.blk.vctx (ctxKey 0 0)).pend.any fun p => p.write) = false ∧
    (s.blk.vctx (ctxKey 0 0)).badSt = false) ∧
  (∀ r ∈ ([(0x03, 6), (0x04, 0xFFFFFFFF)] : List (Nat × Nat)), ∃ s : State,
    s.issues 23 3 r.1 [.s (Ins.ja (s.blk.ctxWord 23 3)), .s (Ins.jb (s.blk.ctxWord 23 3))] [.s (Ins.ja (s.blk.ctxWord 23 3))]
      ((s.blk.vctx (ctxKey 23 3)).isPois (.s (Ins.ja (s.blk.ctxWord 23 3))) || (s.blk.vctx (ctxKey 23 3)).isPois (.s (Ins.jb (s.blk.ctxWord 23 3)))) = true ∧
    jOk (s.blk.ctxWord 23 3) true true true true = true ∧ Ins.cond (s.blk.ctxWord 23 3) ≤ 6 ∧ Ins.imm32 (s.blk.ctxWord 23 3) = r.2) ∧
  (∀ r ∈ ([(0x06, 0), (0x07, 5), (0x08, 5), (0x0A, 0xFFFFFFFF)] : List (Nat × Nat)), ∃ s : State,
    s.issues 23 3 r.1 [.s (Ins.ja (s.blk.ctxWord 23 3))] [.s (Ins.ja (s.blk.ctxWord 23 3))]
      ((s.blk.vctx (ctxKey 23 3)).isPois (.s (Ins.ja (s.blk.ctxWord 23 3)))) = true ∧ jOk (s.blk.ctxWord 23 3) false true false true = true ∧
    Ins.imm32 (s.blk.ctxWord 23 3) = r.2) :=
  ⟨fun r hr => ⟨run23 (r.1 * 2 ^ 56 + r.2), by simp only [List.mem_cons, List.not_mem_nil, or_false] at hr; rcases hr with h | h | h | h | h <;> subst h <;> decide⟩,
   ⟨run0 (0x02 * 2 ^ 56), by decide⟩,
   fun r hr => ⟨run23 (r.1 * 2 ^ 56 + 31 * 2 ^ 46 + 31 * 2 ^ 40 + r.2), by
     simp only [List.mem_cons, List.not_mem_nil, or_false] at hr; rcases hr with h | h <;> subst h <;> decide⟩,
   fun r hr => ⟨run23 (r.1 * 2 ^ 56 + 31 * 2 ^ 46 + r.2), by
     simp only [List.mem_cons, List.not_mem_nil, or_false] at hr; rcases hr with h | h | h | h <;> subst h <;> decide⟩⟩

theorem test_witness_ScalarInstructions :
  (∃ (x : VecCtx) (w : Nat) (p : Bool) (s : State), x = s.blk.vctx (ctxKey 23 3) ∧ w = s.blk.ctxWord 23 3 ∧
    p = (scalarReads true false w).any x.isPois ∧ s.issues 23 3 0x10 (scalarReads true false w) [.s (Ins.d w)] p = true ∧
    scalarOk true false w = true ∧ Ins.d w = 31 ∧ Ins.a w = 31 ∧ Ins.b w = 31) ∧
  (∃ (x : VecCtx) (w : Nat) (p : Bool) (s : State), x = s.blk.vctx (ctxKey 0 0) ∧ w = s.blk.ctxWord 0 0 ∧
    p = (scalarReads true false w).any x.isPois ∧ s.issues 0 0 0x1D (scalarReads true false w) [.s (Ins.d w)] p = true ∧
    scalarOk true false w = true ∧ Ins.d w = 0 ∧ Ins.bsrc w = 2) ∧
  (∃ (x : VecCtx) (w : Nat) (p : Bool) (s : State), x = s.blk.vctx (ctxKey 23 3) ∧ w = s.blk.ctxWord 23 3 ∧
    p = (scalarReads true true w).any x.isPois ∧ s.issues 23 3 0x25 (scalarReads true true w) [.s (Ins.d w)] p = true ∧
    scalarOk true true w = true ∧ Ins.c w = 31) ∧
  (∃ (x : VecCtx) (w : Nat) (p : Bool) (s : State), x = s.blk.vctx (ctxKey 23 3) ∧ w = s.blk.ctxWord 23 3 ∧
    p = (scalarReads false false w).any x.isPois ∧ s.issues 23 3 0x24 (scalarReads false false w) [.s (Ins.d w)] p = true ∧
    scalarOk false false w = true) :=
  ⟨⟨_, _, _, run23 (0x10 * 2 ^ 56 + 31 * 2 ^ 40 + 31 * 2 ^ 34 + 31 * 2 ^ 28), rfl, rfl, rfl, by decide⟩,
   ⟨_, _, _, run0 (0x1D * 2 ^ 56 + 2 * 2 ^ 20 + 0xFFFFF), rfl, rfl, rfl, by decide⟩,
   ⟨_, _, _, run23 (0x25 * 2 ^ 56 + 1 * 2 ^ 40 + 31 * 2 ^ 22), rfl, rfl, rfl, by decide⟩,
   ⟨_, _, _, run23 (0x24 * 2 ^ 56 + 1 * 2 ^ 40), rfl, rfl, rfl, by decide⟩⟩

theorem test_witness_VectorArithmetic :
  (∃ (x : VecCtx) (w : Nat) (p : Bool) (s : State), x = s.blk.vctx (ctxKey 23 3) ∧ w = s.blk.ctxWord 23 3 ∧
    p = (vecReads shapeFI2 w).any x.isPois ∧ s.issues 23 3 0x30 (vecReads shapeFI2 w) [.v (Ins.d w)] p = true ∧
    arithOk shapeFI2 x w = true ∧ rmOk (Ins.rm w) = true ∧ Ins.d w = 63 ∧ x.vl = 256 ∧ p = true) ∧
  (∃ (x : VecCtx) (w : Nat) (p : Bool) (s : State), x = s.blk.vctx (ctxKey 23 3) ∧ w = s.blk.ctxWord 23 3 ∧
    p = (vecReads shapeF3 w).any x.isPois ∧ s.issues 23 3 0x39 (vecReads shapeF3 w) [.v (Ins.d w)] p = true ∧
    arithOk shapeF3 x w = true ∧ rmOk (Ins.rm w) = true ∧ Ins.c w = 63) ∧
  (∃ (x : VecCtx) (w : Nat) (p : Bool) (s : State), x = s.blk.vctx (ctxKey 0 0) ∧ w = s.blk.ctxWord 0 0 ∧
    p = (vecReads shapeFI2 w).any x.isPois ∧ s.issues 0 0 0x4C (vecReads shapeFI2 w) [] p = true ∧
    arithOk shapeFI2 x w = true ∧ Ins.rm w = 0 ∧ Ins.d w = 7) :=
  ⟨⟨_, _, _, (run23 (0x30 * 2 ^ 56 + 63 * 2 ^ 40)).did (modCtx 95 fun x => { x with vl := 256, vPois := 1 }), rfl, rfl, rfl, by decide⟩,
   ⟨_, _, _, run23 (0x39 * 2 ^ 56 + 1 * 2 ^ 40 + 63 * 2 ^ 22 + 7 * 2 ^ 46), rfl, rfl, rfl, by decide⟩,
   ⟨_, _, _, run0 (0x4C * 2 ^ 56 + 7 * 2 ^ 40), rfl, rfl, rfl, by decide⟩⟩

theorem test_witness_VectorMovesAndMasks :
  (∃ (x : VecCtx) (w : Nat) (s : State), x = s.blk.vctx (ctxKey 23 3) ∧ w = s.blk.ctxWord 23 3 ∧
    s.issues 23 3 0x53 (.v (Ins.a w) :: bReg w) [.v (Ins.d w)] false = true ∧ moveFmt x w = true ∧ Ins.c w = 0 ∧ bOk true 64 w = true) ∧
  (∃ (x : VecCtx) (w : Nat) (s : State), x = s.blk.vctx (ctxKey 23 3) ∧ w = s.blk.ctxWord 23 3 ∧
    s.issues 23 3 0x54 [.v (Ins.a w), .s (Ins.b w)] [.s (Ins.d w)] false = true ∧ moveFmt x w = true ∧ bScalar w = true ∧
    Ins.mask w = 0 ∧ Ins.c w = 0 ∧ Ins.d w < 32) ∧
  (∃ (x : VecCtx) (w : Nat) (s : State), x = s.blk.vctx (ctxKey 23 3) ∧ w = s.blk.ctxWord 23 3 ∧
    s.issues 23 3 0x55 [.s (Ins.a w), .s (Ins.b w)] [.v (Ins.d w)] false = true ∧ moveFmt x w = true ∧ bScalar w = true ∧
    Ins.mask w = 0 ∧ Ins.c w = 0 ∧ Ins.a w < 32) ∧
  (∃ (x : VecCtx) (w : Nat) (s : State), x = s.blk.vctx (ctxKey 23 3) ∧ w = s.blk.ctxWord 23 3 ∧
    s.issues 23 3 0x60 [.v (Ins.a w)] [.v (Ins.d w)] false = true ∧ cvtSrc w ≤ 7 ∧ Ins.fmt w ≤ 7 ∧
    max (fmtWidth (cvtSrc w)) (fmtWidth (Ins.fmt w)) = x.ew ∧
    cvtPart w < x.ew / min (fmtWidth (cvtSrc w)) (fmtWidth (Ins.fmt w)) ∧ Ins.c w = 0 ∧ cvtRest w = true ∧ rmOk (Ins.rm w) = true ∧ cvtPart w = 3) ∧
  (∃ (x : VecCtx) (w : Nat) (s : State), x = s.blk.vctx (ctxKey 23 3) ∧ w = s.blk.ctxWord 23 3 ∧
    s.issues 23 3 0x61 [.v (Ins.a w)] [.v (Ins.d w), .s (Ins.c w)] false = true ∧ fmtMx (Ins.fmt w) = true ∧ rmOk (Ins.rm w) = true ∧
    cvtRest w = true ∧ x.ew = 32 ∧ x.vl = 256 ∧ Ins.c w = 31 ∧ cvtSrc w = 0 ∧ cvtPart w = 0) ∧
  (∃ (x : VecCtx) (w : Nat) (s : State), x = s.blk.vctx (ctxKey 23 3) ∧ w = s.blk.ctxWord 23 3 ∧
    s.issues 23 3 0x62 [.v (Ins.a w), .s (Ins.c w)] [.v (Ins.d w)] false = true ∧ rmOk (Ins.rm w) = true ∧ cvtRest w = true ∧
    fmtMx (cvtSrc w) = true ∧ x.ew = 32 ∧ Ins.fmt w = 0 ∧ Ins.c w = 31 ∧ cvtPart w = 0 ∧ cvtSat w = false) ∧
  (∃ (w : Nat) (s : State), w = s.blk.ctxWord 23 3 ∧ s.issues 23 3 0x70 [] [] false = true ∧ maskRest w = true ∧ Ins.d w = 7 ∧ Ins.a w < 8 ∧ Ins.b w = 7) ∧
  (∃ (w : Nat) (s : State), w = s.blk.ctxWord 23 3 ∧ s.issues 23 3 0x74 [] [] false = true ∧ maskRest w = true ∧ Ins.d w < 8 ∧ Ins.a w = 7 ∧ Ins.b w < 1) ∧
  (∃ (w : Nat) (s : State), w = s.blk.ctxWord 23 3 ∧ s.issues 23 3 0x76 [] [.s (Ins.d w)] false = true ∧ maskRest w = true ∧ Ins.b w = 0 ∧ Ins.d w = 31 ∧ Ins.a w = 7) ∧
  (∃ (x : VecCtx) (w : Nat) (s : State), x = s.blk.vctx (ctxKey 23 3) ∧ w = s.blk.ctxWord 23 3 ∧
    s.issues 23 3 0x78 [.s (Ins.a w)] [] (x.isPois (.s (Ins.a w))) = true ∧ maskRest w = true ∧ Ins.b w = 0 ∧ Ins.d w = 7 ∧ Ins.a w = 31) :=
  ⟨⟨_, _, run23 (0x53 * 2 ^ 56), rfl, rfl, by decide⟩,
   ⟨_, _, run23 (0x54 * 2 ^ 56 + 31 * 2 ^ 28), rfl, rfl, by decide⟩,
   ⟨_, _, run23 (0x55 * 2 ^ 56 + 31 * 2 ^ 34), rfl, rfl, by decide⟩,
   ⟨_, _, run23 (0x60 * 2 ^ 56 + 7 * 2 ^ 52 + 3 * 2 ^ 14), rfl, rfl, by decide⟩,
   ⟨_, _, (run23 (0x61 * 2 ^ 56 + 8 * 2 ^ 52 + 31 * 2 ^ 22)).did (modCtx 95 fun x => { x with vl := 256 }), rfl, rfl, by decide⟩,
   ⟨_, _, run23 (0x62 * 2 ^ 56 + 31 * 2 ^ 22 + 12 * 2 ^ 16), rfl, rfl, by decide⟩,
   ⟨_, run23 (0x70 * 2 ^ 56 + 7 * 2 ^ 40 + 7 * 2 ^ 28), rfl, by decide⟩,
   ⟨_, run23 (0x74 * 2 ^ 56 + 7 * 2 ^ 34), rfl, by decide⟩,
   ⟨_, run23 (0x76 * 2 ^ 56 + 31 * 2 ^ 40 + 7 * 2 ^ 34), rfl, by decide⟩,
   ⟨_, _, run23 (0x78 * 2 ^ 56 + 7 * 2 ^ 40 + 31 * 2 ^ 34), rfl, rfl, by decide⟩⟩

theorem test_witness_VectorMemoryAccess :
  (∃ (x : VecCtx) (w : Nat) (s : State), x = s.blk.vctx (ctxKey 23 3) ∧ w = s.blk.ctxWord 23 3 ∧
    s.issues 23 3 0x80 (MemKind.unit.addrRegs w ++ []) [MemKind.unit.dreg w] false = true ∧ MemKind.unit.legal x w = true ∧
    MemKind.unit.refuse false s.blk 23 3 x w = none ∧ Ins.ldm w = true ∧ x.vl = 2) ∧
  (∃ (x : VecCtx) (w : Nat) (s : State), x = s.blk.vctx (ctxKey 23 3) ∧ w = s.blk.ctxWord 23 3 ∧
    s.issues 23 3 0x91 (MemKind.scalar.addrRegs w ++ [MemKind.scalar.dreg w]) [] false = true ∧ MemKind.scalar.legal x w = true ∧
    MemKind.scalar.refuse true s.blk 23 3 x w = none ∧ Ins.ldm w = false ∧
    memReady x (MemKind.scalar.accesses true s.blk 23 3 x w) = true) ∧
  (∃ (x : VecCtx) (w : Nat) (s : State), x = s.blk.vctx (ctxKey 23 3) ∧ w = s.blk.ctxWord 23 3 ∧
    s.issues 23 3 0x82 (MemKind.index.addrRegs w ++ []) [MemKind.index.dreg w] false = true ∧ MemKind.index.legal x w = true ∧
    MemKind.index.refuse false s.blk 23 3 x w = none ∧ Ins.ldm w = false ∧
    memReady x (MemKind.index.accesses false s.blk 23 3 x w) = true ∧ x.vl = 2) ∧
  (∃ (x : VecCtx) (w : Nat) (s : State), x = s.blk.vctx (ctxKey 23 3) ∧ w = s.blk.ctxWord 23 3 ∧
    s.issues 23 3 0x89 (MemKind.stride.addrRegs w ++ [MemKind.stride.dreg w]) [] false = true ∧ MemKind.stride.legal x w = true ∧
    MemKind.stride.refuse true s.blk 23 3 x w = none ∧ Ins.ldm w = false ∧
    memReady x (MemKind.stride.accesses true s.blk 23 3 x w) = true ∧ x.vl = 2) :=
  ⟨⟨_, _, mem23 (0x80 * 2 ^ 56 + 1 * 2 ^ 40 + 2 ^ 27), rfl, rfl, by decide⟩,
   ⟨_, _, mem23 (0x91 * 2 ^ 56 + 31 * 2 ^ 40 + 1 * 2 ^ 34 + 8), rfl, rfl, by decide⟩,
   ⟨_, _, mem23 (0x82 * 2 ^ 56 + 1 * 2 ^ 40), rfl, rfl, by decide⟩,
   ⟨_, _, mem23 (0x89 * 2 ^ 56 + 1 * 2 ^ 40), rfl, rfl, by decide⟩⟩

theorem test_witness_TilesAndReductions :
  (∀ r ∈ ([0xA0, 0xA1] : List Nat), ∃ (x : VecCtx) (w : Nat) (s : State), x = s.blk.vctx (ctxKey 23 3) ∧ w = s.blk.ctxWord 23 3 ∧
    tileRest x w = true ∧ s.blk.tregBad 23 3 (Ins.tile w) = false ∧ s.blk.tregWaits 23 (Ins.tile w) = false ∧
    (s.blk.tregSt (tregKey 23 (Ins.tile w))).readers = 0 ∧ s.issues 23 3 r [.s (Ins.a w)] [.v (Ins.d w)] false = true ∧
    rowPois s.blk 23 x w = false ∧ (s.blk.tregSt (tregKey 23 (Ins.tile w))).pois = 0 ∧ Ins.timm w = 0 ∧ Ins.d w = 63 ∧ Ins.a w = 31 ∧
    pairAligned x w = true) ∧
  (∀ r ∈ ([(0xA2, 1), (0xA3, 0)] : List (Nat × Nat)), ∃ (x : VecCtx) (w : Nat) (s : State), x = s.blk.vctx (ctxKey 23 3) ∧ w = s.blk.ctxWord 23 3 ∧
    tileRest x w = true ∧ s.blk.tregBad 23 3 (Ins.tile w) = false ∧ s.blk.tregWaits 23 (Ins.tile w) = false ∧
    (s.blk.tregSt (tregKey 23 (Ins.tile w))).readers = 0 ∧ s.issues 23 3 r.1 [.s (Ins.a w), .v (Ins.d w)] [] false = true ∧
    Ins.timm w = r.2 ∧ Ins.d w = 63 ∧ Ins.a w = 31 ∧ pairAligned x w = true) ∧
  (∀ r ∈ ([0xA4, 0xA5, 0xA6] : List Nat), ∃ (x : VecCtx) (w : Nat) (s : State), x = s.blk.vctx (ctxKey 23 3) ∧ w = s.blk.ctxWord 23 3 ∧
    tileRest x w = true ∧ s.blk.tregBad 23 3 (Ins.tile w) = false ∧ s.blk.tregWaits 23 (Ins.tile w) = false ∧
    (s.blk.tregSt (tregKey 23 (Ins.tile w))).readers = 0 ∧ s.issues 23 3 r [] [.s (Ins.d w)] false = true ∧ Ins.timm w = 0 ∧ Ins.a w = 0 ∧ Ins.d w = 0 ∧
    s.blk.tregBkt 23 (Ins.tile w) = false) ∧
  (∃ (w : Nat) (s : State), w = s.blk.ctxWord 23 3 ∧ s.issues 23 3 0xA4 [] [] false = true ∧ s.blk.tregBad 23 3 (Ins.tile w) = false ∧
    s.blk.tregWaits 23 (Ins.tile w) = false ∧ s.blk.tregBkt 23 (Ins.tile w) = true) ∧
  (∃ (x : VecCtx) (w : Nat) (s : State), x = s.blk.vctx (ctxKey 23 3) ∧ w = s.blk.ctxWord 23 3 ∧
    s.issues 23 3 0xB0 (redReads w) (redWrites w) ((redReads w).any x.isPois || redPois 23 3 s.blk w) = true ∧ redOk x w = true ∧
    redAxis w = 3 ∧ redRefuse 23 3 s.blk w = none ∧ (Tbl.get (dflt []) 23 s.blk.vec.red).length < 8) ∧
  (∃ (x : VecCtx) (w : Nat) (s : State), x = s.blk.vctx (ctxKey 23 3) ∧ w = s.blk.ctxWord 23 3 ∧
    s.issues 23 3 0xB4 (redReads w) (redWrites w) ((redReads w).any x.isPois || redPois 23 3 s.blk w) = true ∧ redOk x w = true ∧
    redAxis w = 0 ∧ redPair w = true ∧ redRefuse 23 3 s.blk w = none ∧ s.blk.tregWaits 23 (Ins.tile w) = false ∧
    s.blk.tregWaits (otherEngine 23) (redU w) = false ∧ (Tbl.get (dflt []) 23 s.blk.vec.red).length = 7) ∧
  (∃ (j : RedJob) (rest : List RedJob) (s : State), s.up = true ∧ Tbl.get (dflt []) 23 s.blk.vec.red = j :: rest ∧ s.blk.windowAt 11 = false) :=
  ⟨fun r hr => ⟨_, _, tile23 (r * 2 ^ 56 + 15 * 2 ^ 52 + 63 * 2 ^ 40 + 31 * 2 ^ 34), rfl, rfl, by
     simp only [List.mem_cons, List.not_mem_nil, or_false] at hr; rcases hr with h | h <;> subst h <;> decide⟩,
   fun r hr => ⟨_, _, tile23 (r.1 * 2 ^ 56 + 15 * 2 ^ 52 + 63 * 2 ^ 40 + 31 * 2 ^ 34 + r.2), rfl, rfl, by
     simp only [List.mem_cons, List.not_mem_nil, or_false] at hr; rcases hr with h | h <;> subst h <;> decide⟩,
   fun r hr => ⟨_, _, tile23 (r * 2 ^ 56 + 15 * 2 ^ 52), rfl, rfl, by
     simp only [List.mem_cons, List.not_mem_nil, or_false] at hr; rcases hr with h | h | h <;> subst h <;> decide⟩,
   ⟨_, (tile23 (0xA4 * 2 ^ 56 + 15 * 2 ^ 52)).did (.all [setF (Reg.VEC_TREG 23 15) Fl.VEC_TREG_BKT 1, setTreg 23 15 4]), rfl, by decide⟩,
   ⟨_, _, tile23 (0xB0 * 2 ^ 56 + 3 * 2 ^ 8), rfl, rfl, by decide⟩,
   ⟨_, _, (tile23 (0xB4 * 2 ^ 56 + 15 * 2 ^ 52 + 5 * 2 ^ 16 + 2 ^ 4 + 15)).did (.all [
      setJobs 23 (List.replicate 7 ⟨0, 0, 3, 0, none, 0, false, false, 0, [], false⟩), setF (Reg.VEC_TREG 22 15) Fl.VEC_TREG_BIND 1,
      setF (Reg.VEC_TREG 22 15) Fl.VEC_TREG_SHARE 1, setTreg 22 15 1]), rfl, rfl, by decide⟩,
   ⟨⟨0, 0, 3, 0, none, 0, false, false, 0, [], false⟩, [], st [setJobs 23 [⟨0, 0, 3, 0, none, 0, false, false, 0, [], false⟩]], by decide⟩⟩

theorem test_witness_TroughInstructionsAndFences :
  (∃ (x : VecCtx) (w : Nat) (s : State), x = s.blk.vctx (ctxKey 23 3) ∧ w = s.blk.ctxWord 23 3 ∧
    s.issues 23 3 0xC0 [.s (Ins.a w), .s (Ins.b w)] [.s (Ins.d w)] false = true ∧ trgOk w true true true false true = true ∧
    (x.handle (Ins.imm20 w)).state = 0 ∧ (trgName s.blk (x.sc (Ins.a w)).toNat).good = true ∧ Ins.imm20 w = 3) ∧
  (∃ (x : VecCtx) (w : Nat) (s : State), x = s.blk.vctx (ctxKey 23 3) ∧ w = s.blk.ctxWord 23 3 ∧
    s.issues 23 3 0xC1 [.v (Ins.a w), .s (Ins.b w)] [] false = true ∧ trgOk (w - Ins.a w * 2 ^ 34) false false true true true = true ∧
    x.ew = 32 ∧ x.addsOut < 8 ∧ (x.handle (Ins.imm20 w)).state = 2 ∧ packUnits 16 0 (addUnits x (Ins.a w) (Ins.mask w) false) ≠ [] ∧ Ins.a w = 63) ∧
  (∃ (x : VecCtx) (w : Nat) (s : State), x = s.blk.vctx (ctxKey 23 3) ∧ w = s.blk.ctxWord 23 3 ∧
    s.issues 23 3 0xC2 [] [.s (Ins.d w)] false = true ∧ trgOk w true false false false true = true ∧ (x.handle (Ins.imm20 w)).state = 2) ∧
  (∃ (x : VecCtx) (w : Nat) (s : State), x = s.blk.vctx (ctxKey 23 3) ∧ w = s.blk.ctxWord 23 3 ∧
    s.issues 23 3 0xC2 [] [.s (Ins.d w)] false = true ∧ trgOk w true false false false true = true ∧ (x.handle (Ins.imm20 w)).state = 3) ∧
  (∃ (w : Nat) (s : State), w = s.blk.ctxWord 23 3 ∧
    s.issues 23 3 0xC3 [] [] false = true ∧ trgOk w false false false false true = true) ∧
  (∃ (x : VecCtx) (w : Nat) (s : State), x = s.blk.vctx (ctxKey 23 3) ∧ w = s.blk.ctxWord 23 3 ∧
    s.issues 23 3 0xC4 [.s (Ins.a w)] [.s (Ins.d w)] false = true ∧ trgOk w true true false false false = true ∧ x.finish = none ∧
    (trgName s.blk (x.sc (Ins.a w)).toNat).good = true ∧ (trgName s.blk (x.sc (Ins.a w)).toNat).base = 0) ∧
  (∀ r ∈ ([0xC8, 0xCA] : List Nat), ∃ (x : VecCtx) (w : Nat) (s : State), x = s.blk.vctx (ctxKey 23 3) ∧ w = s.blk.ctxWord 23 3 ∧
    x.badSt = false ∧ s.issues 23 3 r [] [] false = true ∧ fenceOk w false false = true ∧ x.pend = []) ∧
  (∃ (x : VecCtx) (w : Nat) (s : State), x = s.blk.vctx (ctxKey 23 3) ∧ w = s.blk.ctxWord 23 3 ∧ s.blk.held? (s.blk.enginePart 23) = false ∧
    x.badSt = false ∧ s.issues 23 3 0xC9 [.s (Ins.ja w)] [] false = true ∧
    fenceOk w true true = true ∧ s.blk.acqSlices (bits (x.sc (Ins.ja w)).toNat 0 10) ((Ins.imm32 w).testBit 0) ≠ []) :=
  ⟨⟨_, _, run23 (0xC0 * 2 ^ 56 + 31 * 2 ^ 40 + 3), rfl, rfl, by decide⟩,
   ⟨_, _, (run23 (0xC1 * 2 ^ 56 + 63 * 2 ^ 34 + 3)).did (.all [modHandle 23 3 3 fun y => { y with state := 2 }, modCtx 95 fun x => { x with vl := 17 }]),
     rfl, rfl, by decide⟩,
   ⟨_, _, (run23 (0xC2 * 2 ^ 56 + 31 * 2 ^ 40 + 3)).did (modHandle 23 3 3 fun y => { y with state := 2 }), rfl, rfl, by decide⟩,
   ⟨_, _, (run23 (0xC2 * 2 ^ 56)).did (modHandle 23 3 0 fun y => { y with state := 3 }), rfl, rfl, by decide⟩,
   ⟨_, run23 (0xC3 * 2 ^ 56 + 3), rfl, by decide⟩,
   ⟨_, _, run23 (0xC4 * 2 ^ 56 + 31 * 2 ^ 40), rfl, rfl, by decide⟩,
   fun r hr => ⟨_, _, run23 (r * 2 ^ 56), rfl, rfl, by
     simp only [List.mem_cons, List.not_mem_nil, or_false] at hr; rcases hr with h | h <;> subst h <;> decide⟩,
   ⟨_, _, run23 (0xC9 * 2 ^ 56 + 31 * 2 ^ 46 + 1), rfl, rfl, by decide⟩⟩

theorem test_witness_EngineCommands :
  (∃ (val : W64) (s : State), s.up = true ∧ s.blk.portAdmits 0 = true ∧ s.blk.mayEngine 0 23 = true ∧ s.blk.engineOn 23 = true ∧
    s.blk.on (Reg.VEC_KLOAD 23) Fl.VEC_KLOAD_BUSY = false ∧ s.blk.kernelRuns 23 (getFld val Fl.VEC_KLOAD_ENTRY) = false ∧
    0 < getFld val Fl.VEC_KLOAD_LEN ∧ getFld val Fl.VEC_KLOAD_BASE + getFld val Fl.VEC_KLOAD_LEN = 32768 ∧
    s.blk.kernelOverlap 23 (getFld val Fl.VEC_KLOAD_ENTRY) (getFld val Fl.VEC_KLOAD_BASE) (getFld val Fl.VEC_KLOAD_LEN) = false ∧
    getFld val Fl.VEC_KLOAD_ENTRY = 7) ∧
  (∃ (told read : ReadIn) (j : Kload) (s : State), s.up = true ∧ Tbl.get (dflt none) 23 s.blk.vec.kload = some j ∧
    read = s.blk.sourced j.rights j.hat j.src (8 * j.len) told ∧ read.end_ = 0) ∧
  (∃ (v : W64) (s : State), s.up = true ∧ s.blk.portAdmits 0 = true ∧ s.blk.engineOn 23 = true ∧ s.blk.mayCtx 0 23 3 = true ∧
    getFld v Fl.VEC_CTX_CTL_ENABLE = 1 ∧ v = putFld v Fl.VEC_CTX_CTL_ENABLE 1 ∧ s.blk.on (Reg.VEC_CTX_CTL 23 3) Fl.VEC_CTX_CTL_ENABLE = false ∧
    s.blk.ldmClash 23 3 (getFld v Fl.VEC_CTX_CTL_HAT) (getFld v Fl.VEC_CTX_CTL_LDM_BASE) (getFld v Fl.VEC_CTX_CTL_LDM_SIZE) = false ∧
    s.blk.hatRemoved (getFld v Fl.VEC_CTX_CTL_HAT) = false ∧ s.blk.ctxState 23 3 = 0) ∧
  (∃ s : State, s.up = true ∧ s.blk.portAdmits 0 = true ∧ s.blk.engineOn 23 = true ∧ s.blk.mayCtx 0 23 3 = true ∧
    getFld (putFld (s.blk.w (Reg.VEC_CTX_CTL 23 3)) Fl.VEC_CTX_CTL_ENABLE 0) Fl.VEC_CTX_CTL_ENABLE = 0 ∧
    s.blk.on (Reg.VEC_CTX_CTL 23 3) Fl.VEC_CTX_CTL_ENABLE = true) ∧
  (∃ (v : W64) (s : State), s.up = true ∧ s.blk.portAdmits 0 = true ∧ s.blk.engineOn 23 = true ∧ s.blk.mayCtx 0 23 3 = true ∧
    v = putFld v Fl.VEC_CTX_START_GO 1 ∧ getFld v Fl.VEC_CTX_START_GO = 1 ∧
    s.blk.startCode 23 3 (getFld v Fl.VEC_CTX_START_KERNEL) (getFld v Fl.VEC_CTX_START_ENTRY) = 0) ∧
  (∃ s : State, s.up = true ∧ s.blk.ctxState 0 0 = 4) ∧
  (∃ (val : W64) (s : State), s.up = true ∧ s.blk.portAdmits 0 = true ∧ s.blk.mayEngine 0 23 = true ∧ s.blk.engineOn 23 = true ∧
    getFld val Fl.VEC_TREG_BKT = 1 ∧ getFld val Fl.VEC_TREG_SITE / 4 = 23 / 6 ∧ (s.blk.sitePart (getFld val Fl.VEC_TREG_SITE)).isSome = true ∧
    s.blk.sitePart (getFld val Fl.VEC_TREG_SITE) = s.blk.enginePart 23 ∧ s.blk.hatRemoved (getFld val Fl.VEC_TREG_HAT) = false ∧
    s.blk.tregWaits 23 15 = false) ∧
  (∃ (val : W64) (s : State), s.up = true ∧ s.blk.portAdmits 0 = true ∧ s.blk.mayEngine 0 23 = true ∧ s.blk.engineOn 23 = true ∧
    getFld val Fl.VEC_TREG_SITE / 4 = 23 / 6 ∧ (s.blk.sitePart (getFld val Fl.VEC_TREG_SITE)).isSome = true ∧
    s.blk.sitePart (getFld val Fl.VEC_TREG_SITE) = s.blk.enginePart 23 ∧ s.blk.hatRemoved (getFld val Fl.VEC_TREG_HAT) = false ∧ s.blk.tregWaits 23 15 = true ∧
    bindChanges (s.blk.w (Reg.VEC_TREG 23 15)) val = true) ∧
  (∃ (p : Pkt) (s : State), s.arrives p 0x60 = true ∧ p.dst = .engine 23 ∧ p.hat = s.blk.tregF 23 (bktHdr p.addr).treg Fl.VEC_TREG_HAT ∧
    (bktHdr p.addr).chunk = 0 ∧ s.blk.tregState 23 (bktHdr p.addr).treg = 2) ∧
  (∃ (p : Pkt) (s : State), s.arrives p 0x60 = true ∧ p.dst = .engine 0 ∧ p.hat = s.blk.tregF 0 (bktHdr p.addr).treg Fl.VEC_TREG_HAT ∧
    (bktHdr p.addr).chunk = 1023 ∧ (bktHdr p.addr).chunk = (s.blk.tregSt (tregKey 0 (bktHdr p.addr).treg)).next ∧
    s.blk.tregState 0 (bktHdr p.addr).treg = 3) ∧
  (∃ (p : Pkt) (s : State), s.arrives p 0x62 = true ∧ p.dst = .engine 23 ∧ s.blk.tregState 23 (bktHdr p.addr).treg = 2) ∧
  (∃ (p : Pkt) (s : State), s.arrives p 0x61 = true ∧ p.dst = .glove 15 3 ∧ s.blk.siteRuns 15 = true) :=
  ⟨⟨putFld (putFld (putFld 0 Fl.VEC_KLOAD_LEN 1) Fl.VEC_KLOAD_BASE 32767) Fl.VEC_KLOAD_ENTRY 7, st [], by decide⟩,
   ⟨⟨0, [], []⟩, _, ⟨0, 7, 1, 32767, 2 ^ 47, 0⟩, st [modVec fun v => { v with
      kload := Tbl.set (dflt none) 23 (some ⟨0, 7, 1, 32767, 2 ^ 47, 0⟩) v.kload }], by decide, by decide, rfl, by decide⟩,
   ⟨putFld 0 Fl.VEC_CTX_CTL_ENABLE 1, st [], by decide⟩,
   ⟨st [setF (Reg.VEC_CTX_CTL 23 3) Fl.VEC_CTX_CTL_ENABLE 1], by decide⟩,
   ⟨putFld 0 Fl.VEC_CTX_START_GO 1, st [allIn0, setF (Reg.HAT_INFO 0) Fl.HAT_INFO_PARTITION 0, setF (Reg.VEC_KERNEL 23 0) Fl.VEC_KERNEL_VALID 1,
      setF (Reg.VEC_KERNEL 23 0) Fl.VEC_KERNEL_LEN 1, setF (Reg.VEC_CTX_STATUS 23 3) Fl.VEC_CTX_STATUS_STATE 1], by decide⟩,
   ⟨st [setF (Reg.VEC_CTX_STATUS 0 0) Fl.VEC_CTX_STATUS_STATE 4], by decide⟩,
   ⟨putFld (putFld (putFld 0 Fl.VEC_TREG_BKT 1) Fl.VEC_TREG_SITE 15) Fl.VEC_TREG_BIND 1, st [allIn0], by decide⟩,
   ⟨putFld 0 Fl.VEC_TREG_SITE 15, st [allIn0, setF (Reg.VEC_TREG 23 15) Fl.VEC_TREG_BIND 1, setF (Reg.VEC_TREG 23 15) Fl.VEC_TREG_BKT 1, setTreg 23 15 3], by decide⟩,
   ⟨Pkt.bare 0x60 (15 * 2 ^ 26) 0 0 (.glove 15 3) (.engine 23), st [setTreg 23 15 2, sendPkt (Pkt.bare 0x60 (15 * 2 ^ 26) 0 0 (.glove 15 3) (.engine 23))], by decide⟩,
   ⟨Pkt.bare 0x60 (1023 * 2 ^ 31) 0 0 (.glove 0 0) (.engine 0), st [setTreg 0 0 3, modTreg 0 fun x => { x with next := 1023 },
      sendPkt (Pkt.bare 0x60 (1023 * 2 ^ 31) 0 0 (.glove 0 0) (.engine 0))], by decide⟩,
   ⟨Pkt.bare 0x62 (15 * 2 ^ 26) 0 0 (.glove 15 3) (.engine 23), st [setTreg 23 15 2, sendPkt (Pkt.bare 0x62 (15 * 2 ^ 26) 0 0 (.glove 15 3) (.engine 23))], by decide⟩,
   ⟨Pkt.bare 0x61 0 0 0 (.engine 23) (.glove 15 3), st (prour15 ++ [sendPkt (Pkt.bare 0x61 0 0 0 (.engine 23) (.glove 15 3))]), by decide⟩⟩

theorem test_witness_IdleTick :
  (State.reset.pending = []) ∧
  (∃ s : State, s.pending = [] ∧ s.blk.sys.pwrOk = true ∧ s.blk.sys.coreClk = true ∧ s.blk.held = true) ∧
  (∃ s : State, s.pending = [] ∧ s.blk.sys.pwrOk = false) :=
  ⟨rfl, ⟨st [modSys fun x => { x with pkgRstN := false }], by decide⟩, ⟨st [modSys fun x => { x with pwrOk := false }], by decide⟩⟩

theorem test_witness_StepKeepsCanonical :
  (State.reset.blk.canonicalForm = true) ∧ (∃ s : State, s.blk.canonicalForm = true ∧ s.pending ≠ []) :=
  ⟨rfl, ⟨{ State.reset with pending := [.capEscalate] }, by decide⟩⟩

theorem test_witness_HeldNothing :
  (∃ (c : Instr) (s : State), s.blk.held = true ∧ worksHeld c = false) ∧
  (∃ (c : Instr) (s : State), s.blk.sys.scanned = true ∧ worksScanned c = false) :=
  ⟨⟨.capEscalate, st [modSys fun x => { x with pwrOk := false }], by decide⟩,
   ⟨.capEscalate, st [modSys fun x => { x with scanned := true }], by decide⟩⟩

theorem test_witness_NotAdmittedNothing :
  (∃ s : State, s.blk.portAdmits 1023 = false ∧ s.blk.hats.acting = none ∧ s.blk.i3cLimited = false) ∧
  (∃ s : State, s.blk.portAdmits 5 = false ∧ s.blk.hats.acting = none ∧ s.blk.hatState 5 = HatState.removed ∧ s.blk.i3cLimited = false) :=
  ⟨⟨st [], by decide⟩, ⟨st [setF (Reg.HAT_CTL 5) Fl.HAT_CTL_STATE 5], by decide⟩⟩

theorem test_witness_RegisterWriteRule :
  (∃ d ∈ Regs.table, ∃ f ∈ d.flds, f.acc = .rw) ∧ (∃ d ∈ Regs.table, ∃ f ∈ d.flds, f.acc = .w1c) ∧
  (∃ d ∈ Regs.table, ∃ f ∈ d.flds, f.acc = .w1s) ∧ (∃ d ∈ Regs.table, ∃ f ∈ d.flds, f.acc = .ro) ∧
  (∃ d ∈ Regs.table, ∃ i < 64, ∀ f ∈ d.flds, ¬ (f.fld.lo ≤ i ∧ i < f.fld.lo + f.fld.width)) :=
  by decide

theorem test_witness_RecordRoundTrip :
  ∀ r ∈ ([.target 0x1632 255 255 0xFFFFFFFF 65535 65535, .name (List.replicate 64 1), .mapout 255 255, .region 255 255 65535 (2 ^ 64 - 1) (2 ^ 64 - 1),
    .hat 65535 255 (2 ^ 32 - 1) 65535 65535 255 255 65535, .domainOp 255 255 255 255 (2 ^ 32 - 1)] : List Rec), r.fits = true :=
  by decide

theorem test_witness_ImageRoundTrip :
  ∃ l : List Rec, (∀ r ∈ l, r.fits = true) ∧ l.Pairwise (fun a b => a.before b = true) ∧ l.length = 3 ∧
    (canonicalImage 0xB0 0x0A 0 l).length < 2 ^ 32 :=
  ⟨[.name [0x41], .hat 0 0xFF 0x0003FFFF 0 0 0 0 0, .portBind 0 0 0 0], by decide⟩

theorem test_witness_CondTable :
  (∀ k ∈ ([0, 6] : List Nat), ∃ s : State, s.issues 23 3 0x04 [.s (Ins.ja (s.blk.ctxWord 23 3)), .s (Ins.jb (s.blk.ctxWord 23 3))] []
      ((s.blk.vctx (ctxKey 23 3)).isPois (.s (Ins.ja (s.blk.ctxWord 23 3))) || (s.blk.vctx (ctxKey 23 3)).isPois (.s (Ins.jb (s.blk.ctxWord 23 3)))) = true ∧
    jOk (s.blk.ctxWord 23 3) true true true true = true ∧ Ins.cond (s.blk.ctxWord 23 3) = k) ∧
  (∀ k ∈ ([7, 15] : List Nat), ∃ s : State, s.up = true ∧ s.blk.ctxRuns 0 0 = true ∧ s.blk.issueTurn 0 0 = true ∧ s.blk.pcInKernel 0 0 = true ∧
    Ins.op (s.blk.ctxWord 0 0) = 0x04 ∧ Ins.cond (s.blk.ctxWord 0 0) = k) :=
  ⟨by
    intro k hk
    simp only [List.mem_cons, List.not_mem_nil, or_false] at hk
    rcases hk with rfl | rfl
    · exact ⟨run23 0x0400000000000000, by decide⟩
    · exact ⟨run23 0x0460000000000000, by decide⟩,
   by
    intro k hk
    simp only [List.mem_cons, List.not_mem_nil, or_false] at hk
    rcases hk with rfl | rfl
    · exact ⟨run0 0x0470000000000000, by decide⟩
    · exact ⟨run0 0x04F0000000000000, by decide⟩⟩

theorem test_witness_SetvlRule :
  (∀ k ∈ ([0, 6] : List Nat), ∃ s : State, s.issues 23 3 0x03 [.s (Ins.jb (s.blk.ctxWord 23 3))] [.s (Ins.ja (s.blk.ctxWord 23 3))]
      ((s.blk.vctx (ctxKey 23 3)).isPois (.s (Ins.jb (s.blk.ctxWord 23 3)))) = true ∧
    jOk (s.blk.ctxWord 23 3) false true true true = true ∧ Ins.imm32 (s.blk.ctxWord 23 3) = k) ∧
  (∃ w i k : Nat, (w = 32 ∨ w = 16 ∨ w = 8) ∧ i < 256 * 32 / w ∧ k < w) :=
  ⟨by
    intro k hk
    simp only [List.mem_cons, List.not_mem_nil, or_false] at hk
    rcases hk with rfl | rfl
    · exact ⟨run23 0x0300000000000000, by decide⟩
    · exact ⟨run23 0x0307DF0000000006, by decide⟩,
   ⟨8, 1023, 7, by decide⟩⟩

theorem test_witness_ElementwiseDestination :
  (∃ (x : VecCtx) (res : List (Nat × Nat)), x.vl = 2 ∧ x.tailZ = true ∧ x.vl ≤ vlmax 32 ∧ res.map Prod.fst = x.active 0) ∧
  (∃ x y : VecCtx, x.vl = y.vl ∧ x ≠ y ∧ ∀ i, i < x.vl → (x.mreg 1).testBit i = (y.mreg 1).testBit i) ∧
  (∃ s : State, s.issues 23 3 0x30 (vecReads shapeFI2 (s.blk.ctxWord 23 3)) [.v (Ins.d (s.blk.ctxWord 23 3))]
      ((vecReads shapeFI2 (s.blk.ctxWord 23 3)).any (s.blk.vctx (ctxKey 23 3)).isPois) = true ∧
    assignedOp 0x30 = true ∧ arithOk shapeFI2 (s.blk.vctx (ctxKey 23 3)) (s.blk.ctxWord 23 3) = true ∧
    rmOk (Ins.rm (s.blk.ctxWord 23 3)) = true) :=
  ⟨⟨{ vl := 2, tailZ := true }, [(0, 7), (1, 8)], by decide⟩,
   ⟨{ vl := 1, m := [(1, 1)] }, { vl := 1, m := [(1, 3)] }, rfl, by decide, by decide⟩,
   ⟨run23 0x30003F0000000000, by decide⟩⟩

theorem test_witness_EngineInstructionFrame :
  (∃ s t : State, exec (.nop 23 3) s = .next t ∧ t.blk ≠ s.blk) :=
  ⟨run23 0x0100000000000000, _, rfl, by decide⟩

theorem test_witness_EngineLeavesPackageAlone :
  (∃ s t : State, exec (.tinfo 23 3) s = .next t ∧ t.blk ≠ s.blk) :=
  ⟨run23 0xA600000000000000, _, rfl, by decide⟩

theorem test_witness_TimingAndPowerFrame :
  (∃ s t : State, exec .thermtrip s = .next t ∧ t.blk ≠ s.blk) :=
  ⟨State.reset, _, rfl, by decide⟩

theorem test_witness_TroughFrame :
  (∃ (s t : State) (p : Pkt), (∀ g, p.dst ≠ .spanEng g) ∧ exec (.entropyHealthChange false) s = .next t ∧ t.blk ≠ s.blk) :=
  ⟨State.reset, _, walkRsp, nofun, rfl, by decide⟩

theorem test_witness_XYRouting :
  (∃ pos : Nat → Nat × Nat, pos 0 = (15, 0) ∧ ∀ k, pos (k + 1) = nextRouter (pos k).1 (pos k).2 (0, 11)) :=
  ⟨fun k => Nat.rec (15, 0) (fun _ p => nextRouter p.1 p.2 (0, 11)) k, rfl, fun _ => rfl⟩

theorem test_witness_WakeN :
  (∃ s : State, s.up = true ∧ s.blk.f (Reg.HST_STATUS 3) Fl.HST_STATUS_PERST = 1 ∧ (s.blk.portSt 3).wakeN = true) :=
  ⟨st [setF (Reg.HST_STATUS 3) Fl.HST_STATUS_PERST 1, modPort 3 fun x => { x with wakeN := true }], by decide⟩

theorem test_witness_HomeBank :
  (∃ (b : Block) (hat pa p w wl : Nat), b.place pa = .mem p w wl ∧ b.memRight hat p = true ∧ b.wellOn w = true) ∧
  (∃ (b : Block) (hat pa p w wl : Nat), b.place pa = .mem p w wl ∧ b.memRight hat p = true ∧ b.wellOn w = false) :=
  ⟨⟨(st [allIn0]).blk, 0, 0x80, 0, 0, 0x80, by decide⟩,
   ⟨(st [allIn0, setF Reg.HUB_POPULATION Fl.HUB_POPULATION_STACK_EN 0]).blk, 0, 0x80, 0, 0, 0x80, by decide⟩⟩

theorem test_witness_NoReleaseWithoutNoise :
  (∃ s : State, s.up = true ∧ s.blk.trgState 63 = TrgState.closing ∧ (s.blk.trgSt 63).adding = [] ∧ s.blk.trough.healthy = true ∧ s.blk.accReady 63 = true) :=
  ⟨st [setTrg 63 TrgState.closing], by decide⟩

theorem test_witness_RouterArbitration :
  (∃ (f : Flight) (s : State), s.up = true ∧ f.x = 3 ∧ f.y = 3 ∧ f.plane = 2 ∧ s.blk.noc.flights.contains f = true ∧
    f.malformed = false ∧ s.blk.granted f = false) ∧
  (∃ (b : Block) (f g : Flight), b.granted f = true ∧ f.dst ≠ (f.x, f.y) ∧ 2 ≤ f.plane ∧ (b.arbOf f).resp ≤ 8 ∧
    g = { f with x := (nextRouter f.x f.y f.dst).1, y := (nextRouter f.x f.y f.dst).2 }) ∧
  (∃ (b : Block) (f g : Flight), f ∈ b.rivals g ∧ f.isResp = true ∧ g.isResp = false ∧ (b.arbOf g).resp < 8) ∧
  (∃ (b : Block) (f g : Flight), f ∈ b.rivals g ∧ f.isResp = false ∧ g.isResp = true ∧ 8 ≤ (b.arbOf g).resp) ∧
  (∃ (b : Block) (f : Flight), f ∈ b.noc.flights ∧ b.rivals f ≠ []) :=
  ⟨⟨⟨3, 3, 2, 0x203CC01800#128, []⟩, st rivalry, by decide⟩,
   ⟨(st rivalry).blk, ⟨3, 3, 2, 0x323CC01800#128, []⟩, ⟨4, 3, 2, 0x323CC01800#128, []⟩, by decide⟩,
   ⟨(st rivalry).blk, ⟨3, 3, 2, 0x323CC01800#128, []⟩, ⟨3, 3, 2, 0x203CC01800#128, []⟩, by decide⟩,
   ⟨(st (rivalry ++ [modNoc fun n => { n with arb := [(Flight.outKey ⟨3, 3, 2, 0x323CC01800#128, []⟩, { resp := 8 })] }])).blk,
     ⟨3, 3, 2, 0x203CC01800#128, []⟩, ⟨3, 3, 2, 0x323CC01800#128, []⟩, by decide⟩,
   ⟨(st rivalry).blk, ⟨3, 3, 2, 0x203CC01800#128, []⟩, by decide⟩⟩

/-! ### Ill-formed commands: one term a check, which the check refuses -/

/-- A packet, frame and site message that are well formed, to be spoilt one field at a time. -/
def pkt0 : Pkt := Pkt.bare 0x00 0 0 0 (.engine 0) (.bank 0 0)
def msp0 : Msp := ⟨0, 0, 0, false, false, 0, 0, 0, 0, 0, 0, 0, []⟩

theorem test_wf_refuses_hat : Instr.wf (.claim 1024 0) = false ∧ Instr.wf (.claim 1023 0) = true := by decide
theorem test_wf_refuses_drain_hat : Instr.wf (.spnDrain 0 1024) = false ∧ Instr.wf (.spnDrainDone 0 1024) = false := by decide
theorem test_wf_refuses_packet_fields :
    Instr.wf (.mrd32n pkt0) = true ∧ Instr.wf (.mrd32n { pkt0 with cmd := 256 }) = false ∧
    Instr.wf (.mrd32n { pkt0 with addr := 2 ^ 57 }) = false ∧ Instr.wf (.mrd32n { pkt0 with tag := 4096 }) = false ∧
    Instr.wf (.mrd32n { pkt0 with hat := 1024 }) = false ∧ Instr.wf (.mrd32n { pkt0 with label := 8 }) = false := by decide
theorem test_wf_refuses_short_unit : Instr.wf (.mwr64 { pkt0 with units := [⟨[1], 1, false⟩] }) = false := by decide
theorem test_wf_refuses_wide_be :
    Instr.wf (.mwr64 { pkt0 with units := [⟨List.replicate 64 0, 2 ^ 64, false⟩] }) = false := by decide
theorem test_wf_refuses_hop_unit : Instr.wf (.packetHop 0 0 0 0 [⟨[], 0, false⟩] .clean) = false := by decide
theorem test_wf_refuses_message_fields :
    Instr.wf (.siteMeshMessage 0 msp0) = true ∧ Instr.wf (.siteMeshMessage 0 { msp0 with chan := 8 }) = false ∧
    Instr.wf (.siteMeshMessage 0 { msp0 with op := 256 }) = false ∧ Instr.wf (.siteMeshMessage 0 { msp0 with dlen := 8 }) = false ∧
    Instr.wf (.siteMeshMessage 0 { msp0 with lane := 4 }) = false ∧ Instr.wf (.siteMeshMessage 0 { msp0 with tag := 4096 }) = false ∧
    Instr.wf (.siteMeshMessage 0 { msp0 with hat := 1024 }) = false ∧ Instr.wf (.siteMeshMessage 0 { msp0 with label := 8 }) = false ∧
    Instr.wf (.siteMeshMessage 0 { msp0 with addr := 2 ^ 57 }) = false ∧
    Instr.wf (.siteMeshMessage 0 { msp0 with be := 2 ^ 64 }) = false := by decide
theorem test_wf_refuses_frame_fields :
    Instr.wf (.close 0 frame7 true) = true ∧ Instr.wf (.close 0 { frame7 with type := 256 } true) = false ∧
    Instr.wf (.close 0 { frame7 with dstPkg := 1024 } true) = false ∧ Instr.wf (.close 0 { frame7 with srcPkg := 1024 } true) = false ∧
    Instr.wf (.close 0 { frame7 with psn := 2 ^ 32 } true) = false ∧ Instr.wf (.close 0 { frame7 with ackPsn := 2 ^ 32 } true) = false := by decide

/-! ### Single steps, with results worked out by hand from the rules named -/

/-- The state a step answers. -/
def after : Host.Outcome State Fault Refusal → State
  | .next t => t
  | _ => State.reset

/-- Context 3 of engine 23 with s1 all ones and s2 = 2. -/
def scal23 (w : Nat) : State := (run23 w).did (modCtx 95 fun x => { x with s := [(1, 0xFFFFFFFFFFFFFFFF), (2, 2)] })

/-- R213: 64 bits with wrap-around; s3 = s1 + s2. -/
theorem test_add_wraps : ((after (exec (.add 23 3) (scal23 0x1000030420000000))).blk.vctx 95).sc 3 = 1 := by decide
/-- R213: SUB with sources in order. -/
theorem test_sub_order : ((after (exec (.sub 23 3) (scal23 0x1100030420000000))).blk.vctx 95).sc 3 = 0xFFFFFFFFFFFFFFFD := by decide
/-- R213: MULHU, the high half of an unsigned product. -/
theorem test_mulhu_high : ((after (exec (.mulhu 23 3) (scal23 0x1300030420000000))).blk.vctx 95).sc 3 = 1 := by decide
/-- R213: SLT is signed, SLTU is not. -/
theorem test_slt_signed : ((after (exec (.slt 23 3) (scal23 0x1C00030420000000))).blk.vctx 95).sc 3 = 1 ∧
    ((after (exec (.sltu 23 3) (scal23 0x1D00030420000000))).blk.vctx 95).sc 3 = 0 := by decide
/-- R171: s0 ignores a write. -/
theorem test_s0_discards : ((after (exec (.add 23 3) (scal23 0x1000000420000000))).blk.vctx 95).sc 0 = 0 := by decide
/-- R180, R203: an instruction that retires moves PC by one; one of a reserved mode faults with code 1 and PC at it. -/
theorem test_pc_advances : (after (exec (.add 23 3) (scal23 0x1000030420000000))).blk.ctxPc 23 3 = 1 ∧
    (after (exec (.add 23 3) (scal23 0x1000430420000000))).blk.ctxPc 23 3 = 1 ∧
    (after (exec (.add 23 3) (scal23 0x1001430420000000))).blk.ctxPc 23 3 = 0 := by decide
/-- R172: a request of 2^64 − 1 elements of 16 bits gives 512. -/
theorem test_setvl_limit : ((after (exec (.setvl 23 3) (scal23 0x0300C10000000001))).blk.vctx 95).vl = 512 := by decide
/-- R207: 1.0 + 1.0 in FP32 is 2.0. -/
theorem test_fadd : ((after (exec (.fadd 23 3) ((run23 0x2000030420000000).did (modCtx 95 fun x =>
    { x with s := [(1, 0x3F800000), (2, 0x3F800000)] })))).blk.vctx 95).sc 3 = 0x40000000 := by decide
/-- R257: address bits 7 and 10 cancel. -/
theorem test_home_bank : homeBank 0x480 = 0 ∧ homeBank 0x2080 = 0 ∧ homeBank 0x400 = 1 := by decide
/-- R86: row first. -/
theorem test_row_first : nextRouter 3 5 (7, 1) = (4, 5) ∧ nextRouter 7 5 (7, 1) = (7, 4) := by decide
/-- R450: a TARGET written by hat 0 is the domain's. -/
theorem test_target_write : (after (exec (.pwrTargetWrite 0 16 8) State.reset)).blk.f (Reg.PWR_DOM_CTL 16) Fl.PWR_DOM_CTL_TARGET = 8 := by decide
/-- R374: a hat with no record does nothing. -/
theorem test_no_hat : exec (.claim 7 0) State.reset = .next State.reset := by rfl
/-- R63: a claim makes the slot the claimer's. -/
theorem test_claim : (after (exec (.claim 0 3) State.reset)).blk.slotHeld 3 0 = true := by decide
/-- R12, R11: an event bit written 1 clears; one written 0 stays. -/
theorem test_w1c : writeFields [⟨⟨0, 4⟩, .w1c, 0⟩, ⟨⟨8, 8⟩, .rw, 0⟩] 0xFF07 0x1205 = 0x1202 := by decide

end Sys2Proof.Tests
end

section
/-! SUPPORT. The statements of spec/00_scope.md: the canonical form kept by every step, memory read back, the access codes of
registers, register packets and commands, the state after reset. -/

namespace Sys2Proof.Machine

/-! ### Commands and steps as programs of edits -/

/-- A meaning of the wellhead does its program under the guard of a package that is not held in reset. -/
theorem State.runWell_did (s : State) (p : Prog) : s.runWell p = .next (s.did (.read fun b => .when (!b.held) p)) := rfl

/-- Any other meaning of the hub does its program under that guard and the one of scan. -/
theorem State.run_did (s : State) (p : Prog) :
    s.run p = .next (s.did (.read fun b => .when (!b.held) (.read fun b => .when (!b.sys.scanned) p))) := rfl

/-- A meaning of the test access port does its program under the guard of good rails. -/
theorem State.runTap_did (s : State) (p : Prog) : s.runTap p = .next (s.did (.read fun b => .when b.sys.pwrOk p)) := rfl

/-- A command's meaning is one program of edits, run on everything but the queue, whichever guard it stands under. -/
theorem exec_did (c : Instr) (s : State) : ∃ p : Prog, exec c s = .next (s.did p) := by
  cases c
  case thermtrip | pwrOkAssert | pwrOkDeassert | pkgRstN | pkgRstNRelease | bootRomDone | alwaysOnRailGood | alwaysOnRailRemoved
      | refclkCoreLoss | refclkCoreReturn | refclkAonLoss | refclkAonReturn => exact ⟨_, State.runRaw_did s _⟩
  case i3cRecoveryWrite | i3cRecoveryErase | i3cBootRegionWrite | i3cBootRegionErase | i3cReadRestart | i3cPrivateRead
      | hubPkgReset | pkgResetCloseDone => exact ⟨_, State.runWell_did s _⟩
  case bypass | idcode | samplePreload | extest | diesel | hubscan | testLogicReset | regacc => exact ⟨_, State.runTap_did s _⟩
  all_goals exact ⟨_, State.run_did s _⟩

/-- A step takes a command off the queue, or ticks, and then does a program of edits. -/
theorem step_did (s : State) : ∃ (q : List Instr) (p : Prog), step s = .next ({ s with pending := q }.did p) := by
  obtain ⟨b, queue⟩ := s
  cases queue with
  | nil => exact ⟨[], tick, rfl⟩
  | cons c rest =>
    obtain ⟨p, hp⟩ := exec_did c ⟨b, rest⟩
    exact ⟨rest, p, hp⟩

/-- Settles O41: a step is a program of edits, and every edit keeps every table in canonical form. -/
theorem stepKeepsCanonical : Obligations.StepKeepsCanonical := by
  intro s hs
  obtain ⟨q, p, hstep⟩ := step_did s
  exact ⟨_, hstep, p.run_canonical hs⟩

/-! ### Reading memory back -/

/-- A read after a range of keys is dropped. -/
theorem Tbl.get_clearRange {V : Type} {d : Nat → V} (lo hi j : Nat) (t : Tbl V) :
    Tbl.get d j (Tbl.clearRange lo hi t) = if lo ≤ j ∧ j < hi then d j else Tbl.get d j t := by
  induction t with
  | nil => simp [Tbl.clearRange, Tbl.get]
  | cons e t ih =>
    obtain ⟨k, v⟩ := e
    simp only [Tbl.clearRange] at ih
    by_cases hk : k < lo ∨ hi ≤ k
    · have hkept : (decide (k < lo) || decide (hi ≤ k)) = true := by simpa using hk
      simp only [Tbl.clearRange, List.filter_cons, hkept, if_true, Tbl.get, ih]
      by_cases hj : j = k
      · subst hj; rw [if_pos rfl, if_neg (by omega), if_pos rfl]
      · rw [if_neg hj, if_neg hj]
    · have hgone : (decide (k < lo) || decide (hi ≤ k)) = false := by simpa using hk
      simp only [Tbl.clearRange, List.filter_cons, hgone, Bool.false_eq_true, if_false, Tbl.get, ih]
      by_cases hj : j = k
      · rw [if_pos (by omega), if_pos (by omega)]
      · rw [if_neg hj]

theorem Block.byteAt_bytesDrop (b : Block) (lo hi j : Nat) :
    ((Edit.bytesDrop lo hi).apply b).byteAt j = if lo ≤ j ∧ j < hi then 0 else b.byteAt j :=
  Tbl.get_clearRange lo hi j b.bytes

theorem mem_insertNat_iff (n j : Nat) (l : List Nat) : j ∈ insertNat n l ↔ j = n ∨ j ∈ l := by
  induction l with
  | nil => simp [insertNat]
  | cons x l ih =>
    simp only [insertNat]
    split
    · exact List.mem_cons
    · split
      · subst_vars; simp
      · rw [List.mem_cons, ih, List.mem_cons, or_left_comm]

theorem mem_removeNat_iff (n j : Nat) (l : List Nat) : j ∈ removeNat n l ↔ j ≠ n ∧ j ∈ l := by
  simp [removeNat, and_comm]

/-- The poisoned halves after one half is set or cleared. -/
theorem Block.contains_pois (b : Block) (h j : Nat) (on : Bool) :
    ((Edit.pois h on).apply b).pois.contains j = if j = h then on else b.pois.contains j := by
  rw [Bool.eq_iff_iff, List.contains_iff_mem]
  cases on
  case false =>
    rw [Edit.apply_pois, if_neg Bool.false_ne_true, mem_removeNat_iff]
    by_cases hj : j = h <;> simp [hj]
  case true =>
    rw [Edit.apply_pois, if_pos rfl, mem_insertNat_iff]
    by_cases hj : j = h <;> simp [hj]

/-- Settles O45: a run of bytes written, a range dropped and one half of the poison, each by its reading rule. -/
theorem memoryReadBack : Obligations.MemoryReadBack := by
  refine ⟨fun b k l j => ?_, Block.byteAt_bytesDrop, fun b h on j => Block.contains_pois b h j on⟩
  rw [Block.byteAt_bytes]
  by_cases hlow : j < k
  · rw [dif_neg (by omega), if_pos hlow]
  · rw [if_neg hlow]
    by_cases hin : j - k < l.length
    · rw [dif_pos ⟨by omega, hin⟩, List.getElem?_eq_getElem hin, Option.getD_some]
    · rw [dif_neg (by omega), List.getElem?_eq_none (by omega), Option.getD_none]

/-! ### Fields of a register after a write (R11) -/

/-- Taking away the bits two numbers share clears, in the first, the bits of the second. -/
theorem testBit_sub_and (a b i : Nat) : (a - (a &&& b)).testBit i = (a.testBit i && !b.testBit i) := by
  have hle : a &&& b ≤ a := Nat.and_le_left
  have hlow : (a &&& b) % 2 = 1 ↔ a % 2 = 1 ∧ b % 2 = 1 := Nat.and_mod_two_eq_one
  induction i generalizing a b with
  | zero =>
    simp only [Nat.testBit_zero, ← decide_not, ← Bool.decide_and, decide_eq_decide]
    omega
  | succ i ih =>
    have hhalf : (a - (a &&& b)) / 2 = a / 2 - (a / 2 &&& b / 2) := by
      rw [← Nat.and_div_two]; omega
    rw [Nat.testBit_succ, hhalf, ih _ _ Nat.and_le_left Nat.and_mod_two_eq_one, Nat.testBit_succ, Nat.testBit_succ]

theorem getFld_lt (w : W64) (f : Fld) : getFld w f < 2 ^ f.width := Nat.mod_lt _ (Nat.two_pow_pos _)

/-- What a field holds after a write of it, by its access code (R11). -/
def accValue : Acc → Nat → Nat → Nat
  | .rw, _, val => val
  | .w1c, old, val => old - (old &&& val)
  | .w1s, old, val => old ||| val
  | _, old, _ => old

/-- A field of any other code keeps its value. -/
theorem accValue_of_kept {acc : Acc} {old val : Nat} (h1 : acc ≠ .rw) (h2 : acc ≠ .w1c) (h3 : acc ≠ .w1s) :
    accValue acc old val = old := by
  cases acc
  case rw => exact absurd rfl h1
  case w1c => exact absurd rfl h2
  case w1s => exact absurd rfl h3
  all_goals rfl

theorem accValue_lt (acc : Acc) {old val n : Nat} (ho : old < 2 ^ n) (hv : val < 2 ^ n) : accValue acc old val < 2 ^ n := by
  cases acc
  case rw => exact hv
  case w1c => exact Nat.lt_of_le_of_lt (Nat.sub_le _ _) ho
  case w1s => exact Nat.or_lt_two_pow ho hv
  all_goals exact ho

/-- The fields of a register are written one after another. -/
theorem writeFields_cons (f : FldDesc) (l : List FldDesc) (old val : W64) :
    writeFields (f :: l) old val = writeFields l (writeFields [f] old val) val := rfl

/-- A write of one field leaves the word alone or puts the field's new value. -/
theorem writeFields_single (f : FldDesc) (old val : W64) :
    writeFields [f] old val = old ∨
    writeFields [f] old val = putFld old f.fld (accValue f.acc (getFld old f.fld) (getFld val f.fld)) := by
  obtain ⟨fl, acc, reset⟩ := f
  cases acc
  case rw | w1c | w1s => exact .inr rfl
  all_goals exact .inl rfl

/-- The field itself then holds its new value. -/
theorem getFld_writeFields_single {f : FldDesc} (old val : W64) (h : f.fld.lo + f.fld.width ≤ 64) :
    getFld (writeFields [f] old val) f.fld = accValue f.acc (getFld old f.fld) (getFld val f.fld) := by
  have hput : getFld (putFld old f.fld (accValue f.acc (getFld old f.fld) (getFld val f.fld))) f.fld =
      accValue f.acc (getFld old f.fld) (getFld val f.fld) := by
    rw [getFld_putFld _ _ h, Nat.mod_eq_of_lt (accValue_lt _ (getFld_lt _ _) (getFld_lt _ _))]
  obtain ⟨fl, acc, reset⟩ := f
  cases acc
  case rw | w1c | w1s => exact hput
  all_goals rfl

/-- A field beside every field written reads as before. -/
theorem getFld_writeFields_other {l : List FldDesc} {g : Fld} (old val : W64)
    (h : ∀ f ∈ l, g.lo + g.width ≤ f.fld.lo ∨ f.fld.lo + f.fld.width ≤ g.lo) : getFld (writeFields l old val) g = getFld old g := by
  induction l generalizing old with
  | nil => rfl
  | cons f l ih =>
    obtain ⟨hf, hl⟩ := List.forall_mem_cons.1 h
    rw [writeFields_cons, ih _ hl]
    rcases writeFields_single f old val with hw | hw <;> rw [hw]
    exact getFld_putFld_other _ _ hf

/-- A bit in no field written keeps its value. -/
theorem getLsbD_writeFields_outside {l : List FldDesc} {i : Nat} (old val : W64) (hi : i < 64)
    (h : ∀ f ∈ l, ¬ (f.fld.lo ≤ i ∧ i < f.fld.lo + f.fld.width)) : (writeFields l old val).getLsbD i = old.getLsbD i := by
  induction l generalizing old with
  | nil => rfl
  | cons f l ih =>
    obtain ⟨hf, hl⟩ := List.forall_mem_cons.1 h
    rw [writeFields_cons, ih _ hl]
    rcases writeFields_single f old val with hw | hw <;> rw [hw]
    rw [getLsbD_putFld _ _ _ _ hi, if_neg hf]

/-- Fields lie within the word and apart from each other, the highest first. -/
def fieldsApart (l : List FldDesc) : Prop :=
  (∀ f ∈ l, f.fld.lo + f.fld.width ≤ 64) ∧ l.Pairwise fun f g => g.fld.lo + g.fld.width ≤ f.fld.lo

/-- Every field of a register of such fields takes the value its access code gives. -/
theorem getFld_writeFields {l : List FldDesc} {f : FldDesc} (old val : W64) (hl : fieldsApart l) (hf : f ∈ l) :
    getFld (writeFields l old val) f.fld = accValue f.acc (getFld old f.fld) (getFld val f.fld) := by
  obtain ⟨hin, hap⟩ := hl
  induction l generalizing old with
  | nil => cases hf
  | cons g l ih =>
    obtain ⟨hg, hap⟩ := List.pairwise_cons.1 hap
    obtain ⟨hgin, hlin⟩ := List.forall_mem_cons.1 hin
    rw [writeFields_cons]
    rcases List.mem_cons.1 hf with rfl | hf
    · rw [getFld_writeFields_other _ _ fun x hx => .inr (hg x hx), getFld_writeFields_single _ _ hgin]
    · have hbeside : getFld (writeFields [g] old val) f.fld = getFld old f.fld :=
        getFld_writeFields_other _ _ fun x hx => .inl (List.mem_singleton.1 hx ▸ hg f hf)
      rw [ih _ hf hlin hap, hbeside]

theorem fieldsApart_table : ∀ d ∈ Regs.table, fieldsApart d.flds := by
  unfold fieldsApart Regs.table
  simp only [List.forall_mem_append, and_assoc]
  and_intros <;> decide

/-- Settles O46: the fields of every register lie apart, so each takes what its own access code gives and a bit of none is left. -/
theorem registerWriteRule : Obligations.RegisterWriteRule := by
  intro d hd old val
  refine ⟨fun f hf => ?_, fun i hi h => getLsbD_writeFields_outside old val hi h⟩
  have hnew := getFld_writeFields old val (fieldsApart_table d hd) hf
  refine ⟨fun ha => ?_, fun ha i => ?_, fun ha i => ?_, fun h1 h2 h3 => ?_⟩
  · rw [hnew, ha, accValue]
  · rw [hnew, ha, accValue, testBit_sub_and]
  · rw [hnew, ha, accValue, Nat.testBit_or]
  · rw [hnew, accValue_of_kept h1 h2 h3]

/-! ### Register commands by packet and fences of the mesh -/

/-- The command of a packet that has arrived. -/
theorem State.arrives_cmd {s : State} {p : Pkt} {c : Nat} (h : s.arrives p c = true) : p.cmd = c := by
  simp only [State.arrives, Bool.and_eq_true, decide_eq_true_eq] at h
  obtain ⟨⟨-, hcmd⟩, -⟩ := h
  exact hcmd

/-- A row of one command does what its receiver does with a packet that has arrived. -/
theorem State.run_onPkt {s : State} {p : Pkt} {c : Nat} (k : Prog) (h : s.arrives p c = true) :
    s.run (onPkt p c k) = .next (s.did k) := by
  rw [State.run_up (State.arrives_up h), State.did_onPkt k h]

/-- A row that also stands for the reserved commands of its range does no more for a command that is not reserved. -/
theorem State.run_onPkt_onSpare {s : State} {p : Pkt} {c : Nat} (k : Prog) (lo hi : Nat) (h : s.arrives p c = true)
    (hc : spareCmd c = false) : s.run (.all [onPkt p c k, onSpare p lo hi]) = .next (s.did k) := by
  have hspare : onSpare p lo hi = .skip := by rw [onSpare, State.arrives_cmd h, hc, Bool.false_and, Prog.when_false]
  rw [State.run_up (State.arrives_up h), hspare, ← State.did_onPkt k h]
  rfl

theorem worst_ok_cons (l : List Status) : worst (St.ok :: l) = worst l := rfl

theorem worst_singleton (c : Status) : worst [c] = c := Nat.zero_max c

/-- A register endpoint does a register command itself. -/
theorem regRequest_endpoint {p : Pkt} {q : Nat} (k : Prog) (h : p.dst = .quadReg q ∨ p.dst = .wellReg q ∨ p.dst = .island q) :
    regRequest p k = k := by
  rcases h with h | h | h <;> rw [regRequest, h]

theorem regRequest_glove {p : Pkt} {g k : Nat} (r : Prog) (h : p.dst = .glove g k) : regRequest p r = windowRequest g p := by
  rw [regRequest, h]

theorem regResponse_glove {p : Pkt} {g k : Nat} (h : p.dst = .glove g k) : regResponse p = gloveRsp g k p := by
  rw [regResponse, h]

theorem regResponse_host {p : Pkt} {q : Nat} (h : p.dst = .host q) : regResponse p = hostAnswer q p := by
  rw [regResponse, h]

/-- The status a register read answers with: that of its hat, and that of the read. -/
def Block.regReadStatus (b : Block) (p : Pkt) : Status :=
  worst [if b.unitAdmits p.hat || b.portAdmits p.hat then St.ok else St.accessDenied, (b.regRead p.hat (b.regOff p.addr) 8).1]

/-- A register read that need not wait and succeeds answers the 8 bytes in their place. -/
theorem State.did_regReadPkt_ok {s : State} {p : Pkt} (hwait : s.blk.readWaits (s.blk.regOff p.addr) = false)
    (hst : s.blk.regReadStatus p = 0) :
    s.did (regReadPkt p) = s.did (.all [takePkt p, sendPkt (p.reply 0x82 (statusAddr p 0) false
      [⟨slice (List.replicate (p.addr % 64) 0 ++ toBytesLE 8 (s.blk.regRead p.hat (s.blk.regOff p.addr) 8).2) 0 64, 2 ^ 64 - 1, false⟩])]) := by
  rw [Block.regReadStatus] at hst
  rw [regReadPkt, State.did_read]
  simp only [hwait, hst, Bool.not_false, Prog.when_true, if_true, ne_eq, not_true_eq_false, decide_false]

/-- One that is refused answers poison with its status. -/
theorem State.did_regReadPkt_refused {s : State} {p : Pkt} (hwait : s.blk.readWaits (s.blk.regOff p.addr) = false)
    (hst : s.blk.regReadStatus p ≠ 0) :
    s.did (regReadPkt p) = s.did (.all [takePkt p,
      sendPkt (p.reply 0x82 (statusAddr p (s.blk.regReadStatus p)) true [poisonUnit])]) := by
  rw [Block.regReadStatus] at hst
  rw [regReadPkt, State.did_read]
  simp only [hwait, hst, Bool.not_false, Prog.when_true, if_false, ne_eq, not_false_eq_true, decide_true, Block.regReadStatus]

/-- A register write of a whole word of clean data under a hat that is admitted is done on the hat's behalf. -/
theorem State.did_regWritePkt_word {s : State} {p : Pkt} {u : DUnit} (hunits : p.units = [u])
    (hbe : u.be / 2 ^ (p.addr % 64 / 8 * 8) % 256 = 0xFF) (hpois : p.anyPois = false)
    (hadm : (s.blk.unitAdmits p.hat || s.blk.portAdmits p.hat) = true) :
    s.did (regWritePkt p) = s.did (.all [
      takePkt p,
      modHats (fun x => { x with acting := some p.hat }),
      regWrite p.hat (s.blk.regOff p.addr) 8 (numAt u.data (p.addr % 64 / 8 * 8) 8),
      modHats (fun x => { x with acting := none }),
      sendPkt (p.reply 0x83 (statusAddr p
        (s.blk.regCode p.hat (s.blk.regOff p.addr) 8 (numAt u.data (p.addr % 64 / 8 * 8) 8))) false [])]) := by
  rw [regWritePkt, State.did_read]
  simp only [hunits, List.head?_cons, Option.getD_some, hbe, hpois, hadm, Nat.reduceEqDiff, if_true, if_false, Nat.add_zero,
    Bool.false_eq_true, Bool.not_false, Bool.and_self, Prog.when_true, worst_ok_cons, worst_singleton]
  rfl

/-- Settles O6: each row is its receiver's meaning, once the packet has arrived. -/
theorem registerPacketsAndFences : Obligations.RegisterPacketsAndFences := by
  refine ⟨fun p q s harr hdst hwait => ⟨fun v hadm hread => ?_, fun st hst hne => ?_⟩,
    fun p q u s harr hdst hunits _ hbe hpois hadm => ?_, fun p g k s hdst => ⟨fun harr => ?_, fun harr => ?_⟩, ?_,
    fun p s harr hclear => ?_⟩
  · have hst : s.blk.regReadStatus p = 0 := by rw [Block.regReadStatus, if_pos hadm, hread]; rfl
    have hrun := State.did_regReadPkt_ok hwait hst
    rw [hread] at hrun
    rw [← hrun, ← regRequest_endpoint (regReadPkt p) hdst]
    exact State.run_onPkt _ harr
  · subst hst
    refine .trans ?_ (congrArg _ (State.did_regReadPkt_refused hwait hne))
    rw [← regRequest_endpoint (regReadPkt p) hdst]
    exact State.run_onPkt _ harr
  · rw [← State.did_regWritePkt_word hunits hbe hpois hadm, ← regRequest_endpoint (regWritePkt p) hdst]
    exact State.run_onPkt _ harr
  · rw [← regRequest_glove (regReadPkt p) hdst]; exact State.run_onPkt _ harr
  · rw [← regRequest_glove (regWritePkt p) hdst]; exact State.run_onPkt _ harr
  · intro x hx p s harr
    have hrow : exec (x.1 p) s = .next (s.did (regResponse p)) := by
      rw [List.mem_cons, List.mem_singleton] at hx
      rcases hx with rfl | rfl
      · exact State.run_onPkt _ harr
      · exact State.run_onPkt_onSpare _ _ _ harr (by decide)
    exact ⟨fun g k hdst => by rw [hrow, regResponse_glove hdst], fun q hdst => by rw [hrow, regResponse_host hdst]⟩
  · refine (State.run_onPkt (meshFence p) harr).trans ?_
    rw [meshFence, State.did_read, hclear, Prog.when_true]

/-! ### Register commands at the wellhead, the test access port and the boot list -/

/-- A hat that its port admits commands, in recovery or not: an admitted port stands outside recovery. -/
theorem State.did_inRecoveryToo {s : State} {h : Nat} (p : Prog) (hp : s.blk.portAdmits h = true) :
    s.did (inRecoveryToo h p) = s.did p := by
  have hlim : s.blk.i3cLimited = false := by
    simp only [Block.portAdmits, Bool.and_eq_true, Bool.not_eq_true'] at hp
    obtain ⟨⟨hlim, -⟩, -⟩ := hp
    exact hlim
  rw [inRecoveryToo, State.did_read, hlim, if_neg Bool.false_ne_true, State.did_underHat p hp]

/-- A program that changes nothing changes nothing under a guard. -/
theorem State.did_when_idle {s : State} {p : Prog} (c : Bool) (h : s.did p = s) : s.did (.when c p) = s := by
  cases c
  · rfl
  · exact h

theorem State.did_underHat_idle {s : State} {p : Prog} (hat : Nat) (h : s.did p = s) : s.did (underHat hat p) = s := by
  rw [underHat, State.did_read, State.did_when_idle _ h]

theorem State.did_inRecoveryToo_idle {s : State} {p : Prog} (hat : Nat) (h : s.did p = s) : s.did (inRecoveryToo hat p) = s := by
  rw [inRecoveryToo, State.did_read]
  split
  · exact State.did_when_idle _ h
  · exact State.did_underHat_idle hat h

/-- A write to a register of a live unit does what the register's unit says with the word as it would be afterwards. -/
theorem State.did_regWrite_reg {s : State} {hat off size : Nat} {d : RegDesc} {i : List Nat} (val : Nat)
    (hp : s.blk.portAdmits hat = true) (hgood : goodAccess off size = true) (hlive : s.blk.blank (off / 8 * 8) = false)
    (hldm : off / 8 * 8 < 0x2600000 ∨ 0x3200000 ≤ off / 8 * 8) (htask : taskWin (off / 8 * 8) = none)
    (hreg : Regs.find (off / 8 * 8) = some (d, i)) :
    s.did (regWrite hat off size val) = s.did (writeReg hat (off / 8 * 8) (Block.writeBE off size) d i
      (Block.writeWord d (s.blk.w (off / 8 * 8)) off size val)) := by
  have hout : ¬ (0x2600000 ≤ off / 8 * 8 ∧ off / 8 * 8 < 0x3200000) := by omega
  unfold regWrite
  split
  case' isTrue => rw [State.did_inRecoveryToo _ hp]
  case' isFalse => rw [State.did_underHat _ hp]
  all_goals
    rw [State.did_read]
    simp only [hgood, hlive, hout, htask, hreg, Bool.not_false, Bool.and_self, Prog.when_true, if_false, Prog.for?_some]

/-- A write of another size, misaligned, or to an absent unit changes nothing. -/
theorem State.did_regWrite_ignored {s : State} (hat off size val : Nat)
    (h : goodAccess off size = false ∨ s.blk.blank (off / 8 * 8) = true) : s.did (regWrite hat off size val) = s := by
  have hguard : (goodAccess off size && !s.blk.blank (off / 8 * 8)) = false := by
    rcases h with h | h <;> simp [h]
  unfold regWrite
  split
  case' isTrue => refine State.did_inRecoveryToo_idle hat ?_
  case' isFalse => refine State.did_underHat_idle hat ?_
  all_goals
    rw [State.did_read]
    simp only [hguard, Prog.when_false, State.did_skip]

/-- A group of programs within a list is done in its place. -/
theorem State.did_all_flatten (s : State) (l m : List Prog) : s.did (.all (.all l :: m)) = s.did (.all (l ++ m)) := by
  induction l generalizing s with
  | nil => rfl
  | cons p l ih => exact ih (s.did p)

/-- The test access port works whenever the rails are good. -/
theorem State.runTap_up {s : State} (h : s.blk.sys.pwrOk = true) (p : Prog) : s.runTap p = .next (s.did p) := by
  rw [State.runTap, State.runRaw_did, State.did_read, h, Prog.when_true]

/-- A value shifts out of the register of REGACC after its offset. -/
def shiftOut (off v : Nat) : Prog := .all [
  modSys fun x => { x with scan := toBytesLE 8 off ++ toBytesLE 8 v }, send (.tdo (toBytesLE 8 off ++ toBytesLE 8 v))]

/-- REGACC under the hat that is bound to the test access port and may command. -/
theorem State.did_regacc_read {s : State} {hat off : Nat} (val : Nat) (hbound : s.blk.boundHat 0x101 = some hat)
    (hp : s.blk.portAdmits hat = true) (hwait : s.blk.readWaits off = false) :
    s.did (regacc false off val) = s.did (shiftOut off (s.blk.regRead hat off 8).2) := by
  rw [regacc, State.did_read]
  simp only [hbound, hp, hwait, Bool.not_true, Bool.not_false, Bool.false_eq_true, if_false, Prog.when_true, shiftOut]

theorem State.did_regacc_write {s : State} {hat : Nat} (off val : Nat) (hbound : s.blk.boundHat 0x101 = some hat)
    (hp : s.blk.portAdmits hat = true) :
    s.did (regacc true off val) = s.did (.all [regWrite hat off 8 val, shiftOut off val]) := by
  rw [regacc, State.did_read]
  simp only [hbound, hp, Bool.not_true, Bool.false_eq_true, if_false, if_true, shiftOut]

/-- The command: the instruction register is loaded, then the access is made in a package that works. -/
theorem exec_regacc {s : State} (write : Bool) (off : Nat) (val : W64) (hpwr : s.blk.sys.pwrOk = true)
    (hheld : (s.did (loadIr 0x10)).blk.held = false) (hscan : (s.did (loadIr 0x10)).blk.sys.scanned = false) :
    exec (.regacc write off val) s = .next ((s.did (loadIr 0x10)).did (regacc write off val.toNat)) := by
  refine (State.runTap_up hpwr _).trans (congrArg _ ?_)
  change (s.did (loadIr 0x10)).did (.read fun b => .when (!b.held && !b.sys.scanned) (regacc write off val.toNat)) = _
  rw [State.did_read, hheld, hscan]
  rfl

/-- Settles O20: a register write, REGACC and the boot list are the program their guards let through. -/
theorem registerCommands : Obligations.RegisterCommands := by
  refine ⟨fun hat off size val d i s hup hp hgood hlive hldm htask hreg => ?_, fun hat off size val s hup h => ?_,
    fun hat off val s _ hpwr htap => ?_, fun s hup hbegun hfail hstep hready hmark => ?_⟩
  · refine (State.run_up hup _).trans ?_
    rw [State.did_regWrite_reg _ hp hgood hlive hldm htask hreg]
  · refine (State.run_up hup _).trans ?_
    rw [State.did_regWrite_ignored _ _ _ _ h]
  · obtain ⟨hheld, hscan, hbound, hp, hwait⟩ := htap _ rfl
    constructor
    · rw [exec_regacc _ _ _ hpwr hheld hscan, State.did_regacc_read (s := s.did (loadIr 0x10)) _ hbound hp hwait]
      rfl
    · rw [exec_regacc _ _ _ hpwr hheld hscan, State.did_regacc_write (s := s.did (loadIr 0x10)) _ _ hbound hp]
      rfl
  · refine (State.run_up hup _).trans ?_
    rw [bootRegisterList, State.did_read]
    simp only [hbegun, hfail, hstep, hready, hmark, Bool.not_false, Bool.and_self, decide_true, Prog.when_true]
    exact congrArg _ (State.did_all_flatten s _ _)

/-! ### The state after reset -/

/-- After reset a register reads as its table gives it. -/
theorem Block.w_reset (a : Nat) : State.reset.blk.w a = resetVal a := rfl

/-- The two records of the empty state (notes/assumptions/20.md) are a hat and its binding, no partition. -/
theorem partitionsOf_reset : partitionsOf State.reset.blk.recs = [] := rfl

theorem trgState_reset : ∀ t < 64, State.reset.blk.trgState t = TrgState.idle := by decide

theorem ctxState_reset : ∀ e < 24, ∀ c < 4, State.reset.blk.ctxState e c = 0 := by decide

/-- Settles O39: no table lists anything after reset, so every key reads as unlisted. -/
theorem resetState : Obligations.ResetState := by
  have hgen : resetVal Reg.CFG_GEN = 0 := by decide
  exact ⟨rfl, rfl, Block.w_reset, hgen, partitionsOf_reset, trgState_reset, ctxState_reset, fun _ => rfl, rfl, fun _ => rfl⟩

theorem Block.canonicalForm_reset : State.reset.blk.canonicalForm = true := rfl

/-- Settles O40: an empty table is in canonical form. -/
theorem resetCanonical : Obligations.ResetCanonical :=
  ⟨Block.canonicalForm_reset, Memory.wf_reset⟩

end Sys2Proof.Machine
end

section
/-! SUPPORT. The statement of spec/01_package_and_dies.md: every command answers a next state and leaves the queue alone. -/

namespace Sys2Proof.Machine

/-- Settles O42: a command is a program of edits, and no edit reaches the queue. -/
theorem execAnswersNext : Obligations.ExecAnswersNext := by
  intro c s
  obtain ⟨p, hexec⟩ := exec_did c s
  exact ⟨s.did p, hexec, s.did_pending p⟩

end Sys2Proof.Machine
end

section
/-! SUPPORT. The statements of spec/02_clockless_timing.md: the arbiters and buffers of the mesh, and the commands of the timing
regions. -/

namespace Sys2Proof.Machine

/-! ### What an arbiter looks at -/

theorem Block.mem_rivals {b : Block} {f g : Flight} : g ∈ b.rivals f ↔
    g ∈ (if b.noc.flights.contains f then b.noc.flights else b.noc.flights ++ [f]) ∧
      (g.x = f.x ∧ g.y = f.y ∧ g.plane = f.plane ∧ g.output = f.output) ∧ b.atHead g = true ∧ b.hasRoom g = true := by
  rw [Block.rivals, List.mem_filter, Bool.and_eq_true, Bool.and_eq_true, decide_eq_true_eq, and_assoc]

theorem Block.hasRoom_of_mem_rivals {b : Block} {f g : Flight} (h : g ∈ b.rivals f) : b.hasRoom g = true := by
  obtain ⟨-, -, -, hroom⟩ := Block.mem_rivals.1 h
  exact hroom

/-- Packets that compete meet one arbiter. -/
theorem Block.arbOf_of_mem_rivals {b : Block} {f g : Flight} (h : g ∈ b.rivals f) : b.arbOf g = b.arbOf f := by
  obtain ⟨-, ⟨hx, hy, hplane, houtput⟩, -, -⟩ := Block.mem_rivals.1 h
  rw [Block.arbOf, Block.arbOf, Flight.outKey, Flight.outKey, hx, hy, hplane, houtput]

/-- Packets in the buffers that compete have the same rivals. -/
theorem Block.rivals_of_mem_rivals {b : Block} {f g : Flight} (hf : f ∈ b.noc.flights) (h : g ∈ b.rivals f) :
    b.rivals g = b.rivals f := by
  obtain ⟨hg, ⟨hx, hy, hplane, houtput⟩, -, -⟩ := Block.mem_rivals.1 h
  have hfin : b.noc.flights.contains f = true := List.contains_iff_mem.2 hf
  rw [if_pos hfin] at hg
  have hgin : b.noc.flights.contains g = true := List.contains_iff_mem.2 hg
  rw [Block.rivals, Block.rivals, if_pos hfin, if_pos hgin, hx, hy, hplane, houtput]

/-- The group that is granted next within a class: the upper, but after eight of its grants in a row the lower (R88). -/
def Block.upperNext (b : Block) (f : Flight) : Bool := !decide (8 ≤ Tbl.get (dflt 0) f.isResp.toNat (b.arbOf f).upper)

/-- The test an arbiter makes for a class and for a group: where a rival of the other kind competes, the packet is of the kind wanted. -/
theorem not_any_or_bne_iff {α : Type} (l : List α) (other : α → Bool) (c d : Bool) :
    (!l.any other || (c != d)) = true ↔ ∀ x ∈ l, other x = true → c = !d := by
  rw [Bool.or_eq_true, Bool.not_eq_true', List.any_eq_false, bne_iff_ne, ← Bool.eq_not]
  by_cases hkind : c = !d
  · simp [hkind]
  · simp [hkind]

/-- A packet is granted its output when it competes and wins against each rival: against one of the other class, of the other group of
its own class, and of its own group. -/
theorem Block.granted_iff {b : Block} {f : Flight} : b.granted f = true ↔
    f ∈ b.rivals f ∧
    (∀ g ∈ b.rivals f, g.isResp ≠ f.isResp → f.isResp = !decide (8 ≤ (b.arbOf f).resp)) ∧
    (∀ g ∈ b.rivals f, g.isResp = f.isResp → b.labelUpper g ≠ b.labelUpper f → b.labelUpper f = b.upperNext f) ∧
    (∀ g ∈ b.rivals f, g.isResp = f.isResp → b.labelUpper g = b.labelUpper f → b.turn f f ≤ b.turn f g) := by
  simp only [Block.granted, Block.groupRivals, Block.upperNext, Bool.and_eq_true, not_any_or_bne_iff, List.contains_iff_mem,
    List.all_eq_true, List.mem_filter, bne_iff_ne, beq_iff_eq, decide_eq_true_eq, and_imp, and_assoc]

theorem Block.mem_rivals_of_granted {b : Block} {f : Flight} (h : b.granted f = true) : f ∈ b.rivals f :=
  (Block.granted_iff.1 h).1

/-- A packet granted its output while one of the other class competes is of the class the arbiter's count asks for (R88). -/
theorem Block.isResp_of_granted {b : Block} {f g : Flight} (h : b.granted f = true) (hg : g ∈ b.rivals f)
    (hclass : g.isResp ≠ f.isResp) : f.isResp = !decide (8 ≤ (b.arbOf f).resp) := by
  obtain ⟨-, hwins, -, -⟩ := Block.granted_iff.1 h
  exact hwins g hg hclass

/-! ### Room in the next buffer (R87) -/

/-- The room a packet for a neighbour finds in the buffer it goes on to. -/
theorem Block.hasRoom_neighbour {b : Block} {f g : Flight} (hdst : f.dst ≠ (f.x, f.y))
    (hg : g = { f with x := (nextRouter f.x f.y f.dst).1, y := (nextRouter f.x f.y f.dst).2 }) (h : b.hasRoom f = true) :
    (b.buffered.filter (b.sameBuffer g)).length < 4 ∧
      (2 ≤ f.plane → ((b.buffered.filter (b.sameBuffer g)).map Flight.count).sum + f.count ≤ 4) := by
  subst hg
  simp only [Block.hasRoom, hdst, decide_false, Bool.false_or, Bool.and_eq_true, Bool.or_eq_true, decide_eq_true_eq] at h
  obtain ⟨hunits, hdata⟩ := h
  exact ⟨hunits, fun hdat => hdata.resolve_left (Nat.not_lt.2 hdat)⟩

/-! ### The count of responses (R88) -/

/-- What the arbiter's count of responses is after a grant. -/
theorem Block.arbOf_noteGrant (b : Block) (f : Flight) : (((noteGrant f).run b).arbOf f).resp =
    if (f.isResp && (b.rivals f).any fun g => !g.isResp) = true then (b.arbOf f).resp + 1 else 0 := by
  change (Tbl.get (dflt {}) f.outKey (Tbl.set (dflt {}) f.outKey _ b.noc.arb)).resp = _
  rw [Tbl.get_set, if_pos rfl]

/-- A response that passes a request was granted below eight, so the count never exceeds eight. -/
theorem Block.resp_noteGrant_le {b : Block} {f : Flight} (h : b.granted f = true) :
    (((noteGrant f).run b).arbOf f).resp ≤ 8 := by
  rw [Block.arbOf_noteGrant]
  split
  case isFalse => exact Nat.zero_le 8
  case isTrue hpasses =>
    obtain ⟨hresp, hwaits⟩ := Bool.and_eq_true_iff.1 hpasses
    obtain ⟨g, hg, hreq⟩ := List.any_eq_true.1 hwaits
    have hbelow := Block.isResp_of_granted h hg (by rw [hresp]; simpa using hreq)
    rw [hresp, eq_comm, Bool.not_eq_true', decide_eq_false_iff_not] at hbelow
    omega

/-! ### Where packets compete one is granted -/

/-- Of the members of a list one is of the wanted kind, unless all are of the other. -/
theorem exists_preferred {α : Type} {l : List α} (hl : l ≠ []) (kind : α → Bool) (want : Bool) :
    ∃ x ∈ l, ∀ y ∈ l, kind y ≠ kind x → kind x = want := by
  by_cases hw : ∃ x ∈ l, kind x = want
  · obtain ⟨x, hx, hkind⟩ := hw
    exact ⟨x, hx, fun _ _ _ => hkind⟩
  · obtain ⟨x, hx⟩ := List.exists_mem_of_ne_nil l hl
    have hother : ∀ y ∈ l, kind y = !want := fun y hy => Bool.eq_not.2 fun h => hw ⟨y, hy, h⟩
    exact ⟨x, hx, fun y hy hne => absurd ((hother y hy).trans (hother x hx).symm) hne⟩

/-- A list that is not empty has a member at which a measure is least. -/
theorem exists_least {α : Type} {l : List α} (hl : l ≠ []) (m : α → Nat) : ∃ x ∈ l, ∀ y ∈ l, m x ≤ m y :=
  ⟨l.minOn m hl, List.minOn_mem, fun _ hy => List.apply_minOn_le_of_mem hy⟩

/-- The arbiter picks a class, a group of that class and the input of that group that is next in turn. -/
theorem Block.exists_granted {b : Block} {f : Flight} (hf : f ∈ b.noc.flights) (hl : b.rivals f ≠ []) :
    ∃ g ∈ b.rivals f, b.granted g = true := by
  obtain ⟨c, hc, hclass⟩ := exists_preferred hl Flight.isResp (!decide (8 ≤ (b.arbOf f).resp))
  have hcs : (b.rivals f).filter (fun g => g.isResp == c.isResp) ≠ [] :=
    List.ne_nil_of_mem (List.mem_filter.2 ⟨hc, beq_self_eq_true _⟩)
  obtain ⟨u, hu, hgroup⟩ := exists_preferred hcs b.labelUpper (b.upperNext c)
  have hus : ((b.rivals f).filter (fun g => g.isResp == c.isResp)).filter (fun g => b.labelUpper g == b.labelUpper u) ≠ [] :=
    List.ne_nil_of_mem (List.mem_filter.2 ⟨hu, beq_self_eq_true _⟩)
  obtain ⟨g, hg, hleast⟩ := exists_least hus (b.turn u)
  simp only [List.mem_filter, beq_iff_eq, and_imp] at hu hgroup hg hleast
  obtain ⟨hu, huclass⟩ := hu
  obtain ⟨⟨hg, hgclass⟩, hggroup⟩ := hg
  have harb : ∀ {x}, x ∈ b.rivals f → b.arbOf g = b.arbOf x := fun hx =>
    (Block.arbOf_of_mem_rivals hg).trans (Block.arbOf_of_mem_rivals hx).symm
  have hnext : b.upperNext g = b.upperNext c := by rw [Block.upperNext, Block.upperNext, harb hc, hgclass]
  have hturn : ∀ x, b.turn g x = b.turn u x := fun x => by
    rw [Block.turn, Block.turn, Block.arbGroup, Block.arbGroup, harb hu, hgclass, huclass, hggroup]
  refine ⟨g, hg, Block.granted_iff.2 ?_⟩
  rw [Block.rivals_of_mem_rivals hf hg, Block.arbOf_of_mem_rivals hg, hnext, hgclass, hggroup]
  refine ⟨hg, hclass, hgroup, fun x hx hxclass hxgroup => ?_⟩
  rw [hturn, hturn]
  exact hleast x hx hxclass hxgroup

/-! ### A packet that waits -/

/-- A packet in its buffer that is not granted its output stays, and nothing changes. -/
theorem State.did_packetHop_waits {s : State} {f : Flight} (hin : s.blk.noc.flights.contains f = true)
    (hform : f.malformed = false) (hwaits : s.blk.granted f = false) : s.did (packetHop f .clean) = s := by
  rw [packetHop, State.did_read]
  simp only [hin, hform, hwaits, Bool.not_true, Bool.false_eq_true, reduceCtorEq, or_self, if_false, Prog.when_false]
  exact State.did_when_idle _ (State.did_when_idle _ (State.did_skip s))

/-- Settles O60: what an arbiter grants is read off from the rivals that a granted packet wins against. -/
theorem routerArbitration : Obligations.RouterArbitration := by
  refine ⟨fun x y plane hdr units f s hup hf hin hform hwaits => ?_, fun b f g hgrant hdst hg => ?_,
    fun b f g hf hresp hreq hbelow => ?_, fun b f g hf hreq hresp hfull => ?_,
    fun b f hgrant _ => Block.resp_noteGrant_le hgrant, fun b f hf hl => Block.exists_granted hf hl⟩
  · subst hf
    refine (State.run_up hup _).trans ?_
    rw [State.did_packetHop_waits hin hform hwaits]
  · exact Block.hasRoom_neighbour hdst hg (Block.hasRoom_of_mem_rivals (Block.mem_rivals_of_granted hgrant))
  · refine Bool.eq_false_iff.2 fun hgrant => ?_
    have hnext := Block.isResp_of_granted hgrant hf (by simp [hresp, hreq])
    rw [hreq, decide_eq_false (Nat.not_le.2 hbelow)] at hnext
    cases hnext
  · refine Bool.eq_false_iff.2 fun hgrant => ?_
    have hnext := Block.isResp_of_granted hgrant hf (by simp [hresp, hreq])
    rw [hresp, decide_eq_true hfull] at hnext
    cases hnext

/-! ### The commands of the timing regions -/

/-- A trip below the ceiling and outside the hold-off is counted and raises the code (R46). -/
theorem State.did_monitorTrip_raise {s : State} {r : Nat} (hon : s.blk.regionOn r = true) (hstate : s.blk.regionState r = 1)
    (hhold : s.blk.inHoldoff r = false) (hcode : s.blk.regionCode r < s.blk.f (Reg.MON_TMG_REGION r) Fl.MON_TMG_REGION_CEILING) :
    s.did (monitorTrip r) = s.did (.all [
      incSat (Reg.MON_TMG_REGION r) Fl.MON_TMG_REGION_TRIPS, modRegion r (fun x => { x with tripped := true }), raiseCode r]) := by
  have hactive : (s.blk.regionOn r && decide (1 ≤ s.blk.regionState r ∧ s.blk.regionState r ≤ 3)) = true := by
    rw [hon, hstate]; rfl
  rw [monitorTrip, State.did_read, State.did_when_true _ hactive, hhold, if_neg Bool.false_ne_true, if_pos hcode]

/-- A paced region with a trip in its interval is halved again (R49). -/
theorem State.did_pacingInterval_tripped {s : State} {r : Nat} (hpace : (s.blk.region r).pace ≠ 0)
    (htrip : (s.blk.region r).tripped = true) :
    s.did (pacingInterval r) = s.did (modRegion r fun x => { x with pace := min 4 (x.pace + 1), tripped := false, quiet := 0 }) := by
  rw [pacingInterval, State.did_read, State.did_when_true _ (decide_eq_true hpace), if_pos htrip]

/-- A searched window ends with all that waited for it (R51). -/
theorem State.did_recalSearchDone {s : State} {r : Nat} (n : Nat) (hphase : (s.blk.region r).phase = .searching) :
    s.did (recalSearchDone r n) = s.did (.all [
      setBaseline r n,
      setF (Reg.MON_TMG_REGION r) Fl.MON_TMG_REGION_STATE 1,
      setF (Reg.MON_TMG_REGION r) Fl.MON_TMG_REGION_RECAL_DONE 1,
      modRegion r (fun x => { x with phase := .closed, inside := [] }),
      modDom (regionDom r) (fun x => { x with codeFloor := none }),
      refreshFloor (regionDom r), releaseRegion r, kickDomain (regionDom r), unblockCommit]) := by
  rw [recalSearchDone, State.did_read, State.did_when_true _ (decide_eq_true hphase)]

/-- A calibration that a region waits for ends with its baseline, and the region is active or its wake may end (R43, R45). -/
theorem State.did_idleCalibrationDone {s : State} {r : Nat} (n : Fin 32) (hon : s.blk.regionOn r = true)
    (hwaits : s.blk.regionState r = 0 ∨ s.blk.calibrates r = true) :
    s.did (idleCalibrationDone r (some n)) = s.did (.all [setBaseline r n,
      if s.blk.regionState r = 0 then setF (Reg.MON_TMG_REGION r) Fl.MON_TMG_REGION_STATE 1
      else modRegion r fun x => { x with calibrated := true }]) := by
  have hguard : (s.blk.regionOn r && (decide (s.blk.regionState r = 0) || s.blk.calibrates r)) = true := by
    rw [hon, Bool.true_and, Bool.or_eq_true, decide_eq_true_eq]; exact hwaits
  rw [idleCalibrationDone, State.did_read, State.did_when_true _ hguard]

/-- A region that calibrates in a wake from off is off, not without a calibration. -/
theorem Block.regionState_of_calibrates {b : Block} {r : Nat} (h : b.calibrates r = true) : b.regionState r = 5 := by
  simp only [Block.calibrates, Bool.and_eq_true, decide_eq_true_eq] at h
  obtain ⟨⟨⟨hoff, -⟩, -⟩, -⟩ := h
  exact hoff

/-- Settles O1: each command is the program its condition lets through. -/
theorem timingCommands : Obligations.TimingCommands := by
  refine ⟨fun r s hup hon hstate hhold hcode => ?_, fun r s hup hpace htrip => ?_, fun hat mask s hup hp hpower => ?_,
    fun r s hup hphase hdrained => ?_, fun r n s hup hphase => ?_, fun r n s hup hon hstate => ?_, fun r n s hup hon hcal => ?_⟩
    <;> refine (State.run_up hup _).trans (congrArg _ ?_)
  · exact State.did_monitorTrip_raise hon hstate hhold hcode
  · exact State.did_pacingInterval_tripped hpace htrip
  · rw [monRecal, State.did_underHat _ hp, State.did_read, State.did_when_true _ hpower]
  · rw [State.did_read, State.did_when_true _ (by rw [hdrained, hphase]; rfl)]
  · exact State.did_recalSearchDone n hphase
  · rw [State.did_idleCalibrationDone n hon (.inl hstate), if_pos hstate]
  · have hoff : s.blk.regionState r ≠ 0 := by rw [Block.regionState_of_calibrates hcal]; decide
    rw [State.did_idleCalibrationDone n hon (.inr hcal), if_neg hoff]

end Sys2Proof.Machine
end

section
/-! SUPPORT. The encoding of spec/03_structure_bitstream.md: a record read back from its payload, the records read back from the
canonical image. -/

namespace Sys2Proof.Machine

/-! ### Bytes read where they were written -/

theorem slice_drop (l : List Byte) (a o n : Nat) : slice (l.drop a) o n = slice l (a + o) n := by
  simp only [slice, List.drop_drop]

theorem numAt_drop (l : List Byte) (a o n : Nat) : numAt (l.drop a) o n = numAt l (a + o) n := by
  rw [numAt, numAt, slice_drop]

/-- A read past a first part of a list reads the rest. -/
theorem slice_append_right {a : List Byte} (b : List Byte) {o : Nat} (n : Nat) (h : a.length ≤ o) :
    slice (a ++ b) o n = slice b (o - a.length) n := by
  rw [slice, slice, List.drop_append, List.drop_eq_nil_of_le h, List.nil_append]

/-- A read of a whole first part of a list gives that part. -/
theorem slice_append_left {a : List Byte} (b : List Byte) {n : Nat} (h : a.length = n) : slice (a ++ b) 0 n = a := by
  subst h
  rw [slice, List.drop_zero, List.take_left, Nat.sub_self, List.replicate_zero, List.append_nil]

/-- A field of `k` bytes reads as the number it holds. -/
theorem numAt_toBytesLE_append {k n : Nat} (l : List Byte) (h : n < 256 ^ k) : numAt (toBytesLE k n ++ l) 0 k = n := by
  rw [numAt, slice_append_left l (length_toBytesLE k n), ofBytesLE_toBytesLE, Nat.mod_eq_of_lt h]

theorem numAt_toBytesLE {k n : Nat} (h : n < 256 ^ k) : numAt (toBytesLE k n) 0 k = n := by
  rw [← List.append_nil (toBytesLE k n), numAt_toBytesLE_append [] h]

/-- What lies past a field is read in the bytes that follow it. -/
theorem numAt_past_toBytesLE {k o : Nat} (n m : Nat) (l : List Byte) (h : k ≤ o) :
    numAt (toBytesLE k n ++ l) o m = numAt l (o - k) m := by
  rw [numAt, numAt, slice_append_right l m (Nat.le_trans (Nat.le_of_eq (length_toBytesLE k n)) h), length_toBytesLE]

/-! ### One record (R60, R62) -/

theorem le_roundUp8 (n : Nat) : n ≤ roundUp8 n := by rw [roundUp8]; omega

/-- Every payload R62 allows has a byte, and at most 64. -/
theorem recLengths_bounds (type : Nat) : ∀ n ∈ recLengths type, 1 ≤ n ∧ n ≤ 64 := by
  unfold recLengths
  repeat' split
  all_goals decide

theorem Rec.type_lt (r : Rec) : r.type < 2 ^ 15 := by cases r <;> simp [Rec.type]

theorem Rec.length_bytes (r : Rec) : r.bytes.length = roundUp8 (4 + r.payload.length) := by
  have hle := le_roundUp8 (4 + r.payload.length)
  simp only [Rec.bytes, recBytes, List.length_append, length_toBytesLE, List.length_replicate]
  omega

theorem Rec.length_payload_mem {r : Rec} (h : r.fits = true) : r.payload.length ∈ recLengths r.type := by
  cases r
  case name t =>
    simp only [Rec.fits, decide_eq_true_eq] at h
    simp only [Rec.payload, Rec.type, recLengths, Nat.reduceEqDiff, if_false, if_true, List.mem_map, List.mem_range]
    exact ⟨t.length - 1, by omega, by omega⟩
  all_goals simp [Rec.payload, Rec.type, recLengths, length_toBytesLE]

/-- Each field lies where its record's layout puts it, so reading the payload gives the fields back. -/
theorem Rec.ofPayload_payload {r : Rec} (h : r.fits = true) : Rec.ofPayload r.type r.payload = some r := by
  have hlen := Rec.length_payload_mem h
  rw [Rec.ofPayload, if_neg (not_not_intro hlen)]
  cases r
  case name t => rfl
  all_goals
    simp only [Rec.fits, decide_eq_true_eq, Nat.reducePow] at h
    simp [Rec.type, Rec.payload, numAt_toBytesLE_append, numAt_toBytesLE, numAt_past_toBytesLE, h]

/-- Settles O47: a record's fields are read where its payload puts them. -/
theorem recordRoundTrip : Obligations.RecordRoundTrip :=
  fun r h => ⟨Rec.ofPayload_payload h, Rec.length_payload_mem h, r.length_bytes⟩

/-! ### The records of a section (R60) -/

theorem Rec.length_payload_bounds {r : Rec} (h : r.fits = true) : 1 ≤ r.payload.length ∧ r.payload.length ≤ 64 :=
  recLengths_bounds _ _ (Rec.length_payload_mem h)

theorem Rec.eight_le_length_bytes {r : Rec} (h : r.fits = true) : 8 ≤ r.bytes.length := by
  obtain ⟨hpos, -⟩ := Rec.length_payload_bounds h
  rw [r.length_bytes, roundUp8]
  omega

/-- A record's bytes: the type, the length, the payload and padding (R60). -/
theorem Rec.bytes_eq (r : Rec) : ∃ pad, r.bytes = toBytesLE 2 r.type ++ (toBytesLE 2 r.payload.length ++ (r.payload ++ pad)) :=
  ⟨List.replicate (roundUp8 (4 + r.payload.length) - (4 + r.payload.length)) 0, by simp only [Rec.bytes, recBytes, List.append_assoc]⟩

/-- Where a record's bytes stand in an image, its type, length and payload are read. -/
theorem Rec.read_of_drop {r : Rec} {img post : List Byte} {off : Nat} (h : r.fits = true) (hd : img.drop off = r.bytes ++ post) :
    numAt img off 2 = r.type ∧ numAt img (off + 2) 2 = r.payload.length ∧ slice img (off + 4) r.payload.length = r.payload := by
  have htype : r.type < 256 ^ 2 := Nat.lt_trans r.type_lt (by decide)
  obtain ⟨-, hmax⟩ := Rec.length_payload_bounds h
  have hlen : r.payload.length < 256 ^ 2 := by omega
  obtain ⟨pad, hbytes⟩ := r.bytes_eq
  simp only [hbytes, List.append_assoc] at hd
  refine ⟨?_, ?_, ?_⟩
  · rw [← Nat.add_zero off, ← numAt_drop, hd, numAt_toBytesLE_append _ htype]
  · rw [← numAt_drop, hd, numAt_past_toBytesLE _ _ _ (Nat.le_refl 2), numAt_toBytesLE_append _ hlen]
  · rw [← slice_drop, hd, slice_append_right _ _ (by simp [length_toBytesLE]), length_toBytesLE,
      slice_append_right _ _ (by simp [length_toBytesLE]), length_toBytesLE, slice_append_left _ rfl]

/-- The record that a record as it stands in an image sets, if it spells one. -/
def RawRec.spelt (r : RawRec) : Option Rec := if r.del then none else Rec.ofPayload r.type r.payload

theorem imageRecs_eq (img : List Byte) : imageRecs img = (imageSecs img).1.flatMap fun s => s.recs.filterMap RawRec.spelt := rfl

/-- Reading a section whose bytes go on with a record's gives that record and goes on behind it. -/
theorem parseRecs_step {r : Rec} {img post : List Byte} {sec stop off fuel : Nat} (h : r.fits = true)
    (hd : img.drop off = r.bytes ++ post) (hstop : off + r.bytes.length ≤ stop) :
    (parseRecs img sec stop (fuel + 1) off).1.filterMap RawRec.spelt =
      r :: (parseRecs img sec stop fuel (off + r.bytes.length)).1.filterMap RawRec.spelt := by
  obtain ⟨htype, hlen, hpayload⟩ := Rec.read_of_drop h hd
  have hsize := Rec.eight_le_length_bytes h
  have hspelt : ∀ pad, RawRec.spelt ⟨off, sec, r.type % 2 ^ 15, decide (2 ^ 15 ≤ r.type), r.payload, pad⟩ = some r := fun pad => by
    rw [RawRec.spelt, decide_eq_false (Nat.not_le.2 r.type_lt), Nat.mod_eq_of_lt r.type_lt, if_neg Bool.false_ne_true,
      Rec.ofPayload_payload h]
  rw [parseRecs, if_neg (by omega), if_neg (by omega)]
  simp only [htype, hlen, ← r.length_bytes, hpayload]
  rw [if_neg (by omega)]
  exact List.filterMap_cons_some (hspelt _)

/-- Reading a section whose bytes are those of a list of records gives the list. -/
theorem parseRecs_bytes {l : List Rec} {img post : List Byte} {sec off fuel : Nat} (hl : ∀ r ∈ l, r.fits = true)
    (hd : img.drop off = l.flatMap Rec.bytes ++ post) (hfuel : l.length ≤ fuel) :
    (parseRecs img sec (off + (l.flatMap Rec.bytes).length) fuel off).1.filterMap RawRec.spelt = l := by
  induction l generalizing off fuel with
  | nil => cases fuel <;> simp [parseRecs]
  | cons r l ih =>
    obtain ⟨hr, hl⟩ := List.forall_mem_cons.1 hl
    obtain _ | fuel := fuel
    · exact absurd hfuel (Nat.not_succ_le_zero _)
    replace hfuel := Nat.le_of_succ_le_succ hfuel
    rw [List.flatMap_cons, List.append_assoc] at hd
    have hrest : img.drop (off + r.bytes.length) = l.flatMap Rec.bytes ++ post := by
      rw [← List.drop_drop, hd, List.drop_left]
    rw [List.flatMap_cons, List.length_append, parseRecs_step hr hd (by omega), ← Nat.add_assoc, ih hl hrest hfuel]

/-! ### The sections of an image (R57, R59) -/

/-- The records of a section. -/
def recsOfSection (l : List Rec) (t : Nat) : List Rec := l.filter fun r => r.type / 256 = t

/-- The bytes of a section's records. -/
def sectionBody (l : List Rec) (t : Nat) : List Byte := (recsOfSection l t).flatMap Rec.bytes

theorem sectionBytes_eq (l : List Rec) (t : Nat) : sectionBytes l t =
    toBytesLE 2 t ++ (toBytesLE 2 0 ++ (toBytesLE 4 (sectionBody l t).length ++
      (toBytesLE 4 (recsOfSection l t).length ++ (toBytesLE 4 0 ++ sectionBody l t)))) := by
  simp only [sectionBytes, sectionBody, recsOfSection, List.append_assoc]

theorem length_sectionBytes (l : List Rec) (t : Nat) : (sectionBytes l t).length = 16 + (sectionBody l t).length := by
  simp only [sectionBytes_eq, List.length_append, length_toBytesLE]
  omega

theorem drop_sectionBytes (l : List Rec) (t : Nat) : (sectionBytes l t).drop 16 = sectionBody l t := by
  have hhead : ∀ body : List Byte, (toBytesLE 2 t ++ (toBytesLE 2 0 ++ (toBytesLE 4 (sectionBody l t).length ++
      (toBytesLE 4 (recsOfSection l t).length ++ (toBytesLE 4 0 ++ body))))).drop 16 = body := fun body => by
    simp [List.drop_append, length_toBytesLE, List.drop_eq_nil_of_le]
  rw [sectionBytes_eq, hhead]

theorem length_le_flatMap_bytes {l : List Rec} (hl : ∀ r ∈ l, r.fits = true) : 8 * l.length ≤ (l.flatMap Rec.bytes).length := by
  induction l with
  | nil => simp
  | cons r l ih =>
    obtain ⟨hr, hl⟩ := List.forall_mem_cons.1 hl
    have hsize := Rec.eight_le_length_bytes hr
    have hrest := ih hl
    rw [List.flatMap_cons, List.length_append, List.length_cons]
    omega

theorem length_le_flatMap_sections (l : List Rec) (ts : List Nat) : 16 * ts.length ≤ (ts.flatMap (sectionBytes l)).length := by
  induction ts with
  | nil => simp
  | cons t ts ih =>
    rw [List.flatMap_cons, List.length_append, List.length_cons, length_sectionBytes]
    omega

/-- Reading an image whose bytes go on with a section's gives that section's records and goes on behind it. -/
theorem parseSecs_step {l : List Rec} {img post : List Byte} {t off fuel : Nat} (hl : ∀ r ∈ l, r.fits = true)
    (himg : img.length < 2 ^ 32) (hd : img.drop off = sectionBytes l t ++ post) :
    (parseSecs img (fuel + 1) off).2 = (parseSecs img fuel (off + (sectionBytes l t).length)).2 ∧
    (parseSecs img (fuel + 1) off).1.flatMap (fun s => s.recs.filterMap RawRec.spelt) =
      recsOfSection l t ++
        (parseSecs img fuel (off + (sectionBytes l t).length)).1.flatMap (fun s => s.recs.filterMap RawRec.spelt) := by
  have hfit : ∀ r ∈ recsOfSection l t, r.fits = true := fun r hr => hl r (List.mem_filter.1 hr).1
  have hsize := length_sectionBytes l t
  have hroom : img.length - off = (sectionBytes l t).length + post.length := by
    rw [← List.length_drop, hd, List.length_append]
  have hlen : numAt img (off + 4) 4 = (sectionBody l t).length := by
    rw [← numAt_drop, hd, sectionBytes_eq]
    simp only [List.append_assoc]
    rw [numAt_past_toBytesLE _ _ _ (by omega), numAt_past_toBytesLE _ _ _ (by omega), numAt_toBytesLE_append _ (by omega)]
  have hbody : img.drop (off + 16) = sectionBody l t ++ post := by
    rw [← List.drop_drop, hd, List.drop_append_of_le_length (by omega), drop_sectionBytes]
  have hfuel : (recsOfSection l t).length ≤ (sectionBody l t).length / 8 + 1 := by
    have hrecs : 8 * (recsOfSection l t).length ≤ (sectionBody l t).length := length_le_flatMap_bytes hfit
    omega
  have hrecs : ∀ sec, (parseRecs img sec (off + 16 + (sectionBody l t).length) ((sectionBody l t).length / 8 + 1)
      (off + 16)).1.filterMap RawRec.spelt = recsOfSection l t := fun sec => parseRecs_bytes hfit hbody hfuel
  rw [parseSecs, if_neg (by omega), if_neg (by omega), hsize, ← Nat.add_assoc]
  simp only [hlen]
  rw [if_neg (by omega)]
  exact ⟨rfl, by rw [List.flatMap_cons, hrecs]⟩

/-- Reading an image whose bytes from some place on are those of a list of sections gives their records, and ends at its end. -/
theorem parseSecs_bytes {l : List Rec} {img : List Byte} {ts : List Nat} {off fuel : Nat} (hl : ∀ r ∈ l, r.fits = true)
    (himg : img.length < 2 ^ 32) (hoff : off ≤ img.length) (hd : img.drop off = ts.flatMap (sectionBytes l))
    (hfuel : ts.length ≤ fuel) :
    (parseSecs img fuel off).2 = true ∧
    (parseSecs img fuel off).1.flatMap (fun s => s.recs.filterMap RawRec.spelt) = ts.flatMap (recsOfSection l) := by
  induction ts generalizing off fuel with
  | nil =>
    have hend : off = img.length := Nat.le_antisymm hoff (List.drop_eq_nil_iff.1 hd)
    cases fuel <;> simp [parseSecs, hend]
  | cons t ts ih =>
    obtain _ | fuel := fuel
    · exact absurd hfuel (Nat.not_succ_le_zero _)
    replace hfuel := Nat.le_of_succ_le_succ hfuel
    rw [List.flatMap_cons] at hd
    have hroom : img.length - off = (sectionBytes l t).length + (ts.flatMap (sectionBytes l)).length := by
      rw [← List.length_drop, hd, List.length_append]
    have hrest : img.drop (off + (sectionBytes l t).length) = ts.flatMap (sectionBytes l) := by
      rw [← List.drop_drop, hd, List.drop_left]
    obtain ⟨hok, hrecs⟩ := parseSecs_step (fuel := fuel) hl himg hd
    obtain ⟨hokRest, hrecsRest⟩ := ih (by omega) hrest hfuel
    rw [hok, hrecs, hrecsRest]
    exact ⟨hokRest, List.flatMap_cons.symm⟩

/-! ### The order of a canonical image (R60) -/

/-- In a list whose measure does not fall, the members below a bound stand before those at it. -/
theorem filter_lt_append_filter_eq {α : Type} {f : α → Nat} {l : List α} (hl : l.Pairwise fun a b => f a ≤ f b) (n : Nat) :
    l.filter (fun x => decide (f x < n)) ++ l.filter (fun x => decide (f x = n)) = l.filter fun x => decide (f x < n + 1) := by
  induction l with
  | nil => rfl
  | cons x l ih =>
    obtain ⟨hx, hl⟩ := List.pairwise_cons.1 hl
    by_cases hlow : f x < n
    · rw [List.filter_cons_of_pos (by simpa using hlow), List.filter_cons_of_neg (by simp; omega),
        List.filter_cons_of_pos (by simp; omega), List.cons_append, ih hl]
    · have hge : ∀ y ∈ x :: l, n ≤ f y := List.forall_mem_cons.2 ⟨by omega, fun y hy => by have := hx y hy; omega⟩
      rw [List.filter_eq_nil_iff.2 fun y hy => by simpa using hge y hy, List.nil_append]
      exact List.filter_congr fun y hy => decide_eq_decide.2 (by have := hge y hy; omega)

/-- Such a list is its members at 0, at 1 and so on, one after another. -/
theorem flatMap_range_filter_eq {α : Type} {f : α → Nat} {l : List α} (hl : l.Pairwise fun a b => f a ≤ f b) (n : Nat) :
    ((List.range n).flatMap fun t => l.filter fun x => decide (f x = t)) = l.filter fun x => decide (f x < n) := by
  induction n with
  | zero => simp
  | succ n ih => rw [List.range_succ, List.flatMap_append, ih, List.flatMap_singleton, filter_lt_append_filter_eq hl]

theorem Rec.type_le_of_before {a b : Rec} (h : a.before b = true) : a.type ≤ b.type := by
  simp only [Rec.before, Bool.or_eq_true, Bool.and_eq_true, decide_eq_true_eq] at h
  omega

/-- Members that give nothing may be left out. -/
theorem flatMap_filter_eq {α β : Type} {p : α → Bool} {g : α → List β} (h : ∀ x, p x = false → g x = []) (l : List α) :
    (l.filter p).flatMap g = l.flatMap g := by
  induction l with
  | nil => rfl
  | cons x l ih =>
    by_cases hp : p x = true
    · rw [List.filter_cons_of_pos hp, List.flatMap_cons, List.flatMap_cons, ih]
    · rw [List.filter_cons_of_neg hp, List.flatMap_cons, h x (Bool.eq_false_iff.2 hp), ih, List.nil_append]

/-- A section type that no record uses has no record. -/
theorem recsOfSection_eq_nil {l : List Rec} (t : Nat) (h : (l.any fun r => decide (r.type / 256 = t)) = false) :
    recsOfSection l t = [] :=
  List.filter_eq_nil_iff.2 (List.any_eq_false.1 h)

/-- The sections of records in the order of R60 hold the records in that order. -/
theorem flatMap_recsOfSection {l : List Rec} (hl : l.Pairwise fun a b => a.before b = true) :
    (sectionTypes l).flatMap (recsOfSection l) = l := by
  have hsorted : l.Pairwise fun a b => a.type / 256 ≤ b.type / 256 :=
    hl.imp fun h => Nat.div_le_div_right (Rec.type_le_of_before h)
  refine (flatMap_filter_eq recsOfSection_eq_nil _).trans
    ((flatMap_range_filter_eq hsorted 128).trans (List.filter_eq_self.2 fun r _ => ?_))
  have htype := r.type_lt
  simp only [decide_eq_true_eq]
  omega

theorem length_headerBytes (kind rev grade length gen baseGen sections flags : Nat) :
    (headerBytes kind rev grade length gen baseGen (List.replicate 48 0) sections flags).length = 128 := by
  simp [headerBytes, length_toBytesLE]

/-- Behind its header the canonical image holds the sections its records use. -/
theorem drop_canonicalImage (rev grade gen : Nat) (l : List Rec) :
    (canonicalImage rev grade gen l).drop 128 = (sectionTypes l).flatMap (sectionBytes l) := by
  rw [canonicalImage, List.drop_left' (length_headerBytes ..)]

/-- Settles O48: the image is read section by section, each record by record, and the order of R60 puts them back in place. -/
theorem imageRoundTrip : Obligations.ImageRoundTrip := by
  intro rev grade gen l hl hsorted himg
  have hd := drop_canonicalImage rev grade gen l
  have hlen : 128 ≤ (canonicalImage rev grade gen l).length := by
    rw [canonicalImage, List.length_append, length_headerBytes]; omega
  have hfuel : (sectionTypes l).length ≤ (canonicalImage rev grade gen l).length / 16 + 1 := by
    have hsecs := length_le_flatMap_sections l (sectionTypes l)
    rw [← hd, List.length_drop] at hsecs
    omega
  obtain ⟨hok, hrecs⟩ := parseSecs_bytes hl himg hlen hd hfuel
  exact ⟨(imageRecs_eq _).trans (hrecs.trans (flatMap_recsOfSection hsorted)), hok⟩

end Sys2Proof.Machine
end

section
/-! SUPPORT. The commands of spec/03_structure_bitstream.md: the slots of the staging cistern, the commit and CFG_EXPORT. -/

namespace Sys2Proof.Machine

/-! ### The slots of the cistern (R63–R68) -/

/-- A command of a slot that its hat holds does what the command says. -/
theorem State.did_slotCmd {s : State} {hat n : Nat} (k : Block → Prog) (hp : s.blk.portAdmits hat = true)
    (hheld : s.blk.slotHeld n hat = true) : s.did (slotCmd hat n k) = s.did (k s.blk) := by
  rw [slotCmd, State.did_underHat _ hp, State.did_read, State.did_when_true _ hheld]

/-- CLAIM of an empty slot by a CONFIG hat (R63). -/
theorem State.did_slotClaim {s : State} {hat n : Nat} (hmay : s.may hat Right.config = true)
    (hempty : s.blk.slotState n = SlotState.empty) :
    s.did (slotClaim hat n) = s.did (.all [
      setF (Reg.CFG_SLOT_STATUS n) Fl.CFG_SLOT_STATUS_OWNER hat, setSlot n SlotState.claimed]) := by
  rw [slotClaim, State.did_underHat _ (State.may_admits hmay), State.did_read,
    State.did_when_true _ (by rw [State.may_holds hmay, hempty]; rfl)]

/-- DISCARD of a slot whose content nothing uses. -/
theorem State.did_slotDiscard {s : State} {hat n : Nat} (hp : s.blk.portAdmits hat = true) (hheld : s.blk.slotHeld n hat = true)
    (hcommit : s.blk.slotState n ≠ SlotState.committing) (hload : s.blk.slotState n ≠ SlotState.loading)
    (hcheck : (s.blk.slotSt n).checking = false) :
    s.did (slotDiscard hat n) = s.did (.all [modSlot n (fun _ => {}), setSlot n SlotState.claimed, showCarry n]) := by
  rw [slotDiscard, State.did_slotCmd _ hp hheld, State.did_when_true _ (by simp [hcommit, hload, hcheck])]

/-- STAGE of a slot whose content nothing uses: refused with a code, or the copy of its source starts. -/
theorem State.did_slotStage {s : State} {hat n : Nat} {code : Status} (hp : s.blk.portAdmits hat = true) (hheld : s.blk.slotHeld n hat = true)
    (hcommit : s.blk.slotState n ≠ SlotState.committing) (hload : s.blk.slotState n ≠ SlotState.loading)
    (hcheck : (s.blk.slotSt n).checking = false)
    (hcode : s.blk.stageFault hat (s.blk.f (Reg.CFG_SLOT_SRC n) Fl.CFG_SLOT_SRC_ADDR * 8)
      (s.blk.f (Reg.CFG_SLOT_LEN n) Fl.CFG_SLOT_LEN_LEN) = code) :
    s.did (slotStage hat n) = s.did (if code ≠ 0
      then .all [.when (decide (s.blk.slotState n = SlotState.checked)) (uncheckSlot n), slotDone n code 0 0]
      else .all [
        modSlot n (fun _ => {
          content := some ⟨[], [], s.blk.gen⟩, copyLen := s.blk.f (Reg.CFG_SLOT_LEN n) Fl.CFG_SLOT_LEN_LEN,
          copySrc := s.blk.f (Reg.CFG_SLOT_SRC n) Fl.CFG_SLOT_SRC_ADDR * 8, copyRights := s.blk.rightsOf hat }),
        setSlot n SlotState.loading, showCarry n]) := by
  subst hcode
  rw [slotStage, State.did_slotCmd _ hp hheld, if_neg (by simp [hcommit, hload, hcheck])]

/-- CHECK of content that is staged and not being checked. -/
theorem State.did_slotCheck {s : State} {hat n : Nat} (hp : s.blk.portAdmits hat = true) (hheld : s.blk.slotHeld n hat = true)
    (hstate : s.blk.slotState n = SlotState.staging ∨ s.blk.slotState n = SlotState.checked)
    (hcheck : (s.blk.slotSt n).checking = false) :
    s.did (slotCheck hat n) = s.did (modSlot n fun x => { x with checking := true }) := by
  rw [slotCheck, State.did_slotCmd _ hp hheld, if_pos ⟨hstate, by rw [hcheck]; rfl⟩]

/-- The end of a copy (R64). -/
theorem State.did_stageCopyDone {s : State} {n : Nat} {told read : ReadIn} (hload : s.blk.slotState n = SlotState.loading)
    (hread : s.blk.sourced (s.blk.slotSt n).copyRights (s.blk.slotF n Fl.CFG_SLOT_STATUS_OWNER) (s.blk.slotSt n).copySrc
      (s.blk.slotSt n).copyLen told = read) :
    s.did (stageCopyDone n told) = s.did (if read.end_ ≠ St.ok
      then .all [modSlot n (fun _ => {}), setSlot n SlotState.claimed, slotDone n read.end_ 0 0]
      else .all [
        modSlot n (fun x => { x with content := x.content.map fun c => { c with img := slice read.data 0 (s.blk.slotSt n).copyLen } }),
        setSlot n SlotState.staging, slotDone n St.ok 0 0]) := by
  subst hread
  rw [stageCopyDone, State.did_read, State.did_when_true _ (decide_eq_true hload)]

/-- A check that finds no fault (R68). -/
theorem State.did_checkDone_clean {s : State} {n : Nat} {c : Content} (hcheck : (s.blk.slotSt n).checking = true)
    (hcontent : (s.blk.slotSt n).content = some c) (hnone : firstFault (s.blk.faults c) = none) :
    s.did (checkDone n) = s.did (.all [
      modSlot n (fun x => { x with checking := false }),
      setSlot n SlotState.checked, showTouch n (touchOf s.blk.recs (c.merged s.blk.recs)), slotDone n St.ok 0 0]) := by
  rw [checkDone, State.did_read, State.did_when_true _ hcheck, hcontent, Prog.for?_some, hnone]
  rfl

/-- A check that finds one (R68). -/
theorem State.did_checkDone_fault {s : State} {n : Nat} {c : Content} {off rule : Nat} (hcheck : (s.blk.slotSt n).checking = true)
    (hcontent : (s.blk.slotSt n).content = some c) (hsome : firstFault (s.blk.faults c) = some (off, rule)) :
    s.did (checkDone n) = s.did (.all [
      modSlot n (fun x => { x with checking := false }),
      uncheckSlot n,
      slotDone n (if rule = 2 then St.digestMismatch else St.checkFailed) rule off]) := by
  rw [checkDone, State.did_read, State.did_when_true _ hcheck, hcontent, Prog.for?_some, hsome]
  rfl

/-- An STG write into a slot that is staging joins its content (R65, R66). -/
theorem State.did_stgWrite_staging {s : State} {hat off n : Nat} (be : Nat) (val : W64) (hp : s.blk.portAdmits hat = true)
    (hst : s.blk.stgStatus hat off = 0) (hvals : s.blk.stgVals [] off ≠ []) (hslot : s.blk.stgSlot hat = some n)
    (hstate : s.blk.slotState n = SlotState.staging) :
    s.did (stgWrite hat off be val) = s.did (
      modSlot n fun x => { x with content := some (Content.stage s.blk (x.content.getD ⟨[], [], s.blk.gen⟩) off val be) }) := by
  rw [stgWrite, State.did_underHat _ hp, State.did_read, State.did_when_true _ (decide_eq_true ⟨hst, hvals⟩), hslot, Prog.for?_some,
    hstate, if_neg (by decide)]
  rfl

/-- Settles O10: each command of a slot is the program its guards let through. -/
theorem cisternCommands : Obligations.CisternCommands := by
  refine ⟨fun hat n s hmay hempty => ?_, fun hat n s hup hp hheld => ⟨?_, fun hcommit hload hcheck => ⟨?_, fun hok => ?_,
      fun code hcode hne => ?_⟩, fun hstate hcheck => ?_⟩, fun n s hup hp => ?_, fun n told read s hup hload hread => ⟨fun hok => ?_,
      fun hbad => ?_⟩, fun n c s hup hcheck hcontent => ⟨fun hnone => ?_, fun off rule hsome => ?_⟩,
    fun hat off be n val c s hup hp hst hvals hslot hstate _ => ?_⟩
  · exact (State.run_up (State.may_up hmay) _).trans (congrArg _ (State.did_slotClaim hmay hempty))
  all_goals refine (State.run_up hup _).trans (congrArg _ ?_)
  · exact State.did_slotCmd _ hp hheld
  · exact State.did_slotDiscard hp hheld hcommit hload hcheck
  · exact (State.did_slotStage hp hheld hcommit hload hcheck hok).trans (by rw [if_neg (not_not_intro rfl)])
  · exact (State.did_slotStage hp hheld hcommit hload hcheck hcode).trans (by rw [if_pos hne])
  · exact State.did_slotCheck hp hheld hstate hcheck
  · exact State.did_underHat _ hp
  · rw [State.did_stageCopyDone hload hread, if_neg (not_not_intro hok)]
  · rw [State.did_stageCopyDone hload hread, if_pos hbad]
  · exact State.did_checkDone_clean hcheck hcontent hnone
  · exact State.did_checkDone_fault hcheck hcontent hsome
  · exact State.did_stgWrite_staging be val hp hst hvals hslot hstate

/-! ### The commit (R73, R78) -/

/-- No commit under way ties with another. -/
theorem Block.tiedCommit_of_none {b : Block} (n : Nat) (h : b.cis.commit.isSome = false) : b.tiedCommit n = false := by
  rw [Block.tiedCommit, Option.isNone_iff_eq_none.1 (Option.isSome_eq_false_iff.1 h)]

/-- COMMIT of a checked slot outside TEST_MODE: it is committing, and fails, waits or starts. -/
theorem State.did_commit {s : State} {hat n : Nat} (hp : s.blk.portAdmits hat = true) (hheld : s.blk.slotHeld n hat = true)
    (htest : s.blk.on Reg.TST_CTL Fl.TST_CTL_TEST_MODE = false) (hchecked : s.blk.slotState n = SlotState.checked) :
    s.did (commit hat n) = s.did (.all [
      modSlot n (fun x => { x with checking := false }), setSlot n SlotState.committing,
      if s.blk.tiedCommit n then commitFail n St.stageStale 0 0
      else if s.blk.cis.commit.isSome then modCis (fun x => { x with waiting := x.waiting ++ [n] }) else commitRun n]) := by
  rw [commit, State.did_slotCmd _ hp hheld, htest, if_neg Bool.false_ne_true, if_neg (not_not_intro hchecked)]

/-- Both banks hold the new state: the commits that wait start in turn. -/
theorem State.did_commitCopied {s : State} {c : Commit} (hcommit : s.blk.cis.commit = some c) (hphase : c.phase = .copying) :
    s.did commitCopied = s.did (.all [
      setF Reg.CFG_GEN Fl.CFG_GEN_BUSY 0,
      modCis (fun x => { x with commit := none }),
      .each s.blk.cis.waiting fun _ => nextCommit]) := by
  rw [commitCopied, State.did_read, hcommit, State.did_when_true _ (decide_eq_true hphase)]

/-! ### CFG_EXPORT (R57, R77) -/

theorem State.did_cfgExport {s : State} {hat : Nat} (val : W64) (hmay : s.may hat Right.config = true) :
    s.did (cfgExport hat val) = s.did (.all [
      setF Reg.CFG_EXPORT Fl.CFG_EXPORT_DST (getFld val Fl.CFG_EXPORT_DST),
      .when (decide (getFld val Fl.CFG_EXPORT_GO ≠ 0) && !s.blk.on Reg.CFG_EXPORT Fl.CFG_EXPORT_EXP_BUSY) (.all [
        setF Reg.CFG_EXPORT Fl.CFG_EXPORT_EXP_BUSY 1,
        modCis (fun x => { x with exporter := hat, expRights := s.blk.rightsOf hat,
                                  expDst := getFld val Fl.CFG_EXPORT_DST * 8 })])]) := by
  rw [cfgExport, State.did_underHat _ (State.may_admits hmay), State.did_read, State.did_when_true _ (State.may_holds hmay)]

theorem State.did_exportDone {s : State} (hbusy : s.blk.on Reg.CFG_EXPORT Fl.CFG_EXPORT_EXP_BUSY = true) :
    s.did exportDone = s.did (.all [
      .each (unitRuns s.blk.cis.expDst (s.blk.canonical.length / 64 + 2) s.blk.canonical)
        fun r => sendRecordBy s.blk.cis.expRights .commitLogic s.blk.cis.exporter r.1 r.2,
      setF Reg.CFG_EXPORT Fl.CFG_EXPORT_EXP_BUSY 0]) := by
  rw [exportDone, State.did_read, State.did_when_true _ hbusy]

/-- Settles O11: a commit starts, fails or waits by what is under way; its later phases and CFG_EXPORT are their programs. -/
theorem commitAndExport : Obligations.CommitAndExport := by
  refine ⟨fun hat n s hup hp hheld htest hchecked => ?_, fun s hup => State.run_up hup _, fun c s hup hcommit hphase => ?_,
    fun hat val s hmay => ?_, fun s hup hbusy => ?_⟩
  · have hrun : exec (.commit hat n) s = _ := (State.run_up hup _).trans (congrArg _ (State.did_commit hp hheld htest hchecked))
    refine ⟨fun hnone => hrun.trans ?_, fun htied => hrun.trans ?_, fun hsome hfree => hrun.trans ?_⟩
    · rw [Block.tiedCommit_of_none _ hnone, hnone]; rfl
    · rw [htied]; rfl
    · rw [hfree, hsome]; rfl
  · exact (State.run_up hup _).trans (congrArg _ (State.did_commitCopied hcommit hphase))
  · exact (State.run_up (State.may_up hmay) _).trans (congrArg _ (State.did_cfgExport val hmay))
  · exact (State.run_up hup _).trans (congrArg _ (State.did_exportDone hbusy))

end Sys2Proof.Machine
end

section
/-! SUPPORT. The statements of spec/04_network_on_hub.md: routing, the receivers of answers, the hop of a packet, the link pattern
test, and the sleep of domains. -/

namespace Sys2Proof.Machine

/-! ### Routing, row first (R86) -/

/-- How far a row or column is from another. -/
def hopsBetween (a b : Nat) : Nat := (a - b) + (b - a)

theorem hopsBetween_self (a : Nat) : hopsBetween a a = 0 := by rw [hopsBetween, Nat.sub_self]

theorem hopsBetween_comm (a b : Nat) : hopsBetween a b = hopsBetween b a := Nat.add_comm _ _

theorem eq_of_hopsBetween_eq_zero {a b : Nat} (h : hopsBetween a b = 0) : a = b := by
  rw [hopsBetween] at h
  omega

/-- One more is one nearer to what lies above. -/
theorem hopsBetween_succ_of_lt {a b : Nat} (h : a < b) : hopsBetween a b = hopsBetween (a + 1) b + 1 := by
  rw [hopsBetween, hopsBetween]
  omega

/-- One less is one nearer to what lies below. -/
theorem hopsBetween_pred_of_gt {a b : Nat} (h : b < a) : hopsBetween a b = hopsBetween (a - 1) b + 1 := by
  rw [hopsBetween, hopsBetween]
  omega

/-- A hop in another column than the destination's keeps the row and comes one column nearer. -/
theorem nextRouter_along_row {x y dx dy : Nat} (h : x ≠ dx) : (nextRouter x y (dx, dy)).2 = y ∧
    hopsBetween x dx = hopsBetween (nextRouter x y (dx, dy)).1 dx + 1 := by
  rcases Nat.lt_or_gt_of_ne h with h | h
  · rw [nextRouter, if_pos h]
    exact ⟨rfl, hopsBetween_succ_of_lt h⟩
  · rw [nextRouter, if_neg (Nat.lt_asymm h), if_pos h]
    exact ⟨rfl, hopsBetween_pred_of_gt h⟩

/-- A hop in the destination's column, in another row, keeps the column and comes one row nearer. -/
theorem nextRouter_along_column {y dx dy : Nat} (h : y ≠ dy) : (nextRouter dx y (dx, dy)).1 = dx ∧
    hopsBetween y dy = hopsBetween (nextRouter dx y (dx, dy)).2 dy + 1 := by
  rw [nextRouter, if_neg (Nat.lt_irrefl _), if_neg (Nat.lt_irrefl _)]
  rcases Nat.lt_or_gt_of_ne h with h | h
  · rw [if_pos h]
    exact ⟨rfl, hopsBetween_succ_of_lt h⟩
  · rw [if_neg (Nat.lt_asymm h)]
    exact ⟨rfl, hopsBetween_pred_of_gt h⟩

section Route
variable {pos : Nat → Nat × Nat} {dx dy : Nat} (hpos : ∀ k, pos (k + 1) = nextRouter (pos k).1 (pos k).2 (dx, dy))
include hpos

/-- Until it is in its destination's column a packet stays in its row and comes a column nearer at each hop. -/
theorem route_along_row {n : Nat} (hn : n ≤ hopsBetween (pos 0).1 dx) :
    (pos n).2 = (pos 0).2 ∧ hopsBetween (pos n).1 dx + n = hopsBetween (pos 0).1 dx := by
  induction n with
  | zero => exact ⟨rfl, rfl⟩
  | succ n ih =>
    obtain ⟨hrow, hleft⟩ := ih (Nat.le_of_succ_le hn)
    have haway : (pos n).1 ≠ dx := fun h => by rw [h, hopsBetween_self] at hleft; omega
    obtain ⟨hstay, hnear⟩ := nextRouter_along_row (y := (pos n).2) (dy := dy) haway
    rw [hpos]
    exact ⟨hstay.trans hrow, by omega⟩

/-- From a router in its destination's column on a packet stays in that column and comes a row nearer at each hop. -/
theorem route_along_column {k n : Nat} (hk : (pos k).1 = dx) (hn : n ≤ hopsBetween (pos k).2 dy) :
    (pos (k + n)).1 = dx ∧ hopsBetween (pos (k + n)).2 dy + n = hopsBetween (pos k).2 dy := by
  induction n with
  | zero => exact ⟨hk, rfl⟩
  | succ n ih =>
    obtain ⟨hcol, hleft⟩ := ih (Nat.le_of_succ_le hn)
    have haway : (pos (k + n)).2 ≠ dy := fun h => by rw [h, hopsBetween_self] at hleft; omega
    obtain ⟨hstay, hnear⟩ := nextRouter_along_column (dx := dx) haway
    rw [← Nat.add_assoc, hpos, hcol]
    exact ⟨hstay, by omega⟩

end Route

/-- Settles O56: the hops along the row, then, from the destination's column on, those along the column. -/
theorem xyRouting : Obligations.XYRouting := by
  intro x y dx dy n pos h0 hpos
  have hdx : (dx - x) + (x - dx) = hopsBetween (pos 0).1 dx := by rw [h0, hopsBetween_comm]; rfl
  have hdy : (dy - y) + (y - dy) = hopsBetween (pos 0).2 dy := by rw [h0, hopsBetween_comm]; rfl
  have hy : y = (pos 0).2 := by rw [h0]
  rw [hdx, hdy, hy]
  obtain ⟨hrow, hleft⟩ := route_along_row hpos (Nat.le_refl _)
  have hcol := eq_of_hopsBetween_eq_zero (Nat.add_eq_right.1 hleft)
  have hdown := fun m hm => route_along_column (n := m) hpos hcol (hrow ▸ hm)
  refine ⟨fun hn => route_along_row hpos hn, fun hlo hhi => ?_, ?_⟩
  · obtain ⟨hstay, -⟩ := hdown (n - hopsBetween (pos 0).1 dx) (by omega)
    rwa [Nat.add_sub_cancel' hlo] at hstay
  · obtain ⟨hstay, hleft⟩ := hdown (hopsBetween (pos 0).2 dy) (Nat.le_refl _)
    rw [hrow] at hleft
    exact Prod.ext hstay (eq_of_hopsBetween_eq_zero (Nat.add_eq_right.1 hleft))

/-! ### The rows of packets (R93, R293) -/

/-- A meaning in a block that works does what its program comes to in that state. -/
theorem State.run_up_did {s : State} {p q : Prog} (hup : s.up = true) (h : s.did p = s.did q) : s.run p = .next (s.did q) :=
  (State.run_up hup p).trans (congrArg _ h)

/-- A row of one command does this with a packet that has arrived. -/
def RowDoes (row : Pkt → Instr) (c : Nat) (k : Pkt → Prog) : Prop :=
  ∀ (p : Pkt) (s : State), s.arrives p c = true → exec (row p) s = .next (s.did (k p))

theorem RowDoes.of_onPkt {row : Pkt → Instr} {c : Nat} {k : Pkt → Prog}
    (h : ∀ p s, exec (row p) s = s.run (onPkt p c (k p))) : RowDoes row c k :=
  fun p s harr => (h p s).trans (State.run_onPkt _ harr)

/-- So does a row that also stands for the reserved commands of its range. -/
theorem RowDoes.of_onSpare {row : Pkt → Instr} {c lo hi : Nat} {k : Pkt → Prog} (hc : spareCmd c = false)
    (h : ∀ p s, exec (row p) s = s.run (.all [onPkt p c (k p), onSpare p lo hi])) : RowDoes row c k :=
  fun p s harr => (h p s).trans (State.run_onPkt_onSpare _ lo hi harr hc)

/-- A packet of another command is none of a row's. -/
theorem State.did_onPkt_other {s : State} {p : Pkt} {c : Nat} (k : Prog) (h : p.cmd ≠ c) : s.did (onPkt p c k) = s := by
  rw [onPkt, State.did_read, decide_eq_false h, Bool.and_false, Prog.when_false, State.did_skip]

/-- A reserved command of the range that a row stands for is refused (R93). -/
theorem State.run_onSpare {s : State} {p : Pkt} {c lo hi : Nat} (k : Prog) (harr : s.arrives p p.cmd = true)
    (hspare : spareCmd p.cmd = true) (hc : spareCmd c = false) (hlo : lo ≤ p.cmd) (hhi : p.cmd < hi) :
    s.run (.all [onPkt p c k, onSpare p lo hi]) = .next (s.did (strange p)) := by
  have hother : p.cmd ≠ c := fun h => by rw [h, hc] at hspare; cases hspare
  have hrange : (spareCmd p.cmd && decide (lo ≤ p.cmd ∧ p.cmd < hi)) = true := by rw [hspare, decide_eq_true ⟨hlo, hhi⟩]; rfl
  refine State.run_up_did (State.arrives_up harr) ?_
  change (s.did (onPkt p c k)).did (onSpare p lo hi) = _
  rw [State.did_onPkt_other k hother, onSpare, State.did_when_true _ hrange, State.did_onPkt (strange p) harr]

/-- A row that stands for the reserved commands from `lo` on below `hi` refuses them. -/
def RowRefuses (row : Pkt → Instr) (lo hi : Nat) : Prop :=
  ∀ (p : Pkt) (s : State), s.arrives p p.cmd = true → spareCmd p.cmd = true → lo ≤ p.cmd → p.cmd < hi →
    exec (row p) s = .next (s.did (strange p))

theorem RowRefuses.of_onSpare {row : Pkt → Instr} {lo hi : Nat} {k : Pkt → Prog} (c : Nat) (hc : spareCmd c = false)
    (h : ∀ p s, exec (row p) s = s.run (.all [onPkt p c (k p), onSpare p lo hi])) : RowRefuses row lo hi :=
  fun p s harr hspare hlo hhi => (h p s).trans (State.run_onSpare _ harr hspare hc hlo hhi)

/-- An answer for a unit of a partition that is down is taken off the mesh and logged. -/
theorem State.did_orAbsorbed_down {s : State} {p : Pkt} {q : Nat} (k : Prog) (h : s.blk.downUnit p.dst = some q) :
    s.did (orAbsorbed p k) = s.did (.all [takePkt p, logEv St.drainAbsorbed q]) := by
  rw [orAbsorbed, State.did_read, h]

theorem State.did_orAbsorbed_live {s : State} {p : Pkt} (k : Prog) (h : s.blk.downUnit p.dst = none) :
    s.did (orAbsorbed p k) = s.did k := by
  rw [orAbsorbed, State.did_read, h]

/-! ### Each receiver of a packet (R243, R262, R279, R283) -/

/-- A walker that waits for the entry of its walk reads it. -/
theorem State.did_memResponse_walker {s : State} {p : Pkt} {w : Nat} {k : Walk} (hlive : s.blk.downUnit p.dst = none)
    (hdst : p.dst = .walker w) (hwalk : s.blk.walkAt w = some k) (hentry : s.blk.entryRsp w k p = true) :
    s.did (memResponse p) = s.did (walkEntryReadDone w 0 0) := by
  rw [memResponse, State.did_orAbsorbed_live _ hlive, hdst, State.did_read, hwalk, if_pos (by rw [Option.any_some, hentry])]

theorem siteResponse_glove {p : Pkt} {g k : Nat} (h : p.dst = .glove g k) : siteResponse p = gloveRsp g k p := by
  rw [siteResponse, h]

theorem siteResponse_spanEng {p : Pkt} {e : Nat} (h : p.dst = .spanEng e) : siteResponse p = spanAnswer e p := by
  rw [siteResponse, h]

theorem snoopArrives_glove {p : Pkt} {g k : Nat} (h : p.dst = .glove g k) : snoopArrives p = gloveSnoop g p := by
  rw [snoopArrives, h]

theorem snoopAnswer_bank {p : Pkt} {w k : Nat} (h : p.dst = .bank w k) : snoopAnswer p = homeSnoopRsp p := by
  rw [snoopAnswer, h]

theorem troughRequest_trough {p : Pkt} {u : Nat} (k : Prog) (h : p.dst = .trough u) :
    troughRequest p k = if p.cmd = 0x73 then k else atTrough p k := by
  rw [troughRequest, h]

theorem troughRequest_spanEng {p : Pkt} {e : Nat} (k : Prog) (h : p.dst = .spanEng e) :
    troughRequest p k = spanRequest e p := by
  rw [troughRequest, h]

/-! ### What each row does -/

theorem rowDoes_memResponse : ∀ x ∈ [(Instr.mrsp, 0x18), (Instr.mack, 0x19)], RowDoes x.1 x.2 memResponse := by
  simp only [List.forall_mem_cons]
  exact ⟨.of_onPkt fun _ _ => rfl, .of_onSpare (by decide) fun _ _ => rfl, List.forall_mem_nil _⟩

theorem rowRefuses_reserved : ∀ x ∈ [(Instr.mack, 0x00, 0x20), (Instr.err, 0x20, 0x40), (Instr.aerr, 0x40, 0x60),
    (Instr.regAck, 0x80, 0xA0)], RowRefuses x.1 x.2.1 x.2.2 := by
  simp only [List.forall_mem_cons]
  exact ⟨.of_onSpare 0x19 (by decide) fun _ _ => rfl, .of_onSpare 0x2D (by decide) fun _ _ => rfl,
    .of_onSpare 0x5F (by decide) fun _ _ => rfl, .of_onSpare 0x83 (by decide) fun _ _ => rfl, List.forall_mem_nil _⟩

theorem rowDoes_siteResponse : ∀ x ∈ [(Instr.dats, 0x28), (Instr.date, 0x29), (Instr.datm, 0x2A), (Instr.gntm, 0x2B),
    (Instr.wack, 0x2C), (Instr.err, 0x2D), (Instr.arsp, 0x5E), (Instr.aerr, 0x5F), (Instr.fenceDone, 0x87)],
    RowDoes x.1 x.2 siteResponse := by
  simp only [List.forall_mem_cons]
  exact ⟨.of_onPkt fun _ _ => rfl, .of_onPkt fun _ _ => rfl, .of_onPkt fun _ _ => rfl, .of_onPkt fun _ _ => rfl,
    .of_onPkt fun _ _ => rfl, .of_onSpare (by decide) fun _ _ => rfl, .of_onPkt fun _ _ => rfl,
    .of_onSpare (by decide) fun _ _ => rfl, .of_onPkt fun _ _ => rfl, List.forall_mem_nil _⟩

theorem rowDoes_snoopArrives : ∀ x ∈ [(Instr.snps, 0x30), (Instr.snpo, 0x31), (Instr.snpi, 0x32), (Instr.snpd, 0x33)],
    RowDoes x.1 x.2 snoopArrives := by
  simp only [List.forall_mem_cons]
  exact ⟨.of_onPkt fun _ _ => rfl, .of_onPkt fun _ _ => rfl, .of_onPkt fun _ _ => rfl, .of_onPkt fun _ _ => rfl,
    List.forall_mem_nil _⟩

theorem rowDoes_snoopAnswer : ∀ x ∈ [(Instr.sack, 0x38), (Instr.sdat, 0x39)], RowDoes x.1 x.2 snoopAnswer := by
  simp only [List.forall_mem_cons]
  exact ⟨.of_onPkt fun _ _ => rfl, .of_onPkt fun _ _ => rfl, List.forall_mem_nil _⟩

theorem rowDoes_troughRequest : ∀ x ∈ [(Instr.trgOpen, 0x70, Machine.trgOpen), (Instr.trgAdd, 0x71, Machine.trgAdd),
    (Instr.trgClose, 0x72, Machine.trgClose), (Instr.trgAbort, 0x73, Machine.trgAbort), (Instr.trgFinish, 0x76, Machine.trgFinish)],
    RowDoes x.1 x.2.1 fun p => troughRequest p (x.2.2 p) := by
  simp only [List.forall_mem_cons]
  exact ⟨.of_onPkt fun _ _ => rfl, .of_onPkt fun _ _ => rfl, .of_onPkt fun _ _ => rfl, .of_onPkt fun _ _ => rfl,
    .of_onPkt fun _ _ => rfl, List.forall_mem_nil _⟩

theorem rowDoes_troughResponse : ∀ x ∈ [(Instr.trgAck, 0x74, engineTrgAck), (Instr.trgStat, 0x75, engineTrgStat)],
    RowDoes x.1 x.2.1 fun p => troughResponse p fun e => x.2.2 e p := by
  simp only [List.forall_mem_cons]
  exact ⟨.of_onPkt fun _ _ => rfl, .of_onPkt fun _ _ => rfl, List.forall_mem_nil _⟩

/-- Settles O5: each row is its receiver's meaning, read off at the packet's destination. -/
theorem answersAtTheirReceivers : Obligations.AnswersAtTheirReceivers := by
  refine ⟨fun x hx p s harr => ⟨fun q hdown => ?_, fun hlive => ?_⟩, rowRefuses_reserved, fun x hx p s harr => ?_,
    fun x hx p g k s harr hdst => ?_, fun x hx p w k s harr hdst => ?_, fun x hx p s harr => ?_, fun x hx p s harr hlive => ?_⟩
  · rw [rowDoes_memResponse x hx p s harr, memResponse, State.did_orAbsorbed_down _ hdown]
  · rw [rowDoes_memResponse x hx p s harr]
    refine ⟨fun e hdst => ?_, fun u hdst => ?_, fun n hdst => ?_, fun g k hdst => ?_, fun q hdst => ?_,
      fun w k hdst hwalk hentry => by rw [State.did_memResponse_walker hlive hdst hwalk hentry], fun e hdst => ?_⟩
    all_goals rw [memResponse, State.did_orAbsorbed_live _ hlive, hdst]
  · rw [rowDoes_siteResponse x hx p s harr]
    exact ⟨fun g k hdst => by rw [siteResponse_glove hdst], fun e hdst => by rw [siteResponse_spanEng hdst]⟩
  · rw [rowDoes_snoopArrives x hx p s harr, snoopArrives_glove hdst]
  · rw [rowDoes_snoopAnswer x hx p s harr, snoopAnswer_bank hdst]
  · have hrow : exec (x.1 p) s = .next (s.did (troughRequest p (x.2.2 p))) := rowDoes_troughRequest x hx p s harr
    rw [hrow]
    exact ⟨fun u hdst => by rw [troughRequest_trough _ hdst, State.arrives_cmd harr],
      fun e hdst => by rw [troughRequest_spanEng _ hdst]⟩
  · have hrow : exec (x.1 p) s = .next (s.did (troughResponse p fun e => x.2.2 e p)) := rowDoes_troughResponse x hx p s harr
    rw [hrow, troughResponse, State.did_orAbsorbed_live _ hlive]
    exact ⟨fun e hdst => by rw [hdst], fun e hdst => by rw [hdst]⟩

/-! ### The hop of a packet (R86, R87, R94) -/

/-- A header that cannot be trusted costs the packet it was and is logged. -/
theorem State.did_packetHop_untrusted {s : State} {f : Flight} {ecc : Ecc} (h : ecc = .bad ∨ f.malformed = true) :
    s.did (packetHop f ecc) = s.did (.all [losePacket ((s.blk.struck f).getD f), badHeader f]) := by
  rw [packetHop, State.did_read]
  simp only [h, if_true]

/-- A packet in a router's buffer, or one its source may inject towards a domain that is not waking. -/
def Block.mayHop (b : Block) (f : Flight) : Prop :=
  b.noc.flights.contains f = true ∨ b.mayInject f = true ∧ b.bindsWaking f = none

/-- Such a packet at the head of its buffer, granted its output, leaves the buffer for its endpoint or the next router. -/
theorem State.did_packetHop_granted {s : State} {f : Flight} {ecc : Ecc} (hecc : ecc ≠ .bad) (hform : f.malformed = false)
    (hhead : s.blk.atHead f = true) (hphase : (s.blk.region (12 + quadAt f.x f.y)).phase ≠ .searching) (hmay : s.blk.mayHop f)
    (hgrant : s.blk.granted f = true) :
    s.did (packetHop f ecc) = s.did (.all [noteGrant f, leaveBuffer f,
      .when (decide (ecc = .corrected)) (incSat Reg.NOC_HDR_ERR Fl.NOC_HDR_ERR_CORRECTED),
      if f.dst = (f.x, f.y) then eject f else .all [activity f.hat Act.meshHop f.units.length, forward f]]) := by
  have hguard : (!!s.blk.noc.flights.contains f || s.blk.mayInject f) = true := by
    rcases hmay with hin | ⟨hinject, -⟩
    · rw [hin]; rfl
    · rw [hinject, Bool.or_true]
  have hawake : (if (!s.blk.noc.flights.contains f) = true then s.blk.bindsWaking f else none) = none := by
    rcases hmay with hin | ⟨-, hnone⟩
    · rw [hin]; rfl
    · rw [hnone, ite_self]
  rw [packetHop, State.did_read]
  simp only [hecc, hform, Bool.false_eq_true, or_self, if_false]
  rw [State.did_when_true _ (by rw [hhead, decide_eq_true hphase]; rfl), State.did_when_true _ hguard, hawake,
    State.did_when_true _ hgrant]

/-! ### The link pattern test (R104) -/

/-- A value that NOC_LTEST_CTL may start a test with. -/
def ltestValid (val : W64) : Prop :=
  (getFld val Fl.NOC_LTEST_CTL_LEN ≤ 40 ∨ getFld val Fl.NOC_LTEST_CTL_LEN = 63) ∧ getFld val Fl.NOC_LTEST_CTL_PATTERN ≤ 4 ∧
  getFld val Fl.NOC_LTEST_CTL_PLANE ≤ 5 ∧ getFld val Fl.NOC_LTEST_CTL_Y ≤ 11 ∧
  (neighbour (getFld val Fl.NOC_LTEST_CTL_X) (getFld val Fl.NOC_LTEST_CTL_Y) (getFld val Fl.NOC_LTEST_CTL_DIR)).isNone = false

/-- The fields a write of NOC_LTEST_CTL sets, whether or not a test starts. -/
def ltestFields (val : W64) : Prog :=
  .each [Fl.NOC_LTEST_CTL_LEN, Fl.NOC_LTEST_CTL_PATTERN, Fl.NOC_LTEST_CTL_PLANE, Fl.NOC_LTEST_CTL_DIR, Fl.NOC_LTEST_CTL_X,
    Fl.NOC_LTEST_CTL_Y] fun x => setF Reg.NOC_LTEST_CTL x (getFld val x)

/-- GO with no partition enabled and a valid test starts it. -/
theorem State.did_nocLtestGo_starts {s : State} {hat : Nat} {val : W64} (hmay : s.may hat Right.test = true)
    (hidle : s.blk.noc.ltest.running = false) (hnone : partitionsOf s.blk.recs = []) (hval : ltestValid val) :
    s.did (nocLtestGo hat val) = s.did (.all [ltestFields val, .all [
      setR Reg.NOC_LTEST_STAT 0, setF Reg.NOC_LTEST_CTL Fl.NOC_LTEST_CTL_BUSY 1,
      modNoc (fun n => { n with ltest := ⟨true, decide (getFld val Fl.NOC_LTEST_CTL_LEN = 63)⟩ })]]) := by
  obtain ⟨hlen, hpattern, hplane, hy, hlink⟩ := hval
  have hlen : ¬ (40 < getFld val Fl.NOC_LTEST_CTL_LEN ∧ getFld val Fl.NOC_LTEST_CTL_LEN ≠ 63) := by omega
  rw [nocLtestGo, State.did_underHat _ (State.may_admits hmay), State.did_read, State.did_when_true _ (State.may_holds hmay)]
  simp only [hidle, hnone, hlen, Nat.not_lt.2 hpattern, Nat.not_lt.2 hplane, Nat.not_lt.2 hy, hlink, ne_eq, not_true_eq_false,
    decide_false, Bool.or_self, Bool.not_false, Prog.when_true, Bool.false_eq_true, if_false, ltestFields]

/-- GO with a partition enabled is refused. -/
theorem State.did_nocLtestGo_refused {s : State} {hat : Nat} (val : W64) (hmay : s.may hat Right.test = true)
    (hidle : s.blk.noc.ltest.running = false) (hsome : partitionsOf s.blk.recs ≠ []) :
    s.did (nocLtestGo hat val) = s.did (.all [ltestFields val, setF Reg.NOC_LTEST_CTL Fl.NOC_LTEST_CTL_REFUSED 1]) := by
  rw [nocLtestGo, State.did_underHat _ (State.may_admits hmay), State.did_read, State.did_when_true _ (State.may_holds hmay)]
  simp only [hidle, decide_eq_true hsome, Bool.true_or, Bool.not_false, Prog.when_true, if_true, ltestFields]

theorem State.did_nocLtestStop {s : State} {hat : Nat} (eb ew : Nat) (hmay : s.may hat Right.test = true)
    (hrun : s.blk.noc.ltest.running = true) : s.did (nocLtestStop hat eb ew) = s.did (nocLtestOff eb ew) := by
  rw [nocLtestStop, State.did_underHat _ (State.may_admits hmay), State.did_read,
    State.did_when_true _ (by rw [State.may_holds hmay, hrun]; rfl)]

theorem State.did_nocLtestEnd {s : State} (eb ew : Nat) (hrun : s.blk.noc.ltest.running = true)
    (hends : s.blk.noc.ltest.forever = false) : s.did (nocLtestEnd eb ew) = s.did (nocLtestOff eb ew) := by
  rw [nocLtestEnd, State.did_read, State.did_when_true _ (by rw [hrun, hends]; rfl)]

/-! ### Domains that sleep and wake (R45, R99, R294) -/

/-- A domain that need recall no line goes to sleep at its depth. -/
theorem State.did_idleEntry_sleeps {s : State} {d : Nat} (hmay : s.blk.maySleep d = true)
    (hclear : 12 ≤ d ∨ s.blk.sleepDepth d = 1 ∨ s.blk.linesOf d = []) :
    s.did (idleEntry d) = s.did (sleepAt d (s.blk.sleepDepth d)) := by
  have hskip : ¬ (d < 12 ∧ s.blk.sleepDepth d = 2 ∧ s.blk.linesOf d ≠ []) := by
    rintro ⟨hwell, hoff, hlines⟩
    rcases hclear with h | h | h
    · omega
    · omega
    · exact hlines h
  rw [idleEntry, State.did_read, State.did_when_true _ hmay, if_neg hskip]

/-- A well that is to go off with lines listed recalls them. -/
theorem State.did_idleEntry_recalls {s : State} {d : Nat} (hmay : s.blk.maySleep d = true) (hwell : d < 12)
    (hoff : s.blk.sleepDepth d = 2) (hlines : s.blk.linesOf d ≠ []) :
    s.did (idleEntry d) = s.did (.all [
      modDom d (fun x => { x with goingOff := true }), .each (s.blk.linesOf d) fun e => recallEntry e.1 e.2]) := by
  rw [idleEntry, State.did_read, State.did_when_true _ hmay, if_pos ⟨hwell, hoff, hlines⟩]

/-- A well that has woken is on, with its regions active and what was held for it delivered; one that was off stands at its effective
operating point. -/
theorem State.did_wakeDone_well {s : State} {d : Nat} {off : Bool} (hoff : decide (s.blk.domState d = 2) = off)
    (hasleep : s.blk.domAsleep d = true) (hwaking : (s.blk.domSt d).waking = true) (hwell : d < 12)
    (hcal : off = true → ((domRegions d).all fun r => (s.blk.region r).calibrated) = true) :
    s.did (wakeDone d) = s.did (.all [
      setF (Reg.PWR_DOM_STATUS d) Fl.PWR_DOM_STATUS_STATE 0,
      .each (domRegions d) fun r => .all [
        setF (Reg.MON_TMG_REGION r) Fl.MON_TMG_REGION_STATE 1, modRegion r fun x => { x with calibrated := false }],
      .skip, refreshFloor d,
      .read fun b => .when off (setF (Reg.PWR_DOM_STATUS d) Fl.PWR_DOM_STATUS_OP (b.effOp d)),
      modDom d (fun x => { x with waking := false }), writeVdd, kickDomain d, deliverHeld d, .skip, hubGoesOn]) := by
  have hsite : ¬ (12 ≤ d ∧ d < 16) := by omega
  have hguard : (s.blk.domAsleep d && (s.blk.domSt d).waking &&
      (!off || (domRegions d).all fun r => (s.blk.region r).calibrated)) = true := by
    rw [hasleep, hwaking]
    cases off
    · rfl
    · exact hcal rfl
  rw [wakeDone, State.did_read]
  simp only [hoff]
  rw [State.did_when_true _ hguard]
  simp only [hsite, decide_false, Bool.false_and, Prog.when_false]

/-- Settles O16: each command is the program its condition lets through. -/
theorem meshAndSleepCommands : Obligations.MeshAndSleepCommands := by
  refine ⟨fun x y plane hdr units f s hup hf => ⟨fun hbad => ?_, ?_, fun hform hhead hphase hmay hgrant =>
      ⟨fun hdst => ?_, fun hdst => ?_⟩⟩, fun hat eb ew s hmay hrun => ⟨?_, fun hends => ?_⟩,
    fun hat val s hmay hidle hnone hlen hpattern hplane hy hlink => ?_, fun hat val s hmay hidle hsome => ?_,
    fun d s hup hmay => ⟨fun hclear => ?_, fun hwell hoff hlines => ?_⟩, fun d s hup hasleep hwaking hwell hoff hcal => ?_,
    fun d s hup hret hwaking hwell => ?_⟩
  · subst hf
    exact State.run_up_did hup (State.did_packetHop_untrusted (.inr hbad))
  · subst hf
    exact State.run_up_did hup (State.did_packetHop_untrusted (.inl rfl))
  · subst hf
    refine State.run_up_did hup ((State.did_packetHop_granted (by decide) hform hhead hphase hmay hgrant).trans ?_)
    rw [if_neg hdst]
    rfl
  · subst hf
    refine State.run_up_did hup ((State.did_packetHop_granted (by decide) hform hhead hphase hmay hgrant).trans ?_)
    rw [if_pos hdst]
    rfl
  · exact State.run_up_did (State.may_up hmay) (State.did_nocLtestStop eb ew hmay hrun)
  · exact State.run_up_did (State.may_up hmay) (State.did_nocLtestEnd eb ew hrun hends)
  · exact State.run_up_did (State.may_up hmay) (State.did_nocLtestGo_starts hmay hidle hnone ⟨hlen, hpattern, hplane, hy, hlink⟩)
  · exact State.run_up_did (State.may_up hmay) (State.did_nocLtestGo_refused val hmay hidle hsome)
  · exact State.run_up_did hup (State.did_idleEntry_sleeps hmay hclear)
  · exact State.run_up_did hup (State.did_idleEntry_recalls hmay hwell hoff hlines)
  · refine State.run_up_did hup ((State.did_wakeDone_well (decide_eq_true hoff) hasleep hwaking hwell fun _ => hcal).trans ?_)
    simp only [Prog.when_true]
  · have hon : decide (s.blk.domState d = 2) = false := by rw [hret]; rfl
    have hasleep : s.blk.domAsleep d = true := by rw [Block.domAsleep, hret]; rfl
    refine State.run_up_did hup ((State.did_wakeDone_well hon hasleep hwaking hwell nofun).trans ?_)
    simp only [State.did, Prog.run_all_cons, Prog.run_read, Prog.when_false, Prog.run_skip]

end Sys2Proof.Machine
end

section
/-! SUPPORT. The statements of spec/05_gloves.md: the link of a site and what is said over it, its flushes and resets. -/

namespace Sys2Proof.Machine

/-! ### Meanings under one condition -/

/-- A meaning that does something only under a condition does it in a block that works and meets the condition. -/
theorem State.run_guarded {s : State} {c : Block → Bool} {k : Block → Prog} (hup : s.up = true) (h : c s.blk = true) :
    s.run (.read fun b => .when (c b) (k b)) = .next (s.did (k s.blk)) :=
  State.run_up_did hup ((s.did_read _).trans (State.did_when_true _ h))

/-- A site that passes traffic is past its fit. -/
theorem Block.gState_ne_fitting_of_siteRuns {b : Block} {g : Nat} (h : b.siteRuns g = true) : b.gState g ≠ SiteState.fitting := by
  intro hfit
  rw [Block.siteRuns, hfit] at h
  obtain ⟨-, hpast⟩ := Bool.and_eq_true_iff.1 h
  exact absurd hpast (by decide)

/-! ### Training and fitting (R106, R124–R127) -/

/-- A chunk of a record that a fit waits for is kept. -/
theorem State.did_capChunk_fitting {s : State} {g : Nat} (k : Nat) (bytes : List Byte) (hheld : s.blk.moduleHeld g 0 = false)
    (hstate : s.blk.gState g = SiteState.fitting) :
    s.did (capChunk g k bytes) = s.did (modGlv g fun x => { x with chunks := x.chunks ++ [(k, s.blk.capBytes g k bytes)] }) := by
  rw [capChunk, State.did_read, State.did_when_true _ (by rw [hheld]; rfl), if_pos hstate]

/-- The first chunk of a chiplet that woke without its state starts a new fit (R110). -/
theorem State.did_capChunk_woke {s : State} {g : Nat} (k : Nat) (bytes : List Byte) (hheld : s.blk.moduleHeld g 0 = false)
    (hruns : s.blk.siteRuns g = true) (hwoke : (s.blk.site g).woke = true) :
    s.did (capChunk g k bytes) = s.did (.all [
      fenceSite g,
      modGlv g (fun x => { x with fitted := false, woke := false, chunks := [], cap := [], fitSent := false }),
      siteState g SiteState.fitting, sendHubRecord g,
      modGlv g (fun x => { x with chunks := x.chunks ++ [(k, s.blk.capBytes g k bytes)] })]) := by
  rw [capChunk, State.did_read, State.did_when_true _ (by rw [hheld]; rfl), if_neg (Block.gState_ne_fitting_of_siteRuns hruns),
    State.did_when_true _ (by rw [hwoke, hruns]; rfl)]

/-- CAP_END of a record whose four chunks have come: the agreed set is formed and FIT sent, or the fit is refused with the reason. -/
theorem State.did_capEnd_whole {s : State} {g reason : Nat} {c0 c1 c2 c3 : List Byte} (hopen : s.blk.fitOpen g = true)
    (hsent : (s.blk.site g).fitSent = false) (hchunks : (s.blk.site g).chunks = [(0, c0), (1, c1), (2, c2), (3, c3)])
    (hreason : s.blk.fitReason g (c0 ++ (c1 ++ (c2 ++ c3))) true (s.blk.f (Reg.GLV_STATUS g) Fl.GLV_STATUS_RATE) = reason) :
    s.did (capEnd g) = s.did (.all [
      modGlv g (fun x => { x with cap := c0 ++ (c1 ++ (c2 ++ c3)), chunks := [] }),
      if reason = 0 then .all [
        modGlv g (fun x => { x with
          agreed := s.blk.agree (c0 ++ (c1 ++ (c2 ++ c3))) (s.blk.f (Reg.GLV_STATUS g) Fl.GLV_STATUS_RATE), fitSent := true }),
        .read fun b => send (.msp g { Msp.ctl 0xC2 0 with
          dlen := 4, data := slice (b.fitRecord g 0 ((s.blk.site g).fitCount + 1)) 0 64 })]
      else refuseFit g reason]) := by
  have hcap : ((List.range 4).flatMap fun k =>
      (((s.blk.site g).chunks.find? fun c => c.1 = k).map Prod.snd).getD (List.replicate 64 0)) = c0 ++ (c1 ++ (c2 ++ c3)) := by
    rw [hchunks]
    show c0 ++ (c1 ++ (c2 ++ (c3 ++ []))) = _
    rw [List.append_nil]
  have hwhole : (decide ((s.blk.site g).chunks.length = 4) &&
      (List.range 4).all fun k => (s.blk.site g).chunks.any fun c => decide (c.1 = k)) = true := by
    rw [hchunks]; rfl
  rw [capEnd, State.did_read]
  simp only [hcap, hwhole, hreason]
  rw [State.did_when_true _ (by rw [hopen, hsent]; rfl)]
  cases reason <;> rfl

/-! ### Credits and link-local messages (R116, R117, R120, R123) -/

/-- A link-local message of a site that has the credit takes it, acts, and gives it back. -/
theorem State.did_siteCtl_taken {s : State} {g data : Nat} (act : Prog) (hruns : s.blk.siteRuns g = true)
    (hheld : s.blk.moduleHeld g 0 = false) (hcredit : (Tbl.get credit0 8 (s.blk.site g).fromSite).covers ⟨1, data⟩ = true) :
    s.did (siteCtl g data act) = s.did (.all [
      modGlv g (fun x => { x with
        fromSite := Tbl.set credit0 8 ((Tbl.get credit0 8 (s.blk.site g).fromSite).sub ⟨1, data⟩) x.fromSite }),
      ctlSeen g, act, .read fun b => .when (b.siteRuns g) (returnCredit g 8 ⟨1, data⟩ false)]) := by
  rw [siteCtl, State.did_read, State.did_when_true _ (by rw [hruns, hheld]; rfl), if_neg (by rw [hcredit]; decide)]

/-- One without credit is a violation. -/
theorem State.did_siteCtl_violation {s : State} {g data : Nat} (act : Prog) (hruns : s.blk.siteRuns g = true)
    (hheld : s.blk.moduleHeld g 0 = false) (hcredit : (Tbl.get credit0 8 (s.blk.site g).fromSite).covers ⟨1, data⟩ = false) :
    s.did (siteCtl g data act) = s.did (violation g) := by
  rw [siteCtl, State.did_read, State.did_when_true _ (by rw [hruns, hheld]; rfl), if_pos (by rw [hcredit]; rfl)]

/-- A credit slot with a reserved bit set is a violation. -/
theorem State.did_creditSlot_reserved {s : State} {g word : Nat} (hruns : s.blk.siteRuns g = true) (hbits : bits word 120 5 ≠ 0) :
    s.did (creditSlot g word) = s.did (violation g) := by
  rw [creditSlot, State.did_read, State.did_when_true _ hruns, if_pos hbits]

/-- Any other returns its credits, and what waited for them goes out. -/
theorem State.did_creditSlot_returns {s : State} {g word : Nat} (hruns : s.blk.siteRuns g = true) (hbits : bits word 120 5 = 0) :
    s.did (creditSlot g word) = s.did (.all [
      modGlv g (fun x => { x with toSite := [1, 2, 4, 5, 6, 7, 8, 9].foldl (fun t p =>
        Tbl.set credit0 p ((Tbl.get credit0 p t).add ⟨bits word (12 * p) 6, bits word (12 * p + 6) 6⟩) t) x.toSite }),
      pumpTx g]) := by
  rw [creditSlot, State.did_read, State.did_when_true _ hruns, if_neg (not_not_intro hbits)]

/-- Settles O14: each command is the program its condition lets through. -/
theorem gloveLinkCommands : Obligations.GloveLinkCommands := by
  refine ⟨fun g s hup hthere hstate => ⟨fun r failed hrate => ?_, fun failed => ?_⟩,
    fun g s hup hstate => ⟨fun hheld k bytes => ?_, fun hsent => ⟨fun hheld => ⟨?_, ?_⟩, ?_⟩, fun hsent => ?_⟩,
    fun g k bytes s hup hheld hruns _ hwoke => ?_,
    fun g c0 c1 c2 c3 reason s hup hopen hsent hchunks hreason => ⟨fun hzero => ?_, fun hne => ?_⟩,
    fun g s hup hruns => ⟨fun word hbits => ?_, fun word hbits => ?_, fun hheld => ⟨fun hcredit => ?_, fun hcredit => ?_⟩, ?_,
      fun hloss hheld => ?_⟩,
    fun g m s hup => ⟨fun hthere => ?_, fun hserves hlink => ?_, fun hrecal => ?_⟩,
    fun g s hup => ⟨fun hloss => ⟨?_, ?_⟩, fun hhold => ⟨?_, ?_⟩⟩⟩
  -- training
  · exact State.run_guarded hup (by rw [hthere, hstate]; exact decide_eq_true hrate)
  · exact State.run_guarded hup (by
      rw [hthere, hstate]; exact decide_eq_true (Nat.zero_le (min 2 (s.blk.f (Reg.GLV_CTL g) Fl.GLV_CTL_MAX_RATE))))
  -- fitting
  · exact State.run_up_did hup (State.did_capChunk_fitting k bytes hheld hstate)
  · exact State.run_guarded hup (by rw [Block.fitOpen, hstate, hheld, hsent]; rfl)
  · exact State.run_guarded hup (by rw [Block.fitOpen, hstate, hheld, hsent]; rfl)
  · exact State.run_guarded hup (by rw [hstate, hsent]; rfl)
  · exact State.run_guarded hup (by rw [hstate, hsent]; rfl)
  · exact State.run_up_did hup (State.did_capChunk_woke k bytes hheld hruns hwoke)
  · exact State.run_up_did hup ((State.did_capEnd_whole hopen hsent hchunks hreason).trans (by rw [if_pos hzero]; rfl))
  · exact State.run_up_did hup ((State.did_capEnd_whole hopen hsent hchunks hreason).trans (by rw [if_neg hne]))
  -- credits, keepalives and silence
  · exact State.run_up_did hup (State.did_creditSlot_reserved hruns hbits)
  · exact State.run_up_did hup (State.did_creditSlot_returns hruns hbits)
  · exact State.run_up_did hup (State.did_siteCtl_violation _ hruns hheld hcredit)
  · exact State.run_up_did hup (State.did_siteCtl_taken _ hruns hheld hcredit)
  · exact State.run_guarded hup hruns
  · exact State.run_guarded hup (by rw [hruns, hloss, hheld]; rfl)
  -- modules
  · exact State.run_guarded hup hthere
  · exact State.run_guarded hup (by rw [hserves, hlink]; rfl)
  · exact State.run_guarded hup hrecal
  -- losses
  · exact State.run_guarded hup (by rw [hloss]; rfl)
  · exact State.run_guarded hup (by rw [hloss]; rfl)
  · exact State.run_guarded hup (by rw [decide_eq_true hhold]; rfl)
  · exact State.run_guarded hup (decide_eq_true hhold)

end Sys2Proof.Machine
end

section
/-! SUPPORT. The commands of spec/05_gloves.md beyond the link itself: messages, flushes, resets, heat, digests and throttling. -/

namespace Sys2Proof.Machine

/-! ### Messages to the mesh (R117–R123) -/

/-- A well-formed message with a credit of its pool is counted, takes the credit, acts, and gives it back. -/
theorem State.did_takeMessage {s : State} {g : Nat} {m : Msp} (hgood : s.blk.badMsg g m = false)
    (hcredit : (Tbl.get credit0 (poolFromSite m) (s.blk.site g).fromSite).covers (creditOf m) = true) :
    s.did (takeMessage g m) = s.did (.all [
      flitRetries g, countMsp g m, .when (decide (m.chan = 3)) (ctlSeen g),
      modGlv g (fun x => { x with fromSite := (Tbl.set credit0 (poolFromSite m)
        ((Tbl.get credit0 (poolFromSite m) (s.blk.site g).fromSite).sub (creditOf m)) x.fromSite) }),
      siteMessage g m,
      .read fun b => .when (b.siteRuns g) (returnCredit g (poolFromSite m) (creditOf m) (!opExempt m.op))]) := by
  rw [takeMessage, State.did_read]
  simp only [hgood, hcredit, Bool.not_true, Bool.or_self, Bool.false_eq_true, if_false]

/-- A message of a mesh operation, from a site that passes traffic over a module that carries it, is taken unless its partition's
hold keeps it out. -/
theorem State.did_siteMeshMessage {s : State} {g : Nat} {m : Msp} (hawake : s.blk.domAsleep (12 + g / 4) = false)
    (hruns : s.blk.siteRuns g = true) (hheld : s.blk.moduleHeld g m.module = false) (hop : m.op < 0xC0) (hcredits : m.chan ≠ 5)
    (hnop : m.chan ≠ 6) (hpass : s.blk.held? (s.blk.sitePart g) = false ∨ opPasses m.op = true) :
    s.did (siteMeshMessage g m) = s.did (takeMessage g m) := by
  have hlocal : (decide (0xC0 ≤ m.op) && !s.blk.badMsg g m) = false := by rw [decide_eq_false (Nat.not_le.2 hop)]; rfl
  have hcarries : (s.blk.moduleHeld g m.module || decide (m.chan = 5 ∨ m.chan = 6)) = false := by
    rw [hheld, decide_eq_false (not_or.2 ⟨hcredits, hnop⟩)]; rfl
  have hlets : (s.blk.siteRuns g && (!s.blk.held? (s.blk.sitePart g) || opPasses m.op)) = true := by
    rw [hruns, Bool.true_and, Bool.or_eq_true, Bool.not_eq_true']; exact hpass
  rw [siteMeshMessage, State.did_read]
  simp only [hawake, hcarries, hlocal, Bool.false_eq_true, if_false, Block.gState_ne_fitting_of_siteRuns hruns]
  exact State.did_when_true _ hlets

/-! ### Resets and flushes (R138, R139) -/

/-- GLV_CTL's resets, by a hat with the right, at a glove that takes commands. -/
theorem State.did_gloveReset {s : State} {hat g : Nat} (force : Bool) (hp : s.blk.portAdmits hat = true)
    (hmay : s.blk.mayGlove hat g = true) (hfree : s.blk.gloveFree g = true) :
    s.did (gloveReset hat g force) = s.did (startReset g force) := by
  rw [gloveReset, State.did_underHat _ hp, State.did_read, State.did_when_true _ (by rw [hmay, hfree]; rfl)]

/-- Its flush, at a site that passes traffic. -/
theorem State.did_gloveFlush {s : State} {hat g : Nat} (hp : s.blk.portAdmits hat = true) (hmay : s.blk.mayGlove hat g = true)
    (hfree : s.blk.gloveFree g = true) (hruns : s.blk.siteRuns g = true) :
    s.did (gloveFlush hat g) = s.did (startFlush g .software) := by
  rw [gloveFlush, State.did_underHat _ hp, State.did_read, State.did_when_true _ (by rw [hmay, hfree, hruns]; rfl)]

/-- The directory query, once no unmodified line of the site's has a transaction. -/
theorem State.did_flushQueried {s : State} {g : Nat} (hquery : (s.blk.site g).flush = .query)
    (hidle : ((s.blk.dir.filter fun e => decide (e.2.ds = .em ∧ e.2.owner = g)).all fun e => e.2.txn.isNone) = true) :
    s.did (flushQueried g) = s.did (.all [
      .each (s.blk.dir.filter fun e => decide (e.2.ds = .em ∧ e.2.owner = g)) fun e => setDir e.1 DirEnt.disown,
      .read fun b => flushEnd g (!b.ownsLine g)]) := by
  rw [flushQueried, State.did_read, State.did_when_true _ (by rw [hquery, hidle]; rfl)]

/-! ### Heat and digests (R131, R134, R135) -/

/-- A TEMP message of a chiplet of another maker with one sensor shows what that sensor reads. -/
theorem State.did_tempReport_one {s : State} {g : Nat} (bytes : List Byte) (hone : numAt (s.blk.site g).cap 0x27 1 = 1)
    (hkind : s.blk.siteKind g ≠ 1) :
    s.did (tempReport g bytes) = s.did (siteCtl g 1 (.all [
      modGlv g (fun x => { x with lastTemp := s.blk.now }),
      setF (Reg.GLV_TEMP g) Fl.GLV_TEMP_HOTTEST (wrapInt 16 (max (-32768) (signed 16 (numAt bytes 0 2))))])) := by
  rw [tempReport, State.did_read]
  simp only [hone, hkind, false_and, if_false]
  rfl

/-- A DIGEST message replaces a part of the record that the site's record has. -/
theorem State.did_digestReport_agreed {s : State} {g : Nat} {bytes : List Byte} (hagreed : s.blk.agreedFeature g 6 = true)
    (hpart : numAt bytes 48 1 < numAt (s.blk.site g).cap 0x29 1) :
    s.did (digestReport g bytes) = s.did (siteCtl g 1 (.all [
      modGlv g (fun x => { x with
        cap := x.cap.take (0x40 + 48 * numAt bytes 48 1) ++ slice bytes 0 48 ++ x.cap.drop (0x70 + 48 * numAt bytes 48 1) }),
      editFit g (0x80 + 48 * numAt bytes 48 1) (slice bytes 0 48)])) := by
  rw [digestReport, State.did_read]
  simp only [hagreed, hpart, decide_true, Bool.and_self, Prog.when_true]

/-- Settles O15: each command is the program its condition lets through. -/
theorem gloveControlCommands : Obligations.GloveControlCommands := by
  refine ⟨fun g raw m s hup hcarried hawake hruns hheld hop hcredits hnop hpass hgood hcredit => ?_,
    fun hat g s hup hp hmay hfree => ⟨?_, ?_, fun hruns => ?_⟩,
    fun g s hup => ⟨fun hawait => ⟨fun hruns hheld hcredit => ?_, ?_⟩, fun hquery hidle => ?_, fun hrst => ?_, fun hrst => ?_⟩,
    fun g bytes s hup hruns => ⟨fun hone hkind hheld hcredit => ?_, fun hheld hcredit => ⟨?_, ?_⟩, fun hagreed => ?_,
      fun hagreed hpart hheld hcredit => ?_⟩, fun g s hup => State.run_up hup _⟩
  -- messages
  · subst hcarried
    exact State.run_up_did hup ((State.did_siteMeshMessage hawake hruns hheld hop hcredits hnop hpass).trans
      (State.did_takeMessage hgood hcredit))
  -- resets and flushes
  · exact State.run_up_did hup (State.did_gloveReset false hp hmay hfree)
  · exact State.run_up_did hup (State.did_gloveReset true hp hmay hfree)
  · exact State.run_up_did hup (State.did_gloveFlush hp hmay hfree hruns)
  · exact State.run_up_did hup (State.did_siteCtl_taken _ hruns hheld hcredit)
  · exact State.run_guarded hup (decide_eq_true hawait)
  · exact State.run_up_did hup (State.did_flushQueried hquery hidle)
  · exact State.run_guarded hup (decide_eq_true hrst)
  · exact State.run_guarded hup (decide_eq_true hrst)
  -- heat and digests
  · exact State.run_up_did hup ((State.did_tempReport_one bytes hone hkind).trans (State.did_siteCtl_taken _ hruns hheld hcredit))
  · exact State.run_up_did hup ((s.did_read _).trans (State.did_siteCtl_violation _ hruns hheld hcredit))
  · exact State.run_up_did hup ((s.did_read _).trans (State.did_siteCtl_violation _ hruns hheld hcredit))
  · exact State.run_guarded hup (by rw [hruns, hagreed]; rfl)
  · exact State.run_up_did hup ((State.did_digestReport_agreed hagreed hpart).trans (State.did_siteCtl_taken _ hruns hheld hcredit))

end Sys2Proof.Machine
end

section
/-! SUPPORT. The contexts of spec/06_prour_tile.md: what a write of a context's window does, programs, heat. -/

namespace Sys2Proof.Machine

/-- A program done and then a group is one group. -/
theorem State.did_all_nest (s : State) (p : Prog) (l : List Prog) : s.did (.all [p, .all l]) = s.did (.all (p :: l)) := rfl

/-- The bytes of a slot after a write into it. -/
def Block.slotWritten (b : Block) (g c slot off : Nat) (bytes : List Byte) : List Byte :=
  slice ((slice (Tbl.get (dflt []) slot (b.prtCtx g c).slots) 0 128).take off ++ bytes ++
    (slice (Tbl.get (dflt []) slot (b.prtCtx g c).slots) 0 128).drop (off + bytes.length)) 0 128

/-! ### Writes of a context's window (R153, R379) -/

/-- A hat's write that reaches the window of a working tile does what the window says. -/
theorem State.did_prtWrite {s : State} {g c hat : Nat} (k : Block → Prog) (hp : s.blk.portAdmits hat = true)
    (hruns : s.blk.prtRuns g c = true) (hreach : s.blk.prtReach hat g = true) :
    s.did (underHat hat (.read fun b => .when (b.prtRuns g c && b.prtReach hat g) (k b))) = s.did (k s.blk) := by
  rw [State.did_underHat _ hp, State.did_read, State.did_when_true _ (by rw [hruns, hreach]; rfl)]

/-- One the context takes is no write it denies. -/
theorem Block.ite_prtTakes {b : Block} {hat g c : Nat} (denied taken : Prog) (h : b.prtTakes hat g c = true) :
    (if !b.prtTakes hat g c then denied else taken) = taken := by rw [h]; rfl

section
variable {s : State} {g c hat : Nat} (hp : s.blk.portAdmits hat = true) (hruns : s.blk.prtRuns g c = true)
  (hreach : s.blk.prtReach hat g = true) (htakes : s.blk.prtTakes hat g c = true)
include hp hruns hreach htakes

/-! ### Submission (R155, R156) -/

/-- A write that leaves a slot's last byte alone only keeps its bytes. -/
theorem State.did_taskSubmit_kept {slot off : Nat} {bytes new : List Byte} (hon : s.blk.prtState g c ≠ PrtState.off)
    (hstop : (s.blk.prtCtx g c).stopping = false) (hfree : (s.blk.prtCtx g c).busy slot = false)
    (hnew : new = s.blk.slotWritten g c slot off bytes) (hpart : off + bytes.length ≤ 0x7F) :
    s.did (taskSubmit g c hat slot off bytes) =
      s.did (modPctx g c fun x => { x with slots := Tbl.set (dflt []) slot new x.slots }) := by
  have hsubmit : decide (0x7F < off + bytes.length) = false := decide_eq_false (Nat.not_lt.2 hpart)
  rw [Block.slotWritten] at hnew
  rw [taskSubmit, State.did_prtWrite _ hp hruns hreach]
  simp only [htakes, hon, hstop, hfree, ← hnew, hsubmit, Bool.not_true, decide_false, Bool.or_self, Bool.false_eq_true, if_false,
    Bool.false_and, Prog.when_false]
  rfl

/-- One that sets VALID, with the SEQ the context expects in the slot it expects it in, submits the task. -/
theorem State.did_taskSubmit_submitted {slot off : Nat} {bytes new : List Byte}
    (hstop : (s.blk.prtCtx g c).stopping = false) (hfree : (s.blk.prtCtx g c).busy slot = false)
    (hnew : new = s.blk.slotWritten g c slot off bytes) (hlast : 0x7F < off + bytes.length)
    (hvalid : (numAt new 0x7F 1).testBit 7 = true)
    (hstate : s.blk.prtState g c = PrtState.idle ∨ s.blk.prtState g c = PrtState.running)
    (hseq : numAt new 0x78 2 = s.blk.prtF g c Fl.PRT_CTX_STATUS_NEXT_SEQ)
    (hslot : slot = s.blk.prtF g c Fl.PRT_CTX_STATUS_NEXT_SEQ % 128) :
    s.did (taskSubmit g c hat slot off bytes) = s.did (.all [
      modPctx g c (fun x => { x with slots := Tbl.set (dflt []) slot new x.slots }),
      setF (Reg.PRT_CTX_STATUS g c) Fl.PRT_CTX_STATUS_NEXT_SEQ (s.blk.prtF g c Fl.PRT_CTX_STATUS_NEXT_SEQ + 1),
      modPctx g c (fun x => { x with tasks := x.tasks ++ [{ seq := numAt new 0x78 2, bytes := new, prog := false }] }),
      showCtx g c]) := by
  have hon : s.blk.prtState g c ≠ PrtState.off := by rcases hstate with h | h <;> rw [h] <;> decide
  have hopen : ¬ (s.blk.prtState g c = PrtState.program ∨ s.blk.prtState g c = PrtState.loading ∨
      s.blk.prtState g c = PrtState.stopping) := by rcases hstate with h | h <;> rw [h] <;> decide
  have hexpected : ¬ (numAt new 0x78 2 ≠ s.blk.prtF g c Fl.PRT_CTX_STATUS_NEXT_SEQ ∨
      slot ≠ s.blk.prtF g c Fl.PRT_CTX_STATUS_NEXT_SEQ % 128) := fun h => h.elim (· hseq) (· hslot)
  rw [Block.slotWritten] at hnew
  rw [taskSubmit, State.did_prtWrite _ hp hruns hreach]
  simp only [htakes, hon, hstop, hfree, ← hnew, hlast, hvalid, hopen, Bool.not_true, decide_true, decide_false,
    Bool.or_self, Bool.and_self, Bool.false_eq_true, if_false, Prog.when_true]
  rw [if_neg hexpected, State.did_all_nest]

/-! ### Task programs (R157) -/

/-- GO of a program that its context, its segment and the tile's memory let through begins the copy. -/
theorem State.did_progGo_loads {p : Nat} {val : W64}
    (hstate : s.blk.prtState g c = PrtState.idle ∨ s.blk.prtState g c = PrtState.running)
    (hpos : s.blk.hatPos g (s.blk.prtHat g c) = some p)
    (hseg : s.blk.segAllows (s.blk.segAt (Reg.XLT_GSEG_CTL g p (s.blk.f (Reg.PRT_CTX_PROG_ADDR g c) Fl.PRT_CTX_PROG_ADDR_SEG)) false) 1
      (s.blk.f (Reg.PRT_CTX_PROG_ADDR g c) Fl.PRT_CTX_PROG_ADDR_OFFSET) (128 * getFld val Fl.PRT_CTX_PROG_COUNT) = true)
    (halign : s.blk.f (Reg.PRT_CTX_PROG_ADDR g c) Fl.PRT_CTX_PROG_ADDR_OFFSET % 128 = 0)
    (hsome : getFld val Fl.PRT_CTX_PROG_COUNT ≠ 0)
    (hfits : getFld val Fl.PRT_CTX_PROG_COUNT ≤ (if s.blk.prtA2 g then 1024 else 4096)) :
    s.did (progGo g c hat val) = s.did (.all [progFields g c val, .all [
      modPctx g c (fun x => { x with count := getFld val Fl.PRT_CTX_PROG_COUNT, again := getFld val Fl.PRT_CTX_PROG_REPEAT }),
      setR (Reg.PRT_CTX_PROG_RUN g c) 0, prtStat g c PrtState.loading, measured]]) := by
  have hopen : ¬ (s.blk.prtState g c ≠ PrtState.idle ∧ s.blk.prtState g c ≠ PrtState.running) :=
    fun h => hstate.elim h.1 h.2
  have hcount : ¬ (getFld val Fl.PRT_CTX_PROG_COUNT = 0 ∨
      (if s.blk.prtA2 g then 1024 else 4096) < getFld val Fl.PRT_CTX_PROG_COUNT) := fun h => h.elim hsome (Nat.not_lt.2 hfits)
  have halign' : ¬ s.blk.f (Reg.PRT_CTX_PROG_ADDR g c) Fl.PRT_CTX_PROG_ADDR_OFFSET % 128 ≠ 0 := not_not_intro halign
  rw [progGo, State.did_prtWrite _ hp hruns hreach, Block.ite_prtTakes _ _ htakes]
  simp only [hpos, hseg, hopen, halign', hcount, Bool.not_true, decide_false, Bool.or_self, Bool.false_eq_true, if_false]

/-- STOP ends the program, whatever runs of it. -/
theorem State.did_progStop : s.did (progStop g c hat) = s.did (progEnd g c) := by
  rw [progStop, State.did_prtWrite _ hp hruns hreach, if_pos htakes]

/-! ### Enable and disable (R152, R166) -/

/-- A write of ENABLE takes the hat and the vector it brings, and enables the context. -/
theorem State.did_ctxEnable (val : W64) : s.did (ctxEnable g c hat val) = s.did (.all [
      setF (Reg.PRT_CTX_CTL g c) Fl.PRT_CTX_CTL_HAT (getFld val Fl.PRT_CTX_CTL_HAT),
      setF (Reg.PRT_CTX_CTL g c) Fl.PRT_CTX_CTL_IRQ_VEC (getFld val Fl.PRT_CTX_CTL_IRQ_VEC),
      prtEnable g c]) := by
  rw [ctxEnable, State.did_prtWrite _ hp hruns hreach, Block.ite_prtTakes _ _ htakes]

/-- One that clears it disables the context. -/
theorem State.did_ctxDisable : s.did (ctxDisable g c hat) = s.did (prtDisable g c) := by
  rw [ctxDisable, State.did_prtWrite _ hp hruns hreach, if_pos htakes]

end

/-! ### The copy of a program (R157) -/

/-- A copy that was read whole and clean is measured and runs. -/
theorem State.did_progLoaded_runs {s : State} {g c n : Nat} {told read : ReadIn} (hruns : s.blk.prtRuns g c = true)
    (hload : s.blk.prtState g c = PrtState.loading) (hcount : n = (s.blk.prtCtx g c).count)
    (hread : read = s.blk.prtSource g (s.blk.prtHat g c) (s.blk.f (Reg.PRT_CTX_PROG_ADDR g c) Fl.PRT_CTX_PROG_ADDR_SEG)
      (s.blk.f (Reg.PRT_CTX_PROG_ADDR g c) Fl.PRT_CTX_PROG_ADDR_OFFSET) (128 * n) told)
    (hok : completed read.status = true) (hclean : read.pois = []) :
    s.did (progLoaded g c told) = s.did (.all [
      modPctx g c (fun x => { x with prog := (List.range n).map fun i => slice (slice read.data 0 (128 * n)) (128 * i) 128 }),
      .each (List.range 6) (fun k => setR (Reg.PRT_CTX_PROG_DIGEST g c k) (BitVec.ofNat 64 (bits
        (Config.sha384 (slice read.data 0 (128 * n))) (64 * k) 64))),
      measured, prtStat g c PrtState.program, progFeed g c, showCtx g c]) := by
  rw [progLoaded, State.did_read]
  simp only [← hcount, ← hread]
  rw [State.did_when_true _ (by rw [hruns, hload]; rfl), if_neg (by simp [hok, hclean])]

/-- Settles O27: a hat's write of a window is what the context takes in, and the tile's own events are the program their guard lets
through. -/
theorem prourContexts : Obligations.ProurContexts := by
  refine ⟨fun g c hat s hup hp hruns hreach htakes =>
      ⟨fun slot off bytes new hon hstop hfree hnew => ⟨fun hpart => ?_, fun hlast hvalid hstate hseq hslot => ?_⟩,
        fun val p hstate hpos hseg halign hsome hfits => ?_, ?_, fun val => ?_, ?_⟩,
    fun g c told read n s hup hruns hload hcount hread hok hclean => ?_, fun g level s hup hruns => ?_,
    fun g temps power clock hot slow cap lower s hup hhas hhot hslow hcap hlower => ?_⟩
  -- writes of a context's window
  · exact State.run_up_did hup (State.did_taskSubmit_kept hp hruns hreach htakes hon hstop hfree hnew hpart)
  · exact State.run_up_did hup
      (State.did_taskSubmit_submitted hp hruns hreach htakes hstop hfree hnew hlast hvalid hstate hseq hslot)
  · exact State.run_up_did hup (State.did_progGo_loads hp hruns hreach htakes hstate hpos hseg halign hsome hfits)
  · exact State.run_up_did hup (State.did_progStop hp hruns hreach htakes)
  · exact State.run_up_did hup (State.did_ctxEnable hp hruns hreach htakes val)
  · exact State.run_up_did hup (State.did_ctxDisable hp hruns hreach htakes)
  -- the tile's own events
  · exact State.run_up_did hup (State.did_progLoaded_runs hruns hload hcount hread hok hclean)
  · have hlevel : decide (level ≠ 0) = decide (level.val ≠ 0) := decide_eq_decide.2 Fin.val_ne_zero_iff.symm
    rw [hlevel]
    exact State.run_guarded hup hruns
  · subst hhot hslow hcap hlower
    exact State.run_guarded hup hhas

end Sys2Proof.Machine
end

section
/-! SUPPORT. The tasks of spec/06_prour_tile.md: how a task is served, what each kind does, completion. -/

namespace Sys2Proof.Machine

/-! ### Serving a task (R161–R165) -/

/-- A task that has begun goes on. -/
theorem State.did_serveTask_begun {s : State} {g c i kind : Nat} {t : Task} (fault : Block → Task → Status) (go : Nat → Task → Prog)
    (hruns : s.blk.prtRuns g c = true) (hnext : (s.blk.prtCtx g c).next = some (i, t)) (hkind : t.kind = kind)
    (hbegun : t.begun = true) : s.did (serveTask g c kind fault go) = s.did (go i t) := by
  rw [serveTask, State.did_read, State.did_when_true _ hruns, hnext, Prog.for?_some, State.did_when_true _ (decide_eq_true hkind),
    if_pos hbegun]

/-- One that is refused is done as it begins, with the status it is refused with. -/
theorem State.did_serveTask_refused {s : State} {g c i kind : Nat} {t : Task} {st : Status} (fault : Block → Task → Status)
    (go : Nat → Task → Prog) (hruns : s.blk.prtRuns g c = true) (hnext : (s.blk.prtCtx g c).next = some (i, t))
    (hkind : t.kind = kind) (hbegun : t.begun = false) (hst : st = worst [s.blk.recordFault g c t, fault s.blk t]) (hne : st ≠ 0) :
    s.did (serveTask g c kind fault go) = s.did (modTask g c i fun t => { t with
      begun := true, start := s.blk.now, status := st, ran := true,
      flags := if (s.blk.prtSt g).level ≠ 0 ∨ (s.blk.prtSt g).slow then 16 else 0 }) := by
  rw [serveTask, State.did_read, State.did_when_true _ hruns, hnext, Prog.for?_some, State.did_when_true _ (decide_eq_true hkind)]
  simp only [hbegun, Bool.false_eq_true, if_false, ← hst, hne, ne_eq, not_false_eq_true, decide_true, false_and, decide_false,
    Prog.when_false]
  rfl

/-- One that is not begins and goes on; no MATMUL, it leaves the clock alone. -/
theorem State.did_serveTask_begins {s : State} {g c i kind : Nat} {t : Task} (fault : Block → Task → Status)
    (go : Nat → Task → Prog) (hruns : s.blk.prtRuns g c = true) (hnext : (s.blk.prtCtx g c).next = some (i, t)) (hkind : t.kind = kind)
    (hother : kind ≠ 1) (hbegun : t.begun = false) (hst : worst [s.blk.recordFault g c t, fault s.blk t] = 0) :
    s.did (serveTask g c kind fault go) = s.did (.all [
      modTask g c i (fun t => { t with
        begun := true, start := s.blk.now, status := 0, ran := false,
        flags := if (s.blk.prtSt g).level ≠ 0 ∨ (s.blk.prtSt g).slow then 16 else 0 }),
      go i t]) := by
  rw [serveTask, State.did_read, State.did_when_true _ hruns, hnext, Prog.for?_some, State.did_when_true _ (decide_eq_true hkind)]
  simp only [hbegun, Bool.false_eq_true, if_false, hst, hother, ne_eq, not_true_eq_false, decide_true, and_false, decide_false,
    Prog.when_false, Prog.when_true]
  rfl

/-! ### The kinds of task (R161–R163) -/

/-- A begun LOAD fills its buffer with what its reads brought, unless the tile's reads are stopped. -/
theorem State.did_loadTask_fills {s : State} {g c i : Nat} {t : Task} {src scale src' scale' : ReadIn} {used : List ReadIn} {o : Opnd}
    (hruns : s.blk.prtRuns g c = true) (hnext : (s.blk.prtCtx g c).next = some (i, t)) (hkind : t.kind = 2) (hbegun : t.begun = true)
    (hreads : (s.blk.prtSt g).noRead = false)
    (hsrc : src' = s.blk.elemSource g (s.blk.taskHat g c t) t.loadLanes t.k t.loadFmt t.loadByLane t.refA src)
    (hscale : scale' = s.blk.scaleSource g (s.blk.taskHat g c t) t.loadLanes t.k t.loadScale scale)
    (hused : used = src' :: (if prtMx t.loadFmt then [scale'] else []))
    (ho : o = memOpnd t.loadLanes t.k t.loadFmt t.loadByLane t.refA.stride t.loadScale.stride src' scale') :
    s.did (loadTask g c src scale) = s.did (.all [
      readsSeen g c i used,
      setBuf g t.refB.buf (some {
        ctx := c, roleB := t.roleB, rows := if t.roleB then t.k else t.m, cols := if t.roleB then t.nn else t.k,
        fmt := t.loadFmt, kib := t.loadKib,
        codes := (List.range t.loadLanes).flatMap fun l => (List.range t.k).map (o.code l),
        scales := if prtMx t.loadFmt then
          (List.range t.loadLanes).flatMap fun l => (List.range (t.k / 32)).map fun j => o.scale l (32 * j) else [],
        pois := (List.range t.loadLanes).filter fun l => (used.any fun r => rejected r.status) || o.pois l }),
      modTask g c i (fun t => { t with ran := true })]) := by
  subst ho hused hscale hsrc
  rw [loadTask, State.did_serveTask_begun _ _ hruns hnext hkind hbegun, State.did_read,
    State.did_when_true _ (by rw [hreads]; rfl)]

/-! ### Completion (R164) -/

/-- The oldest task of a context, done, leaves the list once its record and its interrupt can leave the tile. -/
theorem State.did_taskComplete_ran {s : State} {g c : Nat} {t : Task} {rest : List Task} {irq : Msp}
    (hruns : s.blk.prtRuns g c = true) (htasks : (s.blk.prtCtx g c).tasks = t :: rest) (hran : t.ran = true)
    (hsends : s.blk.siteSends g (s.blk.doneMsg g c t) = true)
    (hirq : irq = { Msp.ctl 0x84 0 with
      hat := s.blk.taskHat g c t, label := s.blk.hatLabel (s.blk.taskHat g c t), addr := s.blk.taskVec g c t })
    (hirqSends : t.irq = true → s.blk.siteSends g irq = true) :
    s.did (taskComplete g c) = s.did (.all [
      modPctx g c (fun x => { x with tasks := rest }),
      if s.blk.doneRefused g c t (s.blk.doneMsg g c t) then prtDenied g c else siteMeshMessage g (s.blk.doneMsg g c t),
      .when t.irq (siteMeshMessage g irq), progFeed g c, showCtx g c]) := by
  have hleaves : (!t.irq || s.blk.siteSends g irq) = true := by
    cases h : t.irq
    · rfl
    · exact hirqSends h
  rw [taskComplete, State.did_read, htasks]
  simp only [hran, Bool.not_true, Bool.false_and, Bool.false_eq_true, if_false, ← hirq]
  exact State.did_when_true _ (by rw [hruns, hsends, hleaves]; rfl)

/-- Settles O28: a task is served by how far it is, and each kind goes on as its meaning says. -/
theorem prourTasks : Obligations.ProurTasks := by
  refine ⟨fun g c i t s hup hruns hnext hbegun =>
      ⟨fun a b sa sb a' b' sa' sb' used hkind ha hb hsa hsb hused hcool hreads => ?_,
        fun src scale src' scale' used o hkind hreads hsrc hscale hused ho => ?_⟩,
    fun g c i t s hup hruns hnext hbegun =>
      ⟨fun st a b sa sb hne => ⟨fun hkind hst => ?_, fun hkind hst => ?_⟩,
        fun st hkind hst => ⟨fun hzero => ?_, fun hne => ?_⟩, fun hkind hst => ?_⟩,
    fun g c t rest irq s hup hruns htasks hran hsends hirq hirqSends => ?_⟩
  -- tasks that have begun
  · subst hused hsb hsa hb ha
    refine State.run_up_did hup ((State.did_serveTask_begun _ _ hruns hnext hkind hbegun).trans ?_)
    exact (State.did_read s _).trans (State.did_when_true _ (by rw [hcool, hreads]; rfl))
  · exact State.run_up_did hup (State.did_loadTask_fills hruns hnext hkind hbegun hreads hsrc hscale hused ho)
  -- tasks that begin, or are refused
  · exact State.run_up_did hup (State.did_serveTask_refused _ _ hruns hnext hkind hbegun hst hne)
  · exact State.run_up_did hup (State.did_serveTask_refused _ _ hruns hnext hkind hbegun hst hne)
  · subst hst
    refine State.run_up_did hup ((State.did_serveTask_begins _ _ hruns hnext hkind (by decide) hbegun hzero).trans ?_)
    exact State.did_all_nest s _ _
  · exact State.run_up_did hup (State.did_serveTask_refused _ _ hruns hnext hkind hbegun hst hne)
  · exact State.run_up_did hup (State.did_serveTask_begins _ _ hruns hnext hkind (by decide) hbegun hst)
  -- tasks done
  · exact State.run_up_did hup (State.did_taskComplete_ran hruns htasks hran hsends hirq hirqSends)

end Sys2Proof.Machine
end

section
/-! SUPPORT. What the instructions of a vector engine leave alone (spec/07_vector_engines.md): which edits their programs are made of,
once for every operation they share. -/

namespace Sys2Proof.Machine

/-! ### Programs of certain edits -/

/-- Every edit the program can come to make is one of `P`. -/
def Prog.Only (P : Edit → Prop) : Prog → Prop
  | .skip => True
  | .edit e => P e
  | .seq p q => p.Only P ∧ q.Only P
  | .read k => ∀ b, (k b).Only P

section
variable {P : Edit → Prop}

@[simp] theorem Prog.only_skip : Prog.Only P .skip := trivial
@[simp] theorem Prog.only_edit (e : Edit) : Prog.Only P (.edit e) ↔ P e := Iff.rfl
@[simp] theorem Prog.only_read (k : Block → Prog) : Prog.Only P (.read k) ↔ ∀ b, (k b).Only P := Iff.rfl
@[simp] theorem Prog.only_all_nil : Prog.Only P (.all []) := trivial
@[simp] theorem Prog.only_all_cons (p : Prog) (l : List Prog) : Prog.Only P (.all (p :: l)) ↔ p.Only P ∧ Prog.Only P (.all l) := Iff.rfl
@[simp] theorem Prog.only_ite (c : Prop) [Decidable c] (p q : Prog) :
    Prog.Only P (if c then p else q) ↔ (c → p.Only P) ∧ (¬ c → q.Only P) := by
  split <;> simp_all
@[simp] theorem Prog.only_when (c : Bool) (p : Prog) : Prog.Only P (.when c p) ↔ (c = true → p.Only P) := by
  cases c <;> simp
@[simp] theorem Prog.only_for? {α : Type} (o : Option α) (k : α → Prog) :
    Prog.Only P (.for? o k) ↔ ∀ x, o = some x → (k x).Only P := by
  cases o <;> simp
@[simp] theorem Prog.only_each {α : Type} (l : List α) (k : α → Prog) : Prog.Only P (.each l k) ↔ ∀ x ∈ l, (k x).Only P := by
  induction l with
  | nil => simp [Prog.each]
  | cons x l ih => rw [List.forall_mem_cons, ← ih]; rfl

/-- A relation that each edit of `P` keeps is kept by a program of such edits. -/
theorem Prog.Only.within {R : Block → Block → Prop} (hf : Frame R) (h : ∀ e, P e → ∀ b, R b (e.apply b)) {p : Prog}
    (hp : p.Only P) : Prog.Within R p := by
  induction p with
  | skip => exact Prog.within_skip hf
  | edit e => exact Prog.within_edit (h e hp)
  | seq p q ihp ihq => exact Prog.within_seq hf (ihp hp.1) (ihq hp.2)
  | read k ih => exact Prog.within_read fun b => ih b (hp b)

end

/-- The instruction issues with an effect made of edits of `P`. -/
def IssuesOnly (P : Edit → Prop) (e c : Nat) (i : Instr) : Prop :=
  ∃ o : VecOp, (∀ b x w, (o.body b x w).Only P) ∧ ∀ s, exec i s = s.run (vecIssue e c o)

theorem IssuesOnly.intro {P : Edit → Prop} {e c : Nat} {i : Instr} {o : VecOp} (hexec : ∀ s, exec i s = s.run (vecIssue e c o))
    (hbody : ∀ b x w, (o.body b x w).Only P) : IssuesOnly P e c i := ⟨o, hbody, hexec⟩

end Sys2Proof.Machine
end

section
/-! SUPPORT. Control, scalar, vector, movement and mask instructions stay within their context (R171, R180, R184, R203). -/

namespace Sys2Proof.Machine

/-! ### Edits of a context's own (R171, R180, R184) -/

/-- An edit of what an instruction that uses no memory, tile, reducer or trough may change. -/
def Edit.ownContext (e c : Nat) : Edit → Prop
  | .fld a _ _ => a = Reg.VEC_CTX_STATUS e c ∨ a = Reg.VEC_CTX_FLAGS e c
  | .ctx k _ => k = ctxKey e c
  | .noc g => ∃ p, ∀ n, g n = { n with net := n.net ++ [p] }
  | .vec g => ∀ v, g v = { v with last := (g v).last }
  | .pwr g => ∀ p, g p = { p with activity := (g p).activity }
  | .free => True
  | _ => False

section
variable {e c : Nat}

theorem Block.frame_ownContextOnly : Frame (Block.ownContextOnly e c) where
  refl b := ⟨rfl, fun _ _ _ => rfl, fun _ _ => rfl, List.prefix_refl _⟩
  trans := by
    rintro b b' b'' ⟨hb, hw, hv, hn⟩ ⟨hb', hw', hv', hn'⟩
    refine ⟨?_, fun a hs hf => (hw' a hs hf).trans (hw a hs hf), fun k hk => (hv' k hk).trans (hv k hk), hn.trans hn'⟩
    obtain ⟨regs, ctx, free, last, act, net, rfl⟩ : ∃ regs ctx free last act net, b' = { b with
        regs := regs, ctx := ctx, free := free, vec := { b.vec with last := last },
        pwr := { b.pwr with activity := act }, noc := { b.noc with net := net } } := ⟨_, _, _, _, _, _, hb⟩
    exact hb'

theorem Edit.ownContextOnly_apply {d : Edit} (h : d.ownContext e c) (b : Block) : b.ownContextOnly e c (d.apply b) := by
  cases d
  case fld a fl v =>
    refine ⟨rfl, fun j hs hf => ?_, fun _ _ => rfl, List.prefix_refl _⟩
    rw [Block.w_fld, if_neg]
    rintro rfl
    exact h.elim hs hf
  case ctx k g =>
    refine ⟨rfl, fun _ _ _ => rfl, fun j hj => ?_, List.prefix_refl _⟩
    rw [Block.vctx_ctx, if_neg (h ▸ hj)]
  case noc g =>
    obtain ⟨p, hg⟩ := h
    have hnet : (g b.noc).net = b.noc.net ++ [p] := by rw [hg]
    refine ⟨?_, fun _ _ _ => rfl, fun _ _ => rfl, ⟨[p], hnet.symm⟩⟩
    rw [Edit.apply_noc]
    simp only [hnet]
    rw [hg]
  case vec g =>
    refine ⟨?_, fun _ _ _ => rfl, fun _ _ => rfl, List.prefix_refl _⟩
    rw [Edit.apply_vec]
    exact congrArg (fun v => { b with vec := v }) (h b.vec)
  case pwr g =>
    refine ⟨?_, fun _ _ _ => rfl, fun _ _ => rfl, List.prefix_refl _⟩
    rw [Edit.apply_pwr]
    exact congrArg (fun v => { b with pwr := v }) (h b.pwr)
  case free => exact ⟨rfl, fun _ _ _ => rfl, fun _ _ => rfl, List.prefix_refl _⟩
  all_goals exact h.elim

theorem Prog.within_ownContext {p : Prog} (h : p.Only (Edit.ownContext e c)) : Prog.Within (Block.ownContextOnly e c) p :=
  h.within Block.frame_ownContextOnly fun _ hd => Edit.ownContextOnly_apply hd

/-! The operations its instructions share. -/

theorem only_sendPkt_own (p : Pkt) : (sendPkt p).Only (Edit.ownContext e c) := ⟨p, fun _ => rfl⟩
theorem only_modCtx_own (g : VecCtx → VecCtx) : (modCtx (ctxKey e c) g).Only (Edit.ownContext e c) := rfl
theorem only_setStatus_own (fl : Fld) (v : Nat) : (setF (Reg.VEC_CTX_STATUS e c) fl v).Only (Edit.ownContext e c) := Or.inl rfl
theorem only_setPc_own (t : Int) : (setPc e c t).Only (Edit.ownContext e c) :=
  ⟨only_setStatus_own _ _, only_modCtx_own _, trivial⟩
theorem only_setFlags_own (m : Nat) : (setFlags e c m).Only (Edit.ownContext e c) :=
  (Prog.only_when _ _).2 fun _ _ => Or.inr rfl
theorem only_andNotFlags_own (m : Nat) : (andNotF (Reg.VEC_CTX_FLAGS e c) flagBits m).Only (Edit.ownContext e c) :=
  fun _ => Or.inr rfl
theorem only_raiseIrq_own (src : Ep) (h v : Nat) : (raiseIrq src h v).Only (Edit.ownContext e c) := fun _ => only_sendPkt_own _
theorem only_abortHandles_own : (abortHandles e c).Only (Edit.ownContext e c) := fun _ =>
  ⟨(Prog.only_each _ _).2 fun _ _ _ => (Prog.only_when _ _).2 fun _ => only_sendPkt_own _, only_modCtx_own _, trivial⟩
theorem only_tookTurn_own : (tookTurn e c).Only (Edit.ownContext e c) := fun _ => ⟨fun _ => rfl, fun _ => rfl, trivial⟩
theorem only_free_own : Prog.Only (Edit.ownContext e c) (.edit .free) := trivial
theorem only_drew_own (mode : Nat) : (drew mode).Only (Edit.ownContext e c) := (Prog.only_when _ _).2 fun _ => trivial

/-- An instruction that issues with such an effect stays within its context, whichever way it goes. -/
theorem IssuesOnly.ownContextOnly {i : Instr} (hi : IssuesOnly (Edit.ownContext e c) e c i) {s t : State} (h : exec i s = .next t) :
    s.blk.ownContextOnly e c t.blk ∧ t.pending = s.pending := by
  obtain ⟨o, hbody, hexec⟩ := hi
  rw [hexec] at h
  refine ⟨State.run_within Block.frame_ownContextOnly ?_ h, State.run_pending h⟩
  refine Prog.within_vecIssue Block.frame_ownContextOnly e c o (fun fl v => ?_) (fun v => ?_) (fun g => ?_) (fun p => ?_)
    (Prog.within_ownContext only_tookTurn_own) fun b x w => Prog.within_ownContext (hbody b x w)
  · exact Prog.within_ownContext (only_setStatus_own fl v)
  · exact Edit.ownContextOnly_apply (.inr rfl)
  · exact Prog.within_ownContext (only_modCtx_own g)
  · exact Prog.within_ownContext (only_sendPkt_own p)

end

/-! ### The instructions -/

section
variable {e c : Nat} {i : Instr}

/-- Writing a scalar, a vector or a mask of the context. -/
theorem only_putA_own (w : Nat) (v : W64) (p : Bool) : (putA e c w v p).Only (Edit.ownContext e c) := only_modCtx_own _

theorem only_countLoop_own (b : Block) (x : VecCtx) (w : Nat) (v : W64) : (countLoop e c b x w v).Only (Edit.ownContext e c) :=
  ⟨only_putA_own _ _ _, (Prog.only_when _ _).2 fun _ => only_setPc_own _, trivial⟩

/-- A result in the context, its flags, and a last edit of the context's own. -/
theorem only_result_own (g : VecCtx → VecCtx) (m : Nat) {p : Prog} (hp : p.Only (Edit.ownContext e c)) :
    (Prog.all [modCtx (ctxKey e c) g, setFlags e c m, p]).Only (Edit.ownContext e c) :=
  ⟨only_modCtx_own g, only_setFlags_own m, hp, trivial⟩

theorem IssuesOnly.of_vecScalarInt {op : Nat} {g : W64 → W64 → W64} (h : ∀ s, exec i s = s.run (vecScalarInt e c op g)) :
    IssuesOnly (Edit.ownContext e c) e c i := .intro h fun _ _ _ => only_modCtx_own _

theorem IssuesOnly.of_vecScalarFp {op : Nat} {useB useC : Bool} {g : Nat → Nat → Nat → Nat → Nat → FRes}
    (h : ∀ s, exec i s = s.run (vecScalarFp e c op useB useC g)) : IssuesOnly (Edit.ownContext e c) e c i :=
  .intro h fun _ _ _ => only_result_own _ _ (only_drew_own _)

theorem IssuesOnly.of_vecArith {op : Nat} {sh : ArithShape} {g : ElemIn → FRes} (h : ∀ s, exec i s = s.run (vecArith e c op sh g)) :
    IssuesOnly (Edit.ownContext e c) e c i := .intro h fun _ _ _ => only_result_own _ _ only_free_own

theorem IssuesOnly.of_vecCompare {op : Nat} {quiet : Bool} {g : Nat → Nat → Nat → Bool}
    (h : ∀ s, exec i s = s.run (vecCompare e c op quiet g)) : IssuesOnly (Edit.ownContext e c) e c i :=
  .intro h fun _ _ _ => ⟨only_modCtx_own _, only_setFlags_own _, trivial⟩

theorem IssuesOnly.of_vecMove {op : Nat} {legal : VecCtx → Nat → Bool} {reads : Nat → List VReg}
    {g : VecCtx → Nat → Nat → Option Nat} (h : ∀ s, exec i s = s.run (vecMove e c op legal reads g)) :
    IssuesOnly (Edit.ownContext e c) e c i := .intro h fun _ _ _ => only_modCtx_own _

theorem IssuesOnly.of_vecMask {op : Nat} {useB : Bool} {g : Bool → Bool → Bool} (h : ∀ s, exec i s = s.run (vecMask e c op useB g)) :
    IssuesOnly (Edit.ownContext e c) e c i := .intro h fun _ _ _ => only_modCtx_own _

theorem IssuesOnly.of_vecMaskScalar {op : Nat} {g : List Nat → W64} (h : ∀ s, exec i s = s.run (vecMaskScalar e c op g)) :
    IssuesOnly (Edit.ownContext e c) e c i := .intro h fun _ _ _ => only_modCtx_own _

theorem IssuesOnly.of_vecMaskWhole {op : Nat} {g : Nat → Nat} (h : ∀ s, exec i s = s.run (vecMaskWhole e c op g)) :
    IssuesOnly (Edit.ownContext e c) e c i := .intro h fun _ _ _ => (Prog.only_when _ _).2 fun _ => only_modCtx_own _

end

section
variable (e : Fin 24) (c : Fin 4)

theorem issuesOnly_control : ∀ i ∈ [Instr.nop e c, .halt e c, .setvl e c, .br e c, .jal e c, .jr e c, .dbnz e c, .vloop e c, .li e c,
    .lih e c, .flags e c, .rdts e c], IssuesOnly (Edit.ownContext e c) e c i := by
  simp only [List.forall_mem_cons, List.not_mem_nil, false_implies, implies_true, and_true]
  refine ⟨?nop, ?halt, ?setvl, ?br, ?jal, ?jr, ?dbnz, ?vloop, ?li, ?lih, ?flags, ?rdts⟩
  case nop => exact .intro (fun _ => rfl) fun _ _ _ => Prog.only_skip
  case halt =>
    exact .intro (fun _ => rfl) fun _ _ _ => ⟨only_abortHandles_own, only_modCtx_own _, only_setStatus_own _ _,
      only_setStatus_own _ _, only_setStatus_own _ _, only_raiseIrq_own _ _ _, trivial⟩
  case setvl => exact .intro (fun _ => rfl) fun _ _ _ => ⟨only_modCtx_own _, only_putA_own _ _ _, trivial⟩
  case br => exact .intro (fun _ => rfl) fun _ _ _ => (Prog.only_when _ _).2 fun _ => only_setPc_own _
  case jal => exact .intro (fun _ => rfl) fun _ _ _ => ⟨only_putA_own _ _ _, only_setPc_own _, trivial⟩
  case jr => exact .intro (fun _ => rfl) fun _ _ _ => only_setPc_own _
  case dbnz | vloop => exact .intro (fun _ => rfl) fun _ _ _ => only_countLoop_own _ _ _ _
  case li | lih | rdts => exact .intro (fun _ => rfl) fun _ _ _ => only_putA_own _ _ _
  case flags => exact .intro (fun _ => rfl) fun _ _ _ => ⟨only_putA_own _ _ _, only_andNotFlags_own _, trivial⟩

theorem issuesOnly_scalar : ∀ i ∈ [Instr.add e c, .sub e c, .mul e c, .mulhu e c, .andCmd e c, .orCmd e c, .xor e c, .sll e c, .srl e c,
    .sra e c, .min e c, .max e c, .slt e c, .sltu e c], IssuesOnly (Edit.ownContext e c) e c i := by
  simp only [List.forall_mem_cons, List.not_mem_nil, false_implies, implies_true, and_true]
  and_intros <;> exact .of_vecScalarInt fun _ => rfl

theorem issuesOnly_scalarFp : ∀ i ∈ [Instr.fadd e c, .fsub e c, .fmul e c, .fdiv e c, .fsqrt e c, .fma e c, .fmin e c, .fmax e c],
    IssuesOnly (Edit.ownContext e c) e c i := by
  simp only [List.forall_mem_cons, List.not_mem_nil, false_implies, implies_true, and_true]
  and_intros <;> exact .of_vecScalarFp fun _ => rfl

theorem issuesOnly_arith : ∀ i ∈ [Instr.vadd e c, .vsub e c, .vmul e c, .vmin e c, .vmax e c, .vabs e c, .vneg e c, .vdiv e c,
    .vsqrt e c, .vfma e c, .vfms e c, .vfnma e c, .vscalb e c, .vgetexp e c, .vgetmant e c, .vand e c, .vor e c, .vxor e c, .vandn e c,
    .vsll e c, .vsrl e c, .vsra e c, .vsadd e c, .vssub e c, .vmulh e c], IssuesOnly (Edit.ownContext e c) e c i := by
  simp only [List.forall_mem_cons, List.not_mem_nil, false_implies, implies_true, and_true]
  and_intros <;> exact .of_vecArith fun _ => rfl

theorem issuesOnly_compare : ∀ i ∈ [Instr.vcmpeq e c, .vcmpne e c, .vcmplt e c, .vcmple e c],
    IssuesOnly (Edit.ownContext e c) e c i := by
  simp only [List.forall_mem_cons, List.not_mem_nil, false_implies, implies_true, and_true]
  and_intros <;> exact .of_vecCompare fun _ => rfl

theorem issuesOnly_move : ∀ i ∈ [Instr.vsel e c, .vmov e c, .vid e c, .vslidedn e c, .vslideup e c, .vperm e c],
    IssuesOnly (Edit.ownContext e c) e c i := by
  simp only [List.forall_mem_cons, List.not_mem_nil, false_implies, implies_true, and_true]
  and_intros <;> exact .of_vecMove fun _ => rfl

theorem issuesOnly_convert : ∀ i ∈ [Instr.vmovvs e c, .vmovsv e c, .vcvt e c, .vcvtmx e c, .vunmx e c],
    IssuesOnly (Edit.ownContext e c) e c i := by
  simp only [List.forall_mem_cons, List.not_mem_nil, false_implies, implies_true, and_true]
  refine ⟨.intro (fun _ => rfl) fun _ _ _ => only_modCtx_own _,
    .intro (fun _ => rfl) fun _ _ _ => (Prog.only_when _ _).2 fun _ => only_modCtx_own _,
    .intro (fun _ => rfl) fun _ _ _ => only_result_own _ _ only_free_own,
    .intro (fun _ => rfl) fun _ _ _ => ⟨only_modCtx_own _, only_result_own _ _ only_free_own⟩,
    .intro (fun _ => rfl) fun _ _ _ => only_result_own _ _ only_free_own⟩

theorem issuesOnly_mask : ∀ i ∈ [Instr.mand e c, .mor e c, .mxor e c, .mandn e c, .mnot e c, .mpopc e c, .mfirst e c, .mfroms e c,
    .mset e c], IssuesOnly (Edit.ownContext e c) e c i := by
  simp only [List.forall_mem_cons, List.not_mem_nil, false_implies, implies_true, and_true]
  refine ⟨?_, ?_, ?_, ?_, ?_, .of_vecMaskScalar fun _ => rfl, .of_vecMaskScalar fun _ => rfl, .of_vecMaskWhole fun _ => rfl,
    .of_vecMaskWhole fun _ => rfl⟩ <;> exact .of_vecMask fun _ => rfl

end

/-- Settles O52: each of these instructions issues with an effect made of edits of its own context. -/
theorem engineInstructionFrame : Obligations.EngineInstructionFrame := by
  intro e c s t i hi h
  have hall := List.forall_mem_append.2 ⟨issuesOnly_control e c, List.forall_mem_append.2 ⟨issuesOnly_scalar e c,
    List.forall_mem_append.2 ⟨issuesOnly_scalarFp e c, List.forall_mem_append.2 ⟨issuesOnly_arith e c,
    List.forall_mem_append.2 ⟨issuesOnly_compare e c, List.forall_mem_append.2 ⟨issuesOnly_move e c,
    List.forall_mem_append.2 ⟨issuesOnly_convert e c, issuesOnly_mask e c⟩⟩⟩⟩⟩⟩⟩
  exact (hall i hi).ownContextOnly h

end Sys2Proof.Machine
end

section
/-! SUPPORT. No engine instruction changes the package beyond the engines: the edits that loads, stores, tile, reduction and trough
instructions, fences and span acquires are made of. -/

namespace Sys2Proof.Machine

/-- An edit of registers, logs, packets, engines, translation, regulators or activity. -/
def Edit.ofEngine : Edit → Prop
  | .reg .. | .fld .. | .free | .log .. | .out _ | .noc _ | .ctx .. | .treg .. | .ldm .. | .vec _ | .xlt _ | .hats _ => True
  | .pwr g => ∀ p, g p = { p with activity := (g p).activity }
  | _ => False

theorem Block.frame_beyondEngines : Frame Block.beyondEngines where
  refl b := by simp [Block.beyondEngines]
  trans := by
    rintro b b' b'' ⟨h0, h1, h2, h3, h4, h5, h6, h7, h8, h9, h10, h11, h12, h13, h14, h15, h16⟩ h'
    have hpwr : { b'.pwr with activity := b''.pwr.activity } = { b.pwr with activity := b''.pwr.activity } := by rw [h16]
    simpa only [Block.beyondEngines, h0, h1, h2, h3, h4, h5, h6, h7, h8, h9, h10, h11, h12, h13, h14, h15, hpwr] using h'

theorem Edit.beyondEngines_apply {d : Edit} (h : d.ofEngine) (b : Block) : b.beyondEngines (d.apply b) := by
  cases d
  case pwr g => exact ⟨rfl, rfl, rfl, rfl, rfl, rfl, rfl, rfl, rfl, rfl, rfl, rfl, rfl, rfl, rfl, rfl, h b.pwr⟩
  case reg | fld | free | log | out | noc | ctx | treg | ldm | vec | xlt | hats =>
    exact ⟨rfl, rfl, rfl, rfl, rfl, rfl, rfl, rfl, rfl, rfl, rfl, rfl, rfl, rfl, rfl, rfl, rfl⟩
  all_goals exact h.elim

theorem Prog.within_ofEngine {p : Prog} (h : p.Only Edit.ofEngine) : Prog.Within Block.beyondEngines p :=
  h.within Block.frame_beyondEngines fun _ hd => Edit.beyondEngines_apply hd

/-! ### Operations every unit shares -/

section
variable (a e c n m t : Nat) (fl : Fld) (p : Pkt)

@[simp] theorem only_setF_engine : (setF a fl n).Only Edit.ofEngine := trivial
@[simp] theorem only_orF_engine : (orF a fl n).Only Edit.ofEngine := fun _ => trivial
@[simp] theorem only_addSat_engine : (addSat a fl n).Only Edit.ofEngine := fun _ => trivial
@[simp] theorem only_send_engine (o : Out) : (send o).Only Edit.ofEngine := trivial
@[simp] theorem only_free_engine : Prog.Only Edit.ofEngine (.edit .free) := trivial
@[simp] theorem only_modVec_engine (g : VecSt → VecSt) : (modVec g).Only Edit.ofEngine := trivial
@[simp] theorem only_modXlt_engine (g : XltSt → XltSt) : (modXlt g).Only Edit.ofEngine := trivial
@[simp] theorem only_modCtx_engine (g : VecCtx → VecCtx) : (modCtx n g).Only Edit.ofEngine := trivial
@[simp] theorem only_modTreg_engine (g : Treg → Treg) : (modTreg n g).Only Edit.ofEngine := trivial
@[simp] theorem only_sendPkt_engine : (sendPkt p).Only Edit.ofEngine := trivial
@[simp] theorem only_charge_engine (ep : Ep) : (charge ep a n m).Only Edit.ofEngine := by simp [charge, modHats, Edit.ofEngine]
@[simp] theorem only_tookTurn_engine : (tookTurn e c).Only Edit.ofEngine := fun _ => ⟨trivial, fun _ => rfl, trivial⟩
@[simp] theorem only_setFlags_engine : (setFlags e c m).Only Edit.ofEngine := by simp [setFlags]

/-! ### Accesses in flight (R182, R223, R303, R310) -/

@[simp] theorem only_releaseSegReads_engine : releaseSegReads.Only Edit.ofEngine := by simp [releaseSegReads]

@[simp] theorem only_completeAccess_engine (st : Status) (data : Option (List Byte)) (pu : Bool) :
    (completeAccess e c t st data pu).Only Edit.ofEngine := by
  simp [completeAccess, Edit.ofEngine]

@[simp] theorem only_sendAccess_engine (x : Access) : (sendAccess e c x).Only Edit.ofEngine := by
  intro b
  simp only [Prog.only_ite, Prog.only_all_cons, Prog.only_all_nil, Prog.only_when, only_modCtx_engine, implies_true, true_and, and_true]
  intro _
  split <;> simp

@[simp] theorem only_translateAccess_engine (x : Access) : (translateAccess e c x n m).Only Edit.ofEngine := by simp [translateAccess]

@[simp] theorem only_readEntry_engine : (readEntry n).Only Edit.ofEngine := by
  simp only [readEntry, Prog.only_read, Prog.only_for?, Prog.only_when]
  intro b k _ _
  split <;> simp

@[simp] theorem only_serveOne_engine : (serveOne n).Only Edit.ofEngine := by
  intro b
  dsimp only
  split <;> simp

@[simp] theorem only_requestWalk_engine (k : Walk) : (requestWalk k).Only Edit.ofEngine := by
  simp [requestWalk, serveWalks, List.replicate_succ]

@[simp] theorem only_startAccess_engine (first : Bool) (x : Access) : (startAccess e c first x).Only Edit.ofEngine := by
  intro b
  dsimp only
  split
  · simp
  · simp only [Prog.only_ite, only_completeAccess_engine, implies_true, true_and]
    intro _
    split <;> simp [walkAccess]

/-! ### Tile registers and reductions (R192–R199) -/

@[simp] theorem only_setTreg_engine : (setTreg e t n).Only Edit.ofEngine := by simp [setTreg]
@[simp] theorem only_setTregPois_engine : (setTregPois e t n).Only Edit.ofEngine := by simp [setTregPois]
@[simp] theorem only_zeroTreg_engine : (zeroTreg e t).Only Edit.ofEngine := by simp [zeroTreg]
@[simp] theorem only_armTreg_engine : (armTreg e t).Only Edit.ofEngine := by simp [armTreg]
@[simp] theorem only_applyBind_engine (v : W64) : (applyBind e t v).Only Edit.ofEngine := by simp [applyBind]
@[simp] theorem only_freeTreg_engine : (freeTreg e t).Only Edit.ofEngine := by
  intro b
  refine ⟨only_setTreg_engine _ _ _, ?_, trivial⟩
  split <;> simp
@[simp] theorem only_setJobs_engine (l : List RedJob) : (setJobs e l).Only Edit.ofEngine := by simp [setJobs]
@[simp] theorem only_jobReaders_engine (j : RedJob) (more : Bool) : (jobReaders e j more).Only Edit.ofEngine := by
  simp [jobReaders, addReader]

/-! ### Troughs (R227, R240) -/

@[simp] theorem only_modHandle_engine (g : Handle → Handle) : (modHandle e c n g).Only Edit.ofEngine := trivial
@[simp] theorem only_dropHandle_engine : (dropHandle e c n).Only Edit.ofEngine := trivial
@[simp] theorem only_putStatus_engine : (putStatus e c n m).Only Edit.ofEngine := trivial
@[simp] theorem only_takeTag_engine : (takeTag e c).Only Edit.ofEngine := trivial
@[simp] theorem only_sendClose_engine : (sendClose e c n).Only Edit.ofEngine := fun _ => trivial
@[simp] theorem only_handleAbort_engine (x : Handle) : (handleAbort e c n x).Only Edit.ofEngine := by simp [handleAbort]

end

/-! ### The instructions -/

section
variable {e c : Nat} {i : Instr}

/-- An instruction that issues with such an effect leaves the rest of the package alone, whichever way it goes. -/
theorem IssuesOnly.beyondEngines (hi : IssuesOnly Edit.ofEngine e c i) {s t : State} (h : exec i s = .next t) :
    s.blk.beyondEngines t.blk ∧ t.pending = s.pending := by
  obtain ⟨o, hbody, hexec⟩ := hi
  rw [hexec] at h
  refine ⟨State.run_within Block.frame_beyondEngines ?_ h, State.run_pending h⟩
  exact Prog.within_vecIssue Block.frame_beyondEngines e c o (fun _ _ => Edit.beyondEngines_apply trivial)
    (fun _ => Edit.beyondEngines_apply trivial) (fun _ => Edit.beyondEngines_apply trivial) (fun _ => Edit.beyondEngines_apply trivial)
    (Prog.within_ofEngine (only_tookTurn_engine e c)) fun b x w => Prog.within_ofEngine (hbody b x w)

theorem IssuesOnly.of_vecMem {op : Nat} {k : MemKind} {write : Bool} (h : ∀ s, exec i s = s.run (vecMem e c op k write)) :
    IssuesOnly Edit.ofEngine e c i :=
  .intro h fun _ _ _ => by
    simp [MemKind.ldmStore, MemKind.ldmLoad, MemKind.issue, Edit.ofEngine]

theorem IssuesOnly.of_vecReduce {op kind : Nat} (h : ∀ s, exec i s = s.run (vecReduce e c op kind)) : IssuesOnly Edit.ofEngine e c i :=
  .intro h fun _ _ _ => by simp

end

section
variable (e : Fin 24) (c : Fin 4)

theorem issuesOnly_memory : ∀ i ∈ [Instr.vld e c, .vlds e c, .vldx e c, .vst e c, .vsts e c, .vstx e c, .lds e c, .sts e c],
    IssuesOnly Edit.ofEngine e c i := by
  simp only [List.forall_mem_cons, List.not_mem_nil, false_implies, implies_true, and_true]
  and_intros <;> exact .of_vecMem fun _ => rfl

theorem issuesOnly_tile : ∀ i ∈ [Instr.trd e c, .trdc e c, .twr e c, .twrc e c, .tfree e c, .tzero e c, .tinfo e c],
    IssuesOnly Edit.ofEngine e c i := by
  simp only [List.forall_mem_cons, List.not_mem_nil, false_implies, implies_true, and_true]
  refine ⟨.intro (fun _ => rfl) fun _ _ _ => ?_, .intro (fun _ => rfl) fun _ _ _ => ?_, .intro (fun _ => rfl) fun _ _ _ => ?_,
    .intro (fun _ => rfl) fun _ _ _ => ?_, .intro (fun _ => rfl) fun _ _ _ => ?_, .intro (fun _ => rfl) fun _ _ _ => ?_,
    .intro (fun _ => rfl) fun _ _ _ => ?_⟩ <;> simp

theorem issuesOnly_reduce : ∀ i ∈ [Instr.rsum e c, .rsumsq e c, .rmax e c, .rmin e c, .ramax e c], IssuesOnly Edit.ofEngine e c i := by
  simp only [List.forall_mem_cons, List.not_mem_nil, false_implies, implies_true, and_true]
  and_intros <;> exact .of_vecReduce fun _ => rfl

theorem issuesOnly_trough : ∀ i ∈ [Instr.trgopen e c, .trgadd e c, .trgclose e c, .trgabort e c, .trgfin e c, .fence e c, .sacq e c,
    .srel e c], IssuesOnly Edit.ofEngine e c i := by
  simp only [List.forall_mem_cons, List.not_mem_nil, false_implies, implies_true, and_true]
  refine ⟨.intro (fun _ => rfl) fun _ _ _ => ?_, .intro (fun _ => rfl) fun _ _ _ => ?_, .intro (fun _ => rfl) fun _ _ _ => ?_,
    .intro (fun _ => rfl) fun _ _ _ => ?_, .intro (fun _ => rfl) fun _ _ _ => ?_, .intro (fun _ => rfl) fun _ _ _ => ?_,
    .intro (fun _ => rfl) fun _ _ _ => ?_, .intro (fun _ => rfl) fun _ _ _ => ?_⟩ <;> simp

end

/-- Settles O53: each of these instructions issues with an effect made of edits of registers, packets and the engines. -/
theorem engineLeavesPackageAlone : Obligations.EngineLeavesPackageAlone := by
  intro e c s t i hi h
  have hall := List.forall_mem_append.2 ⟨issuesOnly_memory e c, List.forall_mem_append.2 ⟨issuesOnly_tile e c,
    List.forall_mem_append.2 ⟨issuesOnly_reduce e c, issuesOnly_trough e c⟩⟩⟩
  obtain ⟨hbeyond, hpending⟩ := (hall i hi).beyondEngines h
  exact ⟨hbeyond, fun k => congrArg (Tbl.get memDefault k) hbeyond.1, hpending⟩

end Sys2Proof.Machine
end

section
/-! SUPPORT. The elements of the vector file (R172, R173): what an element reads after one is written, after a list of them is, and
after an instruction's destination is. -/

namespace Sys2Proof.Machine

/-! ### Bits -/

theorem clearBit_eq (n i : Nat) : clearBit n i = n - (n &&& 2 ^ i) := by
  have hand : n &&& 2 ^ i = if n.testBit i then 2 ^ i else 0 := by
    refine Nat.eq_of_testBit_eq fun j => ?_
    rw [Nat.testBit_and, Nat.testBit_two_pow]
    by_cases hj : i = j
    · subst hj
      cases hbit : n.testBit i
      · rw [Bool.false_and, if_neg Bool.false_ne_true, Nat.zero_testBit]
      · rw [if_pos rfl, Nat.testBit_two_pow_self, decide_eq_true rfl, Bool.true_and]
    · rw [decide_eq_false hj, Bool.and_false]
      split
      · rw [Nat.testBit_two_pow_of_ne hj]
      · rw [Nat.zero_testBit]
  rw [clearBit, hand]
  split
  · rfl
  · rw [Nat.sub_zero]

theorem testBit_putBit (n i j : Nat) (v : Bool) : (putBit n i v).testBit j = if j = i then v else n.testBit j := by
  have hbit : (2 ^ i).testBit j = decide (j = i) := by rw [Nat.testBit_two_pow]; simp [eq_comm]
  cases v
  · rw [putBit, if_neg Bool.false_ne_true, clearBit_eq, testBit_sub_and, hbit]
    by_cases hj : j = i <;> simp [hj]
  · rw [putBit, if_pos rfl, setBit, Nat.testBit_or, hbit]
    by_cases hj : j = i <;> simp [hj]

theorem testBit_bits (n lo w k : Nat) : (bits n lo w).testBit k = (decide (k < w) && n.testBit (lo + k)) := by
  rw [bits, Nat.testBit_mod_two_pow, Nat.testBit_div_two_pow, Nat.add_comm]

/-- A number with the field of `w` bits at `o` replaced. -/
theorem testBit_replaceField (n o w v k : Nat) :
    (n - bits n o w * 2 ^ o + v % 2 ^ w * 2 ^ o).testBit k = if o ≤ k ∧ k < o + w then v.testBit (k - o) else n.testBit k := by
  have hlo : n % 2 ^ o < 2 ^ o := Nat.mod_lt _ (Nat.two_pow_pos o)
  have hsplit : ∀ m < 2 ^ w, (2 ^ o * (2 ^ w * (n / 2 ^ o / 2 ^ w) + m) + n % 2 ^ o).testBit k =
      if k < o then (n % 2 ^ o).testBit k else if k - o < w then m.testBit (k - o) else (n / 2 ^ o / 2 ^ w).testBit (k - o - w) := by
    intro m hm
    rw [Nat.testBit_two_pow_mul_add _ hlo, Nat.testBit_two_pow_mul_add _ hm]
  have hmid : n / 2 ^ o % 2 ^ w < 2 ^ w := Nat.mod_lt _ (Nat.two_pow_pos w)
  have hn : n = 2 ^ o * (2 ^ w * (n / 2 ^ o / 2 ^ w) + n / 2 ^ o % 2 ^ w) + n % 2 ^ o := by rw [Nat.div_add_mod, Nat.div_add_mod]
  have hnew : n - bits n o w * 2 ^ o + v % 2 ^ w * 2 ^ o = 2 ^ o * (2 ^ w * (n / 2 ^ o / 2 ^ w) + v % 2 ^ w) + n % 2 ^ o := by
    rw [bits]
    generalize n / 2 ^ o / 2 ^ w = q at *
    generalize n / 2 ^ o % 2 ^ w = m at *
    generalize n % 2 ^ o = r at *
    generalize v % 2 ^ w = u
    subst hn
    have hplace (x : Nat) : 2 ^ o * (2 ^ w * q + x) + r = (2 ^ o * (2 ^ w * q) + r) + x * 2 ^ o := by
      rw [Nat.mul_add, Nat.mul_comm (2 ^ o) x, Nat.add_right_comm]
    rw [hplace m, hplace u, Nat.add_sub_cancel]
  have hold := hsplit _ hmid
  rw [← hn] at hold
  rw [hnew, hsplit _ (Nat.mod_lt _ (Nat.two_pow_pos w)), hold, Nat.testBit_mod_two_pow v]
  by_cases h1 : k < o
  · rw [if_pos h1, if_pos h1, if_neg (by omega)]
  · by_cases h2 : k - o < w
    · rw [if_neg h1, if_pos h2, if_pos (by omega), decide_eq_true h2, Bool.true_and]
    · rw [if_neg h1, if_neg h2, if_neg h1, if_neg h2, if_neg (by omega)]

/-! ### One element -/

/-- Element `i` of width `w` of register `r` of a vector file. -/
def laneElem (w r : Nat) (t : Tbl Lane) (i : Nat) : Nat :=
  bits (Tbl.get (dflt 0) (r * 256 + i / (32 / w)) t).toNat (w * (i % (32 / w))) w

theorem VecCtx.elem_eq_laneElem (x : VecCtx) (w r i : Nat) : x.elem w r i = laneElem w r x.v i := rfl

theorem testBit_laneElem (w r : Nat) (t : Tbl Lane) (i k : Nat) : (laneElem w r t i).testBit k =
    (decide (k < w) && (Tbl.get (dflt 0) (r * 256 + i / (32 / w)) t).getLsbD (w * (i % (32 / w)) + k)) := by
  rw [laneElem, testBit_bits, BitVec.testBit_toNat]

section
variable {w : Nat} (hw : w = 32 ∨ w = 16 ∨ w = 8)
include hw

/-- Elements have lanes and places of their own. -/
theorem elem_place_inj {r r' i j k : Nat} (hi : i < vlmax w) (hj : j < vlmax w) (hlane : r' * 256 + j / (32 / w) = r * 256 + i / (32 / w))
    (hk : k < w) :
    (w * (i % (32 / w)) ≤ w * (j % (32 / w)) + k ∧ w * (j % (32 / w)) + k < w * (i % (32 / w)) + w) ↔ r' = r ∧ j = i := by
  rcases hw with rfl | rfl | rfl <;> simp only [vlmax, Nat.reduceDiv] at * <;> omega

theorem elem_place_lt {j k : Nat} (hk : k < w) : w * (j % (32 / w)) + k < 32 := by
  rcases hw with rfl | rfl | rfl <;> simp only [Nat.reduceDiv] <;> omega

/-- An element written reads as written, cut to its width; every other element as before. -/
theorem laneElem_putElem (r r' : Nat) (t : Tbl Lane) {i j : Nat} (val : Nat) (hi : i < vlmax w) (hj : j < vlmax w) :
    laneElem w r' (putElem w r t i val) j = if r' = r ∧ j = i then val % 2 ^ w else laneElem w r' t j := by
  refine Nat.eq_of_testBit_eq fun k => ?_
  rw [testBit_laneElem]
  by_cases hk : k < w
  · rw [decide_eq_true hk, Bool.true_and, putElem, Tbl.get_set]
    by_cases hlane : r' * 256 + j / (32 / w) = r * 256 + i / (32 / w)
    · rw [if_pos hlane, BitVec.getLsbD_ofNat, decide_eq_true (elem_place_lt hw hk), Bool.true_and, testBit_replaceField]
      simp only [elem_place_inj hw hi hj hlane hk]
      split
      · rename_i h
        rw [h.2, Nat.add_sub_cancel_left, Nat.testBit_mod_two_pow, decide_eq_true hk, Bool.true_and]
      · rw [testBit_laneElem, decide_eq_true hk, Bool.true_and, hlane, BitVec.testBit_toNat]
    · rw [if_neg hlane, if_neg (fun h => hlane (by rw [h.1, h.2])), testBit_laneElem, decide_eq_true hk, Bool.true_and]
  · rw [decide_eq_false hk, Bool.false_and]
    split
    · rw [Nat.testBit_mod_two_pow, decide_eq_false hk, Bool.false_and]
    · rw [testBit_laneElem, decide_eq_false hk, Bool.false_and]

/-! ### Lists of elements -/

/-- The elements of a register after those of a list are written, each at most once. -/
theorem laneElem_foldl_putElem (r : Nat) {l : List (Nat × Nat)} (t : Tbl Lane) {j : Nat} (hl : ∀ e ∈ l, e.1 < vlmax w)
    (hnodup : (l.map Prod.fst).Nodup) (hj : j < vlmax w) :
    laneElem w r (l.foldl (fun t e => putElem w r t e.1 e.2) t) j =
      match l.find? (fun e => decide (e.1 = j)) with
      | some e => e.2 % 2 ^ w
      | none => laneElem w r t j := by
  induction l generalizing t with
  | nil => rfl
  | cons e l ih =>
    rw [List.map_cons, List.nodup_cons] at hnodup
    rw [List.foldl_cons, ih _ (fun x hx => hl x (List.mem_cons_of_mem _ hx)) hnodup.2,
      laneElem_putElem hw r r t e.2 (hl e List.mem_cons_self) hj]
    by_cases hej : e.1 = j
    · have hnone : l.find? (fun e => decide (e.1 = j)) = none := by
        refine List.find?_eq_none.2 fun x hx => ?_
        rw [decide_eq_true_eq]
        exact fun hxj => hnodup.1 (List.mem_map.2 ⟨x, hx, hxj.trans hej.symm⟩)
      rw [hnone, List.find?_cons_of_pos (by exact decide_eq_true hej)]
      exact if_pos ⟨rfl, hej.symm⟩
    · rw [List.find?_cons_of_neg (by simpa using hej), if_neg (fun h => hej h.2.symm)]

/-- The elements of every other register are as before. -/
theorem laneElem_foldl_putElem_other {r r' : Nat} (hr : r' ≠ r) {l : List (Nat × Nat)} (t : Tbl Lane) {j : Nat}
    (hl : ∀ e ∈ l, e.1 < vlmax w) (hj : j < vlmax w) :
    laneElem w r' (l.foldl (fun t e => putElem w r t e.1 e.2) t) j = laneElem w r' t j := by
  induction l generalizing t with
  | nil => rfl
  | cons e l ih =>
    rw [List.foldl_cons, ih _ (fun x hx => hl x (List.mem_cons_of_mem _ hx)), laneElem_putElem hw r r' t e.2 (hl e List.mem_cons_self) hj,
      if_neg (fun h => hr h.1)]

/-- Elements zeroed. -/
theorem laneElem_foldl_zero (r r' : Nat) {l : List Nat} (t : Tbl Lane) {j : Nat} (hl : ∀ i ∈ l, i < vlmax w) (hj : j < vlmax w) :
    laneElem w r' (l.foldl (fun t i => putElem w r t i 0) t) j = if r' = r ∧ j ∈ l then 0 else laneElem w r' t j := by
  induction l generalizing t with
  | nil => simp
  | cons i l ih =>
    rw [List.foldl_cons, ih _ (fun x hx => hl x (List.mem_cons_of_mem _ hx)), laneElem_putElem hw r r' t 0 (hl i List.mem_cons_self) hj]
    by_cases hr : r' = r <;> by_cases hji : j = i <;> simp [hr, hji]

end
end Sys2Proof.Machine
end

section
/-! SUPPORT. An instruction that issues, and its destination: SETVL and the elementwise instructions (R172, R173, R204, R214). -/

namespace Sys2Proof.Machine

/-! ### Issue -/

/-- An instruction that issues, its registers and its poison given by name. -/
theorem State.run_issue {s : State} {e c op : Nat} {o : VecOp} {x : VecCtx} {w : Nat} {reads writes : List VReg} {p : Bool}
    (hx : x = s.blk.vctx (ctxKey e c)) (hw : w = s.blk.ctxWord e c) (h : s.issues e c op reads writes p = true)
    (hop : assignedOp op = true) (ho : o.op = op) (hreads : o.reads w = reads) (hwrites : o.writes w = writes)
    (hpois : o.poisoned s.blk x w = p) (hlegal : o.legal s.blk x w = true) (hready : o.ready s.blk x w = true)
    (hrefuse : o.refuse s.blk x w = none) : s.run (vecIssue e c o) = .next (s.retires e c p (o.body s.blk x w)) := by
  subst ho hreads hwrites hpois
  exact State.run_vecIssue hx hw h hop hlegal hready hrefuse

theorem VecOp.poisoned_of_reads {o : VecOp} {b : Block} {x : VecCtx} {w : Nat} {p : Bool} (hp : (o.reads w).any x.isPois = p)
    (ho : o.pois b x w = false) : o.poisoned b x w = p := by rw [VecOp.poisoned, hp, ho, Bool.or_false]

section
variable {e c op : Nat} {s : State} {x : VecCtx} {w : Nat} {legal : Nat → Bool} {reads writes : Nat → List VReg} {p : Bool}

/-- A control instruction that issues and is legal does its effect. -/
theorem State.run_vecCtl (body : Block → VecCtx → Nat → Prog) (hx : x = s.blk.vctx (ctxKey e c)) (hw : w = s.blk.ctxWord e c)
    (h : s.issues e c op (reads w) (writes w) p = true) (hop : assignedOp op = true) (hp : (reads w).any x.isPois = p)
    (hlegal : legal w = true) : s.run (vecCtl e c op legal reads writes body) = .next (s.retires e c p (body s.blk x w)) :=
  State.run_issue hx hw h hop rfl rfl rfl (VecOp.poisoned_of_reads hp rfl) hlegal rfl rfl

end

theorem Prog.run_all_last (a b c q : Prog) (x : Block) : (Prog.all [a, b, c, q]).run x = q.run ((Prog.all [a, b, c]).run x) := rfl

/-- The block of an instruction that issues, before its effect. -/
def Block.issued (b : Block) (e c : Nat) (p : Bool) : Block :=
  (Prog.all [tookTurn e c, .when p (setFlags e c Flag.psn), setPc e c (b.ctxPc e c + 1)]).run b

theorem State.retires_blk (s : State) (e c : Nat) (p : Bool) (q : Prog) : (s.retires e c p q).blk = q.run (s.blk.issued e c p) := by
  rw [State.retires, State.did_blk, Block.issued]
  exact Prog.run_all_last ..

theorem Block.vctx_modCtx (b : Block) (k : Nat) (g : VecCtx → VecCtx) : ((modCtx k g).run b).vctx k = g (b.vctx k) :=
  (Block.vctx_ctx b k k g).trans (if_pos rfl)

theorem Block.vctx_setF (b : Block) (a : Nat) (fl : Fld) (v k : Nat) : ((setF a fl v).run b).vctx k = b.vctx k := rfl
theorem Block.vctx_orF (b : Block) (a : Nat) (fl : Fld) (m k : Nat) : ((orF a fl m).run b).vctx k = b.vctx k := rfl

theorem Block.vctx_free (b : Block) (k : Nat) : ((Prog.edit .free).run b).vctx k = b.vctx k := rfl

theorem Block.vctx_setFlags (b : Block) (e c m k : Nat) : ((setFlags e c m).run b).vctx k = b.vctx k := by
  rw [setFlags]
  cases decide (m ≠ 0)
  · rw [Prog.when_false, Prog.run_skip]
  · rw [Prog.when_true, Block.vctx_orF]

/-- A context with the mark of a branch out of the instruction memory. -/
def VecCtx.withFar (x : VecCtx) (far : Bool) : VecCtx := { x with far := far }

theorem Block.vctx_setPc (b : Block) (e c : Nat) (t : Int) :
    ((setPc e c t).run b).vctx (ctxKey e c) = (b.vctx (ctxKey e c)).withFar (decide (t < 0 ∨ 32768 ≤ t)) := by
  rw [setPc, Prog.run_all_cons, Prog.run_all_cons, Prog.run_all_nil, Block.vctx_modCtx, Block.vctx_setF, VecCtx.withFar]

/-- Issue leaves the registers of the context alone. -/
theorem Block.vctx_issued (b : Block) (e c : Nat) (p : Bool) :
    ∃ far, (b.issued e c p).vctx (ctxKey e c) = (b.vctx (ctxKey e c)).withFar far := by
  have hturn : ((tookTurn e c).run b).vctx (ctxKey e c) = b.vctx (ctxKey e c) := rfl
  refine ⟨decide ((b.ctxPc e c : Int) + 1 < 0 ∨ 32768 ≤ (b.ctxPc e c : Int) + 1), ?_⟩
  rw [Block.issued, Prog.run_all_cons, Prog.run_all_cons, Prog.run_all_cons, Prog.run_all_nil, Block.vctx_setPc]
  cases p
  · rw [Prog.when_false, Prog.run_skip, hturn]
  · rw [Prog.when_true, Block.vctx_setFlags, hturn]

/-! ### SETVL (R172) -/

theorem VecCtx.sc_putS (x : VecCtx) (d n : Nat) (v : W64) (p : Bool) :
    (x.putS d v p).sc n = if n = d ∧ n ≠ 0 then v else x.sc n := by
  unfold VecCtx.putS VecCtx.sc
  by_cases hd : d = 0
  · rw [if_pos hd]
    by_cases hn : n = 0 <;> simp [hn, hd]
  · rw [if_neg hd, Tbl.get_set]
    by_cases hn : n = 0 <;> simp [hn]

theorem VecCtx.putS_vector (x : VecCtx) (d : Nat) (v : W64) (p : Bool) : (x.putS d v p).vl = x.vl ∧ (x.putS d v p).ew = x.ew ∧
    (x.putS d v p).tailZ = x.tailZ ∧ (x.putS d v p).v = x.v ∧ (x.putS d v p).m = x.m := by
  unfold VecCtx.putS
  split <;> exact ⟨rfl, rfl, rfl, rfl, rfl⟩

/-- The width that the low bits of IMM32 code (R210). -/
theorem setvl_width {n ew : Nat} (h : (n % 4 = 0 ∧ ew = 32) ∨ (n % 4 = 1 ∧ ew = 16) ∨ (n % 4 = 2 ∧ ew = 8)) :
    n % 4 ≠ 3 ∧ [32, 16, 8].getD (n % 4) 32 = ew := by
  rcases h with ⟨h, rfl⟩ | ⟨h, rfl⟩ | ⟨h, rfl⟩ <;> rw [h] <;> decide

theorem State.run_setvl {e : Fin 24} {c : Fin 4} {s : State} {x : VecCtx} {w ew : Nat} (hx : x = s.blk.vctx (ctxKey e c))
    (hw : w = s.blk.ctxWord e c) (h : s.issues e c 0x03 [.s (Ins.jb w)] [.s (Ins.ja w)] (x.isPois (.s (Ins.jb w))) = true)
    (hok : jOk w false true true true = true) (himm : Ins.imm32 w < 8)
    (hwidth : (Ins.imm32 w % 4 = 0 ∧ ew = 32) ∨ (Ins.imm32 w % 4 = 1 ∧ ew = 16) ∨ (Ins.imm32 w % 4 = 2 ∧ ew = 8)) :
    exec (.setvl e c) s = .next (s.retires e c (x.isPois (.s (Ins.jb w))) (.all [
      modCtx (ctxKey e c) (fun y => { y with
        vl := min (x.sc (Ins.jb w)).toNat (vlmax ew), ew := ew, tailZ := (Ins.imm32 w).testBit 2 }),
      putA e c w (BitVec.ofNat 64 (min (x.sc (Ins.jb w)).toNat (vlmax ew))) (x.isPois (.s (Ins.jb w)))])) := by
  obtain ⟨hcode, hew⟩ := setvl_width hwidth
  have hpois : [VReg.s (Ins.jb w)].any x.isPois = x.isPois (.s (Ins.jb w)) := Bool.or_false _
  refine (State.run_vecCtl _ hx hw h rfl hpois (Bool.and_eq_true_iff.2 ⟨hok, decide_eq_true ⟨himm, hcode⟩⟩)).trans ?_
  subst hx
  simp only [hew]

/-- Settles O50: SETVL writes VL, the width and its scalar, and an element's bits are those of its lane. -/
theorem setvlRule : Obligations.SetvlRule := by
  refine ⟨fun e c s x w ew hx hw h hok himm hwidth => ⟨_, State.run_setvl hx hw h hok himm hwidth, ?_⟩, rfl, rfl, rfl,
    fun x w r i _ _ k hk => ?_⟩
  · obtain ⟨far, hissued⟩ := Block.vctx_issued s.blk e c (x.isPois (.s (Ins.jb w)))
    rw [State.retires_blk, Prog.run_all_cons, Prog.run_all_cons, Prog.run_all_nil, putA, Block.vctx_modCtx, Block.vctx_modCtx, hissued,
      ← hx]
    obtain ⟨hvl, hew, htail, hv, hm⟩ := VecCtx.putS_vector { x.withFar far with
      vl := min (x.sc (Ins.jb w)).toNat (vlmax ew), ew := ew, tailZ := (Ins.imm32 w).testBit 2 } (Ins.ja w)
      (BitVec.ofNat 64 (min (x.sc (Ins.jb w)).toNat (vlmax ew))) (x.isPois (.s (Ins.jb w)))
    exact ⟨hvl, hew, htail, hv, hm, fun n => VecCtx.sc_putS _ _ _ _ _⟩
  · rw [VecCtx.elem_eq_laneElem, testBit_laneElem, decide_eq_true hk, Bool.true_and]

end Sys2Proof.Machine
end

section
/-! SUPPORT. The destination of an elementwise instruction (R173, R204, R214). -/

namespace Sys2Proof.Machine

/-! ### Active elements -/

theorem VecCtx.mem_active {x : VecCtx} {mask i : Nat} (h : i ∈ x.active mask) : i < x.vl :=
  List.mem_range.1 (List.mem_filter.1 h).1

theorem VecCtx.nodup_active (x : VecCtx) (mask : Nat) : (x.active mask).Nodup := List.nodup_range.filter _

/-- Bits of a mask register at VL and above are never looked at. -/
theorem VecCtx.active_congr {x y : VecCtx} {mask : Nat} (hvl : x.vl = y.vl)
    (h : ∀ i, i < x.vl → (x.mreg mask).testBit i = (y.mreg mask).testBit i) : x.active mask = y.active mask := by
  rw [VecCtx.active, VecCtx.active, ← hvl]
  exact List.filter_congr fun i hi => h i (List.mem_range.1 hi)

/-! ### What a vector destination reads afterwards -/

/-- The vector file after a destination is written: the results, then the tail zeroed under that policy. -/
theorem VecCtx.v_putV (x : VecCtx) (w mask d : Nat) (res : List (Nat × Nat)) (pois : Bool) : (x.putV w mask d res pois).v =
    if x.tailZ then ((List.range (vlmax w)).filter fun i => x.vl ≤ i).foldl (fun t i => putElem w d t i 0)
      (res.foldl (fun t e => putElem w d t e.1 e.2) x.v)
    else res.foldl (fun t e => putElem w d t e.1 e.2) x.v := rfl

theorem VecCtx.vPois_putV (x : VecCtx) (w mask d : Nat) (res : List (Nat × Nat)) (pois : Bool) : (x.putV w mask d res pois).vPois =
    putBit x.vPois d (pois || (((!x.tailZ && decide (x.vl < vlmax w)) || decide (res.length < x.vl)) && x.vPois.testBit d)) := rfl

/-- Results are of elements below VL. -/
theorem VecCtx.result_below_vl {x : VecCtx} {mask : Nat} {res : List (Nat × Nat)} (hres : res.map Prod.fst = x.active mask)
    {e : Nat × Nat} (he : e ∈ res) : e.1 < x.vl := VecCtx.mem_active (hres ▸ List.mem_map.2 ⟨e, he, rfl⟩)

section
variable {x : VecCtx} {w mask d : Nat} {res : List (Nat × Nat)} {pois : Bool} (hw : w = 32 ∨ w = 16 ∨ w = 8) (hvl : x.vl ≤ vlmax w)
  (hres : res.map Prod.fst = x.active mask)
include hw hvl hres

/-- An element of the destination: its result, 0 in a zeroed tail, else what it was. -/
theorem VecCtx.elem_putV {i : Nat} (hi : i < vlmax w) : (x.putV w mask d res pois).elem w d i =
    match res.find? (fun e => decide (e.1 = i)) with
    | some e => e.2 % 2 ^ w
    | none => if x.tailZ = true ∧ x.vl ≤ i then 0 else x.elem w d i := by
  have hbelow : ∀ e ∈ res, e.1 < x.vl := fun e he => VecCtx.result_below_vl hres he
  have hresult := laneElem_foldl_putElem hw d x.v (fun e he => Nat.lt_of_lt_of_le (hbelow e he) hvl)
    (hres ▸ x.nodup_active mask) hi
  rw [VecCtx.elem_eq_laneElem, VecCtx.v_putV]
  by_cases htail : x.tailZ = true
  · rw [if_pos htail, laneElem_foldl_zero hw d d _ (fun j hj => List.mem_range.1 (List.mem_filter.1 hj).1) hi, hresult]
    simp only [List.mem_filter, List.mem_range, hi, decide_eq_true_eq, true_and, htail]
    cases hfind : res.find? (fun e => decide (e.1 = i)) with
    | none => rfl
    | some e =>
      have hei : e.1 = i := by simpa using List.find?_some hfind
      exact if_neg (Nat.not_le.2 (hei ▸ hbelow e (List.mem_of_find?_eq_some hfind)))
  · rw [if_neg htail, hresult]
    cases res.find? (fun e => decide (e.1 = i)) with
    | none => exact (if_neg fun h => htail h.1).symm
    | some e => rfl

/-- An element of another vector. -/
theorem VecCtx.elem_putV_other {r i : Nat} (hr : r ≠ d) (hi : i < vlmax w) : (x.putV w mask d res pois).elem w r i = x.elem w r i := by
  have hother := laneElem_foldl_putElem_other hw hr x.v
    (fun e he => Nat.lt_of_lt_of_le (VecCtx.result_below_vl hres (e := e) he) hvl) hi
  rw [VecCtx.elem_eq_laneElem, VecCtx.v_putV]
  split
  · rw [laneElem_foldl_zero hw d r _ (fun j hj => List.mem_range.1 (List.mem_filter.1 hj).1) hi, if_neg (fun h => hr h.1), hother]
    rfl
  · exact hother

end

/-! ### Elementwise instructions -/

/-- The results of an elementwise instruction's active elements. -/
def arithResults (sh : ArithShape) (g : ElemIn → FRes) (b : Block) (x : VecCtx) (w : Nat) : List (Nat × FRes) :=
  (x.active (Ins.mask w)).map fun i => (i, g {
    fmt := Ins.fmt w, mode := x.modeOf (Ins.rm w), u := srDraw b i, free := Config.freeElem b.free i,
    a := x.elem (fmtWidth (Ins.fmt w)) (Ins.a w) i, b := x.bElem (Ins.fmt w) sh.intB w i,
    c := x.elem (fmtWidth (Ins.fmt w)) (Ins.c w) i })

theorem State.run_vecArith {s : State} {e c op : Nat} {sh : ArithShape} (g : ElemIn → FRes) {x : VecCtx} {w : Nat}
    (hx : x = s.blk.vctx (ctxKey e c)) (hw : w = s.blk.ctxWord e c)
    (h : s.issues e c op (vecReads sh w) [.v (Ins.d w)] ((vecReads sh w).any x.isPois) = true) (hop : assignedOp op = true)
    (hok : arithOk sh x w = true) (hrm : rmOk (Ins.rm w) = true) :
    s.run (vecArith e c op sh g) = .next (s.retires e c ((vecReads sh w).any x.isPois) (.all [
      modCtx (ctxKey e c) (fun y => y.putV (fmtWidth (Ins.fmt w)) (Ins.mask w) (Ins.d w)
        ((arithResults sh g s.blk x w).map fun t => (t.1, t.2.val)) ((vecReads sh w).any x.isPois)),
      setFlags e c ((arithResults sh g s.blk x w).foldl (fun n t => n ||| t.2.flags) 0), .edit .free])) :=
  State.run_issue hx hw h hop rfl rfl rfl (Bool.or_false _) (by simp only [hok, hrm, Bool.and_self]) rfl rfl

theorem fst_arithResults (sh : ArithShape) (g : ElemIn → FRes) (b : Block) (x : VecCtx) (w : Nat) :
    ((arithResults sh g b x w).map fun t => (t.1, t.2.val)).map Prod.fst = x.active (Ins.mask w) := by
  simp [arithResults, Function.comp_def]

theorem arithOk_width {sh : ArithShape} {x : VecCtx} {w : Nat} (h : arithOk sh x w = true) : fmtWidth (Ins.fmt w) = x.ew := by
  simp only [arithOk, Bool.and_eq_true, decide_eq_true_eq] at h
  exact h.1.1.2

/-- Settles O51: a destination is the results put over the old vector, element by element, and an instruction puts its own there. -/
theorem elementwiseDestination : Obligations.ElementwiseDestination := by
  refine ⟨fun x w mask d res pois hw hvl _ hres y hy => ?_, fun x y mask hvl h => VecCtx.active_congr hvl h,
    fun e c op sh g s x w hx hword h hop hok hrm => ?_⟩
  · subst hy
    have hlen : res.length = (x.active mask).length := by rw [← hres, List.length_map]
    refine ⟨fun i hi => VecCtx.elem_putV hw hvl hres hi, fun r i _ hr hi => VecCtx.elem_putV_other hw hvl hres hr hi, ?_, fun r hr => ?_,
      rfl, rfl, rfl⟩
    · rw [VecCtx.vPois_putV, testBit_putBit, if_pos rfl, hlen]
    · rw [VecCtx.vPois_putV, testBit_putBit, if_neg hr]
  · refine ⟨_, _, State.run_vecArith g hx hword h hop hok hrm, fst_arithResults sh g s.blk x w, ?_⟩
    obtain ⟨far, hissued⟩ := Block.vctx_issued s.blk e c ((vecReads sh w).any x.isPois)
    rw [State.retires_blk, Prog.run_all_cons, Prog.run_all_cons, Prog.run_all_cons, Prog.run_all_nil, Block.vctx_free,
      Block.vctx_setFlags, Block.vctx_modCtx, hissued, arithOk_width hok, ← hx]
    exact ⟨rfl, rfl, rfl, rfl⟩

end Sys2Proof.Machine
end

section
/-! SUPPORT. The control instructions (R210–R212, R228). -/

namespace Sys2Proof.Machine

/-- The branch of a counting loop is taken while the count is not 0. -/
theorem countLoop_eq (e c : Nat) (b : Block) (x : VecCtx) (w : Nat) (v : W64) : countLoop e c b x w v = .all [
    putA e c w v (x.isPois (.s (Ins.ja w))),
    .when (decide (Ins.ja w ≠ 0 ∧ v ≠ 0)) (setPc e c (b.ctxPc e c + Ins.jump w))] := by
  rw [countLoop, Bool.decide_and, takeBranch]

/-- Settles O29: each control instruction issues as its row of R210 says. -/
theorem controlInstructions : Obligations.ControlInstructions := by
  intro e c s x w hx hw
  have hone : ∀ r, [r].any x.isPois = x.isPois r := fun r => Bool.or_false _
  refine ⟨fun h hok => ?nop, fun h hok hpend hbad => ?halt, fun ew vl h hok himm hew hvl => ?setvl,
    fun p hp h hok hcond => ?br, fun h hok => ?jal, fun h hok => ?jr, fun v hok => ⟨fun h hv => ?dbnz, fun h hv => ?vloop⟩,
    fun h hok => ?li, fun h hok => ?lih, fun h hok himm hjobs => ?flags, fun h hok => ?rdts⟩
  case nop => exact State.run_vecCtl _ hx hw h rfl rfl hok
  case halt =>
    refine State.run_issue hx hw h rfl rfl rfl rfl (VecOp.poisoned_of_reads (hone _) rfl) hok ?_ ?_
    · exact (congrArg Bool.not hpend : _ = true)
    · exact if_neg (by rw [hbad]; exact Bool.false_ne_true)
  case setvl =>
    subst hvl
    exact State.run_setvl hx hw h hok himm hew
  case br =>
    have hp' : [VReg.s (Ins.ja w), .s (Ins.jb w)].any x.isPois = p := by rw [hp, List.any_cons, hone]
    have hrun : exec (.br e c) s = .next (s.retires e c p (.when (condHolds (Ins.cond w) (x.sc (Ins.ja w)) (x.sc (Ins.jb w)))
        (setPc e c (s.blk.ctxPc e c + Ins.jump w)))) :=
      State.run_vecCtl _ hx hw h rfl hp' (Bool.and_eq_true_iff.2 ⟨hok, decide_eq_true hcond⟩)
    exact ⟨fun htaken => by rw [hrun, htaken, Prog.when_true], fun hon => by rw [hrun, hon, Prog.when_false]⟩
  case jal => exact State.run_vecCtl _ hx hw h rfl rfl hok
  case jr => exact State.run_vecCtl _ hx hw h rfl (hone _) hok
  case dbnz | vloop =>
    subst hv
    exact (State.run_vecCtl _ hx hw h rfl (hone _) hok).trans (by rw [countLoop_eq])
  case li => exact State.run_vecCtl _ hx hw h rfl rfl hok
  case lih => exact State.run_vecCtl _ hx hw h rfl (hone _) hok
  case flags =>
    refine State.run_issue hx hw h rfl rfl rfl rfl (VecOp.poisoned_of_reads rfl rfl) ?_ ?_ rfl
    · exact Bool.and_eq_true_iff.2 ⟨hok, decide_eq_true himm⟩
    · exact (congrArg Bool.not hjobs : _ = true)
  case rdts => exact State.run_vecCtl _ hx hw h rfl rfl hok

end Sys2Proof.Machine
end

section
/-! SUPPORT. The rows of vector arithmetic and of compares (R214, R215). -/

namespace Sys2Proof.Machine

/-- A row of vector arithmetic: its instruction, opcode, shape and the operation on an element. -/
def IsArith (r : (Fin 24 → Fin 4 → Instr) × Nat × ArithShape × (ElemIn → FRes)) : Prop :=
  assignedOp r.2.1 = true ∧ ∀ e c s, exec (r.1 e c) s = s.run (vecArith e c r.2.1 r.2.2.1 r.2.2.2)

/-- A row of compares: its instruction, opcode, whether a NaN is quiet, and the relation. -/
def IsCompare (r : (Fin 24 → Fin 4 → Instr) × Nat × Bool × (Nat → Nat → Nat → Bool)) : Prop :=
  assignedOp r.2.1 = true ∧ ∀ e c s, exec (r.1 e c) s = s.run (vecCompare e c r.2.1 r.2.2.1 r.2.2.2)

/-- The operands of a compare's active elements. -/
def compareOperands (x : VecCtx) (w : Nat) : List (Nat × Nat × Nat) :=
  (x.active (Ins.mask w)).map fun i => (i, x.elem (fmtWidth (Ins.fmt w)) (Ins.a w) i, x.bElem (Ins.fmt w) false w i)

theorem State.run_vecCompare {s : State} {e c op : Nat} (quiet : Bool) (g : Nat → Nat → Nat → Bool) {x : VecCtx} {w : Nat}
    (hx : x = s.blk.vctx (ctxKey e c)) (hw : w = s.blk.ctxWord e c)
    (h : s.issues e c op (vecReads shapeFI2 w) [] ((vecReads shapeFI2 w).any x.isPois) = true) (hop : assignedOp op = true)
    (hok : arithOk shapeFI2 x w = true) (hrm : Ins.rm w = 0) (hd : Ins.d w < 8) :
    s.run (vecCompare e c op quiet g) = .next (s.retires e c ((vecReads shapeFI2 w).any x.isPois) (.all [
      modCtx (ctxKey e c) (fun y => y.putM (Ins.d w) ((compareOperands x w).map fun t => (t.1, g (Ins.fmt w) t.2.1 t.2.2))),
      setFlags e c (if !quiet && (compareOperands x w).any (fun t => elemNan (Ins.fmt w) t.2.1 t.2.2) then Flag.nv else 0)])) :=
  State.run_issue hx hw h hop rfl rfl rfl (VecOp.poisoned_of_reads rfl rfl)
    (Bool.and_eq_true_iff.2 ⟨Bool.and_eq_true_iff.2 ⟨hok, decide_eq_true hrm⟩, decide_eq_true hd⟩) rfl rfl

/-- Settles O31: each row is an elementwise instruction or a compare with its operation. -/
theorem vectorArithmetic : Obligations.VectorArithmetic := by
  constructor
  · intro r hr
    have hrow : IsArith r := by
      revert r
      simp only [List.forall_mem_cons, List.not_mem_nil, false_implies, implies_true, and_true]
      and_intros <;> intros <;> rfl
    obtain ⟨hop, hexec⟩ := hrow
    intro e c s x w l p res hx hw hl hp h hok hrm hres
    subst hl hp hres
    exact (hexec e c s).trans (State.run_vecArith _ hx hw h hop hok hrm)
  · intro r hr
    have hrow : IsCompare r := by
      revert r
      simp only [List.forall_mem_cons, List.not_mem_nil, false_implies, implies_true, and_true]
      and_intros <;> intros <;> rfl
    obtain ⟨hop, hexec⟩ := hrow
    intro e c s x w l p ab hx hw hl hp h hok hrm hd hab
    subst hl hp hab
    exact (hexec e c s).trans (State.run_vecCompare _ _ hx hw h hop hok hrm hd)

end Sys2Proof.Machine
end

section
/-! SUPPORT. The rows of movement, conversion and mask instructions (R216–R221). -/

namespace Sys2Proof.Machine

/-! ### Rows -/

/-- A row of movements: its instruction, opcode, checks, sources and what an active element becomes. -/
def IsMove
    (r : (Fin 24 → Fin 4 → Instr) × Nat × (VecCtx → Nat → Bool) × (Nat → List VReg) × (VecCtx → Nat → Nat → Option Nat)) : Prop :=
  assignedOp r.2.1 = true ∧ ∀ e c s, exec (r.1 e c) s = s.run (vecMove e c r.2.1 r.2.2.1 r.2.2.2.1 r.2.2.2.2)

/-- A row of mask operations: its instruction, opcode, whether it reads B, and the operation on a bit. -/
def IsMask (r : (Fin 24 → Fin 4 → Instr) × Nat × Bool × (Bool → Bool → Bool)) : Prop :=
  assignedOp r.2.1 = true ∧ ∀ e c s, exec (r.1 e c) s = s.run (vecMask e c r.2.1 r.2.2.1 r.2.2.2)

section
variable {s : State} {e c op : Nat} {x : VecCtx} {w : Nat} (hx : x = s.blk.vctx (ctxKey e c)) (hw : w = s.blk.ctxWord e c)
include hx hw

theorem State.run_vecMove {legal : VecCtx → Nat → Bool} {reads : Nat → List VReg} (g : VecCtx → Nat → Nat → Option Nat)
    (h : s.issues e c op (reads w) [.v (Ins.d w)] ((reads w).any x.isPois) = true) (hop : assignedOp op = true)
    (hfmt : moveFmt x w = true) (hlegal : legal x w = true) :
    s.run (vecMove e c op legal reads g) = .next (s.retires e c ((reads w).any x.isPois) (modCtx (ctxKey e c) fun y =>
      y.putV x.ew (Ins.mask w) (Ins.d w) ((x.active (Ins.mask w)).filterMap fun i => (g x w i).map fun v => (i, v))
        ((reads w).any x.isPois))) :=
  State.run_issue hx hw h hop rfl rfl rfl (VecOp.poisoned_of_reads rfl rfl) (Bool.and_eq_true_iff.2 ⟨hfmt, hlegal⟩) rfl rfl

theorem State.run_vecMask {useB : Bool} (g : Bool → Bool → Bool) (h : s.issues e c op [] [] false = true) (hop : assignedOp op = true)
    (hrest : maskRest w = true) (hd : Ins.d w < 8) (ha : Ins.a w < 8) (hb : Ins.b w < if useB then 8 else 1) :
    s.run (vecMask e c op useB g) = .next (s.retires e c false (modCtx (ctxKey e c) fun y => y.putM (Ins.d w)
      ((List.range x.vl).map fun i => (i, g ((x.mreg (Ins.a w)).testBit i) ((x.mreg (Ins.b w)).testBit i))))) :=
  State.run_issue hx hw h hop rfl rfl rfl (VecOp.poisoned_of_reads rfl rfl)
    (Bool.and_eq_true_iff.2 ⟨hrest, decide_eq_true ⟨hd, ha, hb⟩⟩) rfl rfl

theorem State.run_vecMaskScalar (g : List Nat → W64) (h : s.issues e c op [] [.s (Ins.d w)] false = true) (hop : assignedOp op = true)
    (hrest : maskRest w = true) (hd : Ins.d w < 32) (ha : Ins.a w < 8) (hb : Ins.b w = 0) :
    s.run (vecMaskScalar e c op g) = .next (s.retires e c false (modCtx (ctxKey e c) fun y =>
      y.putS (Ins.d w) (g ((List.range x.vl).filter fun i => (x.mreg (Ins.a w)).testBit i)) false)) :=
  State.run_issue hx hw h hop rfl rfl rfl (VecOp.poisoned_of_reads rfl rfl)
    (Bool.and_eq_true_iff.2 ⟨hrest, decide_eq_true ⟨hd, ha, hb⟩⟩) rfl rfl

theorem State.run_vecMaskWhole (g : Nat → Nat) (h : s.issues e c op [.s (Ins.a w)] [] (x.isPois (.s (Ins.a w))) = true)
    (hop : assignedOp op = true) (hrest : maskRest w = true) (hd : Ins.d w < 8) (ha : Ins.a w < 32) (hb : Ins.b w = 0) :
    s.run (vecMaskWhole e c op g) = .next (s.retires e c (x.isPois (.s (Ins.a w))) (.when (decide (Ins.d w ≠ 0))
      (modCtx (ctxKey e c) fun y => { y with m := Tbl.set (dflt 0) (Ins.d w) (g (x.sc (Ins.a w)).toNat) y.m }))) :=
  State.run_issue hx hw h hop rfl rfl rfl (VecOp.poisoned_of_reads (Bool.or_false _) rfl)
    (Bool.and_eq_true_iff.2 ⟨hrest, decide_eq_true ⟨hd, ha, hb⟩⟩) rfl rfl

end

/-- Settles O32: each row issues with the effect of its group; the conversions are checked field by field. -/
theorem vectorMovesAndMasks : Obligations.VectorMovesAndMasks := by
  refine ⟨fun r hr => ?moves, fun e c s x w l p hx hw hp => ⟨fun hl h hfmt hb hm hc hd => ?vmovvs,
      fun hl h hfmt hb hm hc ha => ?vmovsv, fun res hl h hs hf hwide hpart hc hrest hrm hres => ?vcvt,
      fun val blocks res hl h hf hrm hrest hew hvl hvl' hc hs hpart hval hblocks hres => ?vcvtmx,
      fun res hl h hrm hrest hf hew hfmt hc hpart hsat hres => ?vunmx⟩,
    fun r hr => ?masks, fun e c s x w hx hw hrest hb => ⟨fun l hl hd ha => ⟨fun h => ?mpopc, fun h => ?mfirst⟩,
      fun hd ha => ⟨fun h => ?mfroms, fun h => ?mset⟩⟩⟩
  case moves =>
    have hrow : IsMove r := by
      revert r
      simp only [List.forall_mem_cons, List.not_mem_nil, false_implies, implies_true, and_true]
      and_intros <;> intros <;> rfl
    obtain ⟨hop, hexec⟩ := hrow
    intro e c s x w l p hx hw hl hp h hfmt hlegal
    subst hl hp
    exact (hexec e c s).trans (State.run_vecMove hx hw _ h hop hfmt hlegal)
  case vmovvs =>
    subst hl
    refine State.run_issue hx hw h rfl rfl rfl rfl (VecOp.poisoned_of_reads hp.symm rfl) ?_ rfl rfl
    exact Bool.and_eq_true_iff.2 ⟨Bool.and_eq_true_iff.2 ⟨hfmt, decide_eq_true ⟨hm, hc, hd⟩⟩, hb⟩
  case vmovsv =>
    subst hl
    refine State.run_issue hx hw h rfl rfl rfl rfl (VecOp.poisoned_of_reads hp.symm rfl) ?_ rfl rfl
    exact Bool.and_eq_true_iff.2 ⟨Bool.and_eq_true_iff.2 ⟨hfmt, decide_eq_true ⟨hm, hc, ha⟩⟩, hb⟩
  case vcvt =>
    subst hl hres
    obtain rfl : p = x.isPois (.v (Ins.a w)) := hp.trans (Bool.or_false _)
    refine State.run_issue hx hw h rfl rfl rfl rfl (VecOp.poisoned_of_reads hp.symm rfl) ?_ rfl rfl
    refine Bool.and_eq_true_iff.2 ⟨Bool.and_eq_true_iff.2 ⟨decide_eq_true ⟨hs, hf, hwide, ?_, hc⟩, hrest⟩, hrm⟩
    rwa [hwide]
  case vcvtmx =>
    subst hl hval hblocks hres
    obtain rfl : p = x.isPois (.v (Ins.a w)) := hp.trans (Bool.or_false _)
    refine ⟨_, State.run_issue hx hw h rfl rfl rfl rfl (VecOp.poisoned_of_reads hp.symm rfl) ?_ rfl rfl, rfl⟩
    exact Bool.and_eq_true_iff.2 ⟨Bool.and_eq_true_iff.2 ⟨Bool.and_eq_true_iff.2 ⟨hf, hrm⟩, hrest⟩,
      decide_eq_true ⟨hew, hvl, hvl', hc, hs, hpart⟩⟩
  case vunmx =>
    subst hl hres
    obtain rfl : p = (x.isPois (.v (Ins.a w)) || x.isPois (.s (Ins.c w))) := hp.trans (by simp)
    refine State.run_issue hx hw h rfl rfl rfl rfl (VecOp.poisoned_of_reads hp.symm rfl) ?_ rfl rfl
    refine Bool.and_eq_true_iff.2 ⟨Bool.and_eq_true_iff.2 ⟨Bool.and_eq_true_iff.2 ⟨Bool.and_eq_true_iff.2 ⟨hrm, hrest⟩, hf⟩,
      decide_eq_true ⟨hew, hfmt, hc, hpart⟩⟩, ?_⟩
    rw [hsat]; rfl
  case masks =>
    have hrow : IsMask r := by
      revert r
      simp only [List.forall_mem_cons, List.not_mem_nil, false_implies, implies_true, and_true]
      and_intros <;> intros <;> rfl
    obtain ⟨hop, hexec⟩ := hrow
    intro e c s x w hx hw h hrest hd ha hb
    exact (hexec e c s).trans (State.run_vecMask hx hw _ h hop hrest hd ha hb)
  case mpopc =>
    subst hl
    exact State.run_vecMaskScalar hx hw _ h rfl hrest hd ha hb
  case mfirst =>
    subst hl
    have hexec : exec (.mfirst e c) s =
        s.run (vecMaskScalar e c 0x76 fun l => (l.head?.map (BitVec.ofNat 64)).getD (BitVec.ofInt 64 (-1))) :=
      congrArg (fun g => s.run (vecMaskScalar e c 0x76 g)) (funext fun l => by cases l <;> rfl)
    exact hexec.trans (State.run_vecMaskScalar hx hw _ h rfl hrest hd ha hb)
  case mfroms => exact State.run_vecMaskWhole hx hw _ h rfl hrest hd ha hb
  case mset => exact State.run_vecMaskWhole hx hw _ h rfl hrest hd ha hb

end Sys2Proof.Machine
end

section
/-! SUPPORT. Tile instructions and reductions (R194–R199, R225, R226). -/

namespace Sys2Proof.Machine

section
variable {s : State} {e c op : Nat} {x : VecCtx} {w : Nat} {p : Bool} (hx : x = s.blk.vctx (ctxKey e c)) (hw : w = s.blk.ctxWord e c)
include hx hw

/-- A tile instruction whose register the context may use, whose tile has landed and which no job reads. -/
theorem State.run_vecTile {timm : Nat} {store : Bool} {dLim aLim : Nat} {reads writes : Nat → List VReg}
    {pois : Block → VecCtx → Nat → Bool} {align : VecCtx → Nat → Bool} (body : Block → VecCtx → Nat → Prog)
    (hrest : tileRest x w = true) (hbad : s.blk.tregBad e c (Ins.tile w) = false) (hwaits : s.blk.tregWaits e (Ins.tile w) = false)
    (hreaders : (s.blk.tregSt (tregKey e (Ins.tile w))).readers = 0) (h : s.issues e c op (reads w) (writes w) p = true)
    (hop : assignedOp op = true) (hp : ((reads w).any x.isPois || pois s.blk x w) = p)
    (hlim : Ins.timm w ≤ timm ∧ Ins.d w < dLim ∧ Ins.a w < aLim) (halign : align x w = true) :
    s.run (vecTile e c op timm store dLim aLim reads writes pois align body) = .next (s.retires e c p (body s.blk x w)) := by
  refine State.run_issue hx hw h hop rfl rfl rfl ?_ (Bool.and_eq_true_iff.2 ⟨hrest, decide_eq_true hlim⟩) ?_ ?_
  · simpa only [VecOp.poisoned, hbad, Bool.not_false, Bool.true_and] using hp
  · simp only [hbad, hwaits, hreaders, Nat.lt_irrefl, decide_false, Bool.and_false, Bool.not_false, Bool.and_self, Bool.or_true]
  · simp only [hbad, halign, Bool.false_eq_true, if_false, if_true]

/-- The job that a reduction issues. -/
def redJob (c kind : Nat) (x : VecCtx) (w : Nat) (p : Bool) : RedJob :=
  { ctx := c, op := kind, axis := redAxis w, reg := Ins.tile w, reg2 := if redPair w then some (redU w) else none, dst := Ins.d w,
    isInt := decide (redFmt w = 5), tailZ := x.tailZ, rmode := x.rmode,
    vals := if redAxis w = 3 then (x.active (Ins.mask w)).map fun i => x.lane (Ins.a w) i else [], pois := p }

/-- A reduction whose registers serve it and have their tiles joins its engine's queue while that has room. -/
theorem State.run_vecReduce (kind : Nat) (hp : p = ((redReads w).any x.isPois || redPois e c s.blk w))
    (h : s.issues e c op (redReads w) (redWrites w) p = true) (hop : assignedOp op = true) (hok : redOk x w = true)
    (hroom : (Tbl.get (dflt []) e s.blk.vec.red).length < 8) (hrefuse : redRefuse e c s.blk w = none)
    (hlanded : redAxis w ≠ 3 → s.blk.tregWaits e (Ins.tile w) = false ∧
      (redPair w = true → s.blk.tregWaits (otherEngine e) (redU w) = false)) :
    s.run (vecReduce e c op kind) = .next (s.retires e c p (.all [
      setJobs e (Tbl.get (dflt []) e s.blk.vec.red ++ [redJob c kind x w p]), jobReaders e (redJob c kind x w p) true])) := by
  refine (State.run_issue hx hw h hop rfl rfl rfl ?_ hok ?_ hrefuse).trans ?_
  · exact hp.symm
  · by_cases haxis : redAxis w = 3
    · simp [hroom, haxis]
    · obtain ⟨hown, hother⟩ := hlanded haxis
      have hpair : (redPair w && s.blk.tregWaits (otherEngine e) (redU w)) = false := by
        cases hpair : redPair w with
        | false => rfl
        | true => exact hother hpair
      simp [hroom, hown, hpair]
  · simp only [hp, redJob, Bool.or_comm]

end

/-- A row of reductions: its instruction, opcode and operation. -/
def IsReduce (r : (Fin 24 → Fin 4 → Instr) × Nat × Nat) : Prop :=
  assignedOp r.2.1 = true ∧ ∀ e c s, exec (r.1 e c) s = s.run (vecReduce e c r.2.1 r.2.2)

/-- The oldest job of an engine, in a region without a window. -/
theorem State.did_reducerJobDone {s : State} {e : Nat} {j : RedJob} {rest : List RedJob}
    (hjobs : Tbl.get (dflt []) e s.blk.vec.red = j :: rest) (hwindow : s.blk.windowAt (e / 2) = false) {res : List FRes}
    (hres : res = (s.blk.jobGroups e j).zipIdx.map fun l => if s.blk.shapesAgree e j then
      reduce (Config.freeElem s.blk.free l.2) j.op j.isInt j.rmode l.1 else ⟨Config.freeElem s.blk.free l.2 % 2 ^ 32, 0⟩) :
    s.did (reducerJobDone e) = s.did (.all [
      modCtx (ctxKey e j.ctx) (fun y => if j.axis < 2 then y.putResults j.tailZ j.dst (res.map FRes.val) j.pois
        else y.putS j.dst (BitVec.ofNat 64 (res.foldl (fun _ r => r.val) 0)) j.pois),
      setFlags e j.ctx (res.foldl (fun n r => n ||| r.flags) 0), .edit .free, setJobs e rest, jobReaders e j false,
      incSat (Reg.VEC_RED (e / 2)) Fl.VEC_RED_JOBS, activity (s.blk.ctxHat e j.ctx) Act.reducer 1]) := by
  rw [reducerJobDone, State.did_read]
  simp only [hwindow, Bool.false_eq_true, if_false, hjobs, hres]

/-- Settles O34: tile instructions and reductions issue, and the oldest job ends, as R225, R226 and R196 say. -/
theorem tilesAndReductions : Obligations.TilesAndReductions := by
  refine ⟨fun e c s x w k hx hw hk hrest hbad hwaits hreaders => ⟨fun p hp h htimm hd ha halign => ?trd,
      fun p hp h htimm hd ha => ?trdc, fun p q hp hq hd ha => ⟨fun m hm h htimm halign => ?twr, fun h htimm => ?twrc⟩,
      fun htimm ha => ⟨fun hd h => ?tfree, fun hd h => ?tzero, fun hd h => ?tinfo⟩⟩,
    fun r hr => ?reduce, fun e j rest res s hup hjobs hwindow hres => State.run_up_did hup (State.did_reducerJobDone hjobs hwindow hres)⟩
  case reduce =>
    have hrow : IsReduce r := by
      revert r
      simp only [List.forall_mem_cons, List.not_mem_nil, false_implies, implies_true, and_true]
      and_intros <;> intros <;> rfl
    obtain ⟨hop, hexec⟩ := hrow
    intro e c s x w p j hx hw hp h hok hroom hrefuse hlanded hj
    subst hj
    exact (hexec e c s).trans (State.run_vecReduce hx hw _ hp h hop hok hroom hrefuse hlanded)
  all_goals subst hk
  case trd =>
    exact State.run_vecTile hx hw _ hrest hbad hwaits hreaders h rfl (by rw [hp]; simp [dataA]) ⟨htimm, hd, ha⟩ halign
  case trdc =>
    exact State.run_vecTile hx hw _ hrest hbad hwaits hreaders h rfl (by rw [hp]; simp [dataA]) ⟨Nat.le_of_eq htimm, hd, ha⟩ rfl
  case twr =>
    subst hm hq
    exact State.run_vecTile hx hw _ hrest hbad hwaits hreaders h rfl (by rw [hp]; simp) ⟨htimm, hd, ha⟩ halign
  case twrc =>
    subst hq
    exact State.run_vecTile hx hw _ hrest hbad hwaits hreaders h rfl (by rw [hp]; simp) ⟨Nat.le_of_eq htimm, hd, ha⟩ rfl
  all_goals have hlim : Ins.timm w ≤ 0 ∧ Ins.a w < 1 := ⟨Nat.le_of_eq htimm, by omega⟩
  case tfree =>
    have hrun : exec (.tfree e c) s = .next (s.retires e c false
        (if s.blk.tregBkt e (Ins.tile w) then freeTreg e (Ins.tile w) else zeroTreg e (Ins.tile w))) :=
      State.run_vecTile hx hw _ hrest hbad hwaits hreaders h rfl rfl ⟨hlim.1, by omega, hlim.2⟩ rfl
    exact ⟨fun hbkt => by rw [hrun, if_pos hbkt], fun hbkt => by rw [hrun, hbkt]; rfl⟩
  case tzero => exact State.run_vecTile hx hw _ hrest hbad hwaits hreaders h rfl rfl ⟨hlim.1, by omega, hlim.2⟩ rfl
  case tinfo => exact State.run_vecTile hx hw _ hrest hbad hwaits hreaders h rfl rfl ⟨hlim.1, hd, hlim.2⟩ rfl

end Sys2Proof.Machine
end

section
/-! SUPPORT. Kernels, contexts, bindings and the bucket queue at an engine (R174–R200). -/

namespace Sys2Proof.Machine

variable {s : State} {hat e c t : Nat} {val : W64}

/-! ### Groups of programs -/

theorem State.did_all_cons (s : State) (p : Prog) (l : List Prog) : s.did (.all (p :: l)) = (s.did p).did (.all l) := rfl

theorem State.did_skip_cons (s : State) (l : List Prog) : s.did (.all (.skip :: l)) = s.did (.all l) := rfl

theorem State.did_all_skip (s : State) (l : List Prog) : s.did (.all (l ++ [.skip])) = s.did (.all l) := by
  induction l generalizing s with
  | nil => rfl
  | cons p l ih => exact ih (s.did p)

/-- Programs listed one by one are those of an `each`, whatever is done alike after them. -/
theorem State.did_map_append {α : Type} (s : State) (l : List α) (k : α → Prog) {m n : List Prog}
    (h : ∀ s : State, s.did (.all m) = s.did (.all n)) : s.did (.all (l.map k ++ m)) = s.did (.all (.each l k :: n)) := by
  induction l generalizing s with
  | nil => exact h s
  | cons x l ih => exact ih (s.did (k x))

/-! ### Kernels (R178, R179) -/

section
variable (hp : s.blk.portAdmits hat = true) (hmay : s.blk.mayEngine hat e = true) (hon : s.blk.engineOn e = true)
include hp hmay hon

/-- A hat's write that may reach an engine's registers does what the register says. -/
theorem State.did_engineWrite (k : Block → Prog) :
    s.did (underHat hat (.read fun b => .when (b.mayEngine hat e && b.engineOn e) (k b))) = s.did (k s.blk) := by
  rw [State.did_underHat _ hp, State.did_read, hmay, hon, Bool.and_self, Prog.when_true]

theorem State.did_kloadGo {k len base : Nat} (hk : k = getFld val Fl.VEC_KLOAD_ENTRY) (hlen : len = getFld val Fl.VEC_KLOAD_LEN)
    (hbase : base = getFld val Fl.VEC_KLOAD_BASE) (hbusy : s.blk.on (Reg.VEC_KLOAD e) Fl.VEC_KLOAD_BUSY = false)
    (hruns : s.blk.kernelRuns e k = false) (hpos : 0 < len) (hfits : base + len ≤ 32768)
    (hfree : s.blk.kernelOverlap e k base len = false) : s.did (kloadGo hat e val) = s.did (.all [
      kloadFields e val, setF (Reg.VEC_KLOAD e) Fl.VEC_KLOAD_BUSY 1, setF (Reg.VEC_KERNEL e k) Fl.VEC_KERNEL_VALID 0, setDigest e k 0,
      modVec fun v => { v with
        kload := Tbl.set (dflt none) e
          (some ⟨hat, k, len, base, s.blk.f (Reg.VEC_KLOAD_SRC e) Fl.VEC_KLOAD_SRC_ADDR * 8, s.blk.rightsOf hat⟩) v.kload }]) := by
  subst hk hlen hbase
  rw [kloadGo, State.did_engineWrite hp hmay hon, hbusy, Bool.not_false, Prog.when_true, hruns, hfree,
    if_neg (by simp only [Bool.false_eq_true, or_false]; omega), State.did_all_nest]

theorem State.did_kloadFree {k : Nat} (hk : k = getFld val Fl.VEC_KLOAD_ENTRY)
    (hbusy : s.blk.on (Reg.VEC_KLOAD e) Fl.VEC_KLOAD_BUSY = false) (hruns : s.blk.kernelRuns e k = false) :
    s.did (kloadFree hat e val) = s.did (.all [kloadFields e val, freeKernel e k, kloadEnd e 0]) := by
  subst hk
  rw [kloadFree, State.did_engineWrite hp hmay hon, hbusy, Bool.not_false, Prog.when_true, hruns, if_neg Bool.false_ne_true,
    State.did_all_nest]

/-! ### Bindings of tile registers (R195) -/

/-- A binding to a site that the engine can have takes effect, or is held while it would change a tile under way. -/
theorem State.did_tregBindWrite (hsite : getFld val Fl.VEC_TREG_SITE / 4 = e / 6)
    (hsome : (s.blk.sitePart (getFld val Fl.VEC_TREG_SITE)).isSome = true)
    (hpart : s.blk.sitePart (getFld val Fl.VEC_TREG_SITE) = s.blk.enginePart e)
    (hhat : s.blk.hatRemoved (getFld val Fl.VEC_TREG_HAT) = false) : s.did (tregBindWrite hat e t val) =
      s.did (if s.blk.tregWaits e t && bindChanges (s.blk.w (Reg.VEC_TREG e t)) val then .all [
        modTreg (tregKey e t) (fun x => { x with wr := some val }), setF (Reg.VEC_TREG e t) Fl.VEC_TREG_PENDING 1]
      else applyBind e t val) := by
  have hnone : (s.blk.enginePart e).isNone = false := by rw [← hpart, ← Option.not_isSome, hsome]; rfl
  rw [tregBindWrite, State.did_engineWrite hp hmay hon]
  simp only [hsite, hnone, hpart, hhat, ne_eq, not_true_eq_false, decide_false, Bool.or_self, Bool.false_eq_true, if_false]

end

/-- The source read of a kernel load has ended. -/
theorem State.did_kloadDone {told read : ReadIn} {j : Kload} {bytes : List Byte}
    (hload : Tbl.get (dflt none) e s.blk.vec.kload = some j) (hread : read = s.blk.sourced j.rights j.hat j.src (8 * j.len) told)
    (hbytes : bytes = slice read.data 0 (8 * j.len)) : s.did (kloadDone e told) = s.did (.all [
      modVec (fun v => { v with kload := Tbl.set (dflt none) e none v.kload }),
      if read.end_ = St.ok then .all [
        .edit (.imem (e * 32768 + j.base) (wordsOf bytes j.len)),
        setF (Reg.VEC_KERNEL e j.entry) Fl.VEC_KERNEL_HAT j.hat, setF (Reg.VEC_KERNEL e j.entry) Fl.VEC_KERNEL_LEN j.len,
        setF (Reg.VEC_KERNEL e j.entry) Fl.VEC_KERNEL_BASE j.base, setF (Reg.VEC_KERNEL e j.entry) Fl.VEC_KERNEL_VALID 1,
        incSat (Reg.VEC_KERNEL e j.entry) Fl.VEC_KERNEL_LOADS, setDigest e j.entry (Config.sha384 bytes), measured, kloadEnd e St.ok]
      else kloadEnd e read.end_]) := by
  subst hbytes hread
  rw [kloadDone, State.did_read, hload, Prog.for?_some]

/-! ### Contexts (R174, R180, R185) -/

theorem State.did_ctxCtlWrite_disables {v : W64} (hclear : getFld v Fl.VEC_CTX_CTL_ENABLE = 0)
    (hwas : s.blk.on (Reg.VEC_CTX_CTL e c) Fl.VEC_CTX_CTL_ENABLE = true) : s.did (ctxCtlWrite e c v) = s.did (.all [
      setF (Reg.VEC_CTX_CTL e c) Fl.VEC_CTX_CTL_HAT (s.blk.ctxHat e c),
      .each [Fl.VEC_CTX_CTL_IRQ_VEC, Fl.VEC_CTX_CTL_POISON_TRAP, Fl.VEC_CTX_CTL_TAIL, Fl.VEC_CTX_CTL_RMODE,
        Fl.VEC_CTX_CTL_LDM_SIZE, Fl.VEC_CTX_CTL_LDM_BASE, Fl.VEC_CTX_CTL_ENABLE] (fun fl => setF (Reg.VEC_CTX_CTL e c) fl (getFld v fl)),
      setF (Reg.VEC_CTX_STATUS e c) Fl.VEC_CTX_STATUS_STATE 4]) := by
  have hoff : decide (getFld v Fl.VEC_CTX_CTL_ENABLE ≠ 0) = false := by rw [hclear]; rfl
  rw [ctxCtlWrite, State.did_read]
  simp only [hoff, hwas, Bool.false_and, Bool.not_true, Bool.or_self, Bool.false_eq_true, if_false, if_true, Bool.not_false,
    Bool.and_self, Prog.when_true, Prog.when_false]
  rw [State.did_all_cons, State.did_all_cons s]
  exact State.did_map_append _ [Fl.VEC_CTX_CTL_IRQ_VEC, Fl.VEC_CTX_CTL_POISON_TRAP, Fl.VEC_CTX_CTL_TAIL, Fl.VEC_CTX_CTL_RMODE,
    Fl.VEC_CTX_CTL_LDM_SIZE, Fl.VEC_CTX_CTL_LDM_BASE, Fl.VEC_CTX_CTL_ENABLE] (fun fl => setF (Reg.VEC_CTX_CTL e c) fl (getFld v fl))
    fun t => State.did_skip_cons t _

section
variable (hp : s.blk.portAdmits hat = true) (hon : s.blk.engineOn e = true) (hmay : s.blk.mayCtx hat e c = true)
include hp hon hmay

/-- A write of a context's register by a hat that may make it. -/
theorem State.did_ctxWrite (p : Prog) : s.did (ctxWrite hat e c p) = s.did p := by
  rw [ctxWrite, State.did_underHat _ hp, State.did_read, hon, Prog.when_true, hmay, if_pos rfl]

theorem State.did_ctxCtlWrite_enables {v : W64} (hset : getFld v Fl.VEC_CTX_CTL_ENABLE = 1)
    (hwas : s.blk.on (Reg.VEC_CTX_CTL e c) Fl.VEC_CTX_CTL_ENABLE = false)
    (hldm : s.blk.ldmClash e c (getFld v Fl.VEC_CTX_CTL_HAT) (getFld v Fl.VEC_CTX_CTL_LDM_BASE) (getFld v Fl.VEC_CTX_CTL_LDM_SIZE) = false)
    (hhat : s.blk.hatRemoved (getFld v Fl.VEC_CTX_CTL_HAT) = false) (hoff : s.blk.ctxState e c = 0) :
    s.did (ctxWrite hat e c (ctxCtlWrite e c v)) = s.did (.all [
      .each [Fl.VEC_CTX_CTL_HAT, Fl.VEC_CTX_CTL_IRQ_VEC, Fl.VEC_CTX_CTL_POISON_TRAP, Fl.VEC_CTX_CTL_TAIL, Fl.VEC_CTX_CTL_RMODE,
        Fl.VEC_CTX_CTL_LDM_SIZE, Fl.VEC_CTX_CTL_LDM_BASE, Fl.VEC_CTX_CTL_ENABLE] (fun fl => setF (Reg.VEC_CTX_CTL e c) fl (getFld v fl)),
      setF (Reg.VEC_CTX_STATUS e c) Fl.VEC_CTX_STATUS_STATE 1, setCtxOn e c true]) := by
  have hsets : decide (getFld v Fl.VEC_CTX_CTL_ENABLE ≠ 0) = true := by rw [hset]; rfl
  rw [State.did_ctxWrite hp hon hmay, ctxCtlWrite, State.did_read]
  simp only [hsets, hwas, hldm, hhat, hoff, ne_eq, not_true_eq_false, decide_false, Bool.false_eq_true, if_false, Bool.and_false,
    Bool.or_self, Bool.not_false, Bool.and_self, Bool.false_and, Prog.when_true, Prog.when_false]
  exact State.did_map_append s [Fl.VEC_CTX_CTL_HAT, Fl.VEC_CTX_CTL_IRQ_VEC, Fl.VEC_CTX_CTL_POISON_TRAP, Fl.VEC_CTX_CTL_TAIL,
    Fl.VEC_CTX_CTL_RMODE, Fl.VEC_CTX_CTL_LDM_SIZE, Fl.VEC_CTX_CTL_LDM_BASE, Fl.VEC_CTX_CTL_ENABLE]
    (fun fl => setF (Reg.VEC_CTX_CTL e c) fl (getFld v fl)) fun t => (State.did_all_flatten t _ _).trans (State.did_all_skip t _)

theorem State.did_ctxStart {k entry : Nat} (hgo : getFld val Fl.VEC_CTX_START_GO = 1) (hk : k = getFld val Fl.VEC_CTX_START_KERNEL)
    (hentry : entry = getFld val Fl.VEC_CTX_START_ENTRY) (hcode : s.blk.startCode e c k entry = 0) :
    s.did (ctxWrite hat e c (ctxStart e c val)) = s.did (.all [
      setF (Reg.VEC_CTX_START e c) Fl.VEC_CTX_START_KERNEL k, setF (Reg.VEC_CTX_START e c) Fl.VEC_CTX_START_ENTRY entry,
      setF (Reg.VEC_CTX_STATUS e c) Fl.VEC_CTX_STATUS_CODE 0, dropJobs e c, modCtx (ctxKey e c) (s.blk.startCtx e c k),
      setF (Reg.VEC_CTX_STATUS e c) Fl.VEC_CTX_STATUS_PC (s.blk.f (Reg.VEC_KERNEL e k) Fl.VEC_KERNEL_BASE + entry),
      setF (Reg.VEC_CTX_STATUS e c) Fl.VEC_CTX_STATUS_FAULT 0, setF (Reg.VEC_CTX_STATUS e c) Fl.VEC_CTX_STATUS_STATE 2, .edit .free]) := by
  subst hk hentry
  rw [State.did_ctxWrite hp hon hmay, ctxStart, State.did_read]
  simp only [hgo, hcode, ne_eq, Nat.one_ne_zero, not_false_eq_true, not_true_eq_false, decide_true, Prog.when_true, if_false]
  rfl

end

/-! ### The bucket queue (R188, R190, R193, R200) -/

section
variable {p : Pkt}

/-- The first chunk of a tile of the register's hat finds it ARMED. -/
theorem State.did_bktTile_first (hdst : p.dst = .engine e) (hhat : p.hat = s.blk.tregF e (bktHdr p.addr).treg Fl.VEC_TREG_HAT)
    (hchunk : (bktHdr p.addr).chunk = 0) (harmed : s.blk.tregState e (bktHdr p.addr).treg = 2) :
    s.did (bktTile p) = s.did (.all [takePkt p,
      modTreg (tregKey e (bktHdr p.addr).treg) (fun x => { x with cells := [], pois := 0 }), landChunk e (bktHdr p.addr) p]) := by
  rw [bktTile, State.did_read, hdst]
  simp only [hhat, hchunk, harmed, decide_true, and_self, if_true]
  rfl

/-- A later chunk in its turn finds it FILLING. -/
theorem State.did_bktTile_next (hdst : p.dst = .engine e) (hhat : p.hat = s.blk.tregF e (bktHdr p.addr).treg Fl.VEC_TREG_HAT)
    (hchunk : (bktHdr p.addr).chunk ≠ 0) (hnext : (bktHdr p.addr).chunk = (s.blk.tregSt (tregKey e (bktHdr p.addr).treg)).next)
    (hfilling : s.blk.tregState e (bktHdr p.addr).treg = 3) :
    s.did (bktTile p) = s.did (.all [takePkt p, landChunk e (bktHdr p.addr) p]) := by
  rw [bktTile, State.did_read, hdst]
  simp only [hchunk, if_false]
  rw [decide_eq_true ⟨hfilling, hnext⟩, decide_eq_true hhat, Bool.and_self, Prog.when_true]

theorem State.did_bktReturn (hdst : p.dst = .engine e) (harmed : s.blk.tregState e (bktHdr p.addr).treg = 2) :
    s.did (bktReturn p) = s.did (.all [takePkt p, freeTreg e (bktHdr p.addr).treg]) := by
  rw [bktReturn, State.did_read, hdst]
  simp only [harmed, decide_true, Prog.when_true]

theorem State.did_bktCredit {g k : Nat} (hdst : p.dst = .glove g k) (hruns : s.blk.siteRuns g = true) :
    s.did (bktCredit p) = s.did (.all [takePkt p,
      modGlv g (fun s => { s with
        tcredit := ((bktHdr p.addr).eng, (bktHdr p.addr).treg, p.hat) ::
          s.tcredit.filter fun c => ¬ (c.1 = (bktHdr p.addr).eng ∧ c.2.1 = (bktHdr p.addr).treg) }),
      toSite g { Msp.ctl 0x61 0 with chan := 2, lane := k, hat := p.hat, tag := p.tag, addr := p.addr }]) := by
  rw [bktCredit, State.did_read, hdst]
  simp only [hruns, if_true]
  rfl

end

/-- Settles O36: each command does the program its guards let through. -/
theorem engineCommands : Obligations.EngineCommands := by
  refine ⟨fun hat e val s hup hp hmay hon hbusy k len base hk hlen hbase hruns => ⟨fun hpos hfits hfree => ?go, ?free⟩,
    fun e told read j bytes s hup hload hread hbytes => ⟨fun hend => ?loaded, fun hend => ?failed⟩,
    fun hat e c v val s hup hp hon hmay => ⟨fun hv hset hwas hldm hhat hoff => ?enable, fun hv hclear hwas => ?disable,
      fun k entry hv hgo hk hentry hcode => ?start⟩,
    fun e c s hup hstopping => ?stopped,
    fun hat e t val s hup hp hmay hon hsite hsome hpart hhat => ⟨fun hopen => ?binds, fun hwaits hchanges => ?held⟩,
    fun p e h s hdst hh => ⟨fun harr hhat => ⟨fun hchunk harmed => ?first, fun hchunk hnext hfilling => ?next⟩,
      fun harr harmed => ?returned⟩,
    fun p g k h s harr hdst hh hruns => ?credit⟩
  case go => exact State.run_up_did hup (State.did_kloadGo hp hmay hon hk hlen hbase hbusy hruns hpos hfits hfree)
  case free => exact State.run_up_did hup (State.did_kloadFree hp hmay hon hk hbusy hruns)
  case loaded =>
    refine State.run_up_did hup ((State.did_kloadDone hload hread hbytes).trans ?_)
    rw [if_pos hend, State.did_all_nest]
  case failed =>
    refine State.run_up_did hup ((State.did_kloadDone hload hread hbytes).trans ?_)
    rw [if_neg hend]
  case enable =>
    subst hv
    exact State.run_up_did hup (State.did_ctxCtlWrite_enables hp hon hmay hset hwas hldm hhat hoff)
  case disable =>
    subst hv
    refine State.run_up_did hup ((State.did_ctxWrite hp hon hmay _).trans ?_)
    exact State.did_ctxCtlWrite_disables hclear hwas
  case start =>
    subst hv
    exact State.run_up_did hup (State.did_ctxStart hp hon hmay hgo hk hentry hcode)
  case stopped => exact State.run_up_did hup (State.did_when_true _ (decide_eq_true hstopping))
  case binds =>
    refine State.run_up_did hup ((State.did_tregBindWrite hp hmay hon hsite hsome hpart hhat).trans ?_)
    rw [if_neg]
    rcases hopen with h | h <;> simp [h]
  case held =>
    refine State.run_up_did hup ((State.did_tregBindWrite hp hmay hon hsite hsome hpart hhat).trans ?_)
    rw [if_pos (by rw [hwaits, hchanges]; rfl)]
  all_goals subst hh
  case first => exact (State.run_onPkt _ harr).trans (congrArg _ (State.did_bktTile_first hdst hhat hchunk harmed))
  case next => exact (State.run_onPkt _ harr).trans (congrArg _ (State.did_bktTile_next hdst hhat hchunk hnext hfilling))
  case returned => exact (State.run_onPkt _ harr).trans (congrArg _ (State.did_bktReturn hdst harmed))
  case credit => exact (State.run_onPkt _ harr).trans (congrArg _ (State.did_bktCredit hdst hruns))

end Sys2Proof.Machine
end

section
/-! SUPPORT. The rows of scalar instructions (R213). -/

namespace Sys2Proof.Machine

/-- A row of scalar integer instructions: its instruction, opcode and operation. -/
def IsScalarInt (r : (Fin 24 → Fin 4 → Instr) × Nat × (W64 → W64 → W64)) : Prop :=
  assignedOp r.2.1 = true ∧ ∀ e c s, exec (r.1 e c) s = s.run (vecScalarInt e c r.2.1 r.2.2)

/-- A row of scalar FP32 instructions: its instruction, opcode, whether it reads B and C, and its operation. -/
def IsScalarFp (r : (Fin 24 → Fin 4 → Instr) × Nat × Bool × Bool × (Nat → Nat → Nat → Nat → Nat → FRes)) : Prop :=
  assignedOp r.2.1 = true ∧ ∀ e c s, exec (r.1 e c) s = s.run (vecScalarFp e c r.2.1 r.2.2.1 r.2.2.2.1 r.2.2.2.2)

section
variable {s : State} {e c op : Nat} {x : VecCtx} {w : Nat} (hx : x = s.blk.vctx (ctxKey e c)) (hw : w = s.blk.ctxWord e c)
include hx hw

theorem State.run_vecScalarInt (g : W64 → W64 → W64)
    (h : s.issues e c op (scalarReads true false w) [.s (Ins.d w)] ((scalarReads true false w).any x.isPois) = true)
    (hop : assignedOp op = true) (hok : scalarOk true false w = true) :
    s.run (vecScalarInt e c op g) = .next (s.retires e c ((scalarReads true false w).any x.isPois) (modCtx (ctxKey e c) fun y =>
      y.putS (Ins.d w) (g (x.sc (Ins.a w)) (scalarB x false w)) ((scalarReads true false w).any x.isPois))) :=
  State.run_issue hx hw h hop rfl rfl rfl (VecOp.poisoned_of_reads rfl rfl) hok rfl rfl

theorem State.run_vecScalarFp {useB useC : Bool} (g : Nat → Nat → Nat → Nat → Nat → FRes) {f : FRes}
    (h : s.issues e c op (scalarReads useB useC w) [.s (Ins.d w)] ((scalarReads useB useC w).any x.isPois) = true)
    (hop : assignedOp op = true) (hok : scalarOk useB useC w = true)
    (hf : f = g (x.modeOf (Ins.rm w)) (srDraw s.blk 0) ((x.sc (Ins.a w)).toNat % 2 ^ 32) ((scalarB x true w).toNat % 2 ^ 32)
      ((x.sc (Ins.c w)).toNat % 2 ^ 32)) :
    s.run (vecScalarFp e c op useB useC g) = .next (s.retires e c ((scalarReads useB useC w).any x.isPois) (.all [
      modCtx (ctxKey e c) (fun y => y.putS (Ins.d w) (BitVec.ofNat 64 f.val) ((scalarReads useB useC w).any x.isPois)),
      setFlags e c f.flags, drew (x.modeOf (Ins.rm w))])) := by
  subst hf
  exact State.run_issue hx hw h hop rfl rfl rfl (VecOp.poisoned_of_reads rfl rfl) hok rfl rfl

end

/-- Settles O30: each row is a scalar integer or FP32 instruction with its operation. -/
theorem scalarInstructions : Obligations.ScalarInstructions := by
  constructor
  · intro r hr
    have hrow : IsScalarInt r := by
      revert r
      simp only [List.forall_mem_cons, List.not_mem_nil, false_implies, implies_true, and_true]
      and_intros <;> intros <;> rfl
    obtain ⟨hop, hexec⟩ := hrow
    intro e c s x w p hx hw hp h hok
    subst hp
    exact (hexec e c s).trans (State.run_vecScalarInt hx hw _ h hop hok)
  · intro r hr
    have hrow : IsScalarFp r := by
      revert r
      simp only [List.forall_mem_cons, List.not_mem_nil, false_implies, implies_true, and_true]
      and_intros <;> intros <;> rfl
    obtain ⟨hop, hexec⟩ := hrow
    intro e c s x w l p f hx hw hl hp h hok hf
    subst hl hp
    exact (hexec e c s).trans (State.run_vecScalarFp hx hw _ h hop hok hf)

end Sys2Proof.Machine
end

section
/-! SUPPORT. Conditions of a branch (R210, R212), and the fault of an instruction with a reserved field (R203). -/

namespace Sys2Proof.Machine

/-- An instruction at PC whose checks before issue fail faults with code 1, whatever its operands. -/
theorem State.run_vecIssue_illegal {s : State} {e c : Nat} {o : VecOp} (hup : s.up = true) (hruns : s.blk.ctxRuns e c = true)
    (hturn : s.blk.issueTurn e c = true) (hpc : s.blk.pcInKernel e c = true) (hop : Ins.op (s.blk.ctxWord e c) = o.op)
    (hassigned : assignedOp o.op = true) (hlegal : o.legal s.blk (s.blk.vctx (ctxKey e c)) (s.blk.ctxWord e c) = false) :
    s.run (vecIssue e c o) = .next (s.did (faultCtx e c 1 none)) := by
  rw [State.run_up hup, vecIssue, State.did_read]
  simp only [hruns, hturn, hpc, hop, hassigned, hlegal, Bool.not_true, Bool.not_false, Bool.or_self, Bool.false_eq_true, ↓reduceIte,
    ne_eq, not_true_eq_false]

theorem VecCtx.any_isPois_one (x : VecCtx) (r : VReg) : [r].any x.isPois = x.isPois r := Bool.or_false _

theorem VecCtx.any_isPois_pair (x : VecCtx) (r r' : VReg) : [r, r'].any x.isPois = (x.isPois r || x.isPois r') := by
  rw [List.any_cons, x.any_isPois_one]

/-- BR with an assigned COND goes where IMM32 says when COND holds. -/
theorem State.run_br {e : Fin 24} {c : Fin 4} {s : State} {x : VecCtx} {w : Nat} (hx : x = s.blk.vctx (ctxKey e c))
    (hw : w = s.blk.ctxWord e c) {p : Bool} (hp : p = (x.isPois (.s (Ins.ja w)) || x.isPois (.s (Ins.jb w))))
    (h : s.issues e c 0x04 [.s (Ins.ja w), .s (Ins.jb w)] [] p = true) (hok : jOk w true true true true = true)
    (hcond : Ins.cond w ≤ 6) :
    exec (.br e c) s = .next (s.retires e c p
      (.when (condHolds (Ins.cond w) (x.sc (Ins.ja w)) (x.sc (Ins.jb w))) (setPc e c (s.blk.ctxPc e c + Ins.jump w)))) :=
  State.run_vecCtl _ hx hw h rfl ((x.any_isPois_pair _ _).trans hp.symm) (Bool.and_eq_true_iff.2 ⟨hok, decide_eq_true hcond⟩)

/-- Settles O49: the row of each COND by the order it compares in; a reserved COND fails the checks of BR. -/
theorem condTable : Obligations.CondTable := by
  refine ⟨fun a b => ⟨rfl, decide_eq_true_iff, decide_eq_true_iff, ?less, ?notLess, ?lessUnsigned, ?notLessUnsigned⟩,
    fun e c s x w p hx hw hp h hok hcond => State.run_br hx hw hp h hok hcond,
    fun e c s hup hruns hturn hpc hop hcond => ?reserved⟩
  case less => exact decide_eq_true_iff.trans BitVec.slt_iff_toInt_lt.symm
  case notLess => rw [Bool.eq_false_iff, ne_eq, BitVec.slt_iff_toInt_lt, Int.not_lt]; exact decide_eq_true_iff
  case lessUnsigned => exact decide_eq_true_iff.trans BitVec.lt_def.symm
  case notLessUnsigned => exact decide_eq_true_iff.trans BitVec.le_def.symm
  case reserved =>
    exact State.run_vecIssue_illegal hup hruns hturn hpc hop rfl
      (Bool.and_eq_false_iff.2 (.inr (decide_eq_false (Nat.not_le.2 hcond))))

end Sys2Proof.Machine
end

section
/-! SUPPORT. Trough instructions and fences (R227–R229). -/

namespace Sys2Proof.Machine

/-- A context without a store error passes a fence. -/
theorem storeFault_eq_none {e c : Nat} {b : Block} (h : (b.vctx (ctxKey e c)).badSt = false) : storeFault e c b = none :=
  if_neg (by rw [h]; exact Bool.false_ne_true)

section
variable {e : Fin 24} {c : Fin 4} {s : State} {x : VecCtx} {w h : Nat} {y : Handle} {p : Bool}
  (hx : x = s.blk.vctx (ctxKey e c)) (hw : w = s.blk.ctxWord e c)

section
variable (hh : h = Ins.imm20 w) (hy : y = x.handle h)
include hx hw hh hy

/-- TRGOPEN of a closed handle, by a well-formed name. -/
theorem State.run_trgopen {n : TrgName} {count : Nat} (hp : p = (x.isPois (.s (Ins.a w)) || x.isPois (.s (Ins.b w))))
    (hi : s.issues e c 0xC0 [.s (Ins.a w), .s (Ins.b w)] [.s (Ins.d w)] p = true) (hok : trgOk w true true true false true = true)
    (hclosed : y.state = 0) (hn : n = trgName s.blk (x.sc (Ins.a w)).toNat) (hgood : n.good = true)
    (hcount : count = min (x.sc (Ins.b w)).toNat 0xFFFFFFFF) :
    exec (.trgopen e c) s = .next (s.retires e c p (.all [
      modHandle e c h (fun _ => ⟨1, n.trough, n.pkg, n.base, count, St.descInvalid, [], Ins.d w, x.meshTag c⟩),
      takeTag e c,
      sendPkt (s.blk.trgPkt e c h 0x70 n.pkg n.trough n.base (x.meshTag c) [⟨slice (toBytesLE 4 count) 0 64, 0xF, false⟩])])) := by
  subst hh hy hn hcount
  refine (State.run_issue hx hw hi rfl rfl rfl rfl (VecOp.poisoned_of_reads ((x.any_isPois_pair _ _).trans hp.symm) rfl) hok rfl
    (if_pos hclosed)).trans ?_
  simp only [hgood, if_true]

/-- TRGADD of the elements of an open or opening handle. -/
theorem State.run_trgadd {pk : List (Nat × List DUnit)} (hp : p = (x.isPois (.v (Ins.a w)) || x.isPois (.s (Ins.b w))))
    (hi : s.issues e c 0xC1 [.v (Ins.a w), .s (Ins.b w)] [] p = true)
    (hok : trgOk (w - Ins.a w * 2 ^ 34) false false true true true = true) (hew : x.ew = 32) (hadds : x.addsOut < 8)
    (hopen : y.state = 1 ∨ y.state = 2)
    (hpk : pk = packUnits 16 0 (addUnits x (Ins.a w) (Ins.mask w) (x.isPois (.v (Ins.a w))))) (hsome : pk ≠ []) :
    exec (.trgadd e c) s = .next (s.retires e c p (.all [
      modHandle e c h (fun y => { y with adds := y.adds ++ [pk.length] }),
      .each pk fun q => sendPkt (s.blk.trgPkt e c h 0x71 y.pkg y.trough (contribIdx (x.sc (Ins.b w)).toNat (16 * q.1)) y.tag q.2)])) := by
  subst hh hy hpk
  refine (State.run_issue hx hw hi rfl rfl rfl rfl (VecOp.poisoned_of_reads ((x.any_isPois_pair _ _).trans hp.symm) rfl)
    (Bool.and_eq_true_iff.2 ⟨hok, decide_eq_true hew⟩) (decide_eq_true ⟨hadds, by omega⟩) (if_neg (by omega))).trans ?_
  dsimp only
  rw [decide_eq_true ⟨by omega, hsome⟩, Prog.when_true]

/-- TRGCLOSE of a handle whose open has been answered. -/
theorem State.run_trgclose (hi : s.issues e c 0xC2 [] [.s (Ins.d w)] false = true) (hok : trgOk w true false false false true = true)
    (hanswered : y.state = 2 ∨ y.state = 3) :
    exec (.trgclose e c) s = .next (s.retires e c false (if y.state = 3
      then .all [dropHandle e c h, putStatus e c (Ins.d w) y.status]
      else .all [modHandle e c h (fun y => { y with state := 4, sd := Ins.d w }), .when y.adds.isEmpty (sendClose e c h)])) := by
  subst hh hy
  exact State.run_issue hx hw hi rfl rfl rfl rfl (VecOp.poisoned_of_reads rfl rfl) hok
    (decide_eq_true ⟨by omega, by omega⟩) (if_neg (by omega))

/-- TRGABORT of a handle, open or not. -/
theorem State.run_trgabort (hi : s.issues e c 0xC3 [] [] false = true) (hok : trgOk w false false false false true = true) :
    exec (.trgabort e c) s = .next (s.retires e c false (.all [handleAbort e c h y, dropHandle e c h])) := by
  subst hh hy
  exact State.run_issue hx hw hi rfl rfl rfl rfl (VecOp.poisoned_of_reads rfl rfl) hok rfl rfl

end

include hx hw

/-- TRGFIN by a well-formed name, while no other is out. -/
theorem State.run_trgfin {n : TrgName} (hi : s.issues e c 0xC4 [.s (Ins.a w)] [.s (Ins.d w)] (x.isPois (.s (Ins.a w))) = true)
    (hok : trgOk w true true false false false = true) (hfinish : x.finish = none)
    (hn : n = trgName s.blk (x.sc (Ins.a w)).toNat) (hgood : n.good = true) (hbase : n.base = 0) :
    exec (.trgfin e c) s = .next (s.retires e c (x.isPois (.s (Ins.a w))) (.all [
      modCtx (ctxKey e c) (fun y => { y with finish := some (Ins.d w, x.meshTag c) }), takeTag e c,
      sendPkt (s.blk.trgPkt e c 0 0x76 n.pkg n.trough 0 (x.meshTag c) [])])) := by
  subst hn
  refine (State.run_issue hx hw hi rfl rfl rfl rfl (VecOp.poisoned_of_reads (x.any_isPois_one _) rfl) hok
    (Option.isNone_iff_eq_none.2 hfinish) rfl).trans ?_
  dsimp only
  rw [if_pos (by rw [hgood, decide_eq_true hbase]; rfl)]

section
variable (hbad : x.badSt = false)
include hbad

/-- FENCE with no access out. -/
theorem State.run_fence (hi : s.issues e c 0xC8 [] [] false = true) (hok : fenceOk w false false = true) (hpend : x.pend = []) :
    exec (.fence e c) s = .next (s.retires e c false .skip) :=
  State.run_issue hx hw hi rfl rfl rfl rfl (VecOp.poisoned_of_reads rfl rfl) hok (List.isEmpty_iff.2 hpend)
    (storeFault_eq_none (hx ▸ hbad))

/-- SREL with no write towards another package out. -/
theorem State.run_srel (hi : s.issues e c 0xCA [] [] false = true) (hok : fenceOk w false false = true)
    (hpend : (x.pend.any fun p => p.write && (p.walk.isSome || decide (p.pa / 2 ^ 47 % 1024 ≠ s.blk.ownPkg))) = false) :
    exec (.srel e c) s = .next (s.retires e c false .skip) :=
  State.run_issue hx hw hi rfl rfl rfl rfl (VecOp.poisoned_of_reads rfl rfl) hok (congrArg Bool.not hpend)
    (storeFault_eq_none (hx ▸ hbad))

/-- SACQ of at least one slice, in a partition whose traffic is not held. -/
theorem State.run_sacq {all : Bool} {pkg : Nat} (hi : s.issues e c 0xC9 [.s (Ins.ja w)] [] (x.isPois (.s (Ins.ja w))) = true)
    (hok : fenceOk w true true = true) (hheld : s.blk.held? (s.blk.enginePart e) = false) (hall : all = (Ins.imm32 w).testBit 0)
    (hpkg : pkg = bits (x.sc (Ins.ja w)).toNat 0 10) (hsome : s.blk.acqSlices pkg all ≠ []) :
    exec (.sacq e c) s = .next (s.retires e c (x.isPois (.s (Ins.ja w))) (.all [
      takeTag e c, modCtx (ctxKey e c) (fun y => { y with acq := some ((s.blk.acqSlices pkg all).length, x.meshTag c) }),
      .each (s.blk.acqSlices pkg all) fun k =>
        sendPkt (Pkt.bare 0xA0 (pkg * 2 ^ 47 + b2n all) (x.meshTag c) (s.blk.ctxHat e c) (.engine e) (.spanEng k))])) := by
  subst hall hpkg
  refine (State.run_issue hx hw hi rfl rfl rfl rfl (VecOp.poisoned_of_reads (x.any_isPois_one _) rfl) hok (congrArg Bool.not hheld)
    (storeFault_eq_none (hx ▸ hbad))).trans ?_
  dsimp only
  rw [decide_eq_true hsome, Prog.when_true]

end
end

/-- Settles O35: each instruction issues with the effect of its row of R227 or R229. -/
theorem troughInstructionsAndFences : Obligations.TroughInstructionsAndFences := by
  intro e c s x w h y hx hw hh hy
  refine ⟨fun p n count hp hi hok hclosed hn hgood hcount => ?opens,
    fun p pk hp hi hok hew hadds hopen hpk hsome => ?add, fun hi hok => ⟨fun hopen => ?closes, fun hrefused => ?closeRefused⟩,
    fun hi hok => ?abort, fun n hi hok hfinish hn hgood hbase => ?finish,
    fun hbad => ⟨fun hi hok hpend => ?fence, fun hi hok hpend => ?release, fun all pkg hi hok hheld hall hpkg hsome => ?acquire⟩⟩
  case opens => exact State.run_trgopen hx hw hh hy hp hi hok hclosed hn hgood hcount
  case add => exact State.run_trgadd hx hw hh hy hp hi hok hew hadds hopen hpk hsome
  case closes => rw [State.run_trgclose hx hw hh hy hi hok (.inl hopen), if_neg (by omega)]
  case closeRefused => rw [State.run_trgclose hx hw hh hy hi hok (.inr hrefused), if_pos hrefused]
  case abort => exact State.run_trgabort hx hw hh hy hi hok
  case finish => exact State.run_trgfin hx hw hi hok hfinish hn hgood hbase
  case fence => exact State.run_fence hx hw hbad hi hok hpend
  case release => exact State.run_srel hx hw hbad hi hok hpend
  case acquire => exact State.run_sacq hx hw hbad hi hok hheld hall hpkg hsome

end Sys2Proof.Machine
end

section
/-! SUPPORT. The commands of spec/09_troughs.md: a trough's rounds, its members and contributions, its release, and its vector going
out. -/

namespace Sys2Proof.Machine

section
variable {s : State} {hat t k : Nat}

/-! ### Rounds (R233–R235, R239, R249) -/

/-- A command of a hat that administers the trough is done, unless it must wait until a vector has gone out. -/
theorem State.did_trgAdmin {cmd : Nat} (hp : s.blk.portAdmits hat = true) (hmay : s.blk.mayTrough hat t = true)
    (hfree : ¬ (cmd = 3 ∨ cmd = 4) ∨ s.blk.on (Reg.TRG_EXPORT t) Fl.TRG_EXPORT_BUSY = false) :
    s.did (trgAdmin hat t cmd) = s.did (trgCommand t cmd) := by
  have hnow : ¬ ((cmd = 3 ∨ cmd = 4) ∧ s.blk.on (Reg.TRG_EXPORT t) Fl.TRG_EXPORT_BUSY = true) := fun ⟨hcmd, hbusy⟩ =>
    hfree.elim (fun h => h hcmd) fun h => by rw [h] at hbusy; cases hbusy
  rw [trgAdmin, State.did_underHat _ hp, State.did_read, hmay, if_neg (by decide), if_neg hnow]

theorem State.did_trgCommand_arm (hidle : s.blk.trgState t = TrgState.idle) : s.did (trgCommand t 1) = s.did (armTrg t) := by
  rw [trgCommand, State.did_read, if_pos rfl, State.did_when_true _ (decide_eq_true hidle)]

theorem State.did_trgCommand_abandon (harmed : s.blk.trgState t = TrgState.armed) :
    s.did (trgCommand t 2) = s.did (.all [trgCode t 0, abandonTrg t]) := by
  rw [trgCommand, State.did_read, if_neg (by decide), if_pos rfl, State.did_when_true _ (decide_eq_true harmed)]

theorem State.did_trgCommand_rearm (hpast : s.blk.trgState t = TrgState.released ∨ s.blk.trgState t = TrgState.abandoned) :
    s.did (trgCommand t 3) = s.did (armTrg t) := by
  rw [trgCommand, State.did_read, if_neg (by decide), if_neg (by decide), if_pos rfl, State.did_when_true _ (decide_eq_true hpast)]

theorem State.did_trgCommand_disarm (hpast : s.blk.trgState t = TrgState.released ∨ s.blk.trgState t = TrgState.abandoned) :
    s.did (trgCommand t 4) = s.did (.all [
      trgCode t 0, modTrg t (fun x => { x with toArmed := false }), setTrg t TrgState.zeroising]) := by
  rw [trgCommand, State.did_read, if_neg (by decide), if_neg (by decide), if_neg (by decide)]
  exact State.did_when_true _ (by rw [decide_eq_true hpast]; rfl)

/-- VALID 0 of a member: an ordinary write while the trough is idle, an ejection while it is armed. -/
theorem State.did_memberEject (hp : s.blk.portAdmits hat = true) (hmay : s.blk.mayTrough hat t = true) :
    s.did (memberEject hat t k) = s.did (
      if s.blk.trgState t = TrgState.idle then setF (Reg.TRG_MEMBER t k) Fl.TRG_MEMBER_VALID 0
      else if s.blk.trgState t = TrgState.armed then .all [ejectMember t k, setF (Reg.TRG_MEMBER t k) Fl.TRG_MEMBER_VALID 0]
      else trgDenied t) := by
  rw [memberEject, State.did_underHat _ hp, State.did_read, hmay, if_neg (by decide)]

theorem State.did_trgFinishWrite (hp : s.blk.portAdmits hat = true) (hmember : s.blk.memberOf t s.blk.ownPkg hat = some k)
    (harmed : s.blk.trgState t = TrgState.armed) (hdone : s.blk.memDone t k = false) (hout : s.blk.memOut t k = false) :
    s.did (trgFinishWrite hat t) = s.did (.all [trgCode t 0, completeMember t k]) := by
  rw [trgFinishWrite, State.did_underHat _ hp, State.did_read, hmember]
  exact State.did_when_true _ (by rw [hdone, hout, decide_eq_true harmed]; rfl)

/-! ### What works on the accumulator (R242–R244, R251) -/

theorem State.did_onAcc_ready (p : Prog) (hready : s.blk.accReady t = true) : s.did (onAcc t p) = s.did p := by
  rw [onAcc, State.did_read, if_pos hready]

theorem State.did_onAcc_waits (p : Prog) (hwaits : s.blk.accReady t = false) :
    s.did (onAcc t p) = s.did (packetWake (s.blk.trgWell t)) := by
  rw [onAcc, State.did_read, if_neg (by rw [hwaits]; decide)]

/-- The end of zeroisation. -/
theorem State.did_zeroised (hzero : s.blk.trgState t = TrgState.zeroising) (hready : s.blk.accReady t = true) :
    s.did (zeroised t) = s.did (.all [
      modTrg t (fun x => { x with acc := [], adding := [] }),
      if (s.blk.trgSt t).toArmed = true then .all [setTrg t TrgState.armed, decideTrg t false] else setTrg t TrgState.idle]) := by
  rw [zeroised, State.did_read, State.did_when_true _ (decide_eq_true hzero), State.did_onAcc_ready _ hready]

/-- The accumulator with a closed contribution added, element by element (R238). -/
def Contrib.addTo (c : Contrib) (acc : Tbl Lane) : Tbl Lane :=
  c.staged.foldl (fun a e =>
    Tbl.set (dflt 0) (c.base + e.1) (BitVec.ofNat 32 (fp32Sum (Tbl.get (dflt 0) (c.base + e.1) a).toNat e.2.toNat)) a) acc

/-- The oldest closed contribution is added. -/
theorem State.did_accumulateDone {c : Contrib} {rest : List Contrib} (hadding : (s.blk.trgSt t).adding = c :: rest) :
    s.did (accumulateDone t) = s.did (onAcc t (.all [
      activity c.hat Act.trough c.count, modTrg t fun x => { x with adding := rest, acc := c.addTo x.acc }])) := by
  rw [accumulateDone, State.did_read, hadding]
  rfl

/-- What a release does; with SIGMA 0 it draws no noise (R243). -/
def Block.release (b : Block) (t : Nat) (quiet : Bool) : Prog := .all [
  setF (Reg.TRG_CTL t) Fl.TRG_CTL_RNG_WAIT 0,
  .when (!quiet) (modTrg t fun x => { x with acc := noisedAcc b.free (b.trgElems t) (b.trgQexp t) x.acc }),
  .when (!quiet) (withFree fun n => addSat Reg.TRG_RNG Fl.TRG_RNG_RESEEDS n),
  addSat Reg.TRG_RNG Fl.TRG_RNG_RESEEDS 1,
  setTrg t TrgState.released]

/-- A release is made once everything closed is added and while the entropy source passes its tests. -/
theorem State.did_releaseDone {quiet : Bool} (hclosing : s.blk.trgState t = TrgState.closing) (hadding : (s.blk.trgSt t).adding = [])
    (hhealthy : s.blk.trough.healthy = true) (hready : s.blk.accReady t = true)
    (hquiet : decide (s.blk.f (Reg.TRG_PARAM t) Fl.TRG_PARAM_SIGMA % 2 ^ 31 = 0) = quiet) :
    s.did (releaseDone t) = s.did (s.blk.release t quiet) := by
  subst hquiet
  rw [releaseDone, State.did_read, State.did_when_true _ (by rw [decide_eq_true ⟨hclosing, hadding⟩, hhealthy]; rfl),
    State.did_onAcc_ready _ hready, Block.release]

/-! ### The unit's buffers (R237) -/

theorem State.did_trgOpenGrant {u : Nat} {c : Contrib} {rest : List Contrib} (hwaiting : (s.blk.trgUnit u).waiting = c :: rest)
    (hfree : s.blk.buffers u < 16) : s.did (trgOpenGrant u) = s.did (.all [
      modTrgU u (fun x => { x with waiting := rest }), grantOpen u c (c.openPkt u)]) := by
  rw [trgOpenGrant, State.did_read, hwaiting]
  exact State.did_when_true _ (decide_eq_true hfree)

/-! ### A released vector goes out (R246) -/

/-- Of several codes none is left where the highest is OK. -/
theorem worst_cons_eq_zero {c : Status} {l : List Status} : worst (c :: l) = 0 ↔ c = 0 ∧ worst l = 0 := by
  have hmax (l : List Status) (m : Status) : l.foldl max m = 0 ↔ m = 0 ∧ worst l = 0 := by
    induction l generalizing m with
    | nil => simp [worst]
    | cons x l ih => rw [worst, List.foldl_cons, List.foldl_cons, ih, ih]; simp only [Status] at *; omega
  rw [worst, List.foldl_cons, hmax, Nat.zero_max]

/-- A vector that may go out is read by a hat of the trough's partition that holds the class. -/
theorem Block.trgRead_of_exportCode {b : Block} {first count : Nat} (h : b.exportCode hat t first count = 0) :
    (b.holds hat Right.trgRead && b.inPart hat (b.troughPart t)) = true := by
  obtain ⟨hright, -⟩ := worst_cons_eq_zero.1 h
  split at hright
  next hmay =>
    obtain ⟨-, hholds, hpart⟩ := hmay
    rw [hholds, hpart]
    rfl
  next => cases hright

theorem State.did_exportGo {val : W64} (hp : s.blk.portAdmits hat = true)
    (hbusy : s.blk.on (Reg.TRG_EXPORT t) Fl.TRG_EXPORT_BUSY = false)
    (hcode : s.blk.exportCode hat t (getFld val Fl.TRG_EXPORT_FIRST) (getFld val Fl.TRG_EXPORT_COUNT) = 0) :
    s.did (exportGo hat t val) = s.did (.all [
      .all [
        setF (Reg.TRG_EXPORT t) Fl.TRG_EXPORT_FIRST (getFld val Fl.TRG_EXPORT_FIRST),
        setF (Reg.TRG_EXPORT t) Fl.TRG_EXPORT_COUNT (getFld val Fl.TRG_EXPORT_COUNT)],
      .all [
        setF (Reg.TRG_EXPORT t) Fl.TRG_EXPORT_BUSY 1,
        modTrg t (fun x => { x with exporting := some ⟨hat, s.blk.rightsOf hat,
          s.blk.f (Reg.TRG_EXPORT_DST t) Fl.TRG_EXPORT_DST_ADDR * 8, getFld val Fl.TRG_EXPORT_FIRST, getFld val Fl.TRG_EXPORT_COUNT⟩ }),
        exportRun t]]) := by
  rw [exportGo, State.did_underHat _ hp, State.did_read]
  dsimp only
  rw [hcode, hbusy, Block.trgRead_of_exportCode hcode, Bool.or_true, Bool.not_false, Prog.when_true, Prog.when_true,
    if_neg (not_not_intro rfl)]

/-- Once the last write is answered: what still waits for the accumulator goes out, or the end is shown. -/
theorem State.did_trgExportDone (hbusy : s.blk.on (Reg.TRG_EXPORT t) Fl.TRG_EXPORT_BUSY = true)
    (hanswered : (s.blk.trgSt t).exportOut = 0) : s.did (trgExportDone t) = s.did (
      if (s.blk.trgSt t).exporting.isSome = true then exportRun t else exportEnd t (s.blk.trgSt t).exportSt) := by
  rw [trgExportDone, State.did_read, State.did_when_true _ (by rw [hbusy, decide_eq_true hanswered]; rfl)]

/-- The writes of the vector leave under the hat and the rights it was given with. -/
theorem State.did_exportRun {x : TrgExport} (hx : (s.blk.trgSt t).exporting = some x) (hready : s.blk.accReady t = true) :
    s.did (exportRun t) = s.did (.all [
      modTrg t (fun y => { y with exporting := none }),
      .each (unitPieces (x.count + 1) x.dst 0 (4 * x.count)).zipIdx fun pc =>
        exportPiece x.rights x.hat t pc.2 (x.dst + pc.1.1)
          (slice (((List.range (pc.1.2 / 4 + 2)).flatMap fun i =>
            toBytesLE 4 (Tbl.get (dflt 0) (x.first + pc.1.1 / 4 + i) (s.blk.trgSt t).acc).toNat)) (pc.1.1 % 4) pc.1.2)]) := by
  rw [exportRun, State.did_read, hx, Prog.for?_some, State.did_onAcc_ready _ hready]

end

/-- Settles O26: each command is the program its guards let through. -/
theorem troughCommands : Obligations.TroughCommands := by
  refine ⟨fun hat t s hup hp hmay => ⟨fun hidle => ?arm, fun harmed => ?abandon, fun hbusy hpast => ⟨?rearm, ?disarm⟩,
      fun k harmed => ?eject, fun k hidle => ?unlist⟩,
    fun hat t k s hup hp hmember harmed hdone hout => ?finish,
    fun t s hup hzero hready => ⟨fun htoArmed => ?armed, fun htoIdle => ?idle⟩,
    fun u c rest s hup hwaiting hfree => ?grant,
    fun u i s hup => State.run_up hup _,
    fun t c rest s hup hadding => ⟨fun hwaits => ?waits, fun hready => ?added⟩,
    fun t s hup hset hpassed => ?deadline,
    fun t s hup hclosing hadding hhealthy hready => ⟨fun hquiet => ?quiet, fun hnoise => ?noise⟩,
    fun healthy s hup => State.run_up hup _,
    fun hat t v val s hup hp hv hbusy hcode => ?go,
    fun t s hup hbusy hanswered => ⟨fun hnone => ?ends, fun x hx hready => ?pieces⟩⟩
  case arm => exact State.run_up_did hup ((State.did_trgAdmin hp hmay (.inl (by decide))).trans (State.did_trgCommand_arm hidle))
  case abandon =>
    exact State.run_up_did hup ((State.did_trgAdmin hp hmay (.inl (by decide))).trans (State.did_trgCommand_abandon harmed))
  case rearm => exact State.run_up_did hup ((State.did_trgAdmin hp hmay (.inr hbusy)).trans (State.did_trgCommand_rearm hpast))
  case disarm => exact State.run_up_did hup ((State.did_trgAdmin hp hmay (.inr hbusy)).trans (State.did_trgCommand_disarm hpast))
  case eject =>
    refine State.run_up_did hup ((State.did_memberEject hp hmay).trans ?_)
    rw [harmed, if_neg (by decide), if_pos rfl]
  case unlist =>
    refine State.run_up_did hup ((State.did_memberEject hp hmay).trans ?_)
    rw [hidle, if_pos rfl]
  case finish => exact State.run_up_did hup (State.did_trgFinishWrite hp hmember harmed hdone hout)
  case armed =>
    refine State.run_up_did hup ((State.did_zeroised hzero hready).trans ?_)
    rw [if_pos htoArmed, State.did_all_nest]
  case idle =>
    refine State.run_up_did hup ((State.did_zeroised hzero hready).trans ?_)
    rw [if_neg (by rw [htoIdle]; decide)]
  case grant => exact State.run_up_did hup (State.did_trgOpenGrant hwaiting hfree)
  case waits => exact State.run_up_did hup ((State.did_accumulateDone hadding).trans (State.did_onAcc_waits _ hwaits))
  case added => exact State.run_up_did hup ((State.did_accumulateDone hadding).trans (State.did_onAcc_ready _ hready))
  case deadline => exact State.run_guarded hup (decide_eq_true ⟨Nat.ne_of_gt hset, hpassed⟩)
  case quiet =>
    refine State.run_up_did hup ((State.did_releaseDone hclosing hadding hhealthy hready (decide_eq_true hquiet)).trans ?_)
    rw [Block.release, Bool.not_true, Prog.when_false, Prog.when_false, State.did_all_cons, State.did_skip_cons, State.did_skip_cons,
      ← State.did_all_cons]
  case noise =>
    refine State.run_up_did hup ((State.did_releaseDone hclosing hadding hhealthy hready (decide_eq_false hnoise)).trans ?_)
    rw [Block.release, Bool.not_false, Prog.when_true, Prog.when_true]
  case go =>
    subst hv
    exact State.run_up_did hup (State.did_exportGo hp hbusy hcode)
  case ends =>
    refine State.run_up_did hup ((State.did_trgExportDone hbusy hanswered).trans ?_)
    rw [hnone]
    rfl
  case pieces =>
    refine State.run_up_did hup ((State.did_trgExportDone hbusy hanswered).trans ?_)
    rw [hx]
    exact State.did_exportRun hx hready

end Sys2Proof.Machine
end

section
/-! SUPPORT. What the commands, events and packets of a trough's round leave alone (spec/09_troughs.md): the edits their programs are
made of. -/

namespace Sys2Proof.Machine

/-! ### Edits of a round -/

/-- An edit of registers, the log, packets, engine contexts, troughs, wakes, reports or activity; where `span` holds, also of hats,
peers or the span. -/
def Edit.ofRound (span : Prop) : Edit → Prop
  | .reg .. | .fld .. | .free | .log .. | .out _ | .dom .. | .noc _ | .ctx .. | .trg .. | .trgU .. | .trough _ | .sec _ => True
  | .pwr g => ∀ p, g p = { p with activity := (g p).activity }
  | .peer .. | .span _ | .hats _ => span
  | _ => False

/-- The block with everything blanked that such edits reach. -/
def Block.besideRound (b : Block) : Block := { b with
  regs := [], free := 0, logs := [], outs := [], dom := [], noc := {}, ctx := [], trg := [], trgU := [], trough := {}, peer := [],
  span := {}, hats := {}, sec := {}, pwr := { b.pwr with activity := [] } }

/-- A part that the blanked block shows is the same in two blocks that differ only in what is blanked. -/
theorem Block.eq_of_besideRound {α : Type} {b b' : Block} (h : b'.besideRound = b.besideRound) (f : Block → α)
    (hf : ∀ b : Block, f b.besideRound = f b) : f b' = f b := by
  rw [← hf b', h, hf b]

/-- What a round leaves as it was: the rest of the block, and without `span` also hats, peers and the span. -/
def Block.roundKeeps (span : Prop) (b b' : Block) : Prop :=
  b'.besideRound = b.besideRound ∧ (¬ span → b'.hats = b.hats ∧ b'.peer = b.peer ∧ b'.span = b.span)

theorem Block.frame_roundKeeps (span : Prop) : Frame (Block.roundKeeps span) where
  refl _ := ⟨rfl, fun _ => ⟨rfl, rfl, rfl⟩⟩
  trans := by
    rintro b b' b'' ⟨hrest, hspan⟩ ⟨hrest', hspan'⟩
    refine ⟨hrest'.trans hrest, fun hno => ?_⟩
    obtain ⟨hhats, hpeer, hsp⟩ := hspan hno
    obtain ⟨hhats', hpeer', hsp'⟩ := hspan' hno
    exact ⟨hhats'.trans hhats, hpeer'.trans hpeer, hsp'.trans hsp⟩

theorem Edit.roundKeeps_apply {span : Prop} {d : Edit} (h : d.ofRound span) (b : Block) : b.roundKeeps span (d.apply b) := by
  cases d
  case reg | fld | free | log | out | dom | noc | ctx | trg | trgU | trough | sec => exact ⟨rfl, fun _ => ⟨rfl, rfl, rfl⟩⟩
  case pwr g =>
    have hblank : { g b.pwr with activity := [] } = { b.pwr with activity := [] } := by rw [h b.pwr]
    exact ⟨congrArg (fun p => { b.besideRound with pwr := p }) hblank, fun _ => ⟨rfl, rfl, rfl⟩⟩
  case peer | span | hats => exact ⟨rfl, fun hno => absurd h hno⟩
  all_goals exact h.elim

theorem Prog.within_roundKeeps {span : Prop} {p : Prog} (h : p.Only (Edit.ofRound span)) : Prog.Within (Block.roundKeeps span) p :=
  h.within (Block.frame_roundKeeps span) fun _ hd => Edit.roundKeeps_apply hd

/-- What may reach the span does so where the span may be reached. -/
theorem Prog.Only.round_of_span {span : Prop} {p : Prog} (h : p.Only (Edit.ofRound True)) (hspan : span) :
    p.Only (Edit.ofRound span) := by rwa [eq_true hspan]

/-! ### Operations every unit shares -/

section
variable {span : Prop} (a n h cls : Nat) (fl : Fld) (p : Pkt)

@[simp] theorem only_setF_round : (setF a fl n).Only (Edit.ofRound span) := trivial
@[simp] theorem only_incSat_round : (incSat a fl).Only (Edit.ofRound span) := fun _ => trivial
@[simp] theorem only_addSat_round : (addSat a fl n).Only (Edit.ofRound span) := fun _ => trivial
@[simp] theorem only_addWrap_round : (addWrap a fl n).Only (Edit.ofRound span) := fun _ => trivial
@[simp] theorem only_logEv_round : (logEv n h).Only (Edit.ofRound span) := trivial
@[simp] theorem only_send_round (o : Out) : (send o).Only (Edit.ofRound span) := trivial
@[simp] theorem only_modDom_round (g : DomSt → DomSt) : (modDom n g).Only (Edit.ofRound span) := trivial
@[simp] theorem only_modCtx_round (g : VecCtx → VecCtx) : (modCtx n g).Only (Edit.ofRound span) := trivial
@[simp] theorem only_modSec_round (g : SecSt → SecSt) : (modSec g).Only (Edit.ofRound span) := trivial
@[simp] theorem only_modTrg_round (g : TrgSt → TrgSt) : (modTrg n g).Only (Edit.ofRound span) := trivial
@[simp] theorem only_modTrgU_round (g : TrgUnit → TrgUnit) : (modTrgU n g).Only (Edit.ofRound span) := trivial
@[simp] theorem only_modTrough_round (g : TroughSt → TroughSt) : (modTrough g).Only (Edit.ofRound span) := trivial
@[simp] theorem only_sendPkt_round : (sendPkt p).Only (Edit.ofRound span) := trivial
@[simp] theorem only_takePkt_round : (takePkt p).Only (Edit.ofRound span) := trivial
@[simp] theorem only_activity_round : (activity h cls n).Only (Edit.ofRound span) := fun _ => rfl
@[simp] theorem only_measured_round : measured.Only (Edit.ofRound span) := by simp [measured]
@[simp] theorem only_packetWake_round : (packetWake n).Only (Edit.ofRound span) := by simp [packetWake, startWake]

theorem only_withFree_round {k : Nat → Prog} (hk : ∀ n, (k n).Only (Edit.ofRound span)) : (withFree k).Only (Edit.ofRound span) :=
  fun _ => ⟨trivial, hk _⟩

theorem only_underHat_round {k : Prog} (hk : k.Only (Edit.ofRound span)) : (underHat h k).Only (Edit.ofRound span) :=
  fun _ => (Prog.only_when _ _).2 fun _ => hk

theorem only_onPkt_round (code : Nat) {k : Prog} (hk : k.Only (Edit.ofRound span)) : (onPkt p code k).Only (Edit.ofRound span) := by
  refine fun b => (Prog.only_when _ _).2 fun _ => ?_
  split
  · simp [hk]
  · exact hk

theorem only_orAbsorbed_round {k : Prog} (hk : k.Only (Edit.ofRound span)) : (orAbsorbed p k).Only (Edit.ofRound span) := by
  intro b
  dsimp only
  split
  · simp
  · exact hk

end

/-! ### States and members of a trough (R233–R242, R249) -/

section
variable {span : Prop} (hat t k : Nat)

@[simp] theorem only_trgDenied_round : (trgDenied t).Only (Edit.ofRound span) := only_setF_round _ _ _
@[simp] theorem only_trgCode_round : (trgCode t k).Only (Edit.ofRound span) := only_setF_round _ _ _
@[simp] theorem only_setTrg_round : (setTrg t k).Only (Edit.ofRound span) := by simp [setTrg]
@[simp] theorem only_countMembers_round : (countMembers t).Only (Edit.ofRound span) := by simp [countMembers]
@[simp] theorem only_dropContribs_round (test : Contrib → Bool) : (dropContribs t test).Only (Edit.ofRound span) := by
  simp [dropContribs]
@[simp] theorem only_abandonTrg_round : (abandonTrg t).Only (Edit.ofRound span) := by simp [abandonTrg]
@[simp] theorem only_closeTrg_round : (closeTrg t).Only (Edit.ofRound span) := by simp [closeTrg]
@[simp] theorem only_decideTrg_round (late : Bool) : (decideTrg t late).Only (Edit.ofRound span) := by simp [decideTrg]
@[simp] theorem only_completeMember_round : (completeMember t k).Only (Edit.ofRound span) := by simp [completeMember]
@[simp] theorem only_ejectMember_round : (ejectMember t k).Only (Edit.ofRound span) := by simp [ejectMember]
@[simp] theorem only_armTrg_round : (armTrg t).Only (Edit.ofRound span) := by simp [armTrg, armFail]
@[simp] theorem only_trgCommand_round (cmd : Nat) : (trgCommand t cmd).Only (Edit.ofRound span) := by simp [trgCommand]

theorem only_trgAdmin_round (cmd : Nat) : (trgAdmin hat t cmd).Only (Edit.ofRound span) :=
  only_underHat_round _ (by simp [armFail])

theorem only_trgFinishWrite_round : (trgFinishWrite hat t).Only (Edit.ofRound span) := by
  refine only_underHat_round _ fun b => ?_
  dsimp only
  split <;> simp

theorem only_memberEject_round : (memberEject hat t k).Only (Edit.ofRound span) := only_underHat_round _ (by simp)

/-- What works on the accumulator may wake its well first. -/
theorem only_onAcc_round {k : Prog} (hk : k.Only (Edit.ofRound span)) : (onAcc t k).Only (Edit.ofRound span) := by simp [onAcc, hk]

theorem only_zeroised_round : (zeroised t).Only (Edit.ofRound span) :=
  fun _ => (Prog.only_when _ _).2 fun _ => only_onAcc_round _ (by simp)

theorem only_accumulateDone_round : (accumulateDone t).Only (Edit.ofRound span) := by
  intro b
  dsimp only
  split
  · exact only_onAcc_round _ (by simp)
  · exact Prog.only_skip

theorem only_releaseDone_round : (releaseDone t).Only (Edit.ofRound span) :=
  fun _ => (Prog.only_when _ _).2 fun _ => only_onAcc_round _ (by simp [only_withFree_round])

theorem only_entropyChange_round (healthy : Bool) : (entropyChange healthy).Only (Edit.ofRound span) := by simp [entropyChange]

end

/-! ### Contributions at the trough unit (R237–R240) -/

section
variable {span : Prop} (u t : Nat) (p : Pkt)

@[simp] theorem only_trgAnswer_round (cmd st : Nat) : (trgAnswer p cmd st).Only (Edit.ofRound span) := by simp [trgAnswer]
@[simp] theorem only_grantOpen_round (c : Contrib) : (grantOpen u c p).Only (Edit.ofRound span) := by simp [grantOpen]
@[simp] theorem only_acceptClose_round (c : Contrib) (clip : Bool) : (acceptClose u t c clip).Only (Edit.ofRound span) := by
  simp [acceptClose]

theorem only_trgOpenGrant_round : (trgOpenGrant u).Only (Edit.ofRound span) := by
  intro b
  dsimp only
  split <;> simp

theorem only_trgOpen_round : (trgOpen p).Only (Edit.ofRound span) := by
  intro b
  dsimp only
  split <;> simp

theorem only_trgAdd_round : (trgAdd p).Only (Edit.ofRound span) := by
  intro b
  dsimp only
  split <;> simp

theorem only_trgClose_round : (trgClose p).Only (Edit.ofRound span) := by
  intro b
  dsimp only
  split
  · refine (Prog.only_when _ _).2 fun _ => ?_
    split <;> simp
  · exact Prog.only_skip

theorem only_trgAbort_round : (trgAbort p).Only (Edit.ofRound span) := by
  intro b
  dsimp only
  split <;> simp

theorem only_trgFinish_round : (trgFinish p).Only (Edit.ofRound span) := by
  intro b
  dsimp only
  split <;> simp

theorem only_atTrough_round {k : Prog} (hk : k.Only (Edit.ofRound span)) : (atTrough p k).Only (Edit.ofRound span) := by
  simp [atTrough, only_onAcc_round _ hk, hk]

end

/-! ### Answers at the engine (R240) -/

section
variable {span : Prop} (e c : Nat) (p : Pkt)

@[simp] theorem only_modHandle_round (h : Nat) (g : Handle → Handle) : (modHandle e c h g).Only (Edit.ofRound span) := trivial
@[simp] theorem only_dropHandle_round (h : Nat) : (dropHandle e c h).Only (Edit.ofRound span) := trivial
@[simp] theorem only_putStatus_round (sd st : Nat) : (putStatus e c sd st).Only (Edit.ofRound span) := trivial
@[simp] theorem only_sendClose_round (h : Nat) : (sendClose e c h).Only (Edit.ofRound span) := fun _ => trivial

theorem only_engineTrgAck_round : (engineTrgAck e p).Only (Edit.ofRound span) := by
  refine fun b => (Prog.only_when _ _).2 fun _ => ?_
  split <;> simp

theorem only_engineTrgStat_round : (engineTrgStat e p).Only (Edit.ofRound span) := by simp [engineTrgStat]

end

/-! ### The span's part (R250, R355–R371): packets at a span engine -/

section
variable {span : Prop} (e n : Nat) (p : Pkt) (m : SpanMsg)

@[simp] theorem only_memAnswer_round (st : Status) (units : List DUnit) : (memAnswer p st units).Only (Edit.ofRound span) := by
  simp [memAnswer]
@[simp] theorem only_spanRefuse_round (st : Status) : (spanRefuse p st).Only (Edit.ofRound span) := by
  simp [spanRefuse, refuseReq]
@[simp] theorem only_spanTimedOut_round : (spanTimedOut n p).Only (Edit.ofRound span) := by simp [spanTimedOut]
@[simp] theorem only_frameOut_round (c port : Nat) (f : SpanFrame) : (frameOut c port f).Only (Edit.ofRound span) := by simp [frameOut]
@[simp] theorem only_frameActive_round (f : SpanFrame) : (frameActive n f).Only (Edit.ofRound span) := by simp [frameActive]

@[simp] theorem only_modPeer_round (g : PeerSt → PeerSt) : (modPeer n g).Only (Edit.ofRound True) := trivial
@[simp] theorem only_modSpan_round (g : SpanSt → SpanSt) : (modSpan g).Only (Edit.ofRound True) := trivial
@[simp] theorem only_charge_round (ep : Ep) (h lbl : Nat) : (charge ep h lbl n).Only (Edit.ofRound True) := by
  simp [charge, modHats, Edit.ofRound]
@[simp] theorem only_transmitOne_round : (transmitOne n).Only (Edit.ofRound True) := by simp [transmitOne]
@[simp] theorem only_transmit_round : (transmit n).Only (Edit.ofRound True) := by
  intro b
  dsimp only
  generalize (b.peerSt n).txq.length = len
  induction len with
  | zero => exact Prog.only_all_nil
  | succ len ih => rw [List.replicate_succ]; exact ⟨only_transmitOne_round n, ih⟩
@[simp] theorem only_queueMsg_round : (queueMsg n m).Only (Edit.ofRound True) := by simp [queueMsg]
@[simp] theorem only_spanEnqueue_round (cmd addr : Nat) {k : Nat → Prog} (hk : ∀ t, (k t).Only (Edit.ofRound True)) :
    (spanEnqueue n p cmd addr k).Only (Edit.ofRound True) := by simp [spanEnqueue, hk]
@[simp] theorem only_dropLines_round (test : RlcLine → Bool) : (dropLines test).Only (Edit.ofRound True) := by simp [dropLines]
@[simp] theorem only_rlcPass_round : (rlcPass p).Only (Edit.ofRound True) := by simp [rlcPass]

@[simp] theorem only_rlcRead_round : (rlcRead e n p).Only (Edit.ofRound True) := by
  intro b
  dsimp only
  split <;> simp

theorem only_spanRequest_round : (spanRequest e p).Only (Edit.ofRound True) := by simp [spanRequest]

@[simp] theorem only_refuseIn_round (st : Status) : (refuseIn n m st).Only (Edit.ofRound True) := by simp [refuseIn]

@[simp] theorem only_tryInject_round : (tryInject n m).Only (Edit.ofRound True) := by
  intro b
  dsimp only
  refine (Prog.only_when _ _).2 fun _ => ⟨only_modPeer_round _ _, ?_, Prog.only_all_nil⟩
  split <;> simp

theorem only_spanAnswer_round : (spanAnswer e p).Only (Edit.ofRound True) := by simp [spanAnswer, injectAll]

end

/-! ### The commands, events and packets of a round -/

/-- The command's meaning is a program of such edits. -/
def RoundOnly (span : Prop) (i : Instr) : Prop := ∃ p : Prog, p.Only (Edit.ofRound span) ∧ ∀ s, exec i s = s.run p

theorem RoundOnly.intro {span : Prop} {i : Instr} {p : Prog} (hexec : ∀ s, exec i s = s.run p) (hp : p.Only (Edit.ofRound span)) :
    RoundOnly span i := ⟨p, hp, hexec⟩

theorem RoundOnly.roundKeeps {span : Prop} {i : Instr} (hi : RoundOnly span i) {s t : State} (h : exec i s = .next t) :
    s.blk.roundKeeps span t.blk ∧ t.pending = s.pending := by
  obtain ⟨p, hp, hexec⟩ := hi
  rw [hexec] at h
  exact ⟨State.run_within (Block.frame_roundKeeps span) (Prog.within_roundKeeps hp) h, State.run_pending h⟩

section
variable {span : Prop} (hat n : Nat) (t m : Fin 64) (u : Fin 8) (v : Bool)

theorem ofRound_commands : ∀ i ∈ [Instr.arm hat t, .abandon hat t, .rearm hat t, .disarm hat t, .finish hat t, .memberEject hat t m,
    .zeroisationDone t], RoundOnly span i := by
  simp only [List.forall_mem_cons, List.not_mem_nil, false_implies, implies_true, and_true]
  refine ⟨?_, ?_, ?_, ?_, .intro (fun _ => rfl) (only_trgFinishWrite_round _ _), .intro (fun _ => rfl) (only_memberEject_round _ _ _),
    .intro (fun _ => rfl) (only_zeroised_round _)⟩ <;> exact .intro (fun _ => rfl) (only_trgAdmin_round _ _ _)

theorem ofRound_events : ∀ i ∈ [Instr.trgIdleAbort u n, .trgAccumulateDone t, .trgDeadlineExpiry t,
    .trgReleaseDone t, .entropyHealthChange v], RoundOnly span i := by
  simp only [List.forall_mem_cons, List.not_mem_nil, false_implies, implies_true, and_true]
  refine ⟨.intro (fun _ => rfl) (only_modTrgU_round _ _), .intro (fun _ => rfl) (only_accumulateDone_round _),
    .intro (fun _ => rfl) fun _ => (Prog.only_when _ _).2 fun _ => only_decideTrg_round _ _,
    .intro (fun _ => rfl) (only_releaseDone_round _), .intro (fun _ => rfl) (only_entropyChange_round _)⟩

end

section
variable (p : Pkt)

/-- A request is the trough unit's, or the span's at a span engine. -/
theorem only_troughRequest_round {k : Prog} (hk : ∀ span, k.Only (Edit.ofRound span)) :
    (troughRequest p k).Only (Edit.ofRound (∃ g, p.dst = .spanEng g)) := by
  unfold troughRequest
  split
  · rw [Prog.only_ite]
    exact ⟨fun _ => hk _, fun _ => only_atTrough_round _ (hk _)⟩
  next e hdst =>
    exact (only_spanRequest_round e p).round_of_span ⟨e, hdst⟩
  · exact only_takePkt_round p

/-- An answer is the engine's, or the span's at a span engine. -/
theorem only_troughResponse_round {k : Nat → Prog} (hk : ∀ span e, (k e).Only (Edit.ofRound span)) :
    (troughResponse p k).Only (Edit.ofRound (∃ g, p.dst = .spanEng g)) := by
  refine only_orAbsorbed_round p ?_
  split
  · exact ⟨only_takePkt_round p, hk _ _, trivial⟩
  next e hdst =>
    exact (only_spanAnswer_round e p).round_of_span ⟨e, hdst⟩
  · exact only_takePkt_round p

theorem ofRound_packets (u : Fin 8) : ∀ i ∈ [Instr.trgOpen p, .trgOpenGrant u, .trgAdd p, .trgClose p, .trgAbort p, .trgAck p,
    .trgStat p, .trgFinish p], RoundOnly (∃ g, p.dst = .spanEng g) i := by
  have request {i : Instr} (code : Nat) {k : Prog} (hexec : ∀ s, exec i s = s.run (onPkt p code (troughRequest p k)))
      (hk : ∀ span, k.Only (Edit.ofRound span)) : RoundOnly (∃ g, p.dst = .spanEng g) i :=
    .intro hexec (only_onPkt_round p code (only_troughRequest_round p hk))
  have response {i : Instr} (code : Nat) {k : Nat → Prog} (hexec : ∀ s, exec i s = s.run (onPkt p code (troughResponse p k)))
      (hk : ∀ span e, (k e).Only (Edit.ofRound span)) : RoundOnly (∃ g, p.dst = .spanEng g) i :=
    .intro hexec (only_onPkt_round p code (only_troughResponse_round p hk))
  simp only [List.forall_mem_cons, List.not_mem_nil, false_implies, implies_true, and_true]
  exact ⟨request 0x70 (fun _ => rfl) fun _ => only_trgOpen_round p, .intro (fun _ => rfl) (only_trgOpenGrant_round _),
    request 0x71 (fun _ => rfl) fun _ => only_trgAdd_round p, request 0x72 (fun _ => rfl) fun _ => only_trgClose_round p,
    request 0x73 (fun _ => rfl) fun _ => only_trgAbort_round p, response 0x74 (fun _ => rfl) fun _ e => only_engineTrgAck_round e p,
    response 0x75 (fun _ => rfl) fun _ e => only_engineTrgStat_round e p, request 0x76 (fun _ => rfl) fun _ => only_trgFinish_round p⟩

end

/-- Settles O55: each of these commands is a program of edits of a round, those of the span only for a packet at a span engine. -/
theorem troughFrame : Obligations.TroughFrame := by
  intro s t hat q m p u n v i hi h
  have hall := List.forall_mem_append.2 ⟨ofRound_commands hat q m,
    List.forall_mem_append.2 ⟨ofRound_packets p u, ofRound_events n q u v⟩⟩
  obtain ⟨⟨hrest, hspan⟩, hpending⟩ := (hall i hi).roundKeeps h
  have hpwr : t.blk.pwr = { s.blk.pwr with activity := t.blk.pwr.activity } :=
    congrArg (fun b => { b.pwr with activity := t.blk.pwr.activity }) hrest
  have keeps {α : Type} (f : Block → α) (hf : ∀ b : Block, f b.besideRound = f b) : f t.blk = f s.blk :=
    Block.eq_of_besideRound hrest f hf
  exact ⟨keeps Block.bytes fun _ => rfl, keeps Block.pois fun _ => rfl, keeps Block.dir fun _ => rfl, keeps Block.imem fun _ => rfl,
    keeps Block.ldm fun _ => rfl, keeps Block.cis fun _ => rfl, keeps Block.slot fun _ => rfl, keeps Block.glv fun _ => rfl,
    keeps Block.prt fun _ => rfl, keeps Block.port fun _ => rfl, keeps Block.tmg fun _ => rfl, hpwr, keeps Block.work fun _ => rfl,
    keeps Block.intake fun _ => rfl, keeps Block.pmp fun _ => rfl, keeps Block.xlt fun _ => rfl,
    fun hno => hspan fun ⟨g, hg⟩ => hno g hg, hpending⟩

end Sys2Proof.Machine
end

section
/-! SUPPORT. No release without noise (R242–R244): what the entropy source's health and a release leave in a trough. -/

namespace Sys2Proof.Machine

/-! ### Parts that a program keeps -/

/-- The edit leaves a part of the block as it is. -/
def Edit.keeps {α : Type} (f : Block → α) (d : Edit) : Prop := ∀ b, f (d.apply b) = f b

/-- So does a program of such edits. -/
theorem Prog.Only.keeps {α : Type} {f : Block → α} {p : Prog} (h : p.Only (Edit.keeps f)) (b : Block) : f (p.run b) = f b :=
  h.within (Frame.of_eq f) (fun _ hd => hd) b

/-- Edits of a round hold nothing in reset. -/
theorem State.up_did_round {span : Prop} {p : Prog} (h : p.Only (Edit.ofRound span)) (s : State) : (s.did p).up = s.up := by
  obtain ⟨hrest, -⟩ := Prog.within_roundKeeps h s.blk
  exact Block.eq_of_besideRound hrest (fun b => !b.held && !b.sys.scanned) fun _ => rfl

/-! ### TRG_CTL -/

section
variable {t : Nat} {fl : Fld}

theorem Reg.TRG_CTL_injective {u : Nat} (h : Reg.TRG_CTL t = Reg.TRG_CTL u) : t = u := by
  simp only [Reg.TRG_CTL] at h; omega

/-- A write of another register, or of a field beside it, keeps a field of a trough's TRG_CTL. -/
theorem only_setF_keepsCtl {a : Nat} {fl' : Fld} (v : Nat)
    (h : Reg.TRG_CTL t ≠ a ∨ fl.lo + fl.width ≤ fl'.lo ∨ fl'.lo + fl'.width ≤ fl.lo) :
    (setF a fl' v).Only (Edit.keeps fun b => b.f (Reg.TRG_CTL t) fl) :=
  fun b => Block.f_fld_other b a _ fl' fl v h

theorem only_addSatRng_keepsCtl (ht : t < 64) (n : Nat) :
    (addSat Reg.TRG_RNG Fl.TRG_RNG_RESEEDS n).Only (Edit.keeps fun b => b.f (Reg.TRG_CTL t) fl) :=
  fun _ => only_setF_keepsCtl _ (.inl (by simp only [Reg.TRG_CTL, Reg.TRG_RNG]; omega))

theorem only_measured_keepsCtl : measured.Only (Edit.keeps fun b => b.f (Reg.TRG_CTL t) fl) :=
  fun _ => (Prog.only_when _ _).2 fun _ =>
    ⟨fun _ => only_setF_keepsCtl _ (.inl (by simp only [Reg.TRG_CTL, Reg.SEC_RPT]; omega)), fun _ => rfl, trivial⟩

end

/-- A change of state touches registers and reports alone. -/
theorem only_setTrg_keepsTrgSt (t u st : Nat) : (setTrg u st).Only (Edit.keeps fun b => b.trgSt t) :=
  ⟨fun _ => rfl, fun _ => (Prog.only_when _ _).2 fun _ => ⟨fun _ _ => rfl, fun _ => rfl, trivial⟩, trivial⟩

/-! ### The entropy source's health (R244) -/

section
variable (b : Block) (healthy : Bool) {t : Nat}

/-- RNG_WAIT of a trough after it is set for a list of troughs. -/
theorem Block.rngWait_each (v : Nat) (l : List Nat) :
    ((Prog.each l fun u => setF (Reg.TRG_CTL u) Fl.TRG_CTL_RNG_WAIT v).run b).f (Reg.TRG_CTL t) Fl.TRG_CTL_RNG_WAIT =
      if t ∈ l then v % 2 else b.f (Reg.TRG_CTL t) Fl.TRG_CTL_RNG_WAIT := by
  induction l generalizing b with
  | nil => rfl
  | cons u l ih =>
    rw [Prog.run_each_cons, ih, setF, Prog.run_edit]
    by_cases htu : t = u
    · subst htu
      rw [Block.f_fld _ _ _ _ (by decide), if_pos List.mem_cons_self]
      exact ite_self _
    · rw [Block.f_fld_other _ _ _ _ _ _ (.inl fun h => htu (Reg.TRG_CTL_injective h))]
      simp only [List.mem_cons, htu, false_or]

theorem Block.healthy_entropyChange : ((entropyChange healthy).run b).trough.healthy = healthy := by
  have heach (l : List Nat) (v : Nat) (b : Block) :
      ((Prog.each l fun u => setF (Reg.TRG_CTL u) Fl.TRG_CTL_RNG_WAIT v).run b).trough = b.trough := by
    refine Prog.Only.keeps (f := Block.trough) ?_ b
    exact (Prog.only_each _ _).2 fun _ _ _ => rfl
  simp only [entropyChange, Prog.run_read, Prog.run_all_cons, Prog.run_all_nil, heach]
  cases healthy <;> rfl

theorem Block.trgState_entropyChange (ht : t < 64) : ((entropyChange healthy).run b).trgState t = b.trgState t := by
  have hrng : Reg.TRG_CTL t ≠ Reg.TRG_RNG := by simp only [Reg.TRG_CTL, Reg.TRG_RNG]; omega
  refine Prog.Only.keeps (f := fun b => b.f (Reg.TRG_CTL t) Fl.TRG_CTL_STATE) (p := entropyChange healthy) (fun b => ?_) b
  exact ⟨fun _ => rfl, only_setF_keepsCtl _ (.inl hrng), (Prog.only_when _ _).2 fun _ => only_setF_keepsCtl _ (.inl hrng),
    (Prog.only_each _ _).2 fun _ _ => only_setF_keepsCtl _ (.inr (by decide)), trivial⟩

/-- A trough in CLOSING shows whether the source fails. -/
theorem Block.rngWait_entropyChange (ht : t < 64) (hclosing : b.trgState t = TrgState.closing) :
    ((entropyChange healthy).run b).f (Reg.TRG_CTL t) Fl.TRG_CTL_RNG_WAIT = b2n (!healthy) := by
  have hlisted : t ∈ (List.range 64).filter fun u => decide (b.trgState u = TrgState.closing) :=
    List.mem_filter.2 ⟨List.mem_range.2 ht, decide_eq_true hclosing⟩
  simp only [entropyChange, Prog.run_read, Prog.run_all_cons, Prog.run_all_nil]
  rw [Block.rngWait_each, if_pos hlisted]
  cases healthy <;> rfl

/-- While the source fails its tests nothing is released. -/
theorem State.did_releaseDone_unhealthy {s : State} (h : s.blk.trough.healthy = false) : s.did (releaseDone t) = s := by
  rw [releaseDone, State.did_read, h, Bool.and_false, Prog.when_false, State.did_skip]

end

/-! ### The release (R242, R243) -/

section
variable (b : Block) {t : Nat}

theorem Block.trgState_setTrg (st : Nat) : ((setTrg t st).run b).trgState t = st % 8 :=
  (Prog.Only.keeps (f := fun b => b.f (Reg.TRG_CTL t) Fl.TRG_CTL_STATE) only_measured_keepsCtl _).trans
    (Block.f_fld b _ _ _ (by decide))

variable (quiet : Bool)

theorem Block.trgState_release : ((b.release t quiet).run b).trgState t = TrgState.released :=
  Block.trgState_setTrg _ TrgState.released

theorem Block.rngWait_release (ht : t < 64) : ((b.release t quiet).run b).f (Reg.TRG_CTL t) Fl.TRG_CTL_RNG_WAIT = 0 := by
  rw [Block.release, Prog.run_all_cons, Prog.Only.keeps (f := fun b => b.f (Reg.TRG_CTL t) Fl.TRG_CTL_RNG_WAIT)]
  · exact Block.f_fld b _ _ _ (by decide)
  · exact ⟨(Prog.only_when _ _).2 fun _ _ => rfl,
      (Prog.only_when _ _).2 fun _ _ => ⟨fun _ => rfl, only_addSatRng_keepsCtl ht _⟩, only_addSatRng_keepsCtl ht 1,
      ⟨only_setF_keepsCtl _ (.inr (by decide)), only_measured_keepsCtl, trivial⟩, trivial⟩

/-- After its noise the accumulator stays as it is. -/
theorem Block.trgSt_release : ((b.release t quiet).run b).trgSt t =
    if quiet then b.trgSt t else { b.trgSt t with acc := noisedAcc b.free (b.trgElems t) (b.trgQexp t) (b.trgSt t).acc } := by
  rw [Block.release, Prog.run_all_cons, Prog.run_all_cons, Prog.Only.keeps (f := fun b => b.trgSt t)]
  · cases quiet
    · exact (Block.trgSt_trg _ t t _).trans (if_pos rfl)
    · rfl
  · exact ⟨(Prog.only_when _ _).2 fun _ _ => ⟨fun _ => rfl, fun _ _ => rfl⟩, fun _ _ => rfl, only_setTrg_keepsTrgSt _ _ _, trivial⟩

end

/-- Settles O59: a failing source is shown in RNG_WAIT and stops the release, which else leaves the noise and RELEASED. -/
theorem noReleaseWithoutNoise : Obligations.NoReleaseWithoutNoise := by
  constructor
  · intro t s hup hclosing
    have hup' : (s.did (entropyChange false)).up = true :=
      (State.up_did_round (only_entropyChange_round (span := False) false) s).trans hup
    refine ⟨s.did (entropyChange false), State.run_up hup _, (s.blk.trgState_entropyChange false t.isLt).trans hclosing,
      s.blk.rngWait_entropyChange false t.isLt hclosing, (State.run_up hup' _).trans (congrArg _ ?_)⟩
    exact State.did_releaseDone_unhealthy (s.blk.healthy_entropyChange false)
  · intro t s hup hclosing hadding hhealthy hready
    refine ⟨s.did (s.blk.release t (decide (s.blk.f (Reg.TRG_PARAM t) Fl.TRG_PARAM_SIGMA % 2 ^ 31 = 0))),
      State.run_up_did hup (State.did_releaseDone hclosing hadding hhealthy hready rfl), s.blk.trgState_release _,
      s.blk.rngWait_release _ t.isLt, ?_⟩
    rw [State.did_blk, Block.trgSt_release]
    simp only [decide_eq_true_eq]
    split <;> rfl

end Sys2Proof.Machine
end

section
/-! SUPPORT. The statements of spec/10_wells.md: the home bank of a line (R257), and the commands of a well. -/

namespace Sys2Proof.Machine

/-! ### The home bank of a line (R257) -/

theorem testBit_homeBank (pa : Nat) {i : Nat} (hi : i < 3) :
    (homeBank pa).testBit i = ((pa.testBit (7 + i)).xor (pa.testBit (10 + i))).xor (pa.testBit (13 + i)) := by
  simp only [homeBank, Nat.testBit_xor, testBit_bits, hi, decide_true, Bool.true_and]

theorem bits_lt (n lo w : Nat) : bits n lo w < 2 ^ w := Nat.mod_lt _ (Nat.two_pow_pos w)

theorem homeBank_lt (pa : Nat) : homeBank pa < 8 :=
  Nat.xor_lt_two_pow (n := 3) (Nat.xor_lt_two_pow (bits_lt pa 7 3) (bits_lt pa 10 3)) (bits_lt pa 13 3)

/-- Bits above the lowest ones are bits of the number without those. -/
theorem bits_add (n k lo w : Nat) : bits n (k + lo) w = bits (n / 2 ^ k) lo w := by
  rw [bits, bits, Nat.pow_add, Nat.div_div_eq_div_mul]

/-- The hash is one of the number of the line. -/
theorem homeBank_eq_line (pa : Nat) : homeBank pa = bits (pa / 128) 0 3 ^^^ bits (pa / 128) 3 3 ^^^ bits (pa / 128) 6 3 :=
  congrArg₂ (· ^^^ ·) (congrArg₂ (· ^^^ ·) (bits_add pa 7 0 3) (bits_add pa 7 3 3)) (bits_add pa 7 6 3)

/-- All bytes of a line have one home bank. -/
theorem homeBank_line_byte (pa : Nat) {o : Nat} (ho : o < 128) : homeBank (pa / 128 * 128 + o) = homeBank pa := by
  have hline : (pa / 128 * 128 + o) / 128 = pa / 128 := by omega
  rw [homeBank_eq_line, homeBank_eq_line, hline]

/-- In an aligned kilobyte the number of the line is hashed with one number. -/
theorem homeBank_kilobyte_line (k : Nat) {i : Nat} (hi : i < 8) :
    homeBank (1024 * k + 128 * i) = i ^^^ (bits k 0 3 ^^^ bits k 3 3) := by
  have hline : (1024 * k + 128 * i) / 128 = 8 * k + i := by omega
  have hkilobyte : (8 * k + i) / 2 ^ 3 = k := by omega
  have hlow : bits (8 * k + i) 0 3 = i := by rw [bits]; omega
  rw [homeBank_eq_line, hline, hlow, bits_add _ 3 0, bits_add _ 3 3, hkilobyte, Nat.xor_assoc]

/-- Where a source that may reach an address of package memory sends its request (R98, R254). -/
theorem Block.route_mem {b : Block} {hat pa p w wl : Nat} (hplace : b.place pa = .mem p w wl) (hright : b.memRight hat p = true) :
    b.route hat pa = if b.wellOn w then .inr (.bank w (homeBank pa)) else .inl St.fusedOff := by
  rw [Block.route, Block.routeBy, hplace]
  exact if_pos hright

/-- Settles O58: the hash is one of the number of the line, whose lowest three bits alone differ within an aligned kilobyte. -/
theorem homeBank_holds : Obligations.HomeBank := by
  refine ⟨fun pa _ => testBit_homeBank pa, homeBank_lt, fun _ _ _ _ _ _ => Block.route_mem, fun pa _ => homeBank_line_byte pa,
    fun k i j hi hj hsame => ?_⟩
  rw [homeBank_kilobyte_line k hi, homeBank_kilobyte_line k hj] at hsame
  exact Nat.xor_left_inj.1 hsame

/-! ### Clearing, channels and scrub (R261, R271, R272) -/

/-- A program over what is there. -/
theorem State.did_for?_some {α : Type} (s : State) {o : Option α} {x : α} (k : α → Prog) (h : o = some x) :
    s.did (.for? o k) = s.did (k x) := by
  rw [h, Prog.for?_some]

/-- A well out of retention clears its lowest marked block. -/
theorem State.did_clearBlockDone {s : State} {w k : Nat} (hawake : s.blk.domAsleep w = false)
    (hmarked : (s.blk.mem.clear.find? fun k => decide (k / 2 ^ 19 = w)) = some k) :
    s.did (clearBlockDone w) = s.did (.all [modMem (fun m => { m with clear := removeNat k m.clear }), showClear w]) := by
  rw [clearBlockDone, State.did_read, State.did_when_true _ (by rw [hawake]; rfl), State.did_for?_some s _ hmarked]

/-- What the scrub of populated memory does with what it reads. -/
def scrubbed (key line : Nat) : Ecc → Prog
  | .clean => .skip
  | .corrected => corrected key none
  | .bad => uncorrectable key (line / 32 % 4) 3

theorem State.did_patrolScrub {s : State} {w line : Nat} (ecc : Ecc)
    (hscrubs : s.blk.on (Reg.WEL_CTL w) Fl.WEL_CTL_SCRUB_OFF = false) (hpopulated : s.blk.populated w line = true) :
    s.did (patrolScrub w line ecc) = s.did (scrubbed (lineKey w line) line ecc) := by
  rw [patrolScrub, State.did_read, State.did_when_true _ (by rw [hscrubs, hpopulated]; rfl)]
  cases ecc <;> rfl

/-! ### The temperature of the stack (R273, R274) -/

/-- Outside its hysteresis a flag is as its threshold says. -/
theorem latched_of_clear {was set clear : Bool} (h : clear = !set) : latched was set clear = set := by
  cases was
  · rfl
  · rw [latched, if_pos rfl, h, Bool.not_not]

/-- A read outside the hysteresis of both flags, while no heat action is under way. -/
theorem State.did_stackTempRead {s : State} {w : Nat} {t : Int} {hot : Bool} (hon : s.blk.wellOn w = true)
    (hrefresh : decide (760 ≤ t) = hot ∧ decide (t < 744) = !hot) (hpace : decide (840 ≤ t) = hot ∧ decide (t < 816) = !hot)
    (hset : decide (800 < t) = hot) (hheat : s.blk.on (Reg.WEL_STATUS w) Fl.WEL_STATUS_HEAT = false) :
    s.did (stackTempRead w t) = s.did (.all [
      setF (Reg.WEL_STATUS w) Fl.WEL_STATUS_STACK_TEMP (wrapInt 16 t),
      setF (Reg.WEL_STATUS w) Fl.WEL_STATUS_REFRESH_2X (b2n hot), setF (Reg.WEL_STATUS w) Fl.WEL_STATUS_PACE (b2n hot),
      .when hot (wellHeat w hot)]) := by
  obtain ⟨hrefresh, hrefreshClear⟩ := hrefresh
  obtain ⟨hpace, hpaceClear⟩ := hpace
  rw [stackTempRead, State.did_read]
  simp only [hrefresh, hrefreshClear, hpace, hpaceClear, hset, hheat, latched_of_clear rfl]
  rw [State.did_when_true _ hon]
  cases hot <;> rfl

/-! ### A partition that is down (R292) -/

/-- With no entry of its wells in the directory, nothing waits that would end. -/
theorem State.did_partClearDone_empty {s : State} {p : Nat} (hdown : s.blk.partDown p = true)
    (hnone : (s.blk.dir.filter fun e => decide (s.blk.wellPart (keyWell e.1) = some p)) = []) :
    s.did (partClearDone p) = s.did (.all [
      poisonOwned p fun _ => true,
      .edit (.dirKeep fun k => decide (s.blk.wellPart (keyWell k) ≠ some p)),
      .each (List.range 12) showDir]) := by
  rw [partClearDone, State.did_read]
  simp only [hnone]
  rw [State.did_when_true _ hdown]
  rfl

/-- Settles O17: each command is the program its condition lets through. -/
theorem wellCommands : Obligations.WellCommands := by
  refine ⟨fun w key s hup hwell => ?_, fun w k s hup hawake hmarked => ?_, fun w c s hup hserves => ?_,
    fun w line s hup hscrubs hpopulated => ⟨?_, ?_, ?_⟩, fun w t s hup hon ht hheat => ?_, fun w t s hup hon ht hheat => ?_,
    fun w s hup hheat hawake => ?_, fun w n s hup => State.run_up hup _, fun hat w s hup hp hmay hon => ?_, fun w s hup hbusy => ?_,
    fun g line key d s hup hfind => ?_, fun p s hup hdown hnone => ?_⟩
  · exact State.run_up_did hup (State.did_when_true _ (decide_eq_true hwell))
  · exact State.run_up_did hup (State.did_clearBlockDone hawake hmarked)
  · exact State.run_guarded hup hserves
  -- the scrub
  · exact State.run_up_did hup (State.did_patrolScrub .clean hscrubs hpopulated)
  · exact State.run_up_did hup (State.did_patrolScrub .corrected hscrubs hpopulated)
  · exact State.run_up_did hup (State.did_patrolScrub .bad hscrubs hpopulated)
  -- heat
  · exact State.run_up_did hup ((State.did_stackTempRead (hot := false) hon
      ⟨decide_eq_false (by omega), decide_eq_true (by omega)⟩ ⟨decide_eq_false (by omega), decide_eq_true (by omega)⟩
      (decide_eq_false (by omega)) hheat).trans (State.did_all_skip s [_, _, _]))
  · exact State.run_up_did hup (State.did_stackTempRead (hot := true) hon
      ⟨decide_eq_true (by omega), decide_eq_false (by omega)⟩ ⟨decide_eq_true (by omega), decide_eq_false (by omega)⟩
      (decide_eq_true (by omega)) hheat)
  · exact State.run_guarded hup (by rw [hheat, hawake]; rfl)
  -- write-back
  · exact State.run_up_did hup ((State.did_underHat _ hp).trans ((s.did_read _).trans
      (State.did_when_true _ (by rw [hmay, hon]; rfl))))
  · exact State.run_guarded hup hbusy
  -- partitions
  · exact State.run_up_did hup ((s.did_read _).trans (State.did_for?_some s (x := (key, d)) _ hfind))
  · exact State.run_up_did hup (State.did_partClearDone_empty hdown hnone)

end Sys2Proof.Machine
end

section
/-! SUPPORT. The commands of spec/12_addresses.md: segment words, walks, fault queues, epochs, contexts. -/

namespace Sys2Proof.Machine

/-- A command under a hat that its port admits does its program where its condition holds. -/
theorem State.did_underHat_guarded {s : State} {hat : Nat} {c : Block → Bool} {k : Block → Prog} (hp : s.blk.portAdmits hat = true)
    (h : c s.blk = true) : s.did (underHat hat (.read fun b => .when (c b) (k b))) = s.did (k s.blk) :=
  (State.did_underHat _ hp).trans ((s.did_read _).trans (State.did_when_true _ h))

theorem State.run_underHat_guarded {s : State} {hat : Nat} {c : Block → Bool} {k : Block → Prog} (hup : s.up = true)
    (hp : s.blk.portAdmits hat = true) (h : c s.blk = true) :
    s.run (underHat hat (.read fun b => .when (c b) (k b))) = .next (s.did (k s.blk)) :=
  State.run_up_did hup (State.did_underHat_guarded hp h)

/-! ### Walks (R306, R310) -/

/-- What a walker does with the entry it has got: it goes down a level, or its walk ends. -/
def walkGoesOn (w : Nat) (k : Walk) : WalkEnd → Prog
  | .down t => .all [
      modXlt fun x => { x with walks := Tbl.set (dflt none) w (some { k with level := k.level - 1, table := t }) x.walks },
      readEntry w]
  | .leaf pa size perms => endWalk w k (.leaf pa size perms)
  | .fault reason entry => endWalk w k (.fault reason entry)

section
variable {s : State} {w st : Nat} {e : W64} {k : Walk}

/-- A VA that is not canonical needs no entry. -/
theorem State.did_walkEntryReadDone_wide (hfree : s.blk.windowAt (12 + w / 8) = false) (hwalk : s.blk.walkAt w = some k)
    (hva : 2 ^ 48 ≤ k.va) : s.did (walkEntryReadDone w st e) = s.did (endWalk w k (.fault 4 0)) := by
  rw [walkEntryReadDone, State.did_read, hfree, if_neg Bool.false_ne_true, hwalk, Prog.for?_some, if_pos hva]

/-- The entry a walker has got is taken, kept as its line, and read. -/
theorem State.did_walkEntryReadDone_got {g : Status × List Byte} (hfree : s.blk.windowAt (12 + w / 8) = false)
    (hwalk : s.blk.walkAt w = some k) (hva : k.va < 2 ^ 48) (hgot : s.blk.walkGot w k st e = some g) :
    s.did (walkEntryReadDone w st e) = s.did (.all [
      .all [
        .each (s.blk.noc.net.filter (s.blk.entryRsp w k)) takePkt,
        activity k.hat Act.walker 1,
        modXlt fun x => { x with line := Tbl.set (dflt none) w (some (k.for_, k.entryAddr / 64, g.2)) x.line }],
      walkGoesOn w k (readLeaf s.blk.ownPkg k.level k.need g.1 (numAt g.2 (k.entryAddr % 64) 8))]) := by
  rw [walkEntryReadDone, State.did_read, hfree, if_neg Bool.false_ne_true, hwalk, Prog.for?_some, if_neg (Nat.not_le.2 hva), hgot,
    Prog.for?_some, State.did_all_flatten]
  cases readLeaf s.blk.ownPkg k.level k.need g.1 (numAt g.2 (k.entryAddr % 64) 8) <;> rfl

end

/-! ### Epochs (R313) -/

/-- The last acknowledgement ends a bump that no other waits behind. -/
theorem State.did_xltBumpAck_last {s : State} {x : Nat} {u : Ep} (hacks : (s.blk.xctx x).acks = [u]) (hclear : s.blk.bumpClear x u = true)
    (hquiet : (s.blk.xctx x).quiet = false) (hmore : (s.blk.xctx x).more = 0) :
    s.did (xltBumpAck x u) = s.did (.all [
      modXctx x (fun y => { y with acks := [] }),
      setF (Reg.XLT_CTX_EPOCH x) Fl.XLT_CTX_EPOCH_BUSY 0, setF (Reg.XLT_CTX_EPOCH x) Fl.XLT_CTX_EPOCH_DONE 1]) := by
  have hrest : (s.blk.xctx x).acks.filter (fun y => decide (y ≠ u)) = [] := by simp [hacks]
  have hin : (s.blk.xctx x).acks.contains u = true := by simp [hacks]
  rw [xltBumpAck, State.did_read]
  simp only [hrest, hin, hclear, hquiet, hmore]
  rfl

/-! ### Contexts and queues (R319, R321) -/

section
variable {s : State} {hat : Nat} {val : W64}

theorem State.did_xctxEnable {x : Nat} (hp : s.blk.portAdmits hat = true) (hmay : s.blk.mayXctx hat x = true)
    (hoff : s.blk.on (Reg.XLT_CTX_CTL x) Fl.XLT_CTX_CTL_ENABLE = false)
    (hlive : s.blk.hatRemoved (getFld val Fl.XLT_CTX_CTL_HAT) = false) :
    s.did (xctxEnable hat x val) = s.did (.all [
      setF (Reg.XLT_CTX_CTL x) Fl.XLT_CTX_CTL_HAT (getFld val Fl.XLT_CTX_CTL_HAT),
      setF (Reg.XLT_CTX_CTL x) Fl.XLT_CTX_CTL_FQ (getFld val Fl.XLT_CTX_CTL_FQ),
      setF (Reg.XLT_CTX_CTL x) Fl.XLT_CTX_CTL_ENABLE 1]) := by
  refine (State.did_underHat_guarded hp hmay).trans ?_
  simp only [hoff, hlive, Bool.false_eq_true, if_false]

theorem State.did_fqEnable {q : Nat} (hp : s.blk.portAdmits hat = true) (hmay : s.blk.mayFq hat q = true)
    (hoff : s.blk.on (Reg.XLT_FQ_CTL q) Fl.XLT_FQ_CTL_ENABLE = false) (hsize : getFld val Fl.XLT_FQ_CTL_SIZE ≤ 8)
    (hlive : s.blk.hatRemoved (getFld val Fl.XLT_FQ_CTL_OWNER) = false) :
    s.did (fqEnable hat q val) = s.did (.all [
      setF (Reg.XLT_FQ_CTL q) Fl.XLT_FQ_CTL_OWNER (getFld val Fl.XLT_FQ_CTL_OWNER),
      setF (Reg.XLT_FQ_CTL q) Fl.XLT_FQ_CTL_IRQ_VEC (getFld val Fl.XLT_FQ_CTL_IRQ_VEC),
      setF (Reg.XLT_FQ_CTL q) Fl.XLT_FQ_CTL_SIZE (getFld val Fl.XLT_FQ_CTL_SIZE),
      setF (Reg.XLT_FQ_CTL q) Fl.XLT_FQ_CTL_ENABLE 1,
      setF (Reg.XLT_FQ_STATUS q) Fl.XLT_FQ_STATUS_TAIL 0, modFq q (fun x => { x with head := 0 })]) := by
  have htaken : ¬ (8 < getFld val Fl.XLT_FQ_CTL_SIZE ∨ s.blk.hatRemoved (getFld val Fl.XLT_FQ_CTL_OWNER) = true) := by
    simpa [hlive] using hsize
  refine (State.did_underHat_guarded hp hmay).trans ?_
  rw [if_neg htaken, hoff]
  rfl

/-- No enabled context names the queue. -/
theorem State.did_fqOff {q : Nat} (hp : s.blk.portAdmits hat = true) (hmay : s.blk.mayFq hat q = true)
    (hoff : ∀ x < 256, s.blk.on (Reg.XLT_CTX_CTL x) Fl.XLT_CTX_CTL_ENABLE = false) :
    s.did (fqOff hat q) = s.did (setF (Reg.XLT_FQ_CTL q) Fl.XLT_FQ_CTL_ENABLE 0) := by
  refine (State.did_underHat_guarded hp hmay).trans ?_
  rw [if_neg]
  simp only [List.any_eq_true, List.mem_range, Bool.and_eq_true, not_exists, not_and]
  intro x hx hon
  rw [hoff x hx] at hon
  exact absurd hon Bool.false_ne_true

/-- A response answers the open fault it names. -/
theorem State.did_respond {q fid : Nat} {r : FaultRec} (k : FaultRec → Prog) (hp : s.blk.portAdmits hat = true)
    (hmay : s.blk.mayFq hat q = true) (hopen : ((s.blk.fq q).open_.find? fun r => decide (r.fid = fid)) = some r) :
    s.did (respond hat q fid k) = s.did (.all [
      modFq q (fun x => { x with open_ := x.open_.filter fun y => decide (y.fid ≠ fid) }), k r]) := by
  refine (State.did_underHat_guarded hp hmay).trans ?_
  rw [hopen, Prog.for?_some]

end

/-- Settles O22: each command is the program its guards let through. -/
theorem translationCommands : Obligations.TranslationCommands := by
  refine ⟨fun hat off val s hup hp hoff => ⟨fun hmay => ?write, fun hmay tag => ?read⟩,
    fun w st e k s hup hfree hwalk => ⟨fun hva => ?wide, fun g hva hgot => ⟨_, rfl, fun t hleaf => ?down, fun pa size perms hleaf => ?leaf,
      fun r x hleaf => ?fault⟩⟩,
    fun q told read s hup hwait hread => ?head, fun q s hup howed => ?holdoff,
    fun hat x s hup hp hmay => ⟨fun hidle => ?bump, fun hbusy => ?bumpWaits, ?disable, fun val hoff hlive => ?enable⟩,
    fun x u s hup hacks hclear hquiet hmore => ?ack,
    fun hat q s hup hp hmay => ⟨fun fid r hopen => ⟨?resume, ?abort⟩, fun val hoff hsize hlive => ?fqEnable, fun hoff => ?fqDisable⟩⟩
  case write => exact State.run_underHat_guarded hup hp (by rw [hmay, hoff]; rfl)
  case read => exact State.run_underHat_guarded hup hp (by rw [hmay, hoff]; rfl)
  case wide => exact State.run_up_did hup (State.did_walkEntryReadDone_wide hfree hwalk hva)
  case down =>
    refine State.run_up_did hup ((State.did_walkEntryReadDone_got hfree hwalk hva hgot).trans ?_)
    rw [hleaf, walkGoesOn, State.did_all_nest]
  case leaf =>
    refine State.run_up_did hup ((State.did_walkEntryReadDone_got hfree hwalk hva hgot).trans ?_)
    rw [hleaf, walkGoesOn]
  case fault =>
    refine State.run_up_did hup ((State.did_walkEntryReadDone_got hfree hwalk hva hgot).trans ?_)
    rw [hleaf, walkGoesOn]
  case head =>
    subst hread
    exact State.run_guarded hup (decide_eq_true hwait)
  case holdoff =>
    refine State.run_up_did hup ?_
    rw [State.did_read, howed, Prog.when_true]
  case bump =>
    refine State.run_up_did hup ((State.did_underHat_guarded hp hmay).trans ?_)
    rw [hidle, if_neg Bool.false_ne_true]
  case bumpWaits =>
    refine State.run_up_did hup ((State.did_underHat_guarded hp hmay).trans ?_)
    rw [hbusy, if_pos rfl]
  case disable => exact State.run_underHat_guarded hup hp hmay
  case enable => exact State.run_up_did hup (State.did_xctxEnable hp hmay hoff hlive)
  case ack => exact State.run_up_did hup (State.did_xltBumpAck_last hacks hclear hquiet hmore)
  case resume => exact State.run_up_did hup (State.did_respond _ hp hmay hopen)
  case abort => exact State.run_up_did hup (State.did_respond _ hp hmay hopen)
  case fqEnable => exact State.run_up_did hup (State.did_fqEnable hp hmay hoff hsize hlive)
  case fqDisable => exact State.run_up_did hup (State.did_fqOff hp hmay hoff)

end Sys2Proof.Machine
end

section
/-! SUPPORT. The commands of spec/13_pumps_and_intakes.md: admission, pieces, intakes, keys, weight sets, removal. -/

namespace Sys2Proof.Machine

/-! ### Admission (R327, R342) -/

section
variable {s : State} {p : Nat}

theorem State.did_onPump_runs (k : Prog) (hruns : s.blk.pumpRuns p = true) : s.did (onPump p k) = s.did k := by
  rw [onPump, State.did_read, if_pos hruns]

/-- A free pump whose well sleeps wakes it. -/
theorem State.did_onPump_sleeps (k : Prog) (hfree : s.blk.pumpFree p = true) (hasleep : s.blk.pumpAsleep p = true) :
    s.did (onPump p k) = s.did (packetWake (p / 4)) := by
  have hruns : s.blk.pumpRuns p = false := by rw [Block.pumpRuns, hfree, hasleep]; rfl
  rw [onPump, State.did_read, hruns, if_neg Bool.false_ne_true, State.did_when_true _ hfree, wakePump, State.did_read,
    State.did_when_true _ hasleep]

/-- A pump with a free place sees to the intake whose turn it is. -/
theorem State.did_descAdmit {i : Nat} (hfree : ∃ k < 64, s.blk.workAt (workKey p k) = none) (hturn : s.blk.admitTurn p i = true) :
    s.did (descAdmit p i) = s.did (onPump p (.all [noteAdmit p i, admitFirst p i])) := by
  obtain ⟨k, hk, hnone⟩ := hfree
  have hany : ((List.range 64).any fun k => (s.blk.workAt (workKey p k)).isNone) = true :=
    List.any_eq_true.2 ⟨k, List.mem_range.2 hk, by rw [hnone]; rfl⟩
  rw [descAdmit, State.did_read, State.did_when_true _ (by rw [hany, hturn]; rfl)]

end

/-! ### Pieces (R314, R328) -/

section
variable {s : State} {p slot : Nat} {d : Desc}

/-- A piece that may start takes its place; a COPY's asks for its reads. -/
theorem State.did_startPiece {op n : Nat} (hwork : s.blk.workAt (workKey p slot) = some d) (hruns : s.blk.pumpRuns p = true)
    (hop : d.op = op) (hxlat : d.xlat = 0) (hstop : d.stop = false) (hleft : d.started < d.pieces) (hfault : d.fault = none)
    (hturn : (decide (0 < d.started) || (s.blk.earlierStarted p d && (!d.order || s.blk.firstOfIntake d))) = true)
    (hplace : s.blk.piecePlace p = some n) (hepoch : (d.walksSrc || d.walksDst) = true → d.epoch = s.blk.xepoch d.xctx) :
    s.did (startPiece op p slot) = s.did (.all [
      modDesc (workKey p slot) (fun x => { x with
        started := d.started + 1, pcs := x.pcs ++ [⟨d.started, n, [], [], [], false, [], false, false, false, []⟩] }),
      .when (decide (op = 1)) (.all [
        .each (d.pieceUnits d.srcRun d.started).zipIdx fun u => pieceAsk p slot d.started u.2 u.1,
        .when (decide (d.crypto = 1)) (pieceAsk p slot d.started 254 ⟨0, d.tagAt d.started, 16⟩)]),
      pieceRun p slot d.started, showPump p]) := by
  have hready : (decide (d.op = op ∧ d.xlat = 0 ∧ d.stop = false ∧ d.started < d.pieces) && d.fault.isNone &&
      (decide (0 < d.started) || (s.blk.earlierStarted p d && (!d.order || s.blk.firstOfIntake d)))) = true := by
    rw [hturn, hfault, decide_eq_true ⟨hop, hxlat, hstop, hleft⟩]; rfl
  have hcurrent : ¬ ((d.walksSrc || d.walksDst) && decide (d.epoch ≠ s.blk.xepoch d.xctx)) = true := by
    simpa using hepoch
  rw [startPiece, State.did_read, hwork, Prog.for?_some, State.did_when_true _ hready, State.did_onPump_runs _ hruns, if_neg hcurrent,
    hplace, Prog.for?_some]

theorem State.did_pumpBarrier (hwork : s.blk.workAt (workKey p slot) = some d) (hop : d.op = 3) (hruns : s.blk.pumpRuns p = true)
    (hfirst : s.blk.firstOfIntake d = true) : s.did (pumpBarrier p slot) = s.did (finishDesc p slot 0 0) := by
  rw [pumpBarrier, State.did_read, hwork, Prog.for?_some, State.did_when_true _ (by rw [hop, hfirst]; rfl), State.did_onPump_runs _ hruns]

/-- A piece that has done all it has to do is counted. -/
theorem State.did_pieceDone {k : Nat} {x : Piece} (hwork : s.blk.workAt (workKey p slot) = some d)
    (hpiece : (d.pcs.find? fun x => decide (x.idx = k)) = some x) (hended : d.pieceEnded x = true)
    (hfree : s.blk.windowAt (s.blk.pumpRegion p) = false) :
    s.did (pieceDone p slot k) = s.did (.all [
      modDesc (workKey p slot) (fun y => { y with
        done := y.done + 1, moved := y.moved + (d.pieceHi k - d.pieceLo k), pcs := y.pcs.filter fun z => decide (z.idx ≠ k) }),
      addWrap (Reg.PMP_BYTES p) Fl.PMP_BYTES_BYTES (d.pieceHi k - d.pieceLo k),
      activity d.hat Act.pumpBytes (d.pieceHi k - d.pieceLo k),
      .when (decide (d.crypto ≠ 0)) (incSat (Reg.PMP_KEY d.key) Fl.PMP_KEY_PAGES),
      showPump p, endDesc p slot]) := by
  rw [pieceDone, State.did_read, hwork, Prog.for?_some, hpiece, Prog.for?_some, State.did_when_true _ (by rw [hended, hfree]; rfl)]

end

/-! ### Intakes (R342, R397) -/

section
variable {s : State} {hat i : Nat} {v : W64}

theorem State.did_intakeCtl_enables (hp : s.blk.portAdmits hat = true) (hoff : s.blk.intakeOn i = false)
    (hset : getFld v Fl.PMP_INTAKE_CTL_ENABLE = 1) (hmay : s.blk.mayIntake hat (getFld v Fl.PMP_INTAKE_CTL_PUMP) = true)
    (hlive : s.blk.hatRemoved (getFld v Fl.PMP_INTAKE_CTL_HAT) = false) (hpump : getFld v Fl.PMP_INTAKE_CTL_PUMP < 48)
    (hon : s.blk.pumpOn (getFld v Fl.PMP_INTAKE_CTL_PUMP) = true)
    (hpart : s.blk.inPart (getFld v Fl.PMP_INTAKE_CTL_HAT) (s.blk.pumpPart (getFld v Fl.PMP_INTAKE_CTL_PUMP)) = true) :
    s.did (intakeCtl hat i v) = s.did (.all [
      setF (Reg.PMP_INTAKE_CTL i) Fl.PMP_INTAKE_CTL_HAT (getFld v Fl.PMP_INTAKE_CTL_HAT),
      setF (Reg.PMP_INTAKE_CTL i) Fl.PMP_INTAKE_CTL_PUMP (getFld v Fl.PMP_INTAKE_CTL_PUMP),
      setF (Reg.PMP_INTAKE_CTL i) Fl.PMP_INTAKE_CTL_IRQ_VEC (getFld v Fl.PMP_INTAKE_CTL_IRQ_VEC),
      setF (Reg.PMP_INTAKE_CTL i) Fl.PMP_INTAKE_CTL_IRQ_HOLDOFF (getFld v Fl.PMP_INTAKE_CTL_IRQ_HOLDOFF),
      setF (Reg.PMP_INTAKE_CTL i) Fl.PMP_INTAKE_CTL_ENABLE 1,
      setF (Reg.PMP_INTAKE_STATUS i) Fl.PMP_INTAKE_STATUS_NEXT_SEQ 0]) := by
  rw [intakeCtl, State.did_underHat _ hp, State.did_read]
  simp only [hoff, hset, hlive, hpump, hon, hpart, Bool.false_eq_true, if_false, decide_true, Bool.and_self, Bool.not_true, Bool.not_false,
    Bool.and_false, Bool.or_self, if_true]
  rw [State.did_when_true _ hmay]
  rfl

theorem State.did_intakeCtl_disables (hp : s.blk.portAdmits hat = true) (hon : s.blk.intakeOn i = true)
    (hopen : s.blk.intakeClosing i = false) (hclear : getFld v Fl.PMP_INTAKE_CTL_ENABLE = 0)
    (hmay : s.blk.mayIntake hat (s.blk.intakePump i) = true) (hlive : s.blk.hatRemoved (s.blk.intakeHat i) = false) :
    s.did (intakeCtl hat i v) = s.did (.all [
      setF (Reg.PMP_INTAKE_CTL i) Fl.PMP_INTAKE_CTL_HAT (s.blk.intakeHat i),
      setF (Reg.PMP_INTAKE_CTL i) Fl.PMP_INTAKE_CTL_PUMP (s.blk.intakePump i),
      setF (Reg.PMP_INTAKE_CTL i) Fl.PMP_INTAKE_CTL_IRQ_VEC (getFld v Fl.PMP_INTAKE_CTL_IRQ_VEC),
      setF (Reg.PMP_INTAKE_CTL i) Fl.PMP_INTAKE_CTL_IRQ_HOLDOFF (getFld v Fl.PMP_INTAKE_CTL_IRQ_HOLDOFF),
      closeIntake i false]) := by
  have hkept : decide (getFld v Fl.PMP_INTAKE_CTL_ENABLE = 1) = false := by rw [hclear]; rfl
  rw [intakeCtl, State.did_underHat _ hp, State.did_read]
  simp only [hon, hkept, hlive, hopen, if_true, Bool.false_and, Bool.or_self, Bool.false_eq_true, if_false, Bool.not_false, Bool.and_self,
    Prog.when_true]
  rw [State.did_when_true _ hmay]

end

/-! ### Removal (R340) -/

/-- Hat 0 removes a hat that is not 0 while no removal runs. -/
theorem State.did_pmpRemove {s : State} {val : W64} (hp : s.blk.portAdmits 0 = true) (hgo : getFld val Fl.PMP_REMOVE_GO = 1)
    (hhat : getFld val Fl.PMP_REMOVE_HAT ≠ 0) (hidle : s.blk.on Reg.PMP_REMOVE Fl.PMP_REMOVE_BUSY = false) :
    s.did (pmpRemove 0 val) = s.did (pumpRemove (getFld val Fl.PMP_REMOVE_HAT)) := by
  refine (State.did_underHat_guarded hp rfl).trans ?_
  rw [hgo, if_neg Nat.one_ne_zero, if_neg hhat, hidle, if_neg Bool.false_ne_true]

/-- Settles O23: each command is the program its guards let through. -/
theorem pumpCommands : Obligations.PumpCommands := by
  refine ⟨fun hat i slot bytes s hup hp => ?write, fun p i s hup hfree hturn => ⟨fun hruns => ?admits, fun hfree' hasleep => ?wakes⟩,
    fun p slot d n s hup hwork hruns hxlat hstop hleft hfault hturn hplace hepoch => ⟨fun hop => ?copy, fun hop => ?fill⟩,
    fun p slot d s hup hwork => ⟨fun hop hruns hfirst => ?barrier, fun k x hpiece hended hfree => ?done⟩,
    fun i s hup howed => ?holdoff,
    fun hat i v val s hup hp hoff hv hset hmay hlive hpump hon hpart => ?enable,
    fun hat i v s hup hp hon hopen hv hclear hmay hlive => ?disable,
    fun k w s hup hp => ⟨fun hkey => ?revoke, fun hhat => ?reset, fun val hmay hmay' hlive => ?bind, fun val hgo hhat hidle => ?remove⟩⟩
  case write => exact State.run_up_did hup (State.did_underHat _ hp)
  case admits => exact State.run_up_did hup ((State.did_descAdmit hfree hturn).trans (State.did_onPump_runs _ hruns))
  case wakes => exact State.run_up_did hup ((State.did_descAdmit hfree hturn).trans (State.did_onPump_sleeps _ hfree' hasleep))
  case copy => exact State.run_up_did hup (State.did_startPiece hwork hruns hop hxlat hstop hleft hfault hturn hplace hepoch)
  case fill => exact State.run_up_did hup (State.did_startPiece hwork hruns hop hxlat hstop hleft hfault hturn hplace hepoch)
  case barrier => exact State.run_up_did hup (State.did_pumpBarrier hwork hop hruns hfirst)
  case done => exact State.run_up_did hup (State.did_pieceDone hwork hpiece hended hfree)
  case holdoff =>
    refine State.run_up_did hup ?_
    rw [State.did_read, howed, Prog.when_true]
  case enable =>
    subst hv
    exact State.run_up_did hup (State.did_intakeCtl_enables hp hoff hset hmay hlive hpump hon hpart)
  case disable =>
    subst hv
    exact State.run_up_did hup (State.did_intakeCtl_disables hp hon hopen hclear hmay hlive)
  case revoke =>
    refine State.run_up_did hup ((State.did_underHat_guarded hp rfl).trans ?_)
    rw [decide_eq_true hkey, Prog.when_true]
  case reset => exact State.run_underHat_guarded hup hp rfl
  case bind =>
    refine State.run_up_did hup ((State.did_underHat_guarded hp (by rw [hmay, hmay']; rfl)).trans ?_)
    rw [hlive, if_neg Bool.false_ne_true]
  case remove => exact State.run_up_did hup (State.did_pmpRemove hp hgo hhat hidle)

end Sys2Proof.Machine
end

section
/-! SUPPORT. The frames of spec/14_span.md as they come in: what the FEC count keeps, and each frame in its session. -/

namespace Sys2Proof.Machine

/-! ### The FEC count of quads leaves sessions alone (R346) -/

/-- The registers of the chiplets' quads lie below those of the peers. -/
theorem Reg.SPN_PEER_ne_SPN_QUAD (n : Nat) {c q : Nat} (hc : c < 2) (hq : q < 12) : Reg.SPN_PEER n ≠ Reg.SPN_QUAD c q := by
  simp only [Reg.SPN_PEER, Reg.SPN_QUAD]; omega

theorem only_fecSeen_keepsPeer {c : Nat} {quads : List Nat} (n : Nat) (fl : Fld) (hc : c < 2) (hquads : ∀ q ∈ quads, q < 12) :
    (fecSeen c quads).Only (Edit.keeps fun b => b.f (Reg.SPN_PEER n) fl) :=
  (Prog.only_each _ _).2 fun q hq _ => (Prog.only_when _ _).2 fun _ _ =>
    ⟨fun _ => rfl, fun _ b => Block.f_fld_other b _ _ _ _ _ (.inl (Reg.SPN_PEER_ne_SPN_QUAD n hc (hquads q hq)))⟩

theorem engineQuads_lt (e : Nat) : ∀ q ∈ engineQuads e, q < 12 := by
  simp only [engineQuads, List.mem_map, List.mem_range]
  rintro q ⟨i, hi, rfl⟩
  omega

/-- After the FEC count a frame belongs to the session it belonged to before. -/
theorem State.inSessionWith_fecSeen {s : State} {c : Nat} {quads : List Nat} (f : SpanFrame) (hc : c < 2)
    (hquads : ∀ q ∈ quads, q < 12) : (s.did (fecSeen c quads)).inSessionWith f = s.inSessionWith f := by
  have hkeeps (fl : Fld) := (only_fecSeen_keepsPeer f.srcPkg fl hc hquads).keeps s.blk
  simp only [State.inSessionWith, Block.session, Block.peerState, State.did_blk, hkeeps]
  rfl

/-! ### A frame's way in (R346, R350) -/

section
variable {s : State} {f : SpanFrame}

/-- A frame with a bad check is counted. -/
theorem State.did_frameIn_bad {c : Nat} (quads : List Nat) (k : Prog) (hawake : s.blk.domAsleep (netDom c) = false) :
    s.did (frameIn c quads f false k) = s.did (.all [fecSeen c quads, incSat Reg.SPN_DROP Fl.SPN_DROP_FCS]) := by
  rw [frameIn, State.did_read]
  simp only [hawake, Bool.false_eq_true, if_false, Bool.not_false, if_true]

/-- A frame of the session it is in does what it asks. -/
theorem State.did_frameIn_inSession {e : Nat} (k : Prog) (he : e < 8) (hhears : s.hears (e / 4) f = true)
    (hsession : s.inSessionWith f = true) :
    s.did (frameIn (e / 4) (engineQuads e) f true (inSession f k)) = s.did (.all [fecSeen (e / 4) (engineQuads e), k]) := by
  have hafter := (State.inSessionWith_fecSeen (c := e / 4) f (by omega) (engineQuads_lt e)).trans hsession
  rw [State.did_frameIn _ _ hhears, State.did_all_cons, State.did_all_cons, State.did_inSession k hafter, ← State.did_all_cons,
    ← State.did_all_cons]

/-- A frame of a port that is up comes in by that port. -/
theorem State.did_atPort {c port : Nat} (k : Block → Prog) (hport : s.blk.spanPortUp c port = true) (hhears : s.hears c f = true) :
    s.did (.read fun b => .when (b.spanPortUp c port) (frameIn c [port / 4] f true (k b))) =
      s.did (.all [fecSeen c [port / 4], k s.blk]) := by
  rw [State.did_read, State.did_when_true _ hport, State.did_frameIn _ _ hhears]

end

/-! ### Programs that do the same to every block -/

theorem Prog.run_guarded_congr {c : Block → Bool} {p q : Block → Prog} {b : Block} (h : (p b).run b = (q b).run b) :
    (Prog.read fun b => .when (c b) (p b)).run b = (Prog.read fun b => .when (c b) (q b)).run b := by
  rw [Prog.run_read, Prog.run_read]
  cases c b
  · rfl
  · exact h

/-- A change of a peer's record depends on it alone. -/
theorem Prog.run_modPeer_congr {n : Nat} {g g' : PeerSt → PeerSt} {b : Block} (h : g (b.peerSt n) = g' (b.peerSt n)) :
    (modPeer n g).run b = (modPeer n g').run b := by
  have hkey : g (Tbl.get (dflt {}) n b.peer) = g' (Tbl.get (dflt {}) n b.peer) := h
  simp only [modPeer, Prog.run_edit, Edit.apply_peer, Tbl.upd, hkey]

theorem State.did_nested_congr_second {s : State} {a a' p q : Prog} {l : List Prog} (h : ∀ b, p.run b = q.run b) :
    s.did (.all [a, .all (a' :: p :: l)]) = s.did (.all [a, .all (a' :: q :: l)]) := by
  simp only [State.did, Prog.run_all_cons, h]

theorem State.did_nested_skips (s : State) (a p q : Prog) :
    s.did (.all [a, .all [.skip, p, .skip, q]]) = s.did (.all [a, .all [p, q]]) := rfl

/-! ### OPEN (R352, R364) -/

section
variable {s : State} {c port : Nat} {f : SpanFrame}

/-- An OPEN repeats the one of a session in which nothing has come in. -/
def Block.repeatsOpen (b : Block) (f : SpanFrame) : Bool :=
  b.session f.srcPkg && decide (b.f (Reg.SPN_PEER f.srcPkg) Fl.SPN_PEER_INCARN = f.incarn ∧
    (b.peerSt f.srcPkg).recvPsn = 0 ∧ (b.peerSt f.srcPkg).window = [])

theorem State.repeatsOpen_iff : s.blk.repeatsOpen f = true ↔
    s.inSessionWith f = true ∧ (s.blk.peerSt f.srcPkg).recvPsn = 0 ∧ (s.blk.peerSt f.srcPkg).window = [] := by
  simp only [Block.repeatsOpen, State.inSessionWith, Bool.and_eq_true, decide_eq_true_eq, and_assoc]

theorem State.did_openFrame {again : Bool} (hport : s.blk.spanPortUp c port = true) (hhears : s.hears c f = true)
    (hdup : s.blk.span.dup = false) (hagain : s.blk.repeatsOpen f = again) :
    s.did (openFrame c port f true) = s.did (.all [fecSeen c [port / 4], .all [
      .when (s.blk.session f.srcPkg && !again) (peerDown f.srcPkg),
      keepPath f.srcPkg ⟨c, port, f.srcPort, f.srcMac⟩,
      .when (!again) (.all [
        .when (decide (s.blk.peerState f.srcPkg ≠ PeerState.opening)) (takePath f.srcPkg ⟨c, port, f.srcPort, f.srcMac⟩),
        openSession f.srcPkg f]),
      .read fun b => frameOut c port { b.frameTo 5 f.srcPkg 0 [] with ackPsn := 0, sack := 0 }]]) := by
  subst hagain
  refine (State.did_atPort _ hport hhears).trans ?_
  rw [hdup, Bool.not_false, Prog.when_true]
  rfl

end

/-- Settles O24: each frame does what it asks once it is taken in, in the session it came with. -/
theorem spanFramesIn : Obligations.SpanFramesIn := by
  refine ⟨fun e f s hup hawake => ⟨?badData, ?badAck, ?badClose⟩, fun e f s hhears hsession => ?data,
    fun e f s hhears hsession => ?ack, fun e f s hhears hsession => ?close,
    fun c port f s hport => ⟨fun hhears => ?hello, fun hhears hdup => ⟨fun hsession hpsn hwindow => ?openAgain, fun hnew => ?opens⟩,
      fun hhears hdup hopening => ?openAck⟩⟩
  case badData => exact State.run_up_did hup (State.did_frameIn_bad _ _ hawake)
  case badAck => exact State.run_up_did hup (State.did_frameIn_bad _ _ hawake)
  case badClose => exact State.run_up_did hup (State.did_frameIn_bad _ _ hawake)
  case data =>
    refine State.run_up_did (State.hears_up hhears) ?_
    rw [dataFrame, State.did_frameIn_inSession _ e.isLt hhears hsession]
    exact State.did_nested_congr_second fun b => Prog.run_guarded_congr (Prog.run_modPeer_congr rfl)
  case ack => exact State.run_up_did (State.hears_up hhears) (State.did_frameIn_inSession _ e.isLt hhears hsession)
  case close => exact State.run_up_did (State.hears_up hhears) (State.did_frameIn_inSession _ e.isLt hhears hsession)
  case hello => exact State.run_up_did (State.hears_up hhears) (State.did_atPort _ hport hhears)
  case openAgain =>
    have hagain := State.repeatsOpen_iff.2 ⟨hsession, hpsn, hwindow⟩
    refine State.run_up_did (State.hears_up hhears) ((State.did_openFrame hport hhears hdup hagain).trans ?_)
    rw [Bool.not_true, Bool.and_false, Prog.when_false, Prog.when_false, State.did_nested_skips]
  case opens =>
    have hagain : s.blk.repeatsOpen f = false := Bool.eq_false_iff.2 fun h => hnew (State.repeatsOpen_iff.1 h)
    refine State.run_up_did (State.hears_up hhears) ((State.did_openFrame hport hhears hdup hagain).trans ?_)
    rw [Bool.not_false, Bool.and_true, Prog.when_true]
  case openAck =>
    refine State.run_up_did (State.hears_up hhears) ((State.did_atPort _ hport hhears).trans ?_)
    rw [if_pos hopening, hdup, Bool.not_false, Prog.when_true]

end Sys2Proof.Machine
end

section
/-! SUPPORT. The timers, ports, lanes, cache, acquires and drains of spec/14_span.md. -/

namespace Sys2Proof.Machine

/-! ### Sessions (R350, R354, R357) -/

section
variable {s : State} {n : Nat}

/-- RTO passes without progress in a session whose side is not held. -/
theorem State.did_retransmitTimeout (hsession : s.blk.session n = true) (hout : (s.blk.peerSt n).unacked ≠ [])
    (hfree : s.blk.sideHeld n = false) :
    s.did (retransmitTimeout n) = s.did (
      if max 2 (s.blk.f Reg.SPN_CTL Fl.SPN_CTL_RETRY_MAX) ≤ (s.blk.peerSt n).expiries + 1 then peerDown n
      else .all [
        modPeer n fun x => { x with expiries := x.expiries + 1 },
        .when (decide ((s.blk.peerSt n).expiries + 1 = 2)) (.all [setPeer n PeerState.suspect, showDisc, movePath n]),
        retransmit n]) := by
  rw [retransmitTimeout, State.did_read, State.did_when_true _ (by rw [hsession, hfree, decide_eq_true hout]; rfl)]

/-- The new engine takes the session over. -/
theorem State.did_handoverDone {p : Path} (hmoving : (s.blk.peerSt n).moving = true)
    (hpath : s.blk.pathOf n (s.blk.peerActive n) = some p) :
    s.did (handoverDone n) = s.did (.all [
      modPeer n (fun x => { x with moving := false }),
      setF (Reg.SPN_PEER n) Fl.SPN_PEER_ENGINE (portEngine p.chiplet p.port),
      dropLines (fun l => decide (l.pkg = n ∧ l.slice = s.blk.spanEngOf n)), retransmit n, transmit n]) := by
  rw [handoverDone, State.did_read, State.did_when_true _ hmoving, hpath, Prog.for?_some]

/-- A request out of time is dropped. -/
theorem State.did_spanExpire {stag : Nat} {r : SpanReq} {read : Bool}
    (hreq : (s.blk.span.reqs.find? fun r => decide (r.stag = stag)) = some r) (hread : isRead r.req = read)
    (hfree : s.blk.sideHeld r.peer = false) : s.did (spanExpire stag read) = s.did (dropReq r) := by
  rw [spanExpire, State.did_read, hreq, Prog.for?_some, State.did_when_true _ (by rw [hread, hfree]; cases read <;> rfl)]

end

/-! ### Discovery and ports (R344, R345, R367) -/

section
variable {s : State} {c port : Nat}

/-- HELLO goes out of a port that is up, as the identity's encapsulation says. -/
theorem State.did_helloTimer (hport : s.blk.spanPortUp c port = true) (hid : s.blk.on Reg.SPN_ID Fl.SPN_ID_VALID = true) :
    s.did (helloTimer c port) = s.did (
      if (identityOf s.blk.recs).2.2.1 % 2 = 0 then
        frameOut c port { s.blk.frameTo 3 0x3FF 0 [] with ackPsn := 0, sack := 0, credit := 0, paths := 0 }
      else .each (s.blk.listedPeers.filter fun n => decide (n ≠ s.blk.ownPkg)) fun n =>
        frameOut c port { s.blk.frameTo 3 n 0 [] with ackPsn := 0, sack := 0, credit := 0 }) := by
  rw [helloTimer, State.did_read]
  exact State.did_when_true _ (by rw [hport, hid]; rfl)

/-- A trained port of its quad's mode comes up. -/
theorem State.did_spanPortTrained (hmode : (quadPorts (s.blk.quadMode c (port / 4))).contains (port % 4) = true)
    (hengine : s.blk.sys.offSpan.contains (portEngine c port) = false) (hclock : s.blk.sys.netLost.contains c = false)
    (hstep : s.blk.sys.cfgDone = true) (hgood : s.blk.on Reg.HUB_BRINGUP Fl.HUB_BRINGUP_FAILED = false) :
    s.did (spanPortTrained c port) = s.did (.all [
      .each (s.blk.lanesOf c port) (mapSpare c),
      .read fun b => .when (!((b.lanesOf c port).any fun l => b.laneFailed c (b.physLane c l)))
        (orF (Reg.SPN_QUAD c (port / 4)) Fl.SPN_QUAD_UP (2 ^ (port % 4)))]) := by
  rw [spanPortTrained, State.did_read, State.did_when_true _ (by rw [hmode, hengine, hclock, hstep, hgood]; rfl)]

end

/-! ### Acquires (R362) -/

section
variable {s : State} {e : Nat} {p : Pkt}

/-- An acquire of a package goes on to the package's home slice. -/
theorem State.did_spanAcquire_forwards (hpkg : p.addr.testBit 0 = false) (haway : s.blk.spanEngOf (p.addr / 2 ^ 47 % 1024) ≠ e) :
    s.did (spanAcquire e p) = s.did (.all [takePkt p,
      sendPkt { p with dst := .spanEng (s.blk.spanEngOf (p.addr / 2 ^ 47 % 1024)) }]) := by
  have hgoes : (!p.addr.testBit 0) = true ∧ s.blk.spanEngOf (p.addr / 2 ^ 47 % 1024) ≠ e := ⟨by rw [hpkg]; rfl, haway⟩
  rw [spanAcquire, State.did_read]
  dsimp only
  rw [if_pos hgoes]

/-- At its home slice, or of every package, it waits for the lines of the epoch it returns to. -/
theorem State.did_spanAcquire_home (hhome : p.addr.testBit 0 = true ∨ s.blk.spanEngOf (p.addr / 2 ^ 47 % 1024) = e) :
    s.did (spanAcquire e p) = s.did (.all [takePkt p,
      if s.blk.span.rlc.any (s.blk.epochHeld e p) || s.blk.span.fills.any fun x => s.blk.epochHeld e p x.line then
        modSpan fun x => { x with acqWrap := x.acqWrap ++ [(e, p)] }
      else acquire e p]) := by
  have hstays : ¬ ((!p.addr.testBit 0) = true ∧ s.blk.spanEngOf (p.addr / 2 ^ 47 % 1024) ≠ e) := by
    rintro ⟨hpkg, haway⟩
    rcases hhome with hall | hslice
    · rw [hall] at hpkg; cases hpkg
    · exact haway hslice
  rw [spanAcquire, State.did_read]
  dsimp only
  rw [if_neg hstays]

end

/-- Settles O25: each event is the program its guards let through. -/
theorem spanTimersAndPorts : Obligations.SpanTimersAndPorts := by
  refine ⟨fun n s hup hsession => ⟨fun howed => ?ack, fun hout hfree => ⟨fun hfew => ?again, fun hmany => ?gives⟩⟩,
    fun n s hup hlive => ?silence, fun n s hup hopening hdup => ?retry,
    fun c port s hup hport => ⟨fun hid => ⟨fun hether => ?group, fun hudp => ?each⟩, ?down⟩,
    fun stag r s hup hreq hfree => ⟨fun hread => ?readTime, fun hwrite => ?writeTime⟩,
    fun c port s hup hmode hengine hclock hstep hgood => ?trained, fun n p s hup hmoving hpath => ?handover,
    fun c lane s hup => ?lane, fun hat c q v s hup hp hmay => ⟨fun hmedia => ?quad, ?cache⟩,
    fun e p s harr hdst => ⟨fun hpkg haway => ?forward, fun hhome => ⟨fun hheld => ?wraps, fun hnone => ?raises⟩⟩,
    fun e a s hup hwaits => ?invalidated,
    fun p s harr hlive => ⟨fun e hdst => ?engine, fun g k hdst => ?glove⟩,
    fun e h s hup => ⟨fun hpkt => ?drain, fun hpkt => ?drained⟩⟩
  -- sessions
  case ack => exact State.run_guarded hup (by rw [hsession, howed]; rfl)
  case again => exact State.run_up_did hup ((State.did_retransmitTimeout hsession hout hfree).trans (by rw [if_neg (Nat.not_le.2 hfew)]))
  case gives => exact State.run_up_did hup ((State.did_retransmitTimeout hsession hout hfree).trans (by rw [if_pos hmany]))
  case silence => exact State.run_guarded hup (by simpa using hlive)
  case retry => exact State.run_guarded hup (by rw [hdup, decide_eq_true hopening]; rfl)
  case readTime => exact State.run_up_did hup (State.did_spanExpire hreq hread hfree)
  case writeTime => exact State.run_up_did hup (State.did_spanExpire hreq hwrite hfree)
  case handover => exact State.run_up_did hup (State.did_handoverDone hmoving hpath)
  -- ports and lanes
  case group => exact State.run_up_did hup ((State.did_helloTimer hport hid).trans (by rw [if_pos hether]))
  case each => exact State.run_up_did hup ((State.did_helloTimer hport hid).trans (by rw [if_neg (by rw [hudp]; exact Nat.one_ne_zero)]))
  case down => exact State.run_guarded hup hport
  case trained => exact State.run_up_did hup (State.did_spanPortTrained hmode hengine hclock hstep hgood)
  case lane => exact State.run_up hup _
  case quad =>
    have hholds : (s.blk.holds hat Right.span || decide (hat = 0)) = true := by simpa using hmay
    exact State.run_underHat_guarded hup hp (by rw [hholds, decide_eq_true hmedia]; rfl)
  -- the remote-line cache and acquires
  case cache => exact State.run_underHat_guarded hup hp (by simpa using hmay)
  case forward =>
    refine (State.run_onPkt _ harr).trans (congrArg _ ?_)
    rw [hdst]
    exact State.did_spanAcquire_forwards hpkg haway
  case wraps =>
    refine (State.run_onPkt _ harr).trans (congrArg _ ?_)
    rw [hdst]
    exact (State.did_spanAcquire_home hhome).trans (by rw [if_pos hheld])
  case raises =>
    refine (State.run_onPkt _ harr).trans (congrArg _ ?_)
    rw [hdst]
    exact (State.did_spanAcquire_home hhome).trans (by rw [hnone, if_neg Bool.false_ne_true])
  case invalidated =>
    refine State.run_up_did hup ?_
    rw [acquireInvalidated, State.did_read, hwaits, Prog.for?_some]
  case engine =>
    refine (State.run_onPkt_onSpare _ 0xA0 0xC0 harr (by decide)).trans (congrArg _ ?_)
    rw [State.did_orAbsorbed_live _ hlive, hdst]
  case glove =>
    refine (State.run_onPkt_onSpare _ 0xA0 0xC0 harr (by decide)).trans (congrArg _ ?_)
    rw [State.did_orAbsorbed_live _ hlive, hdst]
  -- drains
  case drain => exact State.run_guarded hup hpkt
  case drained => exact State.run_guarded hup hpkt

end Sys2Proof.Machine
end

section
/-! SUPPORT. The commands of spec/15_hats_and_shared_hosts.md: hat resets, removals, the regulators' windows. -/

namespace Sys2Proof.Machine

/-- The fields a write of HAT_REMOVE takes. -/
def hatRemoveFields (v : W64) : Prog := .all [
  .each [Fl.HAT_REMOVE_CLEAR, Fl.HAT_REMOVE_SCOPE, Fl.HAT_REMOVE_HAT, Fl.HAT_REMOVE_TENANT] (fun fl =>
    setF Reg.HAT_REMOVE fl (getFld v fl)),
  .each [Fl.HAT_REMOVE_DONE, Fl.HAT_REMOVE_DENIED] (fun fl => .when (decide (getFld v fl = 1)) (setF Reg.HAT_REMOVE fl 0))]

section
variable {s : State} {hat : Nat}

/-- HAT_CMD at a vector engine. -/
theorem State.did_hatCmd_engine {e h : Nat} {rm : Bool} (hpkt : s.blk.noc.net.contains (hatCmdPkt (.engine e) h rm) = true) :
    s.did (hatCmd (.engine e) h rm) = s.did (.all [takePkt (hatCmdPkt (.engine e) h rm), dropEngineHat e h]) := by
  rw [hatCmd, State.did_read, State.did_when_true _ hpkt]

/-- A hat that may reset another one does (R390). -/
theorem State.did_hatReset {h : Nat} (hp : s.blk.portAdmits hat = true)
    (hmay : hat = 0 ∨ hat = h ∨ (s.blk.holds hat Right.hatAdmin = true ∧ s.blk.inPart hat (some (s.blk.hatPart h)) = true)) :
    s.did (hatReset hat h) = s.did (if h = 0 then setF Reg.HAT_REMOVE Fl.HAT_REMOVE_DENIED 1 else startHatReset h) :=
  State.did_underHat_guarded hp (by simpa [or_assoc] using hmay)

/-- HAT_REMOVE takes its fields; GO does what the set it names asks (R393). -/
theorem State.did_hatRemove {v : W64} (hp : s.blk.portAdmits hat = true) (hmay : hat = 0 ∨ s.blk.holds hat Right.hatAdmin = true) :
    s.did (hatRemove hat v) = s.did (.all [hatRemoveFields v,
      .when (decide (getFld v Fl.HAT_REMOVE_GO = 1)) (match s.blk.removeSet hat v with
        | none => setF Reg.HAT_REMOVE Fl.HAT_REMOVE_DENIED 1
        | some set =>
          if 8 ≤ s.blk.hats.queue.length then setF Reg.HAT_REMOVE Fl.HAT_REMOVE_DENIED 1
          else .all [
            modHats (fun x => { x with queue := x.queue ++ [{ set := set, clear := decide (getFld v Fl.HAT_REMOVE_CLEAR = 1) }] }),
            showQueue, hubGoesOn])]) := by
  refine (State.did_underHat_guarded hp (by simpa using hmay)).trans ?_
  rw [hatRemoveFields, State.did_all_flatten]
  rfl

/-- A removal is denied that names no set, or that finds eight waiting. -/
theorem State.did_hatRemove_denied {v : W64} (hp : s.blk.portAdmits hat = true)
    (hmay : hat = 0 ∨ s.blk.holds hat Right.hatAdmin = true) (hgo : getFld v Fl.HAT_REMOVE_GO = 1)
    (hdeny : s.blk.removeSet hat v = none ∨ 8 ≤ s.blk.hats.queue.length) :
    s.did (hatRemove hat v) = s.did (.all [hatRemoveFields v, setF Reg.HAT_REMOVE Fl.HAT_REMOVE_DENIED 1]) := by
  rw [State.did_hatRemove hp hmay, decide_eq_true hgo, Prog.when_true]
  rcases hdeny with hnone | hfull
  · rw [hnone]
  · cases s.blk.removeSet hat v with
    | none => rfl
    | some set => simp only [if_pos hfull]

/-- A grace period's end queues the oldest orphans of the port (R392). -/
theorem State.did_graceEnd {q : Nat} {set : List Nat} {rest : List (List Nat)}
    (horphans : Tbl.get (dflt []) q s.blk.hats.orphanOf = set :: rest) :
    s.did (graceEnd q) = s.did (.all [
      modHats (fun x => { x with orphanOf := Tbl.set (dflt []) q rest x.orphanOf }), queueOrphans q set]) := by
  rw [graceEnd, State.did_read, horphans]

end

/-- Settles O12: each command is the program its guards let through. -/
theorem hatCommands : Obligations.HatCommands := by
  refine ⟨fun e h rm s hup hpkt => ?cmd, fun u h s hup hnone hidle => ?done, fun s hup => ?window, fun hat h s hup hp hmay => ?reset,
    fun hat v s hup hp hmay => ⟨hatRemoveFields v, rfl, fun hgo => ?fields, fun hgo hdeny => ?denied, fun set hgo hset hroom => ?queued⟩,
    fun q set rest s hup horphans => ?grace⟩
  case cmd => exact State.run_up_did hup (State.did_hatCmd_engine hpkt)
  case done => exact State.run_guarded hup (by rw [hnone, hidle]; rfl)
  case window => exact State.run_up hup _
  case reset =>
    refine State.run_up_did hup ((State.did_underHat _ hp).trans ?_)
    rw [State.did_all_cons, State.did_hatReset hp hmay, ← State.did_all_cons]
  case fields =>
    refine State.run_up_did hup ((State.did_hatRemove hp hmay).trans ?_)
    rw [decide_eq_false hgo, Prog.when_false]
    exact State.did_all_skip s [_]
  case denied => exact State.run_up_did hup (State.did_hatRemove_denied hp hmay hgo hdeny)
  case queued =>
    refine State.run_up_did hup ((State.did_hatRemove hp hmay).trans ?_)
    rw [decide_eq_true hgo, Prog.when_true, hset]
    dsimp only
    rw [if_neg (Nat.not_le.2 hroom), State.did_all_nest]
  case grace => exact State.run_up_did hup (State.did_graceEnd horphans)

end Sys2Proof.Machine
end

section
/-! SUPPORT. WAKE_N of a host port (R413): what a raise at a function does with it, and PERST_N. -/

namespace Sys2Proof.Machine

/-! ### What leaves WAKE_N alone -/

section
variable (q : Nat)

theorem only_modPort_keepsWakeN (p : Nat) {g : PortSt → PortSt} (hg : ∀ x, (g x).wakeN = x.wakeN) :
    (modPort p g).Only (Edit.keeps fun b => (b.portSt q).wakeN) := by
  intro b
  simp only [Block.portSt_port]
  split
  · subst_vars; exact hg _
  · rfl

theorem only_irqDropped_keepsWakeN (h : Nat) : (irqDropped h).Only (Edit.keeps fun b => (b.portSt q).wakeN) := fun _ _ => rfl

/-- Pending vectors are sent and leave the function's list. -/
theorem only_msixKick_keepsWakeN (p fn : Nat) : (msixKick p fn).Only (Edit.keeps fun b => (b.portSt q).wakeN) :=
  fun _ => (Prog.only_when _ _).2 fun _ =>
    ⟨only_modPort_keepsWakeN q p fun _ => rfl, (Prog.only_each _ _).2 fun _ _ _ => rfl, trivial⟩

/-- A raise outside D3cold. -/
theorem Block.wakeN_fnIrq_awake (b : Block) (fn h v : Nat) (hawake : b.on (Reg.HST_STATUS q) Fl.HST_STATUS_D3COLD = false) :
    (((fnIrq q fn h v).run b).portSt q).wakeN = (b.portSt q).wakeN := by
  have hpba : (modFn q fn fun s => { s with pba := insertNat v s.pba }).Only (Edit.keeps fun b => (b.portSt q).wakeN) :=
    only_modPort_keepsWakeN q q fun _ => rfl
  rw [fnIrq, Prog.run_read]
  refine Prog.Only.keeps (f := fun b => (b.portSt q).wakeN) ?_ b
  rw [hawake, if_neg Bool.false_ne_true]
  simp only [Prog.only_ite]
  refine ⟨fun _ => ⟨hpba, fun _ => rfl, trivial⟩, fun _ => ⟨fun _ => ⟨hpba, only_msixKick_keepsWakeN q q fn, trivial⟩, fun _ =>
    ⟨fun _ => ?_, fun _ => only_irqDropped_keepsWakeN q h⟩⟩⟩
  exact ⟨fun _ _ => rfl, fun _ => rfl, (Prog.only_when _ _).2 fun _ _ => rfl, fun _ => rfl, trivial⟩

/-- A raise in D3cold wakes the host where PME_En allows it. -/
theorem Block.wakeN_fnIrq_cold (b : Block) (fn h v : Nat) (hcold : b.on (Reg.HST_STATUS q) Fl.HST_STATUS_D3COLD = true) :
    (((fnIrq q fn h v).run b).portSt q).wakeN = if (b.fnSt q fn).pmeEn then true else (b.portSt q).wakeN := by
  have hdropped : (((irqDropped h).run b).portSt q).wakeN = (b.portSt q).wakeN := (only_irqDropped_keepsWakeN q h).keeps b
  rw [fnIrq, Prog.run_read]
  dsimp only
  rw [if_pos hcold, Prog.run_all_cons, Prog.run_all_cons, Prog.run_all_nil]
  cases (b.fnSt q fn).pmeEn
  · exact hdropped
  · rw [Prog.when_true, modPort, Prog.run_edit, Block.portSt_port, if_pos rfl, if_pos rfl]

end

/-! ### PERST_N -/

section
variable {q : Nat}

/-- A write of another register, or of a field beside it, keeps PERST. -/
theorem only_setF_keepsPerst {a : Nat} {fl : Fld} (v : Nat)
    (h : Reg.HST_STATUS q ≠ a ∨ Fl.HST_STATUS_PERST.lo + Fl.HST_STATUS_PERST.width ≤ fl.lo ∨ fl.lo + fl.width ≤ Fl.HST_STATUS_PERST.lo) :
    (setF a fl v).Only (Edit.keeps fun b => b.f (Reg.HST_STATUS q) Fl.HST_STATUS_PERST) :=
  fun b => Block.f_fld_other b a _ fl _ v h

theorem only_fnDefaults_keepsPerst (p fn : Nat) :
    (fnDefaults p fn).Only (Edit.keeps fun b => b.f (Reg.HST_STATUS q) Fl.HST_STATUS_PERST) := by
  have hrpt : Reg.HST_STATUS q ≠ Reg.SEC_RPT := by simp only [Reg.HST_STATUS, Reg.SEC_RPT]; omega
  refine ⟨fun _ => rfl, fun b => ⟨fun _ => rfl, only_setF_keepsPerst _ (.inl hrpt), (Prog.only_when _ _).2 fun _ b => ?_, trivial⟩, trivial⟩
  exact ⟨fun _ => rfl, only_setF_keepsPerst _ (.inl hrpt), trivial⟩

theorem only_portDefaults_keepsPerst (p : Nat) :
    (portDefaults p).Only (Edit.keeps fun b => b.f (Reg.HST_STATUS q) Fl.HST_STATUS_PERST) :=
  ⟨(Prog.only_each _ _).2 fun fn _ => only_fnDefaults_keepsPerst p fn, fun _ => rfl, trivial⟩

theorem State.did_perstDeassert {s : State} (hperst : s.blk.hstF q Fl.HST_STATUS_PERST = 1) :
    s.did (perstDeassert q) = s.did (.all [hstSet q Fl.HST_STATUS_PERST 0,
      .when (s.blk.on (Reg.HST_STATUS q) Fl.HST_STATUS_D3COLD) (.all [hstSet q Fl.HST_STATUS_D3COLD 0, portDefaults q]),
      modPort q (fun x => { x with l2 := false, wakeN := false })]) := by
  rw [perstDeassert, State.did_read, State.did_when_true _ (decide_eq_true hperst)]

end

/-- Settles O57: D3cold with PME_En is the one case that asserts WAKE_N; PERST_N deasserting releases it last. -/
theorem wakeN : Obligations.WakeN := by
  refine ⟨fun q fn h v s => ?_, fun q s hup hperst => ⟨_, State.run_up_did hup (State.did_perstDeassert hperst), ?_, ?_⟩⟩
  · rw [State.did_blk]
    cases hcold : s.blk.on (Reg.HST_STATUS q) Fl.HST_STATUS_D3COLD with
    | false => rw [Block.wakeN_fnIrq_awake q s.blk fn h v hcold, if_neg (fun hboth => Bool.false_ne_true hboth.1)]
    | true => rw [Block.wakeN_fnIrq_cold q s.blk fn h v hcold]; simp only [true_and]
  · rw [State.did_blk, Prog.run_all_cons, Prog.run_all_cons, Prog.run_all_cons, Prog.run_all_nil, modPort, Prog.run_edit,
      Block.portSt_port, if_pos rfl]
  · have hkeeps : (Prog.all [
        .when (s.blk.on (Reg.HST_STATUS q) Fl.HST_STATUS_D3COLD) (.all [hstSet q Fl.HST_STATUS_D3COLD 0, portDefaults q]),
        modPort q (fun x => { x with l2 := false, wakeN := false })]).Only
          (Edit.keeps fun b => b.f (Reg.HST_STATUS q) Fl.HST_STATUS_PERST) :=
      ⟨(Prog.only_when _ _).2 fun _ => ⟨only_setF_keepsPerst _ (.inr (by decide)), only_portDefaults_keepsPerst _, trivial⟩,
        fun _ => rfl, trivial⟩
    rw [State.did_blk, Prog.run_all_cons]
    exact (hkeeps.keeps _).trans (Block.f_fld _ _ _ _ (by decide))

end Sys2Proof.Machine
end

section
/-! SUPPORT. What a host sends and answers at its port (spec/16_host_ports.md), and the interrupts of hats (R388). -/

namespace Sys2Proof.Machine

/-! ### Memory requests (R403, R406) -/

section
variable {s : State} {q fn bar off : Nat}

/-- A request to a function in no reset, over a link that is up, is looked at. -/
theorem Block.hearsHost {b : Block} (hlink : b.hstUp q = true) (hfree : b.fnResetting q fn = false) :
    (b.hstUp q && !b.fnResetting q fn) = true := by
  rw [hlink, hfree]; rfl

/-- A function that takes memory requests takes one within its BAR. -/
theorem Block.takesWithinBar {b : Block} {len : Nat} (htakes : b.fnTakes q fn = true) (hin : off + len ≤ 2 ^ b.barLog q fn bar)
    (hbar : bar = 0 ∨ bar = 2 ∨ bar = 4) :
    (!b.fnTakes q fn || decide (2 ^ b.barLog q fn bar < off + len) || !decide (bar = 0 ∨ bar = 2 ∨ bar = 4)) = false := by
  rw [htakes, decide_eq_false (Nat.not_lt.2 hin), decide_eq_true hbar]; rfl

theorem State.did_hostMemWrite_refused (data : List Byte) (ep : Bool) (hlink : s.blk.hstUp q = true)
    (hfree : s.blk.fnResetting q fn = false) (hrefuses : s.blk.fnTakes q fn = false) :
    s.did (hostMemWrite q fn bar off data ep) = s.did (unsupportedReq q fn) := by
  rw [hostMemWrite, State.did_read]
  dsimp only
  rw [State.did_when_true _ (Block.hearsHost hlink hfree), hrefuses, Bool.not_false, Bool.true_or, Bool.true_or, if_pos rfl]

theorem State.did_hostMemWrite_taken {data : List Byte} {ep : Bool} (hlink : s.blk.hstUp q = true)
    (hfree : s.blk.fnResetting q fn = false) (htakes : s.blk.fnTakes q fn = true)
    (hin : off + data.length ≤ 2 ^ s.blk.barLog q fn bar) (hbar : bar = 0 ∨ bar = 2 ∨ bar = 4) :
    s.did (hostMemWrite q fn bar off data ep) = s.did (.all [
      .when ep (.all [incSat (Reg.HST_ERR q) Fl.HST_ERR_POISON_IN, aerLog q fn 12]),
      .each (s.blk.barPieces (ownMsix bar off) (s.blk.barAddr q fn bar off) data.length) fun pc => modPort q fun x => { x with
        posted := x.posted ++ [⟨fn, bar, ownMsix bar off, off + pc.1, pc.2, 0, slice data pc.1 pc.2, ep, false,
          x.freeTag, [], false, 0⟩] },
      hostKick q]) := by
  rw [hostMemWrite, State.did_read]
  dsimp only
  rw [State.did_when_true _ (Block.hearsHost hlink hfree), Block.takesWithinBar htakes hin hbar, if_neg Bool.false_ne_true]

theorem State.did_hostMemRead_refused (len tag : Nat) (hlink : s.blk.hstUp q = true) (hfree : s.blk.fnResetting q fn = false)
    (hrefuses : s.blk.fnTakes q fn = false) :
    s.did (hostMemRead q fn bar off len tag) = s.did (.all [unsupportedReq q fn, send (.hostCpl q fn tag 1 [] false)]) := by
  rw [hostMemRead, State.did_read]
  dsimp only
  rw [State.did_when_true _ (Block.hearsHost hlink hfree), hrefuses, Bool.not_false, Bool.true_or, Bool.true_or, if_pos rfl]

theorem State.did_hostMemRead_taken {len tag : Nat} (hlink : s.blk.hstUp q = true) (hfree : s.blk.fnResetting q fn = false)
    (htakes : s.blk.fnTakes q fn = true) (hin : off + len ≤ 2 ^ s.blk.barLog q fn bar) (hbar : bar = 0 ∨ bar = 2 ∨ bar = 4) :
    s.did (hostMemRead q fn bar off len tag) = s.did (.all [
      .each (s.blk.barPieces (ownMsix bar off) (s.blk.barAddr q fn bar off) len) fun pc => modPort q fun x => { x with
        reads := x.reads ++ [⟨fn, bar, ownMsix bar off, off + pc.1, pc.2, tag, [], false, false, x.freeTag,
          ((s.blk.portSt q).posted.filter fun r => decide (r.fn = fn)).map HostReq.mtag, false, 0⟩] },
      hostKick q]) := by
  rw [hostMemRead, State.did_read]
  dsimp only
  rw [State.did_when_true _ (Block.hearsHost hlink hfree), Block.takesWithinBar htakes hin hbar, if_neg Bool.false_ne_true]

end

/-! ### Configuration requests (R402, R415) -/

/-- What a configuration request does at a port that is powered and out of PERST. -/
def Block.configAnswer (b : Block) (q fn reg : Nat) (write : Bool) (v : Nat) : Prog :=
  if b.hstReady q = false then send (.hostCpl q fn 0 2 [] false)
  else if b.fnThere q fn = false then .all [aerLog q 0 20, send (.hostCpl q fn 0 1 [] false)]
  else if write then .all [cfgWrite q fn reg (v % 2 ^ 32), send (.hostCpl q fn 0 0 [] false)]
  else match b.cfgWord q fn reg with
    | some w => send (.hostCpl q fn 0 0 (toBytesLE 4 w) false)
    | none =>
      if reg = 0 then withFree fun x =>
        send (.hostCpl q fn 0 0 (toBytesLE 2 x ++ toBytesLE 2 (if fn = 0 then 0x1632 else 0x1633)) false)
      else withFree fun x => send (.hostCpl q fn 0 0 (toBytesLE 4 x) false)

section
variable {s : State} {q fn reg v : Nat}

theorem State.did_configRequest (write : Bool) (hwarm : s.blk.on (Reg.HST_STATUS q) Fl.HST_STATUS_D3COLD = false)
    (hpower : s.blk.on (Reg.HST_SLOT q) Fl.HST_SLOT_PWR_GOOD = true) (hperst : s.blk.hstF q Fl.HST_STATUS_PERST = 0) :
    s.did (configRequest q fn reg write v) = s.did (s.blk.configAnswer q fn (reg % 4096 / 4 * 4) write v) := by
  have hanswers : ¬ (s.blk.on (Reg.HST_STATUS q) Fl.HST_STATUS_D3COLD || !s.blk.on (Reg.HST_SLOT q) Fl.HST_SLOT_PWR_GOOD ||
      decide (s.blk.hstF q Fl.HST_STATUS_PERST = 1)) = true := by
    rw [hwarm, hpower, hperst]; decide
  rw [configRequest, State.did_read, Block.configAnswer]
  dsimp only
  rw [if_neg hanswers]
  cases s.blk.cfgWord q fn (reg % 4096 / 4 * 4) <;> simp only [Bool.not_eq_eq_eq_not, Bool.not_true]

end

/-! ### Completions (R408, R409) -/

section
variable {s : State} {q tag : Nat} {e : Nat × Pkt}

theorem State.did_hostCompletion {data : List Byte} {ep : Bool} (hlink : s.blk.hstUp q = true)
    (hwaits : ((s.blk.portSt q).issued.find? fun e => decide (e.1 = tag)) = some e) :
    s.did (hostCompletion q tag data ep) = s.did (.all [
      modPort q (fun x => { x with issued := x.issued.erase e }),
      .when ep (.all [incSat (Reg.HST_ERR q) Fl.HST_ERR_POISON_IN, aerLog q ((s.blk.hostFn e.2.hat q).getD 0) 12]),
      memAnswer e.2 (unitsSt (hostUnits e.2 data ep)) (hostUnits e.2 data ep)]) := by
  rw [hostCompletion, State.did_read, State.did_when_true _ hlink, hwaits]

theorem State.did_hostReadTimeout (hwaits : ((s.blk.portSt q).issued.find? fun e => decide (e.1 = tag)) = some e)
    (hon : (s.blk.fnSt q ((s.blk.hostFn e.2.hat q).getD 0)).cplOff = false) :
    s.did (hostReadTimeout q tag) = s.did (.all [
      modPort q (fun x => { x with issued := x.issued.erase e }), incSat (Reg.HST_ERR q) Fl.HST_ERR_CPL_TIMEOUT,
      aerLog q ((s.blk.hostFn e.2.hat q).getD 0) 14, hostReadFails e.2 St.poisoned]) := by
  rw [hostReadTimeout, State.did_read, hwaits, Prog.for?_some, State.did_when_true _ (by rw [hon]; rfl)]

end

/-! ### Interrupts of hats (R388, R411) -/

section
variable {s : State} {p : Pkt}

/-- An IRQ that has come is taken off the mesh, and a hat that is gone drops it. -/
theorem State.did_irq_gone (hpkt : s.blk.noc.net.contains p = true) (hcmd : p.cmd = 0x84) (hhat : p.hat < 1024)
    (hgone : s.blk.hatState p.hat = HatState.orphaned) : s.did (irq p) = s.did (.all [takePkt p, irqDropped p.hat]) := by
  rw [irq, State.did_read]
  dsimp only
  rw [State.did_when_true _ (by rw [hpkt, decide_eq_true ⟨hcmd, hhat⟩]; rfl), if_pos (by rw [hgone]; rfl)]

/-- An active hat's vector goes where its binding says. -/
theorem State.did_irq_bound {k : Nat} (hpkt : s.blk.noc.net.contains p = true) (hcmd : p.cmd = 0x84) (hhat : p.hat < 1024)
    (hactive : s.blk.hatState p.hat = HatState.active)
    (hvec : p.addr % 2 ^ 11 < 2 ^ s.blk.f (Reg.HAT_INFO p.hat) Fl.HAT_INFO_VEC_LOG2) (hport : s.blk.hatPort p.hat = some k) :
    s.did (irq p) = s.did (.all [takePkt p,
      if k = 0x100 then send (.irqWellhead (p.addr % 2 ^ 11))
      else if k < 256 ∧ s.blk.fnThere (k / 64) (k % 64) = true then fnIrq (k / 64) (k % 64) p.hat (p.addr % 2 ^ 11)
      else irqDropped p.hat]) := by
  have hlive : decide (s.blk.hatState p.hat = HatState.orphaned ∨ s.blk.hatState p.hat = HatState.removing ∨
      s.blk.hatState p.hat = HatState.removed) = false := by rw [hactive]; rfl
  rw [irq, State.did_read]
  dsimp only
  rw [State.did_when_true _ (by rw [hpkt, decide_eq_true ⟨hcmd, hhat⟩]; rfl), hlive, decide_eq_false (Nat.not_le.2 hvec), Bool.or_false,
    if_neg Bool.false_ne_true, hport]

end

/-- Settles O18: each request, completion and interrupt is the program its guards let through. -/
theorem hostTraffic : Obligations.HostTraffic := by
  refine ⟨fun q fn bar off data ep s hup hlink hfree => ⟨fun hrefuses => ?writeRefused, fun htakes hin hbar => ?writeTaken⟩,
    fun q fn bar off len tag s hup hlink hfree => ⟨fun hrefuses => ?readRefused, fun htakes hin hbar => ?readTaken⟩,
    fun q fn reg v s hup hwarm hpower hperst => ⟨fun hnotReady wr => ?retry, fun hready haway wr => ?away,
      fun hready hthere => ⟨?cfgWrite, fun w hw => ?cfgRead, fun hw hreg => ?cfgFree⟩⟩,
    fun q tag data ep e s hup hwaits => ⟨fun hlink => ?completes, fun hon => ?timeout⟩,
    fun p s hup hpkt hcmd hhat => ⟨fun hgone => ?dropped, fun hactive hvec => ⟨fun hport => ?wellhead, fun k hport hk hthere => ?function⟩⟩⟩
  -- memory requests
  case writeRefused => exact State.run_up_did hup (State.did_hostMemWrite_refused data ep hlink hfree hrefuses)
  case writeTaken => exact State.run_up_did hup (State.did_hostMemWrite_taken hlink hfree htakes hin hbar)
  case readRefused => exact State.run_up_did hup (State.did_hostMemRead_refused len tag hlink hfree hrefuses)
  case readTaken => exact State.run_up_did hup (State.did_hostMemRead_taken hlink hfree htakes hin hbar)
  -- configuration requests
  case retry =>
    refine State.run_up_did hup ((State.did_configRequest wr hwarm hpower hperst).trans ?_)
    rw [Block.configAnswer, if_pos hnotReady]
  case away =>
    refine State.run_up_did hup ((State.did_configRequest wr hwarm hpower hperst).trans ?_)
    rw [Block.configAnswer, hready, if_neg (by decide), if_pos haway]
  case cfgWrite =>
    refine State.run_up_did hup ((State.did_configRequest true hwarm hpower hperst).trans ?_)
    rw [Block.configAnswer, hready, if_neg (by decide), hthere, if_neg (by decide), if_pos rfl]
  case cfgRead =>
    refine State.run_up_did hup ((State.did_configRequest false hwarm hpower hperst).trans ?_)
    rw [Block.configAnswer, hready, if_neg (by decide), hthere, if_neg (by decide), if_neg Bool.false_ne_true, hw]
  case cfgFree =>
    refine State.run_up_did hup ((State.did_configRequest false hwarm hpower hperst).trans ?_)
    rw [Block.configAnswer, hready, if_neg (by decide), hthere, if_neg (by decide), if_neg Bool.false_ne_true, hw]
    dsimp only
    rw [if_neg hreg]
  -- completions
  case completes => exact State.run_up_did hup (State.did_hostCompletion hlink hwaits)
  case timeout => exact State.run_up_did hup (State.did_hostReadTimeout hwaits hon)
  -- interrupts
  case dropped => exact State.run_up_did hup (State.did_irq_gone hpkt hcmd hhat hgone)
  case wellhead => exact State.run_up_did hup ((State.did_irq_bound hpkt hcmd hhat hactive hvec hport).trans (by rw [if_pos rfl]))
  case function =>
    refine State.run_up_did hup ((State.did_irq_bound hpkt hcmd hhat hactive hvec hport).trans ?_)
    rw [if_neg (by omega), if_pos ⟨hk, hthere⟩]

end Sys2Proof.Machine
end

section
/-! SUPPORT. The events of a host port (spec/16_host_ports.md): resets, slot, power, removal, rebind. -/

namespace Sys2Proof.Machine

section
variable {s : State} {q : Nat}

/-! ### Resets (R414) -/

/-- PERST_N asserted: D3cold after L2, else a port reset. -/
theorem State.did_perstAssert {cold : Bool} (hperst : s.blk.hstF q Fl.HST_STATUS_PERST = 0) (hl2 : (s.blk.portSt q).l2 = cold) :
    s.did (perstAssert q) = s.did (.all [hstSet q Fl.HST_STATUS_PERST 1,
      if cold then .all [
        linkDown q, hstSet q Fl.HST_STATUS_D3COLD 1, dropTraffic q St.accessDenied,
        .each (List.range 64) fun fn => .all [fnDefaults q fn,
          .when (s.blk.fnSt q fn).pmeEn (modFn q fn fun x => { x with pmeEn := true })],
        modPort q (fun x => { x with vfEn := false, numVfs := 0 })]
      else portReset q]) := by
  rw [perstAssert, State.did_read, State.did_when_true _ (decide_eq_true hperst), hl2]

theorem State.did_flr {fn : Nat} (hready : s.blk.hstReady q = true) (hthere : s.blk.fnThere q fn = true) :
    s.did (flr q fn) = s.did (.all [
      if fn = 0 then .all [.each (List.range 64) (resetFnHat q), portDefaults q]
      else .all [resetFnHat q fn, fnDefaults q fn],
      hubGoesOn]) := by
  rw [flr, State.did_read, State.did_when_true _ (by rw [hready, hthere]; rfl)]

/-- VF control resets the functions that cease to exist. -/
theorem State.did_vfControl (n : Nat) (vfEn : Bool) (hready : s.blk.hstReady q = true) :
    s.did (vfControl q n vfEn) = s.did (.all [
      modPort q (fun x => { x with numVfs := min 63 n, vfEn := vfEn }),
      .each ((List.range 64).filter fun fn => decide ((if vfEn then min 63 n else 0) < fn ∧
          fn ≤ (if (s.blk.portSt q).vfEn then (s.blk.portSt q).numVfs else 0))) fun fn => .all [resetFnHat q fn, fnDefaults q fn],
      hubGoesOn]) :=
  (s.did_read _).trans (State.did_when_true _ hready)

/-! ### The slot (R416, R417) -/

/-- A change of presence is told; with AUTO_PWR a card that came is powered, and one that went is off. -/
theorem State.did_presence {here : Bool} (hchange : s.blk.hstF q Fl.HST_STATUS_PRSNT = b2n (!here)) (hauto : s.blk.autoPwr q = true) :
    s.did (presence q here) = s.did (.all [hstSet q Fl.HST_STATUS_PRSNT (b2n here), hostEvent q 3,
      if here then .all [slotSet q Fl.HST_SLOT_PWR_CMD 1, pwrInd q 2]
      else .all [declareRemoval q false,
        .all [slotSet q Fl.HST_SLOT_PWR_CMD 0, slotSet q Fl.HST_SLOT_PWR_GOOD 0, pwrInd q 0]]]) := by
  have hdiffers : s.blk.hstF q Fl.HST_STATUS_PRSNT ≠ b2n here := by rw [hchange]; cases here <;> decide
  rw [presence, State.did_read, State.did_when_true _ (decide_eq_true hdiffers), hauto, Prog.when_true, Prog.when_true]

/-- The attention button outside a removal and a grace period starts the countdown. -/
theorem State.did_attnButton (hpresent : (s.blk.portSt q).removed = false)
    (hgrace : s.blk.f (Reg.HAT_GRACE q) Fl.HAT_GRACE_ORPHANS = 0) (hauto : s.blk.autoPwr q = true) (hlink : s.blk.hstUp q = true)
    (hfirst : (s.blk.portSt q).btn = false) :
    s.did (attnButton q) = s.did (.all [hostEvent q 4,
      .all [modPort q (fun x => { x with btn := true }), slotSet q Fl.HST_SLOT_BTN_PENDING 1, pwrInd q 2]]) := by
  rw [attnButton, State.did_read, State.did_when_true _ (by rw [hpresent, hgrace]; rfl), hauto, hlink, hfirst,
    if_neg Bool.false_ne_true]
  rfl

/-- A trained port is ready where nothing keeps it back (R415, R470, R490). -/
theorem State.did_portReady {rate width : Nat} (flit : Bool) (hpower : s.blk.on (Reg.HST_SLOT q) Fl.HST_SLOT_PWR_GOOD = true)
    (htested : s.blk.sys.testDone = true) (hperst : s.blk.hstF q Fl.HST_STATUS_PERST = 0)
    (hused : s.blk.sys.offPort.contains q = false) (htest : s.blk.on Reg.TST_CTL Fl.TST_CTL_TEST_MODE = false)
    (hgood : s.blk.on Reg.HUB_BRINGUP Fl.HUB_BRINGUP_FAILED = false) (hnew : s.blk.hstReady q = false) (hrate : rate ≤ 5)
    (hwidth : width ∈ [1, 2, 4, 8, 16]) :
    s.did (portReady q rate width flit) = s.did (.all [
      hstSet q Fl.HST_STATUS_LINK_UP 1, hstSet q Fl.HST_STATUS_READY 1,
      hstSet q Fl.HST_STATUS_RATE rate, hstSet q Fl.HST_STATUS_WIDTH width, hstSet q Fl.HST_STATUS_FLIT (b2n flit),
      hstSet q Fl.HST_STATUS_PSTATE 0, modPort q (fun x => { x with removed := false, l2 := false }), pwrInd q 1]) := by
  have hlisted : [1, 2, 4, 8, 16].contains width = true := List.contains_iff_mem.2 hwidth
  rw [portReady, State.did_read, State.did_when_true]
  rw [hpower, htested, hperst, hused, htest, hgood, hnew, hlisted, decide_eq_true hrate]
  rfl

/-- The wellhead binds the marked hats again from a free slot (R418). -/
theorem State.did_hatRebind {n : Nat} (hready : s.blk.hstReady q = true)
    (hauto : s.blk.on (Reg.HST_CTL q) Fl.HST_CTL_AUTO_REBIND = true) (hmarks : (s.blk.portSt q).marks ≠ [])
    (hidle : s.blk.cis.commit = none) (htest : s.blk.on Reg.TST_CTL Fl.TST_CTL_TEST_MODE = false) (hlink : s.blk.sec.linkLost = false)
    (hslot : ((List.range 4).find? fun n => decide (s.blk.slotState n = SlotState.empty)) = some n) :
    s.did (hatRebind q) = s.did (.all [
      epoch s.blk.recs (s.blk.gen + 1) (s.blk.portSt q).marks,
      modCis (fun x => { x with commit := some ⟨n, 0, false, s.blk.recs, [], .copying, true, [], s.blk.now⟩ })]) := by
  rw [hatRebind, State.did_read]
  dsimp only
  rw [State.did_when_true _ (by rw [hready, hauto, hidle, htest, hlink, decide_eq_true hmarks]; rfl), hslot, Prog.for?_some]

end

/-- Settles O19: each event is the program its guards let through. -/
theorem hostPortEvents : Obligations.HostPortEvents := by
  refine ⟨fun q s hup hready => ⟨fun hthere => ?flrAll, fun fn hfn hthere => ?flrOne, fun n vfEn => ?vfs⟩,
    fun q s hup => ⟨fun hperst hwarm => ?perst, fun hperst hcold => ?cold, fun hperst => ?deassert⟩,
    fun q s hup hlink => ⟨?hot, fun hperst => ?down, ?turnOff, fun p hp => ?pstate, fun hen hl0 hwide => ?l0p⟩,
    fun q rate flit s hup hpower htested hperst hused htest hgood hnew hrate width hwidth => ?ready,
    fun q s hup => ⟨fun hwas hauto => ?came, fun hwas hauto => ?went, fun hpresent hgrace hauto hlink hfirst => ?button,
      fun hbtn => ?countdown, fun hcmd => ⟨?rise, fun hgood => ?loss⟩⟩,
    fun hat q s hup hp hmay => ⟨?cmdOn, ?cmdOff⟩,
    fun q s hup hready hauto hmarks hidle htest hlink n hslot => ?rebind⟩
  -- resets
  case flrAll => exact State.run_up_did hup ((State.did_flr hready hthere).trans (by rw [if_pos rfl]))
  case flrOne => exact State.run_up_did hup ((State.did_flr hready hthere).trans (by rw [if_neg hfn]))
  case vfs => exact State.run_up_did hup (State.did_vfControl n vfEn hready)
  case perst => exact State.run_up_did hup ((State.did_perstAssert hperst hwarm).trans (by rw [if_neg Bool.false_ne_true]))
  case cold => exact State.run_up_did hup ((State.did_perstAssert hperst hcold).trans (by rw [if_pos rfl]))
  case deassert => exact State.run_up_did hup (State.did_perstDeassert hperst)
  -- the link
  case hot => exact State.run_guarded hup hlink
  case down => exact State.run_guarded hup (by rw [hlink, hperst]; rfl)
  case turnOff => exact State.run_guarded hup hlink
  case pstate => exact State.run_guarded hup (by rw [hlink, decide_eq_true hp]; rfl)
  case l0p => exact State.run_guarded hup (by rw [hlink, hen, decide_eq_true ⟨hl0, hwide⟩]; rfl)
  case ready => exact State.run_up_did hup (State.did_portReady flit hpower htested hperst hused htest hgood hnew hrate hwidth)
  -- the slot
  case came => exact State.run_up_did hup ((State.did_presence (here := true) hwas hauto).trans (by rw [if_pos rfl]; rfl))
  case went => exact State.run_up_did hup ((State.did_presence (here := false) hwas hauto).trans (by rw [if_neg Bool.false_ne_true]; rfl))
  case button => exact State.run_up_did hup (State.did_attnButton hpresent hgrace hauto hlink hfirst)
  case countdown => exact State.run_guarded hup hbtn
  case rise => exact State.run_guarded hup hcmd
  case loss => exact State.run_guarded hup (by rw [hcmd, hgood]; rfl)
  case cmdOn => exact State.run_underHat_guarded hup hp hmay
  case cmdOff => exact State.run_underHat_guarded hup hp hmay
  case rebind => exact State.run_up_did hup (State.did_hatRebind hready hauto hmarks hidle htest hlink hslot)

end Sys2Proof.Machine
end

section
/-! SUPPORT. The wellhead's trust functions (spec/17_trust.md): updates, reports, key loads, regions. -/

namespace Sys2Proof.Machine

/-- What works also while the package is held in reset does its program where its condition holds. -/
theorem State.runRaw_guarded {s : State} {c : Block → Bool} {k : Block → Prog} (h : c s.blk = true) :
    s.runRaw (.read fun b => .when (c b) (k b)) = .next (s.did (k s.blk)) :=
  (State.runRaw_did s _).trans (congrArg Host.Outcome.next ((s.did_read _).trans (State.did_when_true _ h)))

/-- A meaning of the wellhead's does its program where its condition holds. -/
theorem State.runWell_guarded {s : State} {c : Block → Bool} {k : Block → Prog} (hup : s.up = true) (h : c s.blk = true) :
    s.runWell (.read fun b => .when (c b) (k b)) = .next (s.did (k s.blk)) :=
  (State.runWell_up (State.up_held hup) _).trans (congrArg Host.Outcome.next ((s.did_read _).trans (State.did_when_true _ h)))

section
variable {s : State} {hat : Nat}

/-! ### Updates (R428, R429, R431) -/

/-- Hat 0 drives an update in recovery, and a hat that its port admits outside it. -/
theorem State.did_inRecoveryToo_either (p : Prog) (h : s.blk.portAdmits hat = true ∨ (hat = 0 ∧ s.blk.i3cLimited = true)) :
    s.did (inRecoveryToo hat p) = s.did p := by
  obtain hp | ⟨rfl, hlimited⟩ := h
  · exact State.did_inRecoveryToo p hp
  · rw [inRecoveryToo, State.did_read, if_pos hlimited, State.did_when_true p (decide_eq_true rfl)]

theorem State.did_secStage {val : W64} {read : ReadIn} (h : s.blk.portAdmits hat = true ∨ (hat = 0 ∧ s.blk.i3cLimited = true))
    (hmay : s.blk.maySec hat = true) :
    s.did (secStage hat val read) = s.did (.all [
      setF Reg.SEC_UPD_CTL Fl.SEC_UPD_CTL_LEN (getFld val Fl.SEC_UPD_CTL_LEN),
      .when (decide (getFld val Fl.SEC_UPD_CTL_DONE = 1)) (setF Reg.SEC_UPD_CTL Fl.SEC_UPD_CTL_DONE 0),
      if s.blk.updState ≠ 0 ∨ 0x400000 < getFld val Fl.SEC_UPD_CTL_LEN then updEnd St.descInvalid
      else if s.blk.updHeld then .all [
        setF Reg.SEC_UPD_CTL Fl.SEC_UPD_CTL_BUSY 1, setUpd 1,
        modSec (fun x => { x with stageWait := some (hat, getFld val Fl.SEC_UPD_CTL_LEN, read) })]
      else stageCopied hat (getFld val Fl.SEC_UPD_CTL_LEN) read]) :=
  (State.did_inRecoveryToo_either _ h).trans ((s.did_read _).trans (State.did_when_true _ hmay))

/-- A bundle that passes its checks is on its way into the slot that is not active. -/
theorem State.did_stageCopied_valid {len : Nat} {read : ReadIn} {u : Bundle} {d : List Byte}
    (hbytes : s.blk.stageBytes hat len read = (St.ok, d)) (hbundle : s.blk.readBundle d = (0, u)) :
    s.did (stageCopied hat len read) = s.did (.all [
      setF Reg.SEC_UPD_CTL Fl.SEC_UPD_CTL_BUSY 1, setUpd 1,
      setFwSlot (if s.blk.inRecovery then 0 else 1 - s.blk.f Reg.SEC_STATUS Fl.SEC_STATUS_ACTIVE_SLOT) none,
      modSec (fun x => { x with
        upd := some (if s.blk.inRecovery then 0 else 1 - s.blk.f Reg.SEC_STATUS Fl.SEC_STATUS_ACTIVE_SLOT, u),
        stageWait := none })]) := by
  rw [stageCopied, State.did_read]
  simp only [hbytes, hbundle, ne_eq, not_true_eq_false, if_false]

/-- An update command is accepted in its update state, from a hat that may drive updates, outside recovery. -/
theorem State.did_updCommand {st : Nat} (p : Prog) (hp : s.blk.portAdmits hat = true) (hmay : s.blk.maySec hat = true)
    (hopen : s.blk.i3cLimited = false) (hst : s.blk.updState = st) : s.did (updCommand hat st p) = s.did p := by
  refine (State.did_underHat_guarded hp (by rw [hmay, hopen]; rfl)).trans ?_
  rw [if_pos hst]

/-- REVOKE of an image that was read and passes burns the revocations it names. -/
theorem State.did_secRevoke {told read : ReadIn} {i : ImgRead} (hp : s.blk.portAdmits hat = true) (hmay : s.blk.maySec hat = true)
    (hopen : s.blk.i3cLimited = false) (hst : s.blk.updState = 0)
    (hread : s.blk.updRead hat (s.blk.f Reg.SEC_UPD_CTL Fl.SEC_UPD_CTL_LEN) told = read) (hok : read.end_ = St.ok)
    (himage : s.blk.readImage (slice read.data 0 (s.blk.f Reg.SEC_UPD_CTL Fl.SEC_UPD_CTL_LEN)) = i)
    (hgood : s.blk.revokeOk i (decide (i.size ≤ s.blk.f Reg.SEC_UPD_CTL Fl.SEC_UPD_CTL_LEN ∧
      s.blk.f Reg.SEC_UPD_CTL Fl.SEC_UPD_CTL_LEN ≤ 0x400000)) = true) :
    s.did (secRevoke hat told) = s.did (.all [
      orF Reg.SEC_FUSE Fl.SEC_FUSE_REV_RSA (bits i.revoke 0 4), orF Reg.SEC_FUSE Fl.SEC_FUSE_REV_SLH (bits i.revoke 4 4),
      updEnd St.ok]) := by
  rw [secRevoke, State.did_updCommand _ hp hmay hopen hst, State.did_read]
  dsimp only
  rw [hread, himage, if_neg (not_not_intro hok), if_pos hgood]

/-! ### Report requests (R436) -/

/-- A number that is 0 has first byte 0. -/
theorem numAt_one_of_numAt_succ {l : List Byte} {n : Nat} (h : numAt l 0 (n + 1) = 0) : numAt l 0 1 = 0 := by
  cases l with
  | nil => rfl
  | cons x xs =>
    simp only [numAt, slice, List.drop_zero, List.take_succ_cons, List.cons_append, ofBytesLE] at h ⊢
    simp only [Nat.add_eq_zero_iff] at h
    rw [h.1]
    rfl

/-- The first request of a partition's report takes its place in the queue, and the report begins. -/
theorem State.did_reportReq_first {via : Via} {payload : List Byte} (hp : s.blk.portAdmits hat = true) (hlen : payload.length = 36)
    (hscope : numAt payload 0 4 = 0) (hfirst : s.blk.sec.queue = []) :
    s.did (reportReq (some hat) via payload) = s.did (.all [
      modSec (fun x => { x with queue := x.queue ++ [⟨hat, false, slice payload 4 32, via⟩] }), beginReport]) := by
  have hpart : decide (numAt payload 0 1 = 1) = false := by rw [numAt_one_of_numAt_succ hscope]; rfl
  have hroom : ¬ 8 ≤ s.blk.sec.queue.length := by rw [hfirst]; exact Nat.not_succ_le_zero 7
  rw [reportReq, State.did_read, Option.filter_some, if_pos hp]
  dsimp only
  rw [hpart, if_neg (by rw [hlen, hscope]; decide), if_neg (by simp), if_neg hroom, if_pos hfirst]

/-- A report that is ready goes out under a fresh salt. -/
theorem State.did_reportReady {r : RptReq} {rest : List RptReq} (hqueue : s.blk.sec.queue = r :: rest)
    (hready : s.blk.on Reg.TRG_RNG Fl.TRG_RNG_READY = true) (hlink : s.blk.sec.linkLost = false) :
    s.did reportReady = s.did (withFree fun salt => .all [
      modSec (fun x => { x with queue := rest }),
      incSat Reg.SEC_RPT Fl.SEC_RPT_REPORTS,
      setF Reg.SEC_RPT Fl.SEC_RPT_LAST_LEN (s.blk.report r salt).length,
      beginReport,
      rptAnswer r.via St.ok (s.blk.report r salt)]) := by
  rw [reportReady, State.did_read, hqueue]
  exact State.did_when_true _ (by rw [hready, hlink]; rfl)

/-! ### Key loads (R435) -/

/-- A blob that is right for a slot of the hat makes the slot LOADING. -/
theorem State.did_keyLoad_taken {via : Via} {payload : List Byte} (hadmits : s.blk.keyAdmits hat = true)
    (hright : s.blk.holds hat Right.key = true) (hrange : s.blk.inKeyRange hat (numAt payload 0 1) = true)
    (hstays : s.blk.keyGoing hat (numAt payload 0 1) = false) (hlen : payload.length = 1284) (hzero : numAt payload 1 3 = 0)
    (hempty : s.blk.keyState (numAt payload 0 1) = 0) (hblob : s.blk.blobOk (payload.drop 4) hat (numAt payload 0 1) = true) :
    s.did (keyLoad (some hat) via payload) = s.did (.all [
      setF (Reg.PMP_KEY (numAt payload 0 1)) Fl.PMP_KEY_STATE 1,
      modSec (fun x => { x with loads := x.loads ++ [⟨numAt payload 0 1, via, blobKey (payload.drop 4)⟩] })]) := by
  rw [keyLoad, State.did_read]
  dsimp only
  rw [Option.filter_some, if_pos hadmits]
  dsimp only
  rw [hright, hrange, hstays, hlen, hzero, hempty, hblob, if_neg (by decide), if_neg (by decide)]

section
variable {k : Nat} {l : KeyLoad} (hlink : s.blk.sec.linkLost = false)
  (hload : (s.blk.sec.loads.filter fun x => decide (x.slot = k)) = [l]) (hloading : s.blk.keyState k = 1)
include hlink hload hloading

/-- A slot's only load, whose key was not revoked meanwhile, ends with what its blob unwrapped to. -/
theorem State.did_keyLoadDone_bad (hkey : l.key = none) : s.did (keyLoadDone k) = s.did (.all [
    modSec (fun x => { x with loads := x.loads.erase l }),
    setF (Reg.PMP_KEY k) Fl.PMP_KEY_STATE 0, keyAnswer l.via k St.digestMismatch]) := by
  rw [keyLoadDone, State.did_read, hlink, if_neg Bool.false_ne_true, hload]
  simp only [hloading, hkey, ne_eq, not_true_eq_false, or_self, if_false, State.did_all_nest]

theorem State.did_keyLoadDone_stored {key : Nat} (hkey : l.key = some key) : s.did (keyLoadDone k) = s.did (.all [
    modSec (fun x => { x with loads := x.loads.erase l }),
    modPmp (fun x => { x with keymat := Tbl.set (dflt 0) k key x.keymat }),
    setF (Reg.PMP_KEY k) Fl.PMP_KEY_STATE 2, setF (Reg.PMP_KEY k) Fl.PMP_KEY_PAGES 0,
    modSec (fun x => { x with keyLoads := x.keyLoads + 1 }),
    keyAnswer l.via k St.ok]) := by
  rw [keyLoadDone, State.did_read, hlink, if_neg Bool.false_ne_true, hload]
  simp only [hloading, hkey, ne_eq, not_true_eq_false, or_self, if_false, State.did_all_nest]

end

end

/-- Settles O13: each command of the wellhead does its program where the hat, the update state, the region and the queue allow it. -/
theorem trustCommands : Obligations.TrustCommands := by
  unfold Obligations.TrustCommands
  refine ⟨fun hat val read s hup hp hmay => ?stage, fun hat len read u d s hbytes hbundle => ?copied,
    fun hat s hup hp hmay hopen => ⟨fun hst => ?cancel, fun hst => ?confirm, fun hst => ?svn,
      fun told read i hst hread hok himage hgood => ?revoke⟩,
    fun off bytes s hup => ⟨fun hfits => ?recovery, fun hfits hopen => ?boot, ?recoveryErase, fun hopen => ?bootErase, ?restart,
      fun len => ?read⟩,
    fun payload s hup hopen => ⟨?i3cReport, ?i3cKey⟩,
    fun q fn h payload s hup hlink hthere hhat => ⟨fun hp hlen hscope hfirst => ?report,
      fun hadmits hright hrange hstays hlen hzero hempty hblob => ?key⟩,
    fun r rest s hup hqueue hready hlink => ?ready, fun k l s hup hlink hload hloading => ⟨fun hkey => ?keyBad, fun key hkey => ?keyGood⟩⟩
  case stage => exact State.run_up_did hup (State.did_secStage hp hmay)
  case copied => exact State.did_stageCopied_valid hbytes hbundle
  case cancel => exact State.run_up_did hup (State.did_updCommand _ hp hmay hopen hst)
  case confirm => exact State.run_up_did hup ((State.did_updCommand _ hp hmay hopen hst).trans (s.did_read _))
  case svn => exact State.run_up_did hup ((State.did_updCommand _ hp hmay hopen hst).trans (s.did_read _))
  case revoke => exact State.run_up_did hup (State.did_secRevoke hp hmay hopen hst hread hok himage hgood)
  case recovery =>
    exact (State.runWell_up (State.up_held hup) _).trans (congrArg Host.Outcome.next (State.did_when_true _ hfits))
  case boot => exact State.runWell_guarded hup (by rw [hfits, hopen]; rfl)
  case recoveryErase => exact State.runWell_up (State.up_held hup) _
  case bootErase => exact State.runWell_guarded hup (by rw [hopen]; rfl)
  case restart => exact State.runWell_up (State.up_held hup) _
  case read => exact State.runWell_up (State.up_held hup) _
  case i3cReport => exact State.run_guarded hup (by rw [hopen]; rfl)
  case i3cKey => exact State.run_guarded hup (by rw [hopen]; rfl)
  case report =>
    refine (State.run_guarded hup (by rw [hlink, hthere]; rfl)).trans ?_
    rw [hhat, State.did_reportReq_first hp hlen hscope hfirst]
  case key =>
    refine (State.run_guarded hup (by rw [hlink, hthere]; rfl)).trans ?_
    rw [hhat, State.did_keyLoad_taken hadmits hright hrange hstays hlen hzero hempty hblob]
  case ready => exact State.run_up_did hup (State.did_reportReady hqueue hready hlink)
  case keyBad => exact State.run_up_did hup (State.did_keyLoadDone_bad hlink hload hloading hkey)
  case keyGood => exact State.run_up_did hup (State.did_keyLoadDone_stored hlink hload hloading hkey)

end Sys2Proof.Machine
end

section
/-! SUPPORT. Operating points, caps, rails and heat (spec/18_power_heat_wear.md): what each command does. -/

namespace Sys2Proof.Machine

section
variable {s : State}

/-! ### Operating points (R451, R452) -/

/-- A finished step takes the domain to its OP; wells and network sides that change clock band are held. -/
theorem State.did_domainOpStepDone {d t : Nat} (hsteps : s.blk.domState d = 3) (hto : (s.blk.domSt d).stepTo = some t) :
    s.did (domainOpStepDone d) = s.did (.all [
      setF (Reg.PWR_DOM_STATUS d) Fl.PWR_DOM_STATUS_OP t,
      incSat (Reg.PWR_DOM_STATUS d) Fl.PWR_DOM_STATUS_STEPS,
      modDom d (fun x => { x with stepTo := none }),
      setF (Reg.PWR_DOM_STATUS d) Fl.PWR_DOM_STATUS_STATE
        (if (d < 12 ∨ d = 17 ∨ d = 18) ∧ opBand (s.blk.domOp d) ≠ opBand t then 4 else 0),
      writeVdd, kickDomain d]) := by
  rw [domainOpStepDone, State.did_read, State.did_for?_some s _ hto]
  dsimp only
  rw [State.did_when_true _ (decide_eq_true hsteps)]
  simp only [Bool.and_eq_true, decide_eq_true_eq]

/-! ### Caps (R459) -/

/-- After ten quiet samples the package cap's pacing goes down by one. -/
theorem State.did_capRelax_paced (hquiet : 10 ≤ (s.blk.capSt 0).below) (hpaced : s.blk.capPace 0 ≠ 0) :
    s.did (capRelax 0) = s.did (.all [
      modCap 0 (fun c => { c with below := 0 }),
      setF Reg.PWR_STATUS Fl.PWR_STATUS_PACE (s.blk.capPace 0 - 1), refreshStage]) := by
  rw [capRelax, State.did_read]
  dsimp only
  rw [State.did_when_true _ (decide_eq_true hquiet), if_pos hpaced, setCapPace, if_pos rfl, decide_eq_true (rfl : (0 : Nat) = 0),
    Prog.when_true]

/-! ### Heat (R464) -/

/-- A comparison against one of two thresholds. -/
theorem decide_le_of_threshold (c : Bool) (low high t : Int) :
    (if c then decide (low ≤ t) else decide (high ≤ t)) = decide ((if c then low else high) ≤ t) := by
  cases c <;> rfl

theorem any_le_of_threshold (c : Bool) (low high : Int) (l : List Int) :
    (if c then l.any (fun x => decide (low ≤ x)) else l.any fun x => decide (high ≤ x)) =
      l.any fun x => decide ((if c then low else high) ≤ x) := by
  cases c <;> rfl

/-- The hottest sensor is shown, and each action sets at its threshold and clears at its lower one. -/
theorem State.did_junctionSensorRead {t0 t : Int} {rest : List Int} {k : Nat} {warn pace : Bool} {at_ : Nat → List Int} {hot : Nat → Bool}
    (hhottest : hottest (t0 :: rest) 0 (0, t0) = (k, t))
    (hwarn : warn = decide ((if s.blk.pwr.warnOn then 776 else 800) ≤ t))
    (hpace : pace = decide ((if s.blk.on Reg.PWR_TEMP Fl.PWR_TEMP_PACE then 856 else 880) ≤ t))
    (hat : at_ = fun d => (List.range (rest.length + 1)).filterMap fun i =>
      if sensorDom i = d then some ((t0 :: rest).getD i 0) else none)
    (hhot : hot = fun d => (at_ d).any fun x => decide ((if (s.blk.domSt d).hot then 816 else 840) ≤ x)) :
    s.did (junctionSensorRead (t0 :: rest)) = s.did (.all [
      setF Reg.PWR_TEMP Fl.PWR_TEMP_HOTTEST (wrapInt 16 t), setF Reg.PWR_TEMP Fl.PWR_TEMP_SENSOR k,
      .when (warn && !s.blk.pwr.warnOn) (.all [setF Reg.PWR_TEMP Fl.PWR_TEMP_WARN 1, raiseEsc]),
      modPwr (fun p => { p with warnOn := warn }),
      .each (List.range 20) (fun d => .when (hot d != (s.blk.domSt d).hot) (
        if hot d then .all [modDom d (fun x => { x with hot := true }), logEv St.thermalThrottle d]
        else .all [modDom d (fun x => { x with hot := false, hubHeat := 15 }), refreshHeat d])),
      setF Reg.PWR_TEMP Fl.PWR_TEMP_HEAT (b2n ((List.range 20).any hot)), setF Reg.PWR_TEMP Fl.PWR_TEMP_PACE (b2n pace)]) := by
  subst hhot hat hpace hwarn
  rw [junctionSensorRead, State.did_read]
  simp only [hhottest, decide_le_of_threshold, any_le_of_threshold, List.length_cons]

end

/-- Settles O2: each command of power and heat does its program in the state that calls for it. -/
theorem powerCommands : Obligations.PowerCommands := by
  unfold Obligations.PowerCommands
  refine ⟨fun hat d op s hup hp hright => ?target, fun d t s hup hsteps hto => ?step, fun d s hup hholds => ?band,
    fun est s hup => ?sample, fun s hup hquiet hpaced => ?relax, fun s hup hunreach hfirst => ?escalate,
    fun answers s hup => ?rails, fun t0 t rest k warn pace at_ hot s hup hhottest hwarn hpace hat hhot => ?sensors,
    fun d s hup hhot hawake => ?heatStep, fun s hcold => ?trip⟩
  case target => exact State.run_underHat_guarded hup hp hright
  case step => exact State.run_up_did hup (State.did_domainOpStepDone hsteps hto)
  case band => exact State.run_guarded hup (decide_eq_true hholds)
  case sample => exact State.run_up_did hup (s.did_read _)
  case relax => exact State.run_up_did hup (State.did_capRelax_paced hquiet hpaced)
  case escalate => exact State.run_guarded hup (by rw [hunreach, hfirst]; rfl)
  case rails => exact State.run_up hup _
  case sensors => exact State.run_up_did hup (State.did_junctionSensorRead hhottest hwarn hpace hat hhot)
  case heatStep => exact State.run_guarded hup (by rw [hhot, hawake]; rfl)
  case trip => exact State.runRaw_guarded (by rw [hcold]; rfl)

end Sys2Proof.Machine
end

section
/-! SUPPORT. Package resets, supplies, clocks and links (R468, R469, R483, R484, R508, R511). -/

namespace Sys2Proof.Machine

section
variable {s : State}

/-- GO with the key sends CLOSE on every session; the package resets after it. -/
theorem State.did_pkgResetWrite {val : W64} (hp : s.blk.portAdmits 0 = true) (hopen : s.blk.i3cLimited = false)
    (hfirst : s.blk.sys.closing = false) (hgo : getFld val Fl.HUB_PKG_RESET_GO = 1) (hkey : getFld val Fl.HUB_PKG_RESET_KEY = 0xA55A) :
    s.did (pkgResetWrite 0 val) = s.did (.all [
      .each s.blk.listedPeers closeSession, modSys (fun x => { x with closing := true })]) :=
  State.did_underHat_guarded hp (by rw [decide_eq_true ⟨rfl, hgo, hkey⟩, hopen, hfirst]; rfl)

/-- The wellhead comes back once its clock runs (R513). -/
theorem State.did_wellheadBack (hclock : s.blk.sys.aonClk = true) (hlost : s.blk.sec.linkLost = true) :
    s.did (.read fun b => .when b.sys.aonClk wellheadBack) = s.did (.all [
      modSec (fun x => { x with linkLost := false, upd := none, stageWait := none, loads := [] }),
      .when (decide (s.blk.updState = 1)) (.all [setF Reg.SEC_UPD_CTL Fl.SEC_UPD_CTL_BUSY 0, setUpd 0]),
      .each (s.blk.sec.loads.filter fun l => decide (s.blk.keyState l.slot = 1)) (fun l => setF (Reg.PMP_KEY l.slot) Fl.PMP_KEY_STATE 0),
      .each (0 :: ((s.blk.boundHat 0x100).filter (· ≠ 0)).toList) releaseSlotsOf]) := by
  rw [State.did_read, State.did_when_true _ hclock, wellheadBack, State.did_read, State.did_when_true _ hlost]

end

/-- Settles O7: each event acts on the supply, clock, pin or link that it changes. -/
theorem resetAndClocks : Obligations.ResetAndClocks := by
  unfold Obligations.ResetAndClocks
  refine ⟨fun s hoff => ?powerOn, fun s hon => ?powerOff, fun s hhigh hon => ?pinLow, fun s hlow => ?pinHigh,
    fun val s hup hp hopen hfirst hgo hkey => ?resetAsked, fun s hup hclosing => ?resetDone, fun s hon hclock => ?coreLost,
    fun s hstopped => ?coreBack, fun s => State.runRaw_did s _, fun s => State.runRaw_did s _, fun s hup => State.run_up hup _,
    fun s hup hclock hlost => ?relink, fun q s hup => State.run_up hup _,
    fun c s hup => ⟨State.run_up hup _, State.run_up hup _⟩, fun s hoff => ?railOn, fun s hrail hon => ?railOff⟩
  case powerOn => exact State.runRaw_guarded (by rw [hoff]; rfl)
  case powerOff => exact State.runRaw_guarded hon
  case pinLow =>
    refine (State.runRaw_guarded hhigh).trans ?_
    rw [hon, Prog.when_true]
  case pinHigh => exact State.runRaw_guarded (by rw [hlow]; rfl)
  case resetAsked =>
    exact (State.runWell_up (State.up_held hup) _).trans
      (congrArg Host.Outcome.next (State.did_pkgResetWrite hp hopen hfirst hgo hkey))
  case resetDone => exact State.runWell_guarded hup hclosing
  case coreLost => exact State.runRaw_guarded (by rw [hon, hclock]; rfl)
  case coreBack => exact State.runRaw_guarded (by rw [hstopped]; rfl)
  case relink => exact State.run_up_did hup (State.did_wellheadBack hclock hlost)
  case railOn => exact State.runRaw_guarded (by rw [hoff]; rfl)
  case railOff =>
    refine (State.runRaw_guarded hrail).trans ?_
    rw [hon, Prog.when_true]

end Sys2Proof.Machine
end

section
/-! SUPPORT. The steps of bring-up, the boot ROM, the end of a STAGE (R426, R429, R469–R478). -/

namespace Sys2Proof.Machine

section
variable {s : State}

/-! ### Steps (R469, R471) -/

/-- A step of bring-up that may end does its program and shows where bring-up stands. -/
theorem State.did_bringWhen {ok : Block → Bool} (p : Prog) (hbegun : s.blk.sys.begun = true) (hgood : s.blk.bringFailed = false)
    (hok : ok s.blk = true) : s.did (bringWhen ok p) = s.did (.all [p, showStep]) :=
  (s.did_read _).trans (State.did_when_true _ (by rw [hbegun, hgood, hok]; rfl))

/-- What a program reads first is the state before it. -/
theorem State.did_all_read (s : State) (k : Block → Prog) (l : List Prog) : s.did (.all (.read k :: l)) = s.did (.all (k s.blk :: l)) := by
  rw [State.did_all_cons, State.did_all_cons, State.did_read]

/-- Self test ends step 4 with its repairs, its count and the sites that start to train. -/
theorem State.did_all_selfTestDone (failures : List SelfTestFail) (n : Nat) (p : Prog) :
    s.did (.all [selfTestDone failures n, p]) = s.did (.all [
      .each (failures ++ s.blk.sys.calFail.map fun r => ⟨FailCls.region, r⟩) (fun f => .read fun b => .when (!b.bringFailed) (repair f)),
      addSat Reg.HUB_REPAIR Fl.HUB_REPAIR_TRANSIENT n,
      .read fun b => .when (!b.bringFailed) (.all [
        modSys (fun x => { x with testDone := true, calFail := [] }),
        .each ((List.range 16).filter b.siteUsed) startTraining]),
      p]) := by
  rw [selfTestDone, State.did_all_read, State.did_all_flatten, List.cons_append, List.cons_append, List.cons_append, List.nil_append]

/-! ### The boot ROM (R426) -/

/-- The boot ROM tries the pending slot while tries are left, then the active one, then the other one, else recovery. -/
theorem State.did_bootRom {act pend tries : Nat} (hrail : s.blk.sec.alwaysOn = true) (hpin : s.blk.sys.pkgRstN = true)
    (hclock : s.blk.sys.coreClk = true) (hfirst : s.blk.sys.romDone = false) (hgood : s.blk.bringFailed = false)
    (hact : act = s.blk.f Reg.SEC_STATUS Fl.SEC_STATUS_ACTIVE_SLOT) (hpend : pend = s.blk.f Reg.SEC_STATUS Fl.SEC_STATUS_PENDING)
    (htries : tries = s.blk.f Reg.SEC_STATUS Fl.SEC_STATUS_TRIES) :
    s.did bootRom = s.did (.all [
      modSys (fun x => { x with romDone := true }),
      modPwr (fun x => { x with tripOwed := false }),
      .when s.blk.pwr.tripOwed (incSat Reg.PWR_TEMP Fl.PWR_TEMP_TRIPS),
      secSet Fl.SEC_STATUS_NO_CERTS (b2n (!(Config.leafMatches 1 && Config.leafMatches 2))),
      .when (decide (pend ≠ 0 ∧ tries ≠ 0)) (secSet Fl.SEC_STATUS_TRIES (tries - 1)),
      .when (decide (pend ≠ 0 ∧ tries = 0)) (secSet Fl.SEC_STATUS_PENDING 0),
      (if pend ≠ 0 ∧ tries ≠ 0 ∧ s.blk.slotValid (pend - 1) then runSlot (pend - 1) 3
       else if s.blk.slotValid act then runSlot act 0
       else .all [
         incSat Reg.SEC_COUNT Fl.SEC_COUNT_FALLBACKS,
         if s.blk.slotValid (1 - act) then runSlot (1 - act) 0
         else .all [setUpd 0, secSet Fl.SEC_STATUS_RECOVERY 1, bringFail 1 6]]), showStep]) := by
  subst hact hpend htries
  rw [bootRom, State.did_read]
  dsimp only
  rw [State.did_when_true _ (by rw [hrail, hpin, hclock, hfirst, hgood]; rfl)]
  simp only [Bool.and_eq_true, decide_eq_true_eq, and_assoc]

/-! ### The end of a STAGE (R429) -/

/-- The bundle on its way is written, and its slot is pending with three tries. -/
theorem State.did_stageWritten {t : Nat} {u : Bundle} (hlink : s.blk.sec.linkLost = false) (hupd : s.blk.sec.upd = some (t, u)) :
    s.did stageWritten = s.did (.all [
      setFwSlot t (some u), modSec (fun x => { x with upd := none }),
      secSet Fl.SEC_STATUS_PENDING (t + 1), secSet Fl.SEC_STATUS_TRIES 3,
      setF Reg.SEC_UPD_CTL Fl.SEC_UPD_CTL_BUSY 0, setUpd 2, updEnd St.ok]) := by
  rw [stageWritten, State.did_read, hlink, hupd, Option.isNone_some, Bool.and_false, if_neg Bool.false_ne_true,
    if_neg Bool.false_ne_true, Prog.for?_some]

end

/-- Settles O8: each step of bring-up does its program when the steps before it are done; so do the boot ROM and the end of a STAGE. -/
theorem bringUpSteps : Obligations.BringUpSteps := by
  unfold Obligations.BringUpSteps
  refine ⟨fun act pend tries s hrail hpin hclock hfirst hgood hact hpend htries => ?rom,
    fun s hup hbegun hgood => ⟨fun hfirst => ⟨?fuses, ?fusesBad⟩, fun hfirst => ⟨?timeout, fun hrom hfuses => ⟨?imageBad, ?image⟩⟩,
      fun himage hfirst l n => ?test, fun htest hfirst l => ?memory, fun hmemory hsites hfirst => ?boot⟩,
    fun t u s hup hlink hrun hupd => ?stage⟩
  case rom =>
    exact (State.runRaw_did s _).trans
      (congrArg Host.Outcome.next (State.did_bootRom hrail hpin hclock hfirst hgood hact hpend htries))
  case fuses => exact State.run_up_did hup (State.did_bringWhen _ hbegun hgood (by rw [hfirst]; rfl))
  case fusesBad => exact State.run_up_did hup (State.did_bringWhen _ hbegun hgood (by rw [hfirst]; rfl))
  case timeout =>
    exact State.run_up_did hup ((State.did_bringWhen _ hbegun hgood (by rw [hfirst]; rfl)).trans (s.did_all_read _ _))
  case imageBad => exact State.run_up_did hup (State.did_bringWhen _ hbegun hgood (by rw [hrom, hfuses, hfirst]; rfl))
  case image => exact State.run_up_did hup (State.did_bringWhen _ hbegun hgood (by rw [hrom, hfuses, hfirst]; rfl))
  case test =>
    exact State.run_up_did hup ((State.did_bringWhen _ hbegun hgood (by rw [himage, hfirst]; rfl)).trans
      (State.did_all_selfTestDone l n _))
  case memory =>
    refine State.run_up_did hup ((State.did_bringWhen _ hbegun hgood (by rw [htest, hfirst]; rfl)).trans ?_)
    rw [hbmTrained, State.did_all_flatten, List.cons_append, List.cons_append, List.cons_append, List.nil_append]
  case boot =>
    refine State.run_up_did hup ((State.did_bringWhen _ hbegun hgood (by rw [hmemory, hsites, hfirst]; rfl)).trans ?_)
    rw [State.did_all_flatten, List.cons_append, List.cons_append, List.nil_append]
  case stage =>
    refine State.run_up_did hup ?_
    rw [State.did_read, hrun, Bool.false_and, Bool.false_and, Prog.when_false]
    exact (State.did_all_skip s [stageWritten]).trans (State.did_stageWritten hlink hupd)

end Sys2Proof.Machine
end

section
/-! SUPPORT. Unit resets (R480), drain bounds (R479), partition resets (R481, R482). -/

namespace Sys2Proof.Machine

/-- The programs of a nested third step join the list. -/
theorem State.did_all_nest_third (s : State) (p q : Prog) (l : List Prog) : s.did (.all [p, q, .all l]) = s.did (.all (p :: q :: l)) :=
  (s.did p).did_all_nest q l

section
variable {s : State}

/-! ### Unit resets (R480) -/

section
variable {kind u : Nat} {val : W64} (hp : s.blk.portAdmits 0 = true)
  (hidle : s.blk.on Reg.HUB_UNIT_RESET Fl.HUB_UNIT_RESET_BUSY = false) (hkind : getFld val Fl.HUB_UNIT_RESET_KIND = kind)
  (hunit : getFld val Fl.HUB_UNIT_RESET_UNIT = u) (hdone : getFld val Fl.HUB_UNIT_RESET_DONE = 0)
  (hgo : getFld val Fl.HUB_UNIT_RESET_GO = 1)
include hp hidle hkind hunit hdone hgo

/-- A unit that may not be reset shows why. -/
theorem State.did_unitReset_refused {code : Status} (hrefused : s.blk.unitRefused kind u = some code) :
    s.did (unitReset 0 val) = s.did (.all [
      setF Reg.HUB_UNIT_RESET Fl.HUB_UNIT_RESET_KIND kind, setF Reg.HUB_UNIT_RESET Fl.HUB_UNIT_RESET_UNIT u, unitCode code]) := by
  rw [unitReset, State.did_underHat _ hp, State.did_read]
  simp only [hidle, hkind, hunit, hdone, hgo, hrefused, Nat.zero_ne_one, decide_true, decide_false, Bool.not_false, Bool.and_self,
    Prog.when_true, Prog.when_false, State.did_skip_cons]

/-- A unit that may be reset is named, and resets as its kind does. -/
theorem State.did_unitReset_runs (hfree : s.blk.unitRefused kind u = none) :
    s.did (unitReset 0 val) = s.did (.all [
      setF Reg.HUB_UNIT_RESET Fl.HUB_UNIT_RESET_KIND kind, setF Reg.HUB_UNIT_RESET Fl.HUB_UNIT_RESET_UNIT u,
      if kind = 0 then .all [resetEngine u, unitCode St.ok]
      else if kind = 2 then .all [resetWalker u, unitCode St.ok]
      else .all [setF Reg.HUB_UNIT_RESET Fl.HUB_UNIT_RESET_BUSY 1, modSys (fun x => { x with unit := some (1, u) }), resetPump u,
        unitDone]]) := by
  rw [unitReset, State.did_underHat _ hp, State.did_read]
  simp only [hidle, hkind, hunit, hdone, hgo, hfree, Nat.zero_ne_one, decide_true, decide_false, Bool.not_false, Bool.and_self,
    Prog.when_true, Prog.when_false, State.did_skip_cons]

theorem State.did_unitReset_engine (hfree : s.blk.unitRefused kind u = none) (hengine : kind = 0) :
    s.did (unitReset 0 val) = s.did (.all [
      setF Reg.HUB_UNIT_RESET Fl.HUB_UNIT_RESET_KIND kind, setF Reg.HUB_UNIT_RESET Fl.HUB_UNIT_RESET_UNIT u,
      resetEngine u, unitCode St.ok]) := by
  rw [State.did_unitReset_runs hp hidle hkind hunit hdone hgo hfree, if_pos hengine, State.did_all_nest_third]

theorem State.did_unitReset_walker (hfree : s.blk.unitRefused kind u = none) (hwalker : kind = 2) :
    s.did (unitReset 0 val) = s.did (.all [
      setF Reg.HUB_UNIT_RESET Fl.HUB_UNIT_RESET_KIND kind, setF Reg.HUB_UNIT_RESET Fl.HUB_UNIT_RESET_UNIT u,
      resetWalker u, unitCode St.ok]) := by
  rw [State.did_unitReset_runs hp hidle hkind hunit hdone hgo hfree, if_neg (by omega), if_pos hwalker, State.did_all_nest_third]

theorem State.did_unitReset_pump (hfree : s.blk.unitRefused kind u = none) (hpump : kind = 1) :
    s.did (unitReset 0 val) = s.did (.all [
      setF Reg.HUB_UNIT_RESET Fl.HUB_UNIT_RESET_KIND kind, setF Reg.HUB_UNIT_RESET Fl.HUB_UNIT_RESET_UNIT u,
      setF Reg.HUB_UNIT_RESET Fl.HUB_UNIT_RESET_BUSY 1, modSys (fun x => { x with unit := some (1, u) }), resetPump u, unitDone]) := by
  rw [State.did_unitReset_runs hp hidle hkind hunit hdone hgo hfree, if_neg (by omega), if_neg (by omega), State.did_all_nest_third]

end

/-! ### Partition resets (R481) -/

/-- GO names a partition whose reset neither runs nor waits. -/
theorem State.did_partReset {p : Nat} {val : W64} (hp : s.blk.portAdmits 0 = true) (hpart : getFld val Fl.HUB_PART_RESET_PART = p)
    (hdone : getFld val Fl.HUB_PART_RESET_DONE = 0) (hgo : getFld val Fl.HUB_PART_RESET_GO = 1)
    (hruns : s.blk.partResetting p = false) (hwaits : s.blk.sys.partWait.contains p = false) :
    s.did (partReset 0 val) = s.did (.all [
      setF Reg.HUB_PART_RESET Fl.HUB_PART_RESET_PART p,
      if partEnabled s.blk.recs p = false then setF Reg.HUB_PART_RESET Fl.HUB_PART_RESET_CODE St.descInvalid
      else if s.blk.commitIn p then modSys (fun x => { x with partWait := x.partWait ++ [p] })
      else partResetStart p]) := by
  rw [partReset, State.did_underHat _ hp, State.did_read]
  simp only [hpart, hdone, hgo, hruns, hwaits, Nat.zero_ne_one, decide_true, decide_false, Bool.not_false, Bool.and_self,
    Prog.when_true, Prog.when_false, State.did_skip_cons, Bool.not_eq_true']

/-- The flushes have ended: what a failed one leaves owned is poisoned, and step 4 follows. -/
theorem State.did_partFlushed {p : Nat} {r : PartRst} (hstep : s.blk.partStep p = 3)
    (hflushed : ((s.blk.partSites p).all fun g => decide ((s.blk.site g).flush = .none)) = true) (hrst : s.blk.partRst p = some r) :
    s.did (partFlushed p) = s.did (.all [.each r.failed fun g => poisonOwned p fun d => decide (d.owner = g), partStep4 p]) := by
  rw [partFlushed, State.did_read, State.did_when_true _ (by rw [decide_eq_true hstep, hflushed]; rfl), hrst, Prog.for?_some]

end

/-- Settles O9: each reset and each of its steps does its program when the one before it is done. -/
theorem unitAndPartitionResets : Obligations.UnitAndPartitionResets := by
  unfold Obligations.UnitAndPartitionResets
  refine ⟨fun u kind val s hup hp hidle hkind hunit hdone hgo => ⟨fun code hrefused => ?refused, fun hfree hengine => ?engine,
      fun hfree hwalker => ?walker, fun hfree hpump => ?pump⟩,
    fun k u s hup hresets => ?unitBound, fun p s hup hstep => ?partBound,
    fun p val s hup hp hpart hdone hgo hruns hwaits => ?part,
    fun p s hup => ⟨fun hstep hquiet => ?drained, fun hstep hflushed r hrst => ?flushed, fun hstep hfitted => ?refitted,
      fun hstep => ?directory⟩⟩
  case refused => exact State.run_up_did hup (State.did_unitReset_refused hp hidle hkind hunit hdone hgo hrefused)
  case engine => exact State.run_up_did hup (State.did_unitReset_engine hp hidle hkind hunit hdone hgo hfree hengine)
  case walker => exact State.run_up_did hup (State.did_unitReset_walker hp hidle hkind hunit hdone hgo hfree hwalker)
  case pump => exact State.run_up_did hup (State.did_unitReset_pump hp hidle hkind hunit hdone hgo hfree hpump)
  case unitBound => exact State.run_up_did hup ((s.did_read _).trans (State.did_when_true _ (decide_eq_true hresets)))
  case partBound => exact State.run_up_did hup ((s.did_read _).trans (State.did_when_true _ (decide_eq_true hstep)))
  case part => exact State.run_up_did hup (State.did_partReset hp hpart hdone hgo hruns hwaits)
  case drained => exact State.run_guarded hup (by rw [decide_eq_true hstep, hquiet]; rfl)
  case flushed => exact State.run_up_did hup (State.did_partFlushed hstep hflushed hrst)
  case refitted => exact State.run_guarded hup (by rw [decide_eq_true hstep, hfitted]; rfl)
  case directory => exact State.run_guarded hup (decide_eq_true hstep)

end Sys2Proof.Machine
end

section
/-! SUPPORT. The test access port, TEST_MODE and the link tests (spec/20_test.md). -/

namespace Sys2Proof.Machine

section
variable {s : State}

/-! ### The test access port (R488–R490) -/

/-- Loading an instruction changes no register, TST_CTL among them. -/
theorem State.testMode_did_loadIr (code : Nat) : testMode (s.did (loadIr code)).blk = testMode s.blk := rfl

/-- An intrusive instruction acts in TEST_MODE. -/
theorem State.did_intrusive_inside {code : Nat} {cells : List Byte} (p : Prog) (hmode : testMode s.blk = true) :
    s.did (intrusive code cells p) = s.did (.all [loadIr code, p]) := by
  rw [intrusive, State.did_all_cons, State.did_all_read, if_pos ((s.testMode_did_loadIr code).trans hmode), ← State.did_all_cons]

/-- Outside TEST_MODE it acts as BYPASS. -/
theorem State.did_intrusive_outside {code : Nat} {cells : List Byte} (p : Prog) (hmode : testMode s.blk = false) :
    s.did (intrusive code cells p) = s.did (.all [loadIr code, bypassShift (8 * cells.length) (ofBytesLE cells)]) := by
  rw [intrusive, State.did_all_cons, State.did_all_read,
    if_neg (Bool.eq_false_iff.1 ((s.testMode_did_loadIr code).trans hmode)), ← State.did_all_cons]

theorem State.runTap_did_eq {p q : Prog} (hpwr : s.blk.sys.pwrOk = true) (h : s.did p = s.did q) : s.runTap p = .next (s.did q) :=
  (State.runTap_up hpwr p).trans (congrArg Host.Outcome.next h)

/-! ### TEST_MODE (R490) -/

section
variable {hat : Nat} (hp : s.blk.portAdmits hat = true) (hnormal : s.blk.inRecovery = false) (hmode : testMode s.blk = false)
include hp hnormal hmode

theorem State.did_testModeSet_enters (hright : s.blk.holds hat Right.test = true) (hquiet : s.blk.quiet = true) :
    s.did (testModeSet hat) = s.did enterTestMode := by
  refine (State.did_underHat_guarded hp (by rw [hnormal, hmode]; rfl)).trans ?_
  rw [hright, hquiet, if_pos (Bool.and_self true)]

theorem State.did_testModeSet_refused (hbusy : s.blk.quiet = false) :
    s.did (testModeSet hat) = s.did (setF Reg.TST_CTL Fl.TST_CTL_REFUSED 1) := by
  refine (State.did_underHat_guarded hp (by rw [hnormal, hmode]; rfl)).trans ?_
  rw [hbusy, Bool.and_false, if_neg Bool.false_ne_true]

end

/-! ### Link tests (R492–R495) -/

section
variable {hat : Nat}

/-- A link test that may run starts with its counts zero, and wakes its domain. -/
theorem State.did_tstLtestGo_starts {val : W64} (hmay : s.may hat Right.test = true) (hidle : s.blk.sys.ltest.running = false)
    (hopen : testMode s.blk = true ∨ s.blk.ltestSpare (getFld val Fl.TST_LTEST_CTL_KIND) (getFld val Fl.TST_LTEST_CTL_INDEX)
      (getFld val Fl.TST_LTEST_CTL_SUB) = true)
    (hthere : s.blk.ltestThere (getFld val Fl.TST_LTEST_CTL_KIND) (getFld val Fl.TST_LTEST_CTL_INDEX)
      (getFld val Fl.TST_LTEST_CTL_SUB) = true)
    (hlen : getFld val Fl.TST_LTEST_CTL_LEN ≤ 40 ∨ getFld val Fl.TST_LTEST_CTL_LEN = 63)
    (hpattern : getFld val Fl.TST_LTEST_CTL_PATTERN ≤ 4) :
    s.did (tstLtestGo hat val) = s.did (.all [
      .each [Fl.TST_LTEST_CTL_LEN, Fl.TST_LTEST_CTL_PATTERN, Fl.TST_LTEST_CTL_KIND, Fl.TST_LTEST_CTL_INDEX, Fl.TST_LTEST_CTL_SUB]
        fun x => setF Reg.TST_LTEST_CTL x (getFld val x),
      .all [setR Reg.TST_LTEST_STAT 0,
        setF Reg.TST_LTEST_CTL Fl.TST_LTEST_CTL_BUSY 1, setF Reg.TST_LTEST_CTL Fl.TST_LTEST_CTL_END 0,
        setF Reg.TST_LTEST_CTL Fl.TST_LTEST_CTL_MISSION (b2n (!testMode s.blk)),
        modSys (fun x => { x with ltest := ⟨true, decide (getFld val Fl.TST_LTEST_CTL_LEN = 63), getFld val Fl.TST_LTEST_CTL_KIND,
          getFld val Fl.TST_LTEST_CTL_INDEX, getFld val Fl.TST_LTEST_CTL_SUB⟩ }),
        startWake (if getFld val Fl.TST_LTEST_CTL_KIND = 0 then 12 + getFld val Fl.TST_LTEST_CTL_INDEX / 4
          else if getFld val Fl.TST_LTEST_CTL_KIND = 2 then getFld val Fl.TST_LTEST_CTL_INDEX
          else if getFld val Fl.TST_LTEST_CTL_KIND = 3 then 19 else 17 + getFld val Fl.TST_LTEST_CTL_INDEX)]]) := by
  have hopen' := Bool.or_eq_true_iff.2 hopen
  have hlen' : decide (40 < getFld val Fl.TST_LTEST_CTL_LEN ∧ getFld val Fl.TST_LTEST_CTL_LEN ≠ 63) = false :=
    decide_eq_false (by omega)
  rw [tstLtestGo, State.did_underHat _ (State.may_admits hmay), State.did_read]
  dsimp only
  rw [State.did_when_true _ (State.may_holds hmay), hidle, hthere, hlen', decide_eq_true hpattern, hopen', Bool.not_false,
    Prog.when_true, if_neg (by decide)]

/-- A link test that has reached its length ends with END 1, a mission test with errors marks its spare. -/
theorem State.did_tstLtestEnd (eb ew : Nat) (hrun : s.blk.sys.ltest.running = true) (hbounded : s.blk.sys.ltest.forever = false) :
    s.did (tstLtestEnd eb ew) = s.did (.all [
      tstLtestOff 1 eb ew,
      .when (s.blk.on Reg.TST_LTEST_CTL Fl.TST_LTEST_CTL_MISSION && decide (eb ≠ 0)) (
        if s.blk.sys.ltest.kind = 0 then orF Reg.TST_SPARE Fl.TST_SPARE_MOD_SUSPECT (2 ^ s.blk.sys.ltest.index)
        else orF Reg.TST_SPARE Fl.TST_SPARE_LANE_SUSPECT
          (2 ^ (2 * s.blk.sys.ltest.index + (s.blk.sys.ltest.sub - 48))))]) := by
  rw [tstLtestEnd, State.did_read]
  dsimp only
  rw [State.did_when_true _ (by rw [hrun, hbounded]; rfl)]

end

end

/-- Settles O21: the test access port works whenever the rails are good; TEST_MODE and the link tests where they may. -/
theorem testPortCommands : Obligations.TestPortCommands := by
  unfold Obligations.TestPortCommands
  refine ⟨fun hat s hup hp hnormal hmode => ⟨fun hright hquiet => ?enters, fun hbusy => ?refused⟩,
    fun s hpwr => ⟨fun tdi => State.runTap_up hpwr _, State.runTap_up hpwr _, fun cells => State.runTap_up hpwr _,
      State.runTap_up hpwr _, fun hmode => ⟨fun cells => ?extest, fun die => ?diesel, fun chain => ?hubscan⟩,
      fun hmode => ⟨fun cells => ?extestOff, fun die => ?dieselOff, fun chain => ?hubscanOff⟩⟩,
    fun hat val s hmay hidle hopen hthere hlen hpattern => ?go, fun hat eb ew s hmay hrun => ⟨?stop, fun hbounded => ?ends⟩⟩
  case enters => exact State.run_up_did hup (State.did_testModeSet_enters hp hnormal hmode hright hquiet)
  case refused => exact State.run_up_did hup (State.did_testModeSet_refused hp hnormal hmode hbusy)
  case extest => exact State.runTap_did_eq hpwr (State.did_intrusive_inside _ hmode)
  case diesel => exact State.runTap_did_eq hpwr (State.did_intrusive_inside _ hmode)
  case hubscan => exact State.runTap_did_eq hpwr ((State.did_intrusive_inside _ hmode).trans (s.did_all_nest _ _))
  case extestOff => exact State.runTap_did_eq hpwr (State.did_intrusive_outside _ hmode)
  case dieselOff => exact State.runTap_did_eq hpwr (State.did_intrusive_outside _ hmode)
  case hubscanOff => exact State.runTap_did_eq hpwr (State.did_intrusive_outside _ hmode)
  case go => exact State.run_up_did (State.may_up hmay) (State.did_tstLtestGo_starts hmay hidle hopen hthere hlen hpattern)
  case stop =>
    exact State.run_underHat_guarded (State.may_up hmay) (State.may_admits hmay) (by rw [State.may_holds hmay, hrun]; rfl)
  case ends => exact State.run_up_did (State.may_up hmay) (State.did_tstLtestEnd eb ew hrun hbounded)

end Sys2Proof.Machine
end

section
/-! SUPPORT. Which guard each command stands under: the package held in reset (R469, R508, R511), the hub scanned (R490); and the
step of a queue. -/

namespace Sys2Proof.Machine

/-- Every command but those of power, clocks, reset, the trip comparator and the test access port stands under the guard of a
package that is not held in reset. -/
theorem exec_runWell {c : Instr} (h : worksHeld c = false) (s : State) : ∃ p, exec c s = s.runWell p := by
  cases c
  case thermtrip | pwrOkAssert | pwrOkDeassert | pkgRstN | pkgRstNRelease | bootRomDone | alwaysOnRailGood | alwaysOnRailRemoved
      | refclkCoreLoss | refclkCoreReturn | refclkAonLoss | refclkAonReturn | bypass | idcode | samplePreload | extest | diesel
      | hubscan | testLogicReset | regacc => exact Bool.noConfusion h
  all_goals exact ⟨_, rfl⟩

/-- Of these, every command but the wellhead's stands also under the guard of a hub that scan has not left undefined. -/
theorem exec_run {c : Instr} (h : worksScanned c = false) (s : State) : ∃ p, exec c s = s.run p := by
  cases c
  case thermtrip | pwrOkAssert | pwrOkDeassert | pkgRstN | pkgRstNRelease | bootRomDone | alwaysOnRailGood | alwaysOnRailRemoved
      | refclkCoreLoss | refclkCoreReturn | refclkAonLoss | refclkAonReturn | bypass | idcode | samplePreload | extest | diesel
      | hubscan | testLogicReset | regacc | i3cRecoveryWrite | i3cRecoveryErase | i3cBootRegionWrite | i3cBootRegionErase
      | i3cReadRestart | i3cPrivateRead | hubPkgReset | pkgResetCloseDone => exact Bool.noConfusion h
  all_goals exact ⟨_, rfl⟩

/-- Under its guard a program does nothing in a package that is held in reset. -/
theorem State.runWell_held {s : State} (h : s.blk.held = true) (p : Prog) : s.runWell p = .next s := by
  rw [State.runWell_did, State.did_read, h, Bool.not_true, Prog.when_false, State.did_skip]

/-- Nor does it under the guard of scan in a hub that scan has left undefined. -/
theorem State.run_scanned {s : State} (h : s.blk.sys.scanned = true) (p : Prog) : s.run p = .next s := by
  have hidle : s.did (.read fun b => .when (!b.sys.scanned) p) = s := by
    rw [State.did_read, h, Bool.not_true, Prog.when_false, State.did_skip]
  rw [State.run_did, State.did_read, State.did_when_idle _ hidle]

/-- Settles O43: a command does nothing under a guard that does not hold. -/
theorem heldNothing : Obligations.HeldNothing := by
  unfold Obligations.HeldNothing
  refine ⟨fun c s hheld hc => ?held, fun c s hscanned hc => ?scanned⟩
  case held =>
    obtain ⟨p, hp⟩ := exec_runWell hc s
    rw [hp, State.runWell_held hheld]
  case scanned =>
    obtain ⟨p, hp⟩ := exec_run hc s
    rw [hp, State.run_scanned hscanned]

/-- Settles O37: the step takes the first command off the queue and runs it. -/
theorem stepRunsFront : Obligations.StepRunsFront := by
  unfold Obligations.StepRunsFront
  exact fun _ _ _ => rfl

end Sys2Proof.Machine
end
